-- ==== Sys2Proof/Word.lean ====
section
/-!
DEFINITION. The words of the device: a byte, a 32-bit register (R4), a 64-bit value and the sparse map
that every large store of the model is held in.
-/

namespace Sys2Proof

/-- One byte of any memory. -/
abbrev Byte := BitVec 8

/-- A register (R4: registers are 32 bits wide). -/
abbrev Word := BitVec 32

/-- A 64-bit value: a _LO/_HI pair, a time-base value, a 64-bit counter, a slot word. -/
abbrev DWord := BitVec 64

/-- A sparse map from a number to a datum, as plain data: entries by strictly rising key. -/
abbrev NMap (α : Type) := List (Nat × α)

end Sys2Proof
end

