-- ==== Sys2Proof/Syntax.lean ====
section
/-!
DEFINITION. The commands of the device: one constructor per row of the operation table, with the operands that the
model gives it. Protocol commands that a packet starts take the packet from the device's ejected packets and need no
operand.
-/

namespace Sys2Proof

/-- How a tile instruction reaches the machine: the tile, the bits of its bundle slot (the low 32 for a sync slot),
the descriptor line that the bundle names (0x3FFF none, R288), and the banks owned by the tile's live operations
whose duration the model does not time (R114). -/
structure Issue where
  tile : Nat
  slot : BitVec 64
  dline : Nat
  live : Nat
  deriving DecidableEq, Repr


/-- A partition whose step halts after a poison (R333), and the tiles that find restart records of theirs failing their parity, with
how many: the newest first (R340). -/
structure PoisonedPart where
  part : Nat
  bad : List (Nat × Nat)
  deriving DecidableEq, Repr

/-- The commands (R443 and the chapters' operations). The docstring of each arm's meaning cites its rule. -/
inductive Instr where
  -- arrivals
  | arrivalUnitLanded (tile : Nat) (parityBad : Bool)
  | waitRelease (tile : Nat)
  | gateSlotDelivery (tile : Nat)
  -- array
  | apass (i : Issue)
  | aload (i : Issue)
  | aos (i : Issue)
  | abed (i : Issue)
  | mmrs (i : Issue)
  | mmag (i : Issue)
  | husk (i : Issue)
  | expertLastChunkDone (tile : Nat) (hidden : List (List Nat))
  -- vector
  | vadd (i : Issue)
  | vsub (i : Issue)
  | vmul (i : Issue)
  | vfma (i : Issue)
  | vmax (i : Issue)
  | vmin (i : Issue)
  | vabs (i : Issue)
  | vneg (i : Issue)
  | vscale (i : Issue)
  | vselect (i : Issue)
  | vexp (i : Issue)
  | vexp2 (i : Issue)
  | vlog2 (i : Issue)
  | vsigm (i : Issue)
  | vtanh (i : Issue)
  | vrcp (i : Issue)
  | vrsqrt (i : Issue)
  | vcvt (i : Issue)
  | vcvtb (i : Issue)
  | vrsum (i : Issue)
  | vrmax (i : Issue)
  | vrmin (i : Issue)
  | vrnorm2 (i : Issue)
  | chaff (i : Issue)
  -- DMA and Granary requests
  | copy (i : Issue)
  | tcopy (i : Issue)
  | send (i : Issue)
  | recv (i : Issue)
  | fill (i : Issue)
  | list (i : Issue)
  | store (i : Issue)
  | storeComplete (tile ctr : Nat)
  | hint (i : Issue)
  -- Thresher
  | topk (i : Issue)
  | gtopk (i : Issue)
  | kvsort (i : Issue)
  | sOpen (i : Issue)
  | sPush (i : Issue)
  | sFlush (i : Issue)
  | sClose (i : Issue)
  | biasLoad (i : Issue)
  | rmem (i : Issue)
  | msgs (i : Issue)
  -- the rest of the table, in its order
  | thrIngressChunk (t tag pos idx : Nat) (data : List Byte) (parity : Nat)
  | thrReturnTransfer (u tag : Nat) (parityBad : Bool)
  | decisionEgress (u : Nat)
  | dispatch (i : Issue)
  | dsend (i : Issue)
  | ret (i : Issue)
  | embag (i : Issue)
  | rowupd (i : Issue)
  | allreduce (i : Issue)
  | reduceScatter (i : Issue)
  | allgather (i : Issue)
  | broadcast (i : Issue)
  | alltoall (i : Issue)
  | alltoallv (i : Issue)
  | arm (i : Issue)
  | wait (i : Issue)
  | waiti (i : Issue)
  | rel (i : Issue)
  | fence (i : Issue)
  | fenceComplete (t : Nat) (bg : Bool)
  | setlc (i : Issue)
  | loop (i : Issue)
  | jump (i : Issue)
  | jnz (i : Issue)
  | commit (i : Issue)
  | commitComplete (t : Nat)
  | endStep (i : Issue)
  | stepCommit (n : Nat)
  | contextSaveComplete (t : Nat)
  | quantumExpiry (t : Nat)
  | t0FillComplete (n : Nat)
  | stepAdmit (n : Nat)
  | stepStart (n : Nat)
  | stopTakeEffect (n : Nat)
  | stopComplete (n : Nat)
  | resumeTakeEffect (n : Nat)
  | stationaryRefetchDone (t : Nat) (data : List Byte)
  | freezeSet (t : Nat)
  | freezeClear (t : Nat)
  | poisonHalt (h : PoisonedPart)
  | redeliveryComplete (n : Nat)
  | replayAdmit (n : Nat)
  | replayRestart (n : Nat)
  | decisionDrain (die parity : Nat)
  | contextFetchComplete
  | countCoalesceExpiry
  | countA
  | countB
  | grantA
  | grantB
  | dataSend (parityBad : Bool)
  | dataSegment
  | returnSegment (parityBad : Bool)
  | sheafAbort
  | heldPayloadTimeout
  | spillReadbackComplete
  | dispatchInstanceComplete
  | eptEntryWrite (v : Nat)
  | eptBulkLoad (v : Nat)
  | eptBulkLoadDone
  | embagCount
  | embagWindowGrant
  | embagRowList
  | poolRowAccess (parityBad : Bool)
  | embagPartial
  | rowupdContribution (parityBad : Bool)
  | map (die n frame : Nat)
  | unmap (die n : Nat)
  | unmapComplete (die : Nat)
  | grainFlip (data : List Byte) (frame : Nat)
  | grnQuotaWrite (die n v : Nat)
  | grainRequest
  | grainResponse
  | perBankRefresh (c : Nat)
  | patrolScrubSlot (c : Nat)
  | flitReceive (p : Nat) (bytes : List Byte) (fec : Nat)
  | retryReq (p q : Nat)
  | retryReqRepeat (p : Nat)
  | retryLimitDown (p : Nat)
  | portEnable (p : Nat)
  | portDisable (p : Nat)
  | portRetrain (p : Nat)
  | portUnquarantine (p : Nat)
  | portTrainingDone (p pol arb dev port : Nat)
  | alignmentLoss (p : Nat)
  | flitSilenceTimeout (p : Nat)
  | downBackoffRetrain (p : Nat)
  | quarantineLimit (p : Nat)
  | packetInject
  | packetReceive (parity : Nat)
  | linkstate
  | cmapSample
  | cmapIntervalEnd
  | cmap
  | cmapPartTimeout
  | otabEntryWrite (hi : Nat)
  | memLoad (parityBad : Bool)
  | memStore (parityBad : Bool)
  | memAdd (merge : Nat) (parityBad : Bool)
  | memMin (parityBad : Bool)
  | memMax (parityBad : Bool)
  | memCas (parityBad : Bool)
  | memRsp
  | e2eTimeout
  | combineWindowExpiry
  | msgPacket
  | msgAck
  | msgNack
  | msgTimeout
  | ortEntryWrite (v : Nat)
  | partModeWrite (v : Nat)
  | commEntryWrite (v : Nat)
  | reserve
  | grant
  | deny
  | decide
  | decAck
  | ready
  | count
  | chunk (parityBad : Bool)
  | chunkAck
  | chunkNak
  | abort
  | chunkTimeout
  | chunkIncompleteTimeout
  | reserveResendTimeout
  | decideResendTimeout
  | earlyRecordResend
  | collTimeout
  | instanceComplete
  | detModeWrite (v : Bool)
  | detActiveChange
  | digestCfgWrite (n v : Nat)
  | d2dFlitReceive (k : Nat) (toB : Bool) (bs : List Byte)
  | d2dRetrain (k : Nat)
  | d2dRetrainDone (k : Nat) (ok : Bool)
  | railSample (rails : List (List (Nat × Nat)))
  | tempSample (temps : List (List (Bool × Nat)))
  | gateEvaluation
  | windowEnd
  | allotWrite (v : Nat)
  | ilimitWrite (v : Nat)
  | paceClear (v : Nat)
  | ectDataRead
  | idleTileGate (t : Nat)
  | ungateWave (n : Nat)
  | loadNoticeEnd
  | pllLock (u : List Nat)
  | pllLockRetry
  | referenceLoss
  | tbSet
  | tbPeriodExpiry
  | timeRequest
  | timeResponse
  | tbLockLoss
  | perstAssert
  | perstDeassert (u : List Nat)
  | bootResetRouterDie (key : Nat) (u : List Nat)
  | bootResetComputeDie (d key : Nat)
  | bootResetPartition (n key : Nat)
  | partitionResetTakeEffect (n : Nat)
  | computeDieBringupDone (d : Nat) (chk trn kat : List Nat)
  | trainingComplete (u : List Nat) (ms us : Nat)
  | t1InitDone (c : Nat)
  | load
  | broadcastImage
  | bootPacket
  | broadcastIncompleteTimeout
  | imageReceived
  | attest
  | tilePowerUpWave
  | katComplete (u meas : List Nat)
  | sqDoorbell (fn q v : Nat)
  | qpQuarantine (q : Nat)
  | cqDoorbell (fn q v : Nat)
  | nop (q : Nat)
  | step (q rd : Nat)
  | h2d (q rd : Nat)
  | d2h (q : Nat)
  | h2t (q rd : Nat)
  | recvBind (q : Nat)
  | recvUnbind (q : Nat)
  | dmaTransferDone (q seq : Nat)
  | hostReadTimeout (q seq : Nat)
  | irqCoalesceTimeout (q : Nat)
  | qpEnable (fn q : Nat)
  | qpDisable (fn q : Nat)
  | qpDrainDone (q : Nat)
  | qpUnquarantine (fn q : Nat)
  | pfFlr
  | vfFlr (n : Nat)
  | hotReset
  | bar2Read (fn off n : Nat)
  | bar2Write (fn off : Nat) (bs : List Byte) (poisoned : Bool)
  | hsrRefresh
  | partSet (req : List Byte)
  | partFree (req : List Byte)
  | jobOpen (req : List Byte)
  | jobEpoch (req : List Byte)
  | partStop (req : List Byte)
  | partResume (req : List Byte)
  | partReset (req : List Byte)
  | jobClose (req : List Byte)
  | quiesce (req : List Byte)
  | jobRelease (req : List Byte)
  | setQuota (req : List Byte)
  | setAllot (req : List Byte)
  | lend (req : List Byte) (frames : List Nat)
  | lendRelease (req : List Byte)
  | leaseGrant (req : List Byte)
  | leaseRecall (req : List Byte)
  | leaseRecallDone
  | lenderDown (req : List Byte)
  | snapshot (req : List Byte)
  | readCmap (req : List Byte)
  | readDigest (req : List Byte)
  | snapAt
  | snapNow
  | snapCancel
  | snapshotTake
  | evtPendClear (page bits : Nat)
  | errCountRead (page : Nat)
  | tpeakRead (u : Nat)
  | irqHoldoffEnd
  | loReadLatch (req addr : Nat)
  | hiWrite (req addr v : Nat)
  | softReset (req page : Nat)
  | registerWrite (req addr v : Nat) (poisoned : Bool)
  | vinTurnOn
  | railSettled
  | railSequenceTimeout
  | vinTurnOff
  | vinOvervoltage
  | faultLatchClear
  | pcieLinkUp (width speed : Nat)
  | vfEnable (n : Nat)
  | d3hot (fn : Nat) (enter : Bool)
  | msixVectorUnmask (fn v addr data : Nat)
  deriving DecidableEq, Repr

end Sys2Proof
end

