-- ==== Sys2Proof/Decode.lean ====
section
/-!
DEFINITION. The command that a word spells. The device fetches no instruction words: its commands come from its interfaces and
engines, and the operation table gives none of its rows bits.
-/

namespace Sys2Proof

/-- The command that the low `nbits` bits of `w` spell by the operation table: none, since no row has bits. -/
def decodeTableWord (_nbits _w : Nat) : Option Instr := none

end Sys2Proof
end

