-- ==== Sys2Proof/Machine/Bits.lean ====
section
/-!
DEFINITION. Bit fields, byte order (R3: little-endian, bit 0 least significant), the CRCs and the hash of R39.
-/

namespace Sys2Proof.Machine

/-- Bits [hi:lo] of a number (R3). -/
def fld (x hi lo : Nat) : Nat := (x / 2 ^ lo) % 2 ^ (hi + 1 - lo)

/-- Bit i of a number. -/
def bit (x i : Nat) : Bool := (x / 2 ^ i) % 2 == 1

/-- The number with bits [hi:lo] replaced by the low bits of `v`. -/
def setFld (x hi lo v : Nat) : Nat :=
  x - fld x hi lo * 2 ^ lo + (v % 2 ^ (hi + 1 - lo)) * 2 ^ lo

/-- 1 for true. -/
def b2n (b : Bool) : Nat := if b then 1 else 0

/-- The number a little-endian byte string spells (R3). -/
def leNat : List Byte → Nat
  | [] => 0
  | b :: bs => b.toNat + 256 * leNat bs

/-- The `n` little-endian bytes of a number (R3). -/
def leBytes : Nat → Nat → List Byte
  | 0, _ => []
  | n + 1, x => BitVec.ofNat 8 x :: leBytes n (x / 256)

/-- The number a big-endian byte string spells (SHA-512 and Ed25519 inputs). -/
def beNat (bs : List Byte) : Nat := bs.foldl (fun a b => a * 256 + b.toNat) 0

/-- Bytes [hi:lo] of a byte string, both included, as a little-endian number. -/
def byteFld (bs : List Byte) (lo hi : Nat) : Nat := leNat ((bs.drop lo).take (hi + 1 - lo))

/-- A byte string cut or zero-padded to `n` bytes. -/
def padTo (n : Nat) (bs : List Byte) : List Byte := (bs ++ List.replicate (n - bs.length) 0).take n

/-- `x` rounded up to a multiple of `n`. -/
def roundUp (x n : Nat) : Nat := (x + n - 1) / n * n

/-- The elements of a list cut into pieces of `n` (the last may be shorter), at most `fuel` of them. -/
def chunksFuel {α : Type} : Nat → Nat → List α → List (List α)
  | 0, _, _ => []
  | f + 1, n, l => if l.isEmpty then [] else l.take n :: chunksFuel f n (l.drop n)

/-- The elements of a list cut into pieces of `n`. -/
def chunks {α : Type} (n : Nat) (l : List α) : List (List α) := chunksFuel l.length n l

/-- The number of set bits among the low `n`. -/
def popcount (n x : Nat) : Nat := ((List.range n).filter (fun i => bit x i)).length

/-- The lowest set bit among the low `n`. -/
def lowBit (n x : Nat) : Option Nat := (List.range n).find? (fun i => bit x i)

/-- One bit of a reflected CRC. -/
def crcStepR (poly : Nat) (c : Nat) : Nat := if c % 2 = 1 then Nat.xor (c / 2) poly else c / 2

/-- One byte of a reflected CRC. -/
def crcByteR (poly : Nat) (c : Nat) (b : Byte) : Nat :=
  (List.range 8).foldl (fun x _ => crcStepR poly x) (Nat.xor c b.toNat)

/-- CRC-32C (Castagnoli, reflected, initial and final value all ones). -/
def crc32c (bs : List Byte) : Nat :=
  Nat.xor (bs.foldl (crcByteR 0x82F63B78) 0xFFFFFFFF) 0xFFFFFFFF

/-- CRC-32 (IEEE 802.3, reflected, initial and final value all ones). -/
def crc32 (bs : List Byte) : Nat :=
  Nat.xor (bs.foldl (crcByteR 0xEDB88320) 0xFFFFFFFF) 0xFFFFFFFF

/-- One bit of CRC-64/ECMA-182 (R58: not reflected). -/
def crc64Step (c : Nat) : Nat :=
  if c / 2 ^ 63 % 2 = 1 then Nat.xor (c * 2 % 2 ^ 64) 0x42F0E1EBA9EA3693 else c * 2 % 2 ^ 64

/-- One byte of CRC-64/ECMA-182. -/
def crc64Byte (c : Nat) (b : Byte) : Nat :=
  (List.range 8).foldl (fun x _ => crc64Step x) (Nat.xor c (b.toNat * 2 ^ 56))

/-- The layer-digest CRC over bytes, continued from `c` (R58: initial value 0, no final XOR). -/
def crc64From (c : Nat) (bs : List Byte) : Nat := bs.foldl crc64Byte c

/-- The CRC of a concatenation from the CRCs of its parts: the second part is `n` bytes long (R58, R318). -/
def crc64Combine (a b n : Nat) : Nat := Nat.xor (crc64From a (List.replicate n 0)) b

/-- The mixing step of h64 (R39). -/
def mix64 (x0 : Nat) : Nat :=
  let m := 2 ^ 64
  let x := (x0 + 0x9E3779B97F4A7C15) % m
  let x := (Nat.xor x (x / 2 ^ 30)) * 0xBF58476D1CE4E5B9 % m
  let x := (Nat.xor x (x / 2 ^ 27)) * 0x94D049BB133111EB % m
  Nat.xor x (x / 2 ^ 31)

/-- The hash h64 (R39): `a`, `b`, `c` are 32-bit. -/
def h64 (seed a b c : Nat) : Nat :=
  mix64 (Nat.xor (mix64 (Nat.xor (seed % 2 ^ 64) (a % 2 ^ 32))) ((b % 2 ^ 32) * 2 ^ 32 + c % 2 ^ 32))

end Sys2Proof.Machine
end

