-- ==== Sys2Proof/Machine/Numbers.lean ====
section
/-!
DEFINITION. The number formats of R32 to R43: decoding, the one rounding rule, and FP32 arithmetic computed
exactly and rounded once.
-/

namespace Sys2Proof.Machine

/-- An exact value of any format: NaN, an infinity of a sign, or `(-1)^neg * m * 2^e`. -/
inductive Val where
  | nan
  | inf (neg : Bool)
  | fin (neg : Bool) (m : Nat) (e : Int)
  deriving DecidableEq, Repr

/-- The element formats of R32 that a CBS record can hold, by their FMT codes (R50). -/
inductive Fmt where
  | e4m3 | e5m2 | bs4 | bsi8 | bf16 | fp32 | int8 | int32
  deriving DecidableEq, Repr

/-- The format of a FMT code (R50); other codes are reserved. -/
def fmtOfCode : Nat → Option Fmt
  | 1 => some .e4m3 | 2 => some .e5m2 | 3 => some .bs4 | 4 => some .bsi8
  | 5 => some .bf16 | 6 => some .fp32 | 7 => some .int8 | 8 => some .int32
  | _ => none

/-- The FMT code of a format (R50). -/
def Fmt.code : Fmt → Nat
  | .e4m3 => 1 | .e5m2 => 2 | .bs4 => 3 | .bsi8 => 4 | .bf16 => 5 | .fp32 => 6 | .int8 => 7 | .int32 => 8

/-- Bits of one element code (R32). -/
def Fmt.bits : Fmt → Nat
  | .bs4 => 4 | .e4m3 | .e5m2 | .bsi8 | .int8 => 8 | .bf16 => 16 | .fp32 | .int32 => 32

/-- Values that share one scale byte (R40, R42); 0 where the format has none. -/
def Fmt.scaleBlock : Fmt → Nat
  | .bs4 => 16 | .bsi8 => 32 | _ => 0

/-- Two's complement value of `w` bits. -/
def toSigned (w x : Nat) : Int :=
  let y := x % 2 ^ w
  if y / 2 ^ (w - 1) = 1 then (y : Int) - 2 ^ w else y

/-- The low `w` bits of an integer (R37: integer addition wraps). -/
def ofSigned (w : Nat) (x : Int) : Nat := (x % (2 ^ w : Int)).toNat

/-- An integer as a value. -/
def valOfInt (x : Int) : Val := .fin (x < 0) x.natAbs 0

/-- E4M3 (R33). -/
def decE4M3 (c : Nat) : Val :=
  let s := bit c 7
  let e := fld c 6 3
  let m := fld c 2 0
  if e = 15 ∧ m = 7 then .nan
  else if e = 0 then .fin s m (-9) else .fin s (8 + m) ((e : Int) - 10)

/-- E5M2 (R34). -/
def decE5M2 (c : Nat) : Val :=
  let s := bit c 7
  let e := fld c 6 2
  let m := fld c 1 0
  if e = 31 then (if m = 0 then .inf s else .nan)
  else if e = 0 then .fin s m (-16) else .fin s (4 + m) ((e : Int) - 17)

/-- FP32 (R35): subnormals are kept. -/
def decFP32 (c : Nat) : Val :=
  let s := bit c 31
  let e := fld c 30 23
  let m := fld c 22 0
  if e = 255 then (if m = 0 then .inf s else .nan)
  else if e = 0 then .fin s m (-149) else .fin s (2 ^ 23 + m) ((e : Int) - 150)

/-- BF16 is bits [31:16] of a binary32 encoding (R35). -/
def decBF16 (c : Nat) : Val := decFP32 (c % 2 ^ 16 * 2 ^ 16)

/-- An E2M1 code under a scale byte (R40); scale 0xFF makes the value NaN. -/
def decBS4 (s c : Nat) : Val :=
  let e := fld c 2 1
  let m := c % 2
  if s % 256 = 255 then .nan
  else
    let x : Int := ((s % 256 : Nat) : Int) - 127
    if e = 0 then .fin (bit c 3) m (x - 1) else .fin (bit c 3) (2 + m) (x + e - 2)

/-- An INT8 code under a scale byte (R42). -/
def decBSI8 (s c : Nat) : Val :=
  if s % 256 = 255 then .nan
  else
    let v := toSigned 8 c
    .fin (v < 0) v.natAbs (((s % 256 : Nat) : Int) - 127)

/-- The value of an element code; `s` is the scale byte of its block where the format has one. -/
def decode (f : Fmt) (s c : Nat) : Val :=
  match f with
  | .e4m3 => decE4M3 c
  | .e5m2 => decE5M2 c
  | .bs4 => decBS4 s c
  | .bsi8 => decBSI8 s c
  | .bf16 => decBF16 c
  | .fp32 => decFP32 c
  | .int8 => valOfInt (toSigned 8 c)
  | .int32 => valOfInt (toSigned 32 c)

/-- The number of bits of a magnitude; 0 for 0. -/
def bitLen (m : Nat) : Nat := if m = 0 then 0 else Nat.log2 m + 1

/-- `m * 2^-sh` rounded to an integer, to nearest even (R38). -/
def rneShift (m sh : Nat) : Nat :=
  let k := m / 2 ^ sh
  let r := m % 2 ^ sh
  if sh = 0 then m
  else if r > 2 ^ (sh - 1) ∨ (r = 2 ^ (sh - 1) ∧ k % 2 = 1) then k + 1 else k

/-- `m * 2^-sh` rounded to an integer stochastically with the 16 random bits `r` (R39). -/
def srShift (m sh r : Nat) : Nat :=
  let d := (m % 2 ^ sh) * 2 ^ 16 / 2 ^ sh
  if d + r % 2 ^ 16 ≥ 2 ^ 16 then m / 2 ^ sh + 1 else m / 2 ^ sh

/-- `m * 2^-sh` rounded by the mode in force: stochastic with bits `r`, or nearest even (R38). -/
def roundShift (sr : Option Nat) (m sh : Nat) : Nat :=
  match sr with
  | some r => srShift m sh r
  | none => rneShift m sh

/-- The biased magnitude code of `m * 2^e` in a binary format with `p` fraction bits whose smallest
magnitude is `2^q0`: a code at or above the format's infinity code is an overflow. -/
def roundMag (sr : Option Nat) (p : Nat) (q0 : Int) (m : Nat) (e : Int) : Nat :=
  if m = 0 then 0
  else
    let top : Int := e + (bitLen m : Int) - 1
    let q : Int := max (top - p) q0
    let k := if q ≤ e then m * 2 ^ (e - q).toNat else roundShift sr m (q - e).toNat
    (q - q0).toNat * 2 ^ p + k

/-- The sign bit placed at bit `i`. -/
def signBit (s : Bool) (i : Nat) : Nat := if s then 2 ^ i else 0

/-- Rounding to FP32: overflow gives infinity, or the largest finite value under the saturate flag (R36). -/
def encFP32 (sr : Option Nat) (sat : Bool) : Val → Nat
  | .nan => 0x7FC00000
  | .inf s => signBit s 31 + 0x7F800000
  | .fin s m e =>
    let c := roundMag sr 23 (-149) m e
    signBit s 31 + (if c ≥ 0x7F800000 then (if sat then 0x7F7FFFFF else 0x7F800000) else c)

/-- Rounding to BF16 (R35, R36). -/
def encBF16 (sr : Option Nat) (sat : Bool) : Val → Nat
  | .nan => 0x7FC0
  | .inf s => signBit s 15 + 0x7F80
  | .fin s m e =>
    let c := roundMag sr 7 (-133) m e
    signBit s 15 + (if c ≥ 0x7F80 then (if sat then 0x7F7F else 0x7F80) else c)

/-- Rounding to E4M3: a result beyond the range, and an infinity, become ±448 (R36). -/
def encE4M3 (sr : Option Nat) : Val → Nat
  | .nan => 0x7F
  | .inf s => signBit s 7 + 0x7E
  | .fin s m e =>
    let c := roundMag sr 3 (-9) m e
    signBit s 7 + (if c > 0x7E then 0x7E else c)

/-- Rounding to E5M2 (R36). -/
def encE5M2 (sr : Option Nat) (sat : Bool) : Val → Nat
  | .nan => 0x7E
  | .inf s => signBit s 7 + 0x7C
  | .fin s m e =>
    let c := roundMag sr 2 (-16) m e
    signBit s 7 + (if c ≥ 0x7C then (if sat then 0x7B else 0x7C) else c)

/-- Conversion to a `w`-bit integer: nearest even, saturating, NaN to 0 (R37). -/
def encInt (w : Nat) : Val → Nat
  | .nan => 0
  | .inf s => if s then 2 ^ (w - 1) else 2 ^ (w - 1) - 1
  | .fin s m e =>
    let k := if e ≥ 0 then m * 2 ^ (min e.toNat 200) else rneShift m (-e).toNat
    if s then (if k ≥ 2 ^ (w - 1) then 2 ^ (w - 1) else ofSigned w (-(k : Int)))
    else min k (2 ^ (w - 1) - 1)

/-- Whether a conversion overflows its target range or maps NaN to an integer (R59: counted), under the
rounding mode in force. -/
def convCounts (f : Fmt) (sr : Option Nat) (v : Val) : Bool :=
  match f, v with
  | .int8, .nan | .int32, .nan => true
  | _, .nan => false
  | .e4m3, .inf _ | .int8, .inf _ | .int32, .inf _ => true
  | _, .inf _ => false
  | .e4m3, .fin _ m e => roundMag sr 3 (-9) m e > 0x7E
  | .e5m2, .fin _ m e => roundMag sr 2 (-16) m e ≥ 0x7C
  | .bf16, .fin _ m e => roundMag sr 7 (-133) m e ≥ 0x7F80
  | .fp32, .fin _ m e => roundMag sr 23 (-149) m e ≥ 0x7F800000
  | .int8, .fin s m e =>
    let k := if e ≥ 0 then m * 2 ^ (min e.toNat 200) else rneShift m (-e).toNat
    if s then k > 128 else k > 127
  | .int32, .fin s m e =>
    let k := if e ≥ 0 then m * 2 ^ (min e.toNat 200) else rneShift m (-e).toNat
    if s then k > 2 ^ 31 else k > 2 ^ 31 - 1
  | _, _ => false

/-- The code of a value in an unscaled format. -/
def encode (f : Fmt) (sr : Option Nat) (sat : Bool) (v : Val) : Nat :=
  match f with
  | .e4m3 => encE4M3 sr v
  | .e5m2 => encE5M2 sr sat v
  | .bf16 => encBF16 sr sat v
  | .int8 | .bsi8 => encInt 8 v
  | .int32 => encInt 32 v
  | .fp32 | .bs4 => encFP32 sr sat v

/-- `x ≤ y` for exact non-negative magnitudes `m * 2^e`. -/
def magLe (m1 : Nat) (e1 : Int) (m2 : Nat) (e2 : Int) : Bool :=
  let e := min e1 e2
  m1 * 2 ^ (e1 - e).toNat ≤ m2 * 2 ^ (e2 - e).toNat

/-- The integer `v * 2^-e` of a finite value whose exponent is at least `e`. -/
def scaledInt (e : Int) : Val → Int
  | .fin s m x => let k : Int := m * 2 ^ (x - e).toNat; if s then -k else k
  | _ => 0

/-- Whether a value is zero of either sign. -/
def Val.isZero : Val → Bool
  | .fin _ m _ => m == 0
  | _ => false

/-- Negation flips the sign of every value but NaN. -/
def Val.neg : Val → Val
  | .nan => .nan
  | .inf s => .inf (!s)
  | .fin s m e => .fin (!s) m e

/-- The exact sum; an exact zero of opposite signs is +0 (IEEE 754, R35). -/
def Val.add : Val → Val → Val
  | .nan, _ | _, .nan => .nan
  | .inf s, .inf t => if s = t then .inf s else .nan
  | .inf s, _ => .inf s
  | _, .inf t => .inf t
  | .fin s m e, .fin t n f =>
    let g := min e f
    let x := scaledInt g (.fin s m e) + scaledInt g (.fin t n f)
    if x = 0 then .fin (s && t) 0 g else .fin (x < 0) x.natAbs g

/-- The exact product; infinity times zero is NaN. -/
def Val.mul : Val → Val → Val
  | .nan, _ | _, .nan => .nan
  | .inf s, .inf t => .inf (s != t)
  | .inf s, .fin t n _ => if n = 0 then .nan else .inf (s != t)
  | .fin s m _, .inf t => if m = 0 then .nan else .inf (s != t)
  | .fin s m e, .fin t n f => .fin (s != t) (m * n) (e + f)

/-- The order of two non-NaN values: `x < y`, with -0 below +0. -/
def Val.lt : Val → Val → Bool
  | .nan, _ | _, .nan => false
  | .inf s, .inf t => s && !t
  | .inf s, _ => s
  | _, .inf t => !t
  | .fin s m e, .fin t n f =>
    let g := min e f
    let x := scaledInt g (.fin s m e)
    let y := scaledInt g (.fin t n f)
    if x = y then s && !t && m == 0 else x < y

/-- FP32 addition, rounded once (R38). -/
def f32Add (a b : Nat) : Nat := encFP32 none false (Val.add (decFP32 a) (decFP32 b))

/-- FP32 subtraction. -/
def f32Sub (a b : Nat) : Nat := encFP32 none false (Val.add (decFP32 a) (Val.neg (decFP32 b)))

/-- FP32 multiplication. -/
def f32Mul (a b : Nat) : Nat := encFP32 none false (Val.mul (decFP32 a) (decFP32 b))

/-- FP32 fused multiply-add with one rounding. -/
def f32Fma (a b c : Nat) : Nat :=
  encFP32 none false (Val.add (Val.mul (decFP32 a) (decFP32 b)) (decFP32 c))

/-- The quotient of two exact values rounded to FP32; division by zero and infinities as IEEE 754. -/
def valDiv (a b : Val) : Val :=
  match a, b with
  | .nan, _ | _, .nan => .nan
  | .inf _, .inf _ => .nan
  | .inf s, .fin t _ _ => .inf (s != t)
  | .fin s _ _, .inf t => .fin (s != t) 0 0
  | .fin s m e, .fin t n f =>
    if n = 0 then (if m = 0 then .nan else .inf (s != t))
    else
      let sh := 64 + bitLen n
      let q := m * 2 ^ sh / n
      let sticky := if m * 2 ^ sh % n = 0 then 0 else 1
      .fin (s != t) (2 * q + sticky) (e - f - sh - 1)

/-- FP32 division, rounded once. -/
def f32Div (a b : Nat) : Nat := encFP32 none false (valDiv (decFP32 a) (decFP32 b))

/-- FP32 maximum: NaN if either is NaN. -/
def f32Max (a b : Nat) : Nat :=
  match decFP32 a, decFP32 b with
  | .nan, _ | _, .nan => 0x7FC00000
  | x, y => if Val.lt x y then b else a

/-- FP32 minimum: NaN if either is NaN. -/
def f32Min (a b : Nat) : Nat :=
  match decFP32 a, decFP32 b with
  | .nan, _ | _, .nan => 0x7FC00000
  | x, y => if Val.lt y x then b else a

/-- Sum by the balanced tree of R46: adjacent pairs, lower index on the left, one rounding per addition. -/
def treeLevel (add : Nat → Nat → Nat) : List Nat → List Nat
  | x :: y :: r => add x y :: treeLevel add r
  | l => l

/-- The balanced tree over at most `2^fuel` values; 0 for an empty list. -/
def treeFold (add : Nat → Nat → Nat) : Nat → List Nat → Nat
  | 0, l => l.headD 0
  | f + 1, l => if l.length ≤ 1 then l.headD 0 else treeFold add f (treeLevel add l)

/-- The smallest `e` from -127 to 127 with `m * 2^x * 2^-e ≤ lim` (R43). -/
def scaleExp (lim : Nat) (m : Nat) (x : Int) : Int :=
  if m = 0 then -127
  else
    let top : Int := x + (bitLen m : Int) - (bitLen lim : Int)
    let ok := magLe m (x - top) lim 0
    let e := if ok then top else top + 1
    max (-127) (min 127 e)

/-- The E2M1 code nearest a magnitude `m * 2^e`, in half units: 0, 1, 2, 3, 4, 6, 8, 12 (R40, R43).
The rounding is done in the binary grid of E2M1: one fraction bit, smallest magnitude 0.5. -/
def encE2M1 (sr : Option Nat) (m : Nat) (e : Int) : Nat := min (roundMag sr 1 (-1) m e) 7

/-- A block of values in a block-scaled format: the scale byte and the codes (R43). `srs` gives the
random bits of each element under stochastic rounding. -/
def encBlock (f : Fmt) (srs : Nat → Option Nat) (vs : List Val) : Nat × List Nat :=
  let bad := vs.any (fun v => match v with | .fin _ _ _ => false | _ => true)
  if bad then (0xFF, vs.map (fun _ => 0))
  else
    let best := vs.foldl (fun (a : Nat × Int) v =>
      match v with
      | .fin _ m e => if magLe m e a.1 a.2 then a else (m, e)
      | _ => a) (0, 0)
    let e := scaleExp (if f = .bs4 then 6 else 127) best.1 best.2
    let one := fun (iv : Nat × Val) =>
      match iv.2 with
      | .fin s m x =>
        if f = .bs4 then (if s then 8 else 0) + encE2M1 (srs iv.1) m (x - e)
        else
          let y := x - e
          let k := if y ≥ 0 then m * 2 ^ y.toNat else roundShift (srs iv.1) m (-y).toNat
          ofSigned 8 (if s then -(min k 127 : Nat) else (min k 127 : Nat))
      | _ => 0
    ((e + 127).toNat, (List.zip (List.range vs.length) vs).map one)

end Sys2Proof.Machine
end

