-- ==== Sys2Proof/Machine/Sparse.lean ====
section
/-!
DEFINITION. Tensors in memory (R41, R42), CBS records (R50), FSW groups (R51, R52) and XS128 sums (R54, R55).
-/

namespace Sys2Proof.Machine

/-- The little-endian element codes of `w`-byte elements. -/
def codesOfBytes (w : Nat) (bs : List Byte) : List Nat := (chunks w bs).map leNat

/-- The two nibbles of each byte, low nibble first (R41). -/
def nibbles (bs : List Byte) : List Nat := bs.flatMap (fun b => [b.toNat % 16, b.toNat / 16])

/-- Nibbles packed two to a byte, low nibble first. -/
def packNibbles : List Nat → List Byte
  | x :: y :: r => BitVec.ofNat 8 (x % 16 + y % 16 * 16) :: packNibbles r
  | [x] => [BitVec.ofNat 8 (x % 16)]
  | [] => []

/-- The bytes of element codes. -/
def bytesOfCodes (f : Fmt) (cs : List Nat) : List Byte :=
  if f = .bs4 then packNibbles cs else cs.flatMap (fun c => leBytes (f.bits / 8) c)

/-- The element codes of code bytes. -/
def codesOf (f : Fmt) (bs : List Byte) : List Nat :=
  if f = .bs4 then nibbles bs else codesOfBytes (f.bits / 8) bs

/-- The bytes that a BS4 segment of `n` values occupies (R41). -/
def bs4SegBytes (n : Nat) : Nat := roundUp (n / 2 + n / 16) 64

/-- The bytes that a tensor of `n` values occupies (R41, R42). -/
def tensorBytes (f : Fmt) (n : Nat) : Nat :=
  match f with
  | .bs4 => n / 1024 * 576 + (if n % 1024 = 0 then 0 else bs4SegBytes (n % 1024))
  | .bsi8 => n + n / 32
  | _ => n * (f.bits / 8)

/-- The values of codes under one scale byte per `blk` codes. -/
def scaledVals (f : Fmt) (blk : Nat) (cs scales : List Nat) : List Val :=
  (List.zip (chunks blk cs) (scales ++ List.replicate cs.length 0)).flatMap
    (fun p => p.1.map (decode f p.2))

/-- One BS4 segment of `n` values (R41). -/
def bs4Segment (n : Nat) (bs : List Byte) : List Val :=
  scaledVals .bs4 16 ((nibbles (bs.take (n / 2))).take n)
    (((bs.drop (n / 2)).take (n / 16)).map (fun b => b.toNat))

/-- The BS4 values of consecutive segments, at most `fuel` of them. -/
def bs4Segments : Nat → Nat → List Byte → List Val
  | 0, _, _ => []
  | f + 1, n, bs =>
    if n = 0 then []
    else if n ≥ 1024 then bs4Segment 1024 bs ++ bs4Segments f (n - 1024) (bs.drop 576)
    else bs4Segment n bs

/-- The values of a dense tensor of `n` values (R32, R41, R42). -/
def decodeTensor (f : Fmt) (n : Nat) (bs : List Byte) : List Val :=
  match f with
  | .bs4 => bs4Segments (n / 1024 + 1) n bs
  | .bsi8 => scaledVals .bsi8 32 (codesOf .bsi8 (bs.take n)) (((bs.drop n).take (n / 32)).map (fun b => b.toNat))
  | _ => (codesOf f (bs.take (n * (f.bits / 8)))).map (decode f 0)

/-- The codes and scales of values in a format, block by block; `srs i` are the random bits of element `i`. -/
def encodeBlocks (f : Fmt) (srs : Nat → Option Nat) (sat : Bool) (vs : List Val) : List Nat × List Nat :=
  if f.scaleBlock = 0 then
    ((List.zip (List.range vs.length) vs).map (fun p => encode f (srs p.1) sat p.2), [])
  else
    let bl := chunks f.scaleBlock vs
    let enc := (List.zip (List.range bl.length) bl).map
      (fun p => encBlock f (fun i => srs (p.1 * f.scaleBlock + i)) p.2)
    (enc.flatMap (fun p => p.2), enc.map (fun p => p.1))

/-- The bytes of a dense tensor of values (R41, R42, R43). -/
def encodeTensor (f : Fmt) (srs : Nat → Option Nat) (sat : Bool) (vs : List Val) : List Byte :=
  match f with
  | .bs4 =>
    let segs := chunks 1024 vs
    (List.zip (List.range segs.length) segs).flatMap (fun p =>
      let e := encodeBlocks .bs4 (fun i => srs (p.1 * 1024 + i)) sat p.2
      padTo (if p.2.length = 1024 then 576 else bs4SegBytes p.2.length)
        (packNibbles e.1 ++ e.2.map (BitVec.ofNat 8)))
  | _ =>
    let e := encodeBlocks f srs sat vs
    bytesOfCodes f e.1 ++ e.2.map (BitVec.ofNat 8)

/-- Code bytes of one 32-value CBS block (R50). -/
def cbsBlockBytes (f : Fmt) : Nat := 32 * f.bits / 8

/-- Scale bytes of one 32-value CBS block (R50). -/
def cbsScaleBytes (f : Fmt) : Nat :=
  match f with
  | .bs4 => 2 | .bsi8 => 1 | _ => 0

/-- The length of a CBS record with `count` present blocks (R50). -/
def cbsRecLen (f : Fmt) (count : Nat) : Nat :=
  4 + roundUp (count * (cbsBlockBytes f + cbsScaleBytes f)) 4

/-- One parsed CBS record. -/
structure CbsRec where
  presence : Nat
  fmt : Fmt
  /-- present blocks: block number and its 32 values -/
  blocks : List (Nat × List Val)
  len : Nat
  deriving DecidableEq, Repr

/-- Parse of the CBS record at the head of `bs`, of which `left` values remain in the tensor; `none` if the
record is malformed by R50, or the stream ends inside it. -/
def parseCbsRec (want : Option Fmt) (left : Nat) (bs : List Byte) : Option CbsRec :=
  let pres := byteFld bs 0 1
  let b2 := byteFld bs 2 2
  match fmtOfCode (byteFld bs 3 3) with
  | none => none
  | some f =>
    let count := b2 % 32
    let len := cbsRecLen f count
    let cb := cbsBlockBytes f
    let sb := cbsScaleBytes f
    let body := (bs.drop 4).take (len - 4)
    let used := count * (cb + sb)
    let ids := (List.range 16).filter (fun i => bit pres i)
    if bs.length < len ∨ b2 / 32 ≠ 0 ∨ count ≠ popcount 16 pres ∨ (want.isSome ∧ want ≠ some f)
        ∨ ids.any (fun i => decide (i * 32 ≥ left)) ∨ (body.drop used).any (fun b => b != 0) then none
    else
      let codes := body.take (count * cb)
      let scales := ((body.drop (count * cb)).take (count * sb)).map (fun b => b.toNat)
      let one := fun (p : Nat × Nat) =>
        let cs := codesOf f ((codes.drop (p.1 * cb)).take cb)
        let sc := (scales.drop (p.1 * sb)).take sb
        (p.2, if sb = 0 then cs.map (decode f 0) else scaledVals f f.scaleBlock cs sc)
      some ⟨pres, f, (List.zip (List.range count) ids).map one, len⟩

/-- The 512 values of a parsed record, absent blocks as +0 (R50). -/
def CbsRec.vals (r : CbsRec) : List Val :=
  (List.range 16).flatMap (fun i =>
    match r.blocks.find? (fun b => b.1 == i) with
    | some b => b.2
    | none => List.replicate 32 (.fin false 0 0))

/-- Parse of a CBS stream of `n` values: the records in order, or `none` if one is malformed (R50, R59). -/
def parseCbsFuel : Nat → Option Fmt → Nat → List Byte → Option (List CbsRec)
  | 0, _, _, _ => some []
  | f + 1, want, n, bs =>
    if n = 0 then some []
    else
      match parseCbsRec want n bs with
      | none => none
      | some r =>
        match parseCbsFuel f (some r.fmt) (n - min n 512) (bs.drop r.len) with
        | none => none
        | some rs => some (r :: rs)

/-- Parse of a CBS stream of `n` values. -/
def parseCbs (want : Option Fmt) (n : Nat) (bs : List Byte) : Option (List CbsRec) :=
  parseCbsFuel (n / 512 + 1) want n bs

/-- The values of a CBS stream of `n` values. -/
def cbsVals (n : Nat) (rs : List CbsRec) : List Val := (rs.flatMap CbsRec.vals).take n

/-- Share `u` of the `U` contiguous shares of a work list (R151): items ⌊u × P ÷ U⌋ to ⌊(u + 1) × P ÷ U⌋ − 1. -/
def share {α : Type} (U u : Nat) (l : List α) : List α :=
  (l.drop (u * l.length / U)).take ((u + 1) * l.length / U - u * l.length / U)

/-- The work list of a present-block operation (R151): every (chunk, row) pair whose row is injected, by chunk and then by
row. -/
def workList (present : Nat → Nat → Bool) (chunks rows : Nat) : List (Nat × Nat) :=
  (List.range chunks).flatMap (fun c => ((List.range rows).filter (present c)).map (fun r => (c, r)))

/-- The chunks whose block a bed loads for its share, each once (R151). -/
def chunksLoaded (items : List (Nat × Nat)) : List Nat := (items.map (fun p => p.1)).eraseDups

/-- A row's result of `n` elements from its partials in ascending chunk order (R151): the first is copied, each later one is
added in FP32; a row with no items yields +0. -/
def mergePartials (n : Nat) : List (List Nat) → List Nat
  | [] => List.replicate n 0
  | p :: ps => ps.foldl (fun a q => List.zipWith f32Add a q) p

/-- The result of a row of a present-block operation across `U` beds (R151): the partials that the beds form for it, share by
share. -/
def presentResult (U n : Nat) (work : List (Nat × Nat)) (partialOf : Nat → Nat → List Nat) (row : Nat) : List Nat :=
  mergePartials n ((((List.range U).flatMap (fun u => share U u work)).filter (fun p => p.2 == row)).map
    (fun p => partialOf p.1 p.2))

/-- The bytes of a CBS stream of parsed records. -/
def cbsLen (rs : List CbsRec) : Nat := (rs.map (fun r => r.len)).sum

/-- The result of writing values as CBS: bytes, and blocks present and absent. -/
structure CbsOut where
  bytes : List Byte
  present : Nat
  absent : Nat
  deriving DecidableEq, Repr

/-- One CBS group of at most 512 values, already converted: codes, scales and exact values per block. -/
def encodeCbsGroup (f : Fmt) (srs : Nat → Option Nat) (sat : Bool) (vs : List Val) : CbsOut :=
  let bl := chunks 32 vs
  let enc := (List.zip (List.range bl.length) bl).map (fun p =>
    let e := encodeBlocks f (fun i => srs (p.1 * 32 + i)) sat p.2
    let back := if f.scaleBlock = 0 then e.1.map (decode f 0) else scaledVals f f.scaleBlock e.1 e.2
    (p.1, e, back.all Val.isZero))
  let here := enc.filter (fun p => !p.2.2)
  let pres := here.foldl (fun a p => a + 2 ^ p.1) 0
  let body := here.flatMap (fun p => bytesOfCodes f p.2.1.1)
    ++ here.flatMap (fun p => p.2.1.2.map (BitVec.ofNat 8))
  ⟨leBytes 2 pres ++ [BitVec.ofNat 8 here.length, BitVec.ofNat 8 f.code]
      ++ padTo (roundUp body.length 4) body, here.length, enc.length - here.length⟩

/-- Values written as a CBS stream (R50, R148 steps 2 and 3). -/
def encodeCbs (f : Fmt) (srs : Nat → Option Nat) (sat : Bool) (vs : List Val) : CbsOut :=
  let gs := chunks 512 vs
  let os := (List.zip (List.range gs.length) gs).map
    (fun p => encodeCbsGroup f (fun i => srs (p.1 * 512 + i)) sat p.2)
  ⟨os.flatMap (fun o => o.bytes), (os.map (fun o => o.present)).sum, (os.map (fun o => o.absent)).sum⟩

/-- The exponent of an FP32 or BF16 normal, -127 for a subnormal (R55). -/
def expoOf : Val → Int
  | .fin _ m e => max (-127) (e + (bitLen m : Int) - 1)
  | _ => -32768

/-- The local exponent of a group: -32768 with no finite non-zero element (R55). -/
def xsLocalExp (vs : List Val) : Int :=
  vs.foldl (fun a v => if v.isZero then a else max a (expoOf v)) (-32768)

/-- The shared exponent E from the maximum local exponent (R55). -/
def xsE (eg : Int) : Int := if eg = -32768 then 0 else eg + 1

/-- An element's integer and special code on the group's grid (R55). -/
def xsEntry (E : Int) : Val → Int × Nat
  | .nan => (0, 3)
  | .inf s => (0, if s then 2 else 1)
  | .fin s m e =>
    let x := e + 96 - E
    let k := if x ≥ 0 then m * 2 ^ x.toNat else rneShift m (-x).toNat
    (if s then -(k : Int) else k, 0)

/-- The join of two special codes (R55). -/
def xsJoin (a b : Nat) : Nat :=
  if a = 3 ∨ b = 3 ∨ (a = 1 ∧ b = 2) ∨ (a = 2 ∧ b = 1) then 3
  else if a = 0 then b else a

/-- The FP32 result of a finished sum (R55). -/
def xsFinish (E : Int) (n : Int) (sp : Nat) : Nat :=
  match sp with
  | 0 => encFP32 none false (.fin (n < 0) n.natAbs (E - 96))
  | 1 => 0x7F800000
  | 2 => 0xFF800000
  | _ => 0x7FC00000

/-- The XS128 sum of contributions to one group of elements: each contribution is a list of values. The
result depends on the multiset of contributions alone (R56). -/
def xsSumGroup (cs : List (List Val)) : List Nat :=
  let eg := (cs.map xsLocalExp).foldl max (-32768)
  let E := xsE eg
  let n := (cs.map List.length).foldl max 0
  (List.range n).map (fun i =>
    let es := cs.map (fun c => xsEntry E (c.getD i (.fin false 0 0)))
    xsFinish E ((es.map (fun p => p.1)).sum) ((es.map (fun p => p.2)).foldl xsJoin 0))

/-- The XS128 sum of whole contributions, group by group of 16 elements (R54, R57). -/
def xsSum (cs : List (List Val)) : List Nat :=
  let n := (cs.map List.length).foldl max 0
  (List.range ((n + 15) / 16)).flatMap (fun g => xsSumGroup (cs.map (fun c => (c.drop (16 * g)).take 16)))

/-- One XS128 group in its 264-byte form (R54). -/
structure XsGroup where
  exp : Int
  vals : List (Int × Nat)
  deriving DecidableEq, Repr

/-- Parse of an XS128 group that carries `n` elements: `none` if a reserved bit is set or a padding position is
not empty (R54, R59). -/
def parseXsGroup (n : Nat) (bs : List Byte) : Option XsGroup :=
  let h := byteFld bs 0 7
  let el := (List.range 16).map (fun i =>
    (toSigned 128 (byteFld bs (8 + 16 * i) (23 + 16 * i)), fld h (2 * i + 17) (2 * i + 16)))
  if fld h 63 48 ≠ 0 ∨ (el.drop n).any (fun p => p != (0, 0)) then none
  else some ⟨toSigned 16 h, el.take n⟩

end Sys2Proof.Machine
end

