-- ==== Sys2Proof/Machine/Accumulate.lean ====
section
/-!
DEFINITION. The sums of one column of the parterre array in each mode (R44 to R49, R152).
-/

namespace Sys2Proof.Machine

/-- The three sticky flags of a column (R49). -/
structure Sticky where
  nan : Bool := false
  pinf : Bool := false
  ninf : Bool := false
  deriving DecidableEq, Repr

/-- The flags with the one that a non-finite value sets. -/
def Sticky.see (f : Sticky) : Val → Sticky
  | .nan => { f with nan := true }
  | .inf s => if s then { f with ninf := true } else { f with pinf := true }
  | .fin _ _ _ => f

/-- The flag that an FP32 code sets when it is an overflowed value (R49). -/
def Sticky.seeCode (f : Sticky) (c : Nat) : Sticky :=
  if c = 0x7F800000 then { f with pinf := true }
  else if c = 0xFF800000 then { f with ninf := true } else f

/-- The column result from its flags and its finite sum (R49). -/
def Sticky.result (f : Sticky) (fin : Nat) : Nat :=
  if f.nan ∨ (f.pinf ∧ f.ninf) then 0x7FC00000
  else if f.pinf then 0x7F800000 else if f.ninf then 0xFF800000 else fin

/-- The products of a column's pairs and the flags they set; a non-finite product adds nothing to the sum. -/
def columnProducts (ps : List (Val × Val)) : List Val × Sticky :=
  let vs := ps.map (fun p => Val.mul p.1 p.2)
  (vs.filter (fun v => match v with | .fin _ _ _ => true | _ => false), vs.foldl Sticky.see {})

/-- The exact sum of finite values as one FP32 rounding; an exact zero is +0 (R44). -/
def exactSum (vs : List Val) : Nat :=
  let lo := vs.foldl (fun a v => match v with | .fin _ _ e => min a e | _ => a) (0 : Int)
  let x := (vs.map (scaledInt lo)).sum
  encFP32 none false (.fin (x < 0) x.natAbs lo)

/-- FP8 mode: the products of a pass summed exactly and rounded once (R44, R49). -/
def colExact (ps : List (Val × Val)) : Nat :=
  let p := columnProducts ps
  p.2.result (exactSum p.1)

/-- BS4 mode: each block of `blk` rows is summed exactly and rounded once; the block results are added in FP32
from the left (R45, R49). -/
def colBlocks (blk : Nat) (ps : List (Val × Val)) : Nat :=
  let bs := (chunks blk ps).map (fun b => let p := columnProducts b; (exactSum p.1, p.2))
  let fl := bs.foldl (fun f b =>
    { nan := f.nan || b.2.nan, pinf := f.pinf || b.2.pinf, ninf := f.ninf || b.2.ninf : Sticky }) {}
  let fl := bs.foldl (fun f b => f.seeCode b.1) fl
  let r := (bs.drop 1).foldl
    (fun (a : Nat × Sticky) b => let x := f32Add a.1 b.1; (x, a.2.seeCode x)) ((bs.headD (0, {})).1, fl)
  r.2.result r.1

/-- One level of the FP32 tree with its overflow flags (R46, R49). -/
def treeFlags : Nat → Sticky → List Nat → Nat × Sticky
  | 0, f, l => (l.headD 0, f)
  | n + 1, f, l =>
    if l.length ≤ 1 then (l.headD 0, f)
    else
      let l' := treeLevel f32Add l
      treeFlags n (l'.foldl Sticky.seeCode f) l'

/-- The operands of a balanced tree padded after the last to a power of two (R117). -/
def padPow2 (pad : Nat) (l : List Nat) : List Nat :=
  let n := if l.length ≤ 1 then l.length else 2 ^ (Nat.log2 (l.length - 1) + 1)
  l ++ List.replicate (n - l.length) pad

/-- A balanced-tree FP32 sum, padded with +0 (R117). -/
def treeSum (l : List Nat) : Nat := treeFold f32Add 32 (padPow2 0 l)

/-- BF16 mode: FP32 products summed by the balanced tree (R46, R49). -/
def colTree (ps : List (Val × Val)) : Nat :=
  let vs := ps.map (fun p => Val.mul p.1 p.2)
  let fl := vs.foldl Sticky.see {}
  let cs := vs.map (fun v => match v with | .fin _ _ _ => encFP32 none false v | _ => 0)
  let fl := cs.foldl Sticky.seeCode fl
  let cs := cs.map (fun c => if c = 0x7F800000 ∨ c = 0xFF800000 then 0 else c)
  let r := treeFlags 32 fl (padPow2 0 cs)
  r.2.result r.1

/-- INT8 mode: the exact sum leaves as INT32 (R47). -/
def colInt (ps : List (Val × Val)) : Nat :=
  ofSigned 32 ((ps.map (fun p => scaledInt 0 p.1 * scaledInt 0 p.2)).sum)

/-- FSW-BS4: each group of four slots is summed exactly and rounded once; the group results are added by the
balanced tree (R152). -/
def colFswBs4 (ps : List (Val × Val)) : Nat :=
  let bs := (chunks 4 ps).map (fun b => let p := columnProducts b; (exactSum p.1, p.2))
  let fl := bs.foldl (fun f b =>
    { nan := f.nan || b.2.nan, pinf := f.pinf || b.2.pinf, ninf := f.ninf || b.2.ninf : Sticky }) {}
  let fl := bs.foldl (fun f b => f.seeCode b.1) fl
  let r := treeFlags 32 fl (padPow2 0 (bs.map (fun b => b.1)))
  r.2.result r.1

end Sys2Proof.Machine
end

