-- ==== Sys2Proof/Machine/Ecc.lean ====
section
/-!
DEFINITION. The LPDDR6 code (R325) and the place of its bits in a burst (R326): a systematic Reed-Solomon code RS(72,64) over
GF(2^8). The first symbol of a list is symbol 0, the coefficient of x^71.
-/

namespace Sys2Proof.Machine

open Sys2Proof

/-- A field element times α = 0x02, modulo the field polynomial 0x11D (R325). -/
def gfTwice (a : Byte) : Byte := if a.msb then a <<< 1 ^^^ 0x1D#8 else a <<< 1

/-- The product of two elements of GF(2^8) (R325). -/
def gfMul (a b : Byte) : Byte :=
  (List.range 8).foldr (fun n r => gfTwice r ^^^ (if b.getLsbD n then a else 0#8)) 0#8

/-- The power α^n (R325). -/
def gfPow : Nat → Byte
  | 0 => 1#8
  | n + 1 => gfTwice (gfPow n)

/-- A polynomial, leading coefficient first, times x + c. -/
def mulRoot (p : List Byte) (c : Byte) : List Byte :=
  List.zipWith (fun x y => x ^^^ y) (p ++ [0#8]) (0#8 :: p.map (gfMul c))

/-- The generator g(x) = (x − α^0) … (x − α^7), leading coefficient first (R325). -/
def rsGenerator : List Byte := (List.range 8).foldl (fun p i => mulRoot p (gfPow i)) [1#8]

/-- One more data symbol enters the division by g(x). -/
def rsStep (g r : List Byte) (d : Byte) : List Byte :=
  let q := r.headD 0 ^^^ d
  List.zipWith (fun x c => x ^^^ gfMul q c) (r.drop 1 ++ [0#8]) g

/-- The remainder of (data polynomial × x^8) divided by g(x): symbols 64 to 71 (R325). -/
def rsCheck (data : List Byte) : List Byte :=
  let g := rsGenerator.drop 1
  data.foldl (rsStep g) (List.replicate 8 0#8)

/-- The 72 symbols of a block: its data bytes, then the check symbols (R325). -/
def rsEncode (data : List Byte) : List Byte := data ++ rsCheck data

/-- A polynomial's value at a point. -/
def gfEval (word : List Byte) (x : Byte) : Byte := word.foldl (fun v c => gfMul x v ^^^ c) 0#8

/-- The syndromes S_i := r(α^i), i = 0 to 7 (R325). -/
def rsSyndromes (word : List Byte) : List Byte := (List.range 8).map (fun i => gfEval word (gfPow i))

/-- The sum of two words, symbol by symbol. -/
def addWords (a b : List Byte) : List Byte := List.zipWith (fun x y => x ^^^ y) a b

/-! ## The burst -/

/-- The transfer index of bit q of sub-channel `sub` in beat b (R326). -/
def transferIndex (b sub q : Nat) : Nat := 24 * b + 12 * sub + q

/-- The beat, the sub-channel and the data line that carry a transfer index (R326). -/
def transferPlace (t : Nat) : Nat × Nat × Nat := (t / 24, t % 24 / 12, t % 12)

/-- Bit n of symbol k lies at transfer index 8k + n (R326). -/
def symbolIndex (k n : Nat) : Nat := 8 * k + n

/-- The symbol and the bit that a transfer index carries (R326). -/
def indexSymbol (t : Nat) : Nat × Nat := (t / 8, t % 8)

/-- The bit that a burst carries at a transfer index. -/
def burstBit (word : List Byte) (t : Nat) : Bool := (word.getD (t / 8) 0).getLsbD (t % 8)

/-- The error pattern, as 72 symbols, of a burst whose bits at the given transfer indices are wrong (R326). -/
def wrongBits (ts : List Nat) : List Byte :=
  (List.range 72).map (fun k =>
    BitVec.ofNat 8 (((List.range 8).filter (fun n => ts.contains (symbolIndex k n))).foldl (fun v n => v + 2 ^ n) 0))

/-- The symbols in error of a pattern. -/
def wrongSymbols (e : List Byte) : List Nat := (List.range e.length).filter (fun k => e.getD k 0 != 0)

/-- What the decoder does (R327). -/
inductive Decoded where
  /-- all S_i = 0: the data pass -/
  | ok
  /-- 1 to 3 symbols in error -/
  | corrected
  /-- 4 or 5 symbols in error, or some patterns of more -/
  | uncorrectable
  /-- 6 symbols or more in error: a wrong codeword is taken for the right one -/
  | miscorrected
  deriving DecidableEq, Repr

/-- The decoder's answer to a codeword with an error pattern added (R327): by its syndromes where they are all 0, exact up to
five wrong symbols, and open beyond (`choice`). -/
def rsDecode (data e : List Byte) (choice : Bool) : Decoded :=
  let n := (wrongSymbols e).length
  if n = 0 ∨ (rsSyndromes (addWords (rsEncode data) e)).all (fun x => x == 0) then .ok
  else if n ≤ 3 then .corrected
  else if n ≤ 5 ∨ choice then .uncorrectable
  else .miscorrected

end Sys2Proof.Machine
end

