-- ==== Sys2Proof/Machine/Maps.lean ====
section
/-!
DEFINITION. The named operations on the sparse maps that hold memories, registers, counters and tables.
A total map has a default for every key and lists no entry equal to it; a partial map lists what is there.
-/

namespace Sys2Proof.Machine

/-- The entry at key `k`, if one is listed. -/
def NMap.find {α : Type} : NMap α → Nat → Option α
  | [], _ => none
  | (a, v) :: m, k => if a = k then some v else NMap.find m k

/-- The map with key `k` holding `v`, kept in rising order of keys. -/
def NMap.put {α : Type} : NMap α → Nat → α → NMap α
  | [], k, v => [(k, v)]
  | (a, w) :: m, k, v =>
    if k < a then (k, v) :: (a, w) :: m
    else if a = k then (k, v) :: m
    else (a, w) :: NMap.put m k v

/-- The map without key `k`. -/
def NMap.del {α : Type} (m : NMap α) (k : Nat) : NMap α := m.filter (fun e => e.1 != k)

/-- The map without the keys that meet `p`. -/
def NMap.delIf {α : Type} (m : NMap α) (p : Nat → Bool) : NMap α := m.filter (fun e => !p e.1)

/-- Read of a total map whose unlisted key `k` holds `d k`. -/
def NMap.get {α : Type} (d : Nat → α) (m : NMap α) (k : Nat) : α := (NMap.find m k).getD (d k)

/-- Write of a total map: the default value is never listed. -/
def NMap.set {α : Type} [DecidableEq α] (d : Nat → α) (m : NMap α) (k : Nat) (v : α) : NMap α :=
  if v = d k then NMap.del m k else NMap.put m k v

/-- The keys of a map rise strictly. -/
def NMap.sorted {α : Type} (m : NMap α) : Prop := m.Pairwise (fun x y => x.1 < y.1)

/-- The canonical form of a total map: keys rise strictly and no entry equals the default of its key. -/
def NMap.wf {α : Type} (d : Nat → α) (m : NMap α) : Prop :=
  NMap.sorted m ∧ ∀ e ∈ m, e.2 ≠ d e.1

/-- Read of `n` bytes from address `a`, lowest address first, where an unlisted byte reads 0. -/
def readBytes (m : NMap Byte) (a n : Nat) : List Byte :=
  (List.range n).map (fun i => NMap.get (fun _ => 0) m (a + i))

/-- Write of bytes from address `a` on, lowest address first, where an unlisted byte reads 0. -/
def writeBytes (m : NMap Byte) (a : Nat) : List Byte → NMap Byte
  | [] => m
  | b :: bs => writeBytes (NMap.set (fun _ => 0) m a b) (a + 1) bs

/-- An element put before the first that it does not follow in the order of `key`. -/
def insertBy {α : Type} (key : α → Nat) (x : α) : List α → List α
  | [] => [x]
  | y :: l => if key x ≤ key y then x :: y :: l else y :: insertBy key x l

/-- A list in rising order of `key`; equal keys keep their order. -/
def sortBy {α : Type} (key : α → Nat) (l : List α) : List α := l.foldr (insertBy key) []

/-- The addresses from `lo` to `hi - 1` hold 0 again. -/
def zeroBytes (m : NMap Byte) (lo hi : Nat) : NMap Byte :=
  NMap.delIf m (fun k => lo ≤ k && k < hi)

end Sys2Proof.Machine
end

