-- ==== Sys2Proof/Config.lean ====
section
/-!
DEFINITION. What one device of the family fixes: its grades (R1), its register pages (R444), its block types (R445)
and the values that the manual leaves open.
-/

namespace Sys2Proof.Config

/-- The three grades (R1). -/
inductive Grade where
  | h | m | e
  deriving DecidableEq, Repr

/-- Root-PLL cycles of one ACLK (R1: divider 8, 9 or 11 of 18 GHz). -/
def Grade.aclkDiv : Grade → Nat
  | .h => 8 | .m => 9 | .e => 11

/-- Module power limit in W (R1). -/
def Grade.powerLimit : Grade → Nat
  | .h => 1350 | .m => 1050 | .e => 880

/-- Largest energy allotment of a 100 µs window, in µJ (R343: the module power limit for 100 µs). -/
def Grade.allotMax (g : Grade) : Nat := g.powerLimit * 100

/-- Largest current limit, in units of 0.1 A (R343). -/
def Grade.ilimitMax : Grade → Nat
  | .h => 281 | .m => 218 | .e => 183

/-- The epoch of DET_MODE in root cycles (R314). -/
def Grade.epoch : Grade → Nat
  | .h => 245760 | .m => 737280 | .e => 2703360

/-- A value that the manual leaves undefined or does not state: nothing constrains it. Each use applies it to the
counter of free values that the state holds. -/
opaque freeValue : Nat → BitVec 64

/-- The chunk of the contraction that the block of a present-block pass covers, and the length in values of its rows' CBS
streams (R150): the pass descriptor, as a number, does not give them in any field of R292 (log entry 14). -/
opaque presentChunk : Nat → Nat
opaque presentLen : Nat → Nat

/-- Bytes of a spilled Sheaf block, whose layout the manual does not give (R108): by bytes spilled before it and place. -/
opaque spillByte : Nat → Nat → Byte

/-! Register pages of BAR0 (R444). -/

def pgDev : Nat := 0x0000000
def pgBoot : Nat := 0x0001000
def pgTb : Nat := 0x0002000
def pgGate : Nat := 0x0003000
/-- Belvedere unit `k`. -/
def pgBelv (k : Nat) : Nat := 0x0004000 + k * 0x1000
def pgLodge : Nat := 0x0008000
def pgHost : Nat := 0x0009000
/-- Thresher unit `u`. -/
def pgThr (u : Nat) : Nat := 0x0010000 + u * 0x1000
/-- Granary of compute die `d`. -/
def pgGrn (d : Nat) : Nat := 0x0018000 + d * 0x1000
/-- Die-to-die link `k`. -/
def pgD2d (k : Nat) : Nat := 0x001A000 + k * 0x1000
def pgShf : Nat := 0x0020000
def pgPav : Nat := 0x0021000
def pgFab : Nat := 0x0022000
def pgAtom : Nat := 0x0023000
/-- Fabric port `p`. -/
def pgPort (p : Nat) : Nat := 0x0030000 + p * 0x1000
/-- Memory channel `c` with its pool unit. -/
def pgMch (c : Nat) : Nat := 0x0050000 + c * 0x1000
/-- Logical tile `t`. -/
def pgTile (t : Nat) : Nat := 0x0100000 + t * 0x1000
/-- Physical tile `q` = 64 × die + p. -/
def pgPhys (q : Nat) : Nat := 0x0180000 + q * 0x1000

/-- The block type and instance number of a register address (R444, R445); type 0 where no block is present. -/
def blockOf (a : Nat) : Nat × Nat :=
  let p := a / 0x1000
  if p = 0 then (1, 0) else if p = 1 then (0xF, 0) else if p = 2 then (0xE, 0) else if p = 3 then (0xB, 0)
  else if p < 8 then (0xC, p - 4) else if p = 8 then (0x11, 0) else if p = 9 then (0xD, 0)
  else if p < 0x10 then (0, 0)
  else if p < 0x18 then (3, p - 0x10) else if p < 0x1A then (4, p - 0x18)
  else if p < 0x1D then (0x10, p - 0x1A) else if p < 0x20 then (0, 0)
  else if p = 0x20 then (6, 0) else if p = 0x21 then (7, 0) else if p = 0x22 then (8, 0)
  else if p = 0x23 then (0xA, 0) else if p < 0x30 then (0, 0)
  else if p < 0x50 then (9, p - 0x30) else if p < 0xD0 then (5, p - 0x50)
  else if p < 0x100 then (0, 0) else if p < 0x178 then (2, p - 0x100)
  else if p < 0x180 then (0, 0) else if p < 0x200 then (2, 0x80 + (p - 0x180)) else (0, 0)

/-- Units that a die-edge ingress buffer holds; the manual gives no size (R24, R28; log entry 113). -/
opaque edgeUnits : Nat

end Sys2Proof.Config
end

