-- ==== Sys2Proof/Machine/RegTable.lean ====
section
/-!
DEFINITION. The register tables (R446, R457 and each block's own table): reset values, capabilities, the bits that a
write may change, event bit masks and the counters of the snapshot windows.
-/

namespace Sys2Proof.Machine

open Sys2Proof Sys2Proof.Config

/-- The value listed for a key, 0 where none is. -/
def lookN : List (Nat × Nat) → Nat → Nat
  | [], _ => 0
  | (k, v) :: r, x => if k = x then v else lookN r x

/-- `n` registers 4 bytes apart with one value. -/
def regRun (a n v : Nat) : List (Nat × Nat) := (List.range n).map (fun i => (a + 4 * i, v))

/-- All 32 bits of a register. -/
def allBits : Nat := 0xFFFFFFFF

/-- Reset values of stored registers by block type and offset, where they are not 0. GATE_ALLOT, GATE_ILIMIT and
GATE_LIMIT show grade H; bring-up writes those of the fused grade. -/
def resetTable : Nat → List (Nat × Nat)
  | 0x4 => [(0x104, 0x4003), (0x148, 391168), (0x15C, 64), (0x160, 64), (0x17C, 0x200000 + 391168)]
  | 0x7 => [(0x104, 1), (0x108, 131072), (0x10C, 2), (0x110, 100), (0x114, 50)]
  | 0x8 => [(0x104, 7), (0x110, 2048), (0x114, 16)]
  | 0xA => [(0x104, 1), (0x10C, 100), (0x110, 3), (0x114, 256), (0x118, 1000)]
  | 0xB => [(0x104, 7), (0x108, 135000), (0x10C, 281), (0x110, 1350), (0x120, 256), (0x12C, 10), (0x130, 95), (0x134, 50)]
  | 0xD => [(0x11C, 0x84), (0x130, 64)]
  | 0xE => [(0x128, 100)]
  | 0xF => [(0x100, 1), (0x14C, allBits)]
  | 0x11 => [(0x134, 10)]
  | _ => []

/-- The value a register holds at reset (R446). -/
def regReset (a : Nat) : Word :=
  let t := (blockOf a).1
  if t = 0 then 0
  else if a % 0x1000 = 8 then 1
  else BitVec.ofNat 32 (lookN (resetTable t) (a % 0x1000))

/-- BLK_CAPS by block type and instance. -/
def capsOf (t i : Nat) : Nat :=
  match t with
  | 0x1 => 0x40027804
  | 0x2 => 0x09022010
  | 0x3 => 0x00041010
  | 0x4 => 0x02060F40
  | 0x5 => 0x020C1818
  | 0x6 => 0x04104000
  | 0x7 => 0x20080800
  | 0x8 => 0x20100420
  | 0x9 => 0x2008C804
  | 0xA => 0x10080A40
  | 0xB => 0x20404038
  | 0xC => if i ≤ 1 then 0x1003 else if i = 2 then 0x0802 else 0x0404
  | 0xD => 0x01000804
  | 0xE => 0x00050440
  | 0xF => 0x00800408
  | 0x10 => if i = 2 then 0x004002EE else 0x004005DC
  | 0x11 => 0x00040400
  | _ => 0

/-- BLK_ID by block type and instance (R445). -/
def idOf (t i : Nat) : Nat := t * 0x10000 + i % 256 * 256 + 1

/-- Offset of a block's _EVT_BITS register and the events it defines. -/
def evtBits : Nat → Nat × Nat
  | 0x1 => (0x10C, 0x1F)
  | 0x2 => (0x128, 0x1F)
  | 0x3 => (0x10C, 0x1F)
  | 0x4 => (0x178, 0x1F)
  | 0x5 => (0x110, 0x7)
  | 0x6 => (0x170, 0x3F)
  | 0x7 => (0x164, 0x3F)
  | 0x8 => (0x188, 0xF)
  | 0x9 => (0x11C, 0x1F)
  | 0xA => (0x144, 0x1F)
  | 0xB => (0x14C, 0x3F)
  | 0xC => (0x10C, 0xF)
  | 0xD => (0x160, 0x3F)
  | 0xE => (0x12C, 0x7)
  | 0xF => (0x300, 0x1F)
  | 0x10 => (0x108, 0x1F)
  | 0x11 => (0x1E0, 0x7)
  | _ => (0, 0)

/-- The bits of a block's own registers that a plain write changes (RW fields), by block type and offset. -/
def writeTable : Nat → List (Nat × Nat)
  | 0x1 => (List.range 4).flatMap (fun n =>
      [(0x120 + 0x20 * n, 0xFFFFF000), (0x124 + 0x20 * n, allBits), (0x128 + 0x20 * n, 0xFFFFF000),
       (0x12C + 0x20 * n, allBits)])
  | 0x4 => (List.range 4).flatMap (fun n => [(0x108 + 8 * n, 0xFFFC0000), (0x10C + 8 * n, allBits)])
      ++ [(0x104, 0xFF03), (0x14C, allBits), (0x154, allBits), (0x158, allBits), (0x15C, 0xFFFF), (0x160, 0xFF),
          (0x164, allBits), (0x168, allBits)]
  | 0x6 => [(0x108, 0xFFFF), (0x11C, 0x1FFFF), (0x120, allBits), (0x124, allBits)]
      ++ regRun 0x128 4 allBits ++ regRun 0x138 4 0x01FF00FF
      ++ [(0x148, 0xFFFF0000), (0x14C, allBits), (0x150, 0x7FF), (0x158, 0xFFE00000), (0x15C, allBits), (0x160, allBits)]
  | 0x7 => [(0x104, 1), (0x108, 0x1FFFFFF), (0x10C, 0xF), (0x110, 0x3FFF), (0x114, 0x3FFF), (0x118, 0xFFF)]
  | 0x8 => [(0x104, 7), (0x108, 0xFFFF003F), (0x10C, 0xFFFF), (0x110, allBits), (0x114, allBits), (0x118, 0xC03FFFFF),
            (0x164, 0xFFFFFF80), (0x168, allBits), (0x16C, 0x1FFFF), (0x174, 0xFFFF)]
  | 0xA => [(0x104, 1), (0x10C, 0x3FFF), (0x110, 0xF), (0x114, 0x1FFF), (0x118, 0x1FFFF), (0x11C, 0xFFFF8000),
            (0x120, allBits), (0x124, 0x3FF), (0x138, 0x8000FFFF)]
  | 0xB => [(0x104, 7), (0x12C, 0x7F), (0x130, 0x7F), (0x134, 0xFFFF), (0x13C, 0x1F)]
  | 0xD => [(0x104, 3), (0x108, 0xFF), (0x130, 0xFFFF), (0x134, allBits), (0x138, allBits), (0x13C, 0xC0000003),
            (0x154, 0xFFFFFFC0), (0x158, allBits)] ++ regRun 0x400 64 allBits
  | 0xE => [(0x110, allBits), (0x114, allBits), (0x128, 0x3FFF)]
  | 0xF => [(0x108, allBits), (0x10C, allBits), (0x110, allBits), (0x114, allBits), (0x118, allBits), (0x11C, 1)]
      ++ regRun 0x1C0 8 allBits
  | 0x11 => [(0x108, allBits), (0x10C, allBits), (0x120, 0x1F), (0x134, 0x3FFF), (0x13C, 0x3FF)]
      ++ (List.range 4).flatMap (fun n =>
        [(0x160 + 0x20 * n, 0xFFFFF000), (0x164 + 0x20 * n, allBits), (0x168 + 0x20 * n, 0xFFFF),
         (0x170 + 0x20 * n, 0xFFFFF000), (0x174 + 0x20 * n, allBits), (0x178 + 0x20 * n, 0xFFFFFF)])
  | _ => []

/-- Offsets of the 64-bit counters of a block (their _LO registers). -/
def c64Offsets (t : Nat) : List Nat :=
  let run := fun (a n : Nat) => (List.range n).map (fun i => a + 8 * i)
  match t with
  | 0x1 => run 0x40 3 | 0x2 => run 0x40 15 | 0x3 => run 0x40 6 | 0x4 => run 0x40 16 | 0x5 => run 0x40 3 ++ run 0x180 4
  | 0x6 => run 0x40 7 | 0x7 => run 0x40 5 | 0x8 => run 0x40 4 | 0x9 => run 0x40 4 | 0xA => run 0x40 4
  | 0xB => run 0x40 3 | 0xC => run 0x40 1 | 0xD => run 0x40 4 | 0xE => run 0x40 1 | 0x10 => run 0x40 3
  | 0x11 => run 0x40 2 | _ => []

/-- Offsets of the saturating counters of a block. -/
def c32Offsets (t : Nat) : List Nat :=
  let run := fun (a n : Nat) => (List.range n).map (fun i => a + 4 * i)
  match t with
  | 0x1 => run 0x58 5 | 0x2 => run 0xB8 6 | 0x3 => run 0x70 4 | 0x4 => run 0xC0 9 | 0x5 => run 0x58 5 ++ run 0x1A0 3
  | 0x6 => run 0x78 8 | 0x7 => run 0x68 10 | 0x8 => run 0x60 9 | 0x9 => run 0x60 8 | 0xA => run 0x60 11
  | 0xB => run 0x58 7 | 0xC => run 0x48 3 | 0xD => run 0x60 6 | 0xE => run 0x48 3 | 0xF => run 0x40 6
  | 0x10 => run 0x58 4 | 0x11 => run 0x50 4 | _ => []

end Sys2Proof.Machine
end

