-- ==== Sys2Proof/Machine/State.lean ====
section
/-!
DEFINITION. The state of one device as plain data: clocks, registers, memories, tiles, partitions, steps, every block
of the three dies, the queue of waiting commands, and the state after reset.
-/

namespace Sys2Proof.Machine

open Sys2Proof Sys2Proof.Config

/-! ## Clocks, registers and memories -/

/-- Clocks and the time base (R7, R27, R364). -/
structure Clk where
  /-- root-PLL cycles since power-on -/
  root : Nat := 0
  /-- ACLK edges delivered since router-die reset (DEV_ACLK, R452) -/
  aclk : Nat := 0
  /-- ACLK edges, delivered or withheld, counted for the stretch pattern (R352) -/
  edge : Nat := 0
  /-- stretch k of 64 in force (R352) -/
  stretch : Nat := 0
  /-- root cycle at which the die reset was released (R314 counts epochs from it) -/
  release : Nat := 0
  /-- the 64-bit time base (R364) -/
  tb : DWord := 0
  /-- the root PLL is locked (R362) -/
  pllLocked : Bool := false
  /-- fractions of a TCLK owed to the time base, in 10^-9 TCLK (R367) -/
  tbFrac : Int := 0
  deriving DecidableEq, Repr

/-- The registers of every page and their side stores (R4, R446, R449). -/
structure Regs where
  /-- registers by BAR0 address; an unlisted one holds its reset value -/
  val : NMap Word := []
  /-- live 64-bit counters by the BAR0 address of their _LO register (R429) -/
  c64 : NMap DWord := []
  /-- live saturating counters by their BAR0 address (R429) -/
  c32 : NMap Word := []
  /-- _HI latches by requester × 2^32 + address of the _HI register (R449) -/
  hiLatch : NMap (Option Word) := []
  /-- _LO staging by requester × 2^32 + address of the _LO register (R449) -/
  loStage : NMap (Option Word) := []
  /-- root cycle in which a page captured its ERR_FIRST (R437) -/
  errAt : NMap Nat := []
  deriving DecidableEq, Repr

/-- The memories (R158, R322): tile SRAM, T1, host memory, with the faults that lie in them. -/
structure Mem where
  /-- tile SRAM bytes at tile × 2^24 + address -/
  sram : NMap Byte := []
  /-- SRAM bytes whose parity is wrong (R323) -/
  sramBad : NMap Bool := []
  /-- T1 bytes by T1 address -/
  t1 : NMap Byte := []
  /-- symbol errors of T1 blocks at block × 72 + symbol: the value added to the stored symbol (R325) -/
  t1err : NMap Byte := []
  /-- host memory bytes by host address -/
  host : NMap Byte := []
  deriving DecidableEq, Repr

/-! ## Tiles -/

/-- One arrival counter (R21, R298, R299). -/
structure Ctr where
  /-- armed since admission (R300) -/
  armed : Bool := false
  /-- 0 data, 1 egress credit, 2 staging credit -/
  kind : Nat := 0
  value : Nat := 0
  target : Nat := 0
  handleA : Nat := 0
  /-- 0 for a single buffer, else element B of a ring -/
  handleB : Nat := 0
  /-- ring elements released -/
  released : Nat := 0
  /-- stall cause that the delivering block attaches to the pending unit (R22) -/
  cause : Nat := 0
  deriving DecidableEq, Repr

/-- A running loop (R290). -/
structure Loop where
  reg : Nat
  first : Nat
  last : Nat
  /-- completed iterations -/
  done : Nat
  deriving DecidableEq, Repr

/-- The sparsity tally of a layer on a tile (R156). -/
structure Tally where
  chaffIn : Nat := 0
  chaffZeroed : Nat := 0
  present : Nat := 0
  absent : Nat := 0
  predicted : Nat := 0
  sampled : Nat := 0
  misses : Nat := 0
  fetched : Nat := 0
  dense : Nat := 0
  recomputes : Nat := 0
  /-- a HUSK or CHAFF ran in the layer -/
  used : Bool := false
  deriving DecidableEq, Repr

/-- A Granary request in progress (R169 to R171). -/
structure GReq where
  tile : Nat
  bg : Bool
  part : Nat
  /-- 1 FILL, 2 LIST, 3 STORE -/
  op : Nat
  transpose : Bool
  esize : Nat
  rows : Nat
  rowBytes : Nat
  addr : Nat
  stride : Nat
  unit : Nat
  handle : Nat
  /-- fetch list entries of a LIST -/
  list : List Nat
  /-- units delivered to the die edge -/
  sent : Nat
  /-- what a STORE writes: job addresses and bytes, each inside one grain -/
  put : List (Nat × List Byte) := []
  /-- tag of a STORE -/
  tag : Nat := 0
  /-- data that a transposing FILL has read (R172) -/
  buf : Option (List Byte) := none
  /-- grains whose COUNT the request has advanced (R165) -/
  seen : List Nat := []
  /-- stall cause of the unit to come, where an obstacle has been met; 0 none (R179) -/
  cause : Nat := 0
  deriving DecidableEq, Repr

/-- An expert step between its HUSK and the update of its state record (R146). -/
structure HuskRun where
  /-- handle entry of the state record, as it resolved -/
  handle : Nat
  /-- job address of the record in the state table -/
  addr : Nat
  policy : Nat
  missLimit : Nat
  minSamples : Nat
  window : Nat
  denseSteps : Nat
  /-- THETA, the FP32 activity threshold -/
  theta : Nat
  samples : Nat
  entries : Nat
  dense : Bool
  /-- dense because POLICY is 2 -/
  byPolicy : Bool
  /-- the record failed its CHECK and is treated as fresh -/
  fresh : Bool
  hidden : Nat
  /-- fetch list handle and the loop register that receives C -/
  listH : Nat
  lcReg : Nat
  /-- a strict recompute is running, with the misses that caused it (R147) -/
  recompute : Option Nat
  /-- the LIST of the expert step: its request, the bundle that issued it and the counter that armed its buffer -/
  list : Option (GReq × Nat × Nat) := none
  deriving DecidableEq, Repr

/-- A Husk state record that a layer's commit writes back (R146): its job address, its handle entry, its bytes, and the bytes
that stood in SRAM before the update. -/
structure HuskRec where
  addr : Nat
  handle : Nat
  new : List Byte
  old : List Byte
  deriving DecidableEq, Repr

/-- What a tile publishes when its layer commits (R302, R332). -/
structure LayerPart where
  layer : Nat
  crc : Nat
  len : Nat
  tally : Tally
  /-- Husk state records to write back -/
  husk : List HuskRec
  /-- ACLK from step start at which the COMMIT completed -/
  cycles : Nat
  replayed : Bool
  deriving DecidableEq, Repr

/-- A restart record (R332). -/
structure Restart where
  /-- layer of the COMMIT; none for ENTRY -/
  layer : Option Nat
  pc : Nat
  lc : List Nat
  ctrs : NMap Ctr
  /-- dynamic effects issued at the record, and ARMs and RELs -/
  effects : Nat
  syncs : Nat
  deriving DecidableEq, Repr

/-- One resident context of a tile (R116, R286, R291). -/
structure Ctx where
  /-- a program is resident -/
  live : Bool := false
  part : Nat := 0
  progId : Nat := 0
  check : Nat := 0
  step : Nat := 0
  seed : Nat := 0
  /-- FLAGS.DIGEST_EN of the image (R281) -/
  digestEn : Bool := false
  bankSet : Nat := 0
  progBank : Nat := 0
  codeBundles : Nat := 0
  entry : Nat := 0
  /-- handle table: 128-bit entries, 0 undefined (R287) -/
  handles : NMap Nat := []
  retain : List Nat := []
  /-- bundle index to issue -/
  pc : Nat := 0
  /-- LC0 to LC7 -/
  lc : List Nat := [0, 0, 0, 0, 0, 0, 0, 0]
  /-- ACLK of the last write of each loop count register (R290) -/
  lcAt : List Nat := [0, 0, 0, 0, 0, 0, 0, 0]
  loops : List Loop := []
  /-- a jump in progress: target and delay bundles left -/
  jump : Option (Nat × Nat) := none
  ctrs : NMap Ctr := []
  /-- windows opened by RECV (R291): handle and lines landed -/
  windows : List (Nat × Nat) := []
  /-- counter and loop register (WAITI) the sequencer is held at -/
  waiting : Option (Nat × Option Nat) := none
  /-- ACLK in which the wait's counter was satisfied (R22) -/
  readyAt : Option Nat := none
  /-- ACLK of the present hold (R22) -/
  held : Nat := 0
  /-- COMMIT layer waiting to complete -/
  committing : Option Nat := none
  /-- COMMIT of the layer completed here, waiting for the partition (R332) -/
  lastLayer : Option Nat := none
  ended : Bool := false
  /-- SRAM address of the resume area (R132) -/
  resume : Nat := 0
  /-- running digest of the layer: CRC and length (R318) -/
  crc : Nat := 0
  crcLen : Nat := 0
  tally : Tally := {}
  husk : List HuskRun := []
  huskDone : List HuskRec := []
  /-- entries, padding included, of the list that the latest HUSK wrote through each list handle (R140, R157) -/
  listLens : NMap Nat := []
  parts : List LayerPart := []
  restarts : List Restart := []
  /-- dynamic effects issued in the step (R334), and ARMs and RELs -/
  effects : Nat := 0
  syncs : Nat := 0
  /-- ARMs and RELs of the abandoned run still to be matched: their counters keep their values (R334) -/
  syncMatched : Nat := 0
  /-- dynamic effects of the abandoned run still to be matched (R334) -/
  matched : Nat := 0
  /-- instance of the latest DISPATCH of the step: communicator and sequence number (R297) -/
  dispatch : Option (Nat × Nat) := none
  /-- tokens staged in that instance -/
  staged : Nat := 0
  /-- banks handed over and the COMMIT index after which they may not be named (R285) -/
  handover : List (Nat × Nat) := []
  deriving DecidableEq, Repr

/-- A pass descriptor (R292). -/
structure PassDesc where
  sfmt : Nat
  xfmt : Nat
  bed : Nat
  tag : Nat
  present : Bool
  acc : Bool
  vsrc : Nat
  m : Nat
  feed : Nat
  drain : Nat
  carry : Nat
  vmap : Nat
  feedRow : Nat
  drainRow : Nat
  carryRow : Nat
  gapEvery : Nat
  gapLen : Nat
  /-- a reserved bit is set or a code is not defined -/
  bad : Bool
  deriving DecidableEq, Repr

/-- A pass's buffers after resolution: feed, drain, carry, validity. -/
structure PassBufs where
  feed : Nat
  drain : Nat
  carry : Nat
  vmap : Nat
  deriving DecidableEq, Repr

/-- One accumulator of an output-stationary cell (R125, R49): its exact sum and its flags (1 NaN, 2 +infinity, 4 −infinity). -/
structure Cell where
  sum : Int := 0
  flags : Nat := 0
  deriving DecidableEq, Repr

/-- A pass under way in a bed (R118 to R126). -/
structure LivePass where
  desc : PassDesc
  bufs : PassBufs
  /-- PASS_DESC of R132 -/
  descAddr : Nat
  /-- an output-stationary pass -/
  os : Bool
  /-- rows and columns of its bed -/
  size : Nat
  /-- ACLK of its first injection slot -/
  t0 : Nat
  /-- the vectors that take a slot, in order, each with its validity -/
  vecs : List (Nat × Bool)
  /-- slots that a vector waits for the slowest of its banks (R120, R128) -/
  slow : Nat
  /-- ACLK of its last injection slot -/
  last : Nat
  /-- the chunk and the row length of a present-block feed (R150) -/
  chunk : Nat := 0
  rowLen : Nat := 0
  /-- the stationary block, its handle entry and its byte offset -/
  blk : List Byte := []
  src : Nat := 0
  off : Nat := 0
  /-- vectors injected, and valid vectors drained (R119) -/
  next : Nat := 0
  done : Nat := 0
  /-- accumulators of an output-stationary pass, row by row -/
  cells : List Cell := []
  /-- ACLK after which its last result is written -/
  endAt : Nat := 0
  /-- the collective instance that its drained rows feed (R297) -/
  feeds : Option (Nat × Nat) := none
  deriving DecidableEq, Repr

/-- One stationary register of a bed (R123). -/
structure StatReg where
  /-- SFMT of the loaded block; 0 nothing loaded -/
  sfmt : Nat := 0
  /-- handle entry of the block, as it resolved when its load issued -/
  src : Nat := 0
  /-- byte offset of the block in its handle -/
  off : Nat := 0
  /-- ACLK at which the load starts -/
  loadAt : Nat := 0
  bytes : List Byte := []
  /-- last injection slot of the last pass that named the register -/
  lastSlot : Nat := 0
  /-- a pass has used the register since its load -/
  used : Bool := false
  deriving DecidableEq, Repr

/-- A tile (R112, R136). -/
structure Tile where
  powered : Bool := false
  /-- bed mode: 0 one 64×64, 1 four 32×32, 2 sixteen 16×16 -/
  bedMode : Nat := 0
  os : Bool := false
  /-- stationary registers at bed × 2 + register -/
  stat : NMap StatReg := []
  /-- passes under way, in the order of issue -/
  passes : List LivePass := []
  /-- tag of the last pass of each bed -/
  tags : NMap Nat := []
  fg : Ctx := {}
  bg : Ctx := {}
  /-- time base since which the tile has been idle (R354) -/
  idleSince : Nat := 0
  /-- time base at which the foreground program became foreground (R304) -/
  fgSince : Nat := 0
  /-- quantum of the foreground program has expired (R304) -/
  quantumUp : Bool := false
  /-- banks owned by vector and DMA operations under way, and the ACLK until which they are (R114) -/
  busy : List (Nat × Nat) := []
  /-- SRAM lines to refetch after a stationary parity error (R135) -/
  refetch : List Nat := []
  /-- a HUSK whose predictor awaits its refetch (R157) -/
  huskWait : Option Issue := none
  /-- FREEZE is set (R135) -/
  freeze : Bool := false
  /-- a switch saves the foreground, for the program of a partition (R305) -/
  switchTo : Option Nat := none
  /-- the core is power-gated (R354) -/
  gated : Bool := false
  /-- contexts saved to job memory, by partition (R305) -/
  saved : NMap Ctx := []
  deriving DecidableEq, Repr


/-! ## Packets and the fabric -/

/-- A packet (R216): the fields of its routing header, its multicast mask, its transport header (data packets) and
its payload. -/
structure Pkt where
  dst : Nat := 0
  src : Nat := 0
  dstArb : Nat := 0
  srcArb : Nat := 0
  stamp : Nat := 0
  proto : Nat := 0
  hops : Nat := 0
  ohops : Nat := 0
  outer : Bool := false
  mcast : Bool := false
  dor : Bool := false
  /-- CLASS: a data packet -/
  data : Bool := false
  viaDev : Nat := 0
  via : Bool := false
  msgId : Nat := 0
  count : Nat := 1
  last : Bool := true
  /-- reserved header bits -/
  rsv : Nat := 0
  mask : Nat := 0
  thdr : Nat := 0
  body : List Byte := []
  deriving DecidableEq, Repr

/-- A link flit's header and payload words (R211, R212). -/
structure Flit where
  ftype : Nat := 0
  fseq : Nat := 0
  ack : Nat := 0
  start : Nat := 63
  fill : Nat := 0
  abort : Bool := false
  cvcA : Nat := 0
  credA : Nat := 0
  cvcB : Nat := 0
  credB : Nat := 0
  rsv : Bool := false
  words : List Byte := []
  deriving DecidableEq, Repr

/-- Link states (R214, R237). -/
inductive LState where
  | disabled | training | up | down | quarantined | miswired
  deriving DecidableEq, Repr

/-- A packet held in an input buffer until every copy of it is acknowledged or ejected (R219, R227). -/
structure Hold where
  id : Nat
  port : Nat
  vc : Nat
  units : Nat
  /-- copies not yet acknowledged -/
  left : Nat
  deriving DecidableEq, Repr

/-- A packet queued for a port or sent on it: the hold it belongs to (0: none), and the FSEQ of its last flit. -/
structure QPkt where
  pkt : Pkt
  hold : Nat
  lastSeq : Nat
  deriving DecidableEq, Repr

/-- A fabric port (R212 to R219). -/
structure Port where
  lstate : LState := .disabled
  /-- lanes whose polarity training found inverted, and whether the lanes are locked (PORT_LANE) -/
  pol : Nat := 0
  locked : Bool := false
  /-- FSEQ of the next sequenced flit -/
  txSeq : Nat := 0
  /-- retry buffer, oldest first -/
  retry : List Flit := []
  queue : List QPkt := []
  /-- sent packets whose flits are not all acknowledged -/
  sent : List QPkt := []
  /-- credits held per VC, credits owed to the peer per VC, credits advertised to the peer and not used by it per VC -/
  cred : List Nat := [0, 0, 0, 0, 0, 0, 0, 0]
  owed : List Nat := [0, 0, 0, 0, 0, 0, 0, 0]
  adv : List Nat := [0, 0, 0, 0, 0, 0, 0, 0]
  /-- packets received before the last training and not yet routed: their room is no longer owed -/
  stale : Nat := 0
  /-- ACK that the last flit sent has carried -/
  ackSent : Nat := 4095
  /-- FSEQ expected next -/
  rxSeq : Nat := 0
  /-- a replay is awaited, and when RETRY_REQ was last sent (time base) -/
  awaiting : Bool := false
  retryAt : Nat := 0
  /-- bytes of the packet in progress -/
  part : List Byte := []
  /-- RETRY_REQ received for one FSEQ without ACK progress -/
  reqSeq : Nat := 0
  reqCount : Nat := 0
  /-- violations in the running ms and its start -/
  viol : Nat := 0
  violSince : Nat := 0
  /-- time of the last flit of any type, of the entry to DOWN, and the retraining attempts since -/
  lastFlit : Nat := 0
  downAt : Nat := 0
  tries : Nat := 0
  deriving DecidableEq, Repr

/-- A congestion-map part awaiting its sibling at the collector (R232). -/
structure CmapPart where
  arb : Nat
  dev : Nat
  seq : Nat
  time : Nat
  part : Nat
  bytes : List Byte
  since : Nat
  deriving DecidableEq, Repr

/-- The router core and its ports (R210 to R237). -/
structure Fab where
  ports : NMap Port := []
  /-- packets that the device's units have handed to the router core -/
  inject : List Pkt := []
  /-- packets received whole on a port and not yet routed: port and packet -/
  arrived : List (Nat × Pkt) := []
  /-- packets ejected to this device's units -/
  ejected : List Pkt := []
  holds : List Hold := []
  nextHold : Nat := 1
  /-- flits sent: port and flit -/
  wire : List (Nat × Flit) := []
  /-- LINKSTATE notices applied at device × 32 + port: time base and state code (R233) -/
  links : NMap (Nat × Nat) := []
  /-- stamp table by job tag (R416) -/
  stamps : NMap Nat := []
  /-- outer table by Arbour id (R228) -/
  otab : NMap Nat := []
  /-- congestion-map samples of the running interval at port × 8 + VC: sum of bytes in use, and samples taken -/
  cmapSum : NMap Nat := []
  cmapN : Nat := 0
  /-- time base of the last sample -/
  cmapAt : Nat := 0
  /-- time base at the end of the last map's interval -/
  cmapEnd : Nat := 0
  cmapParts : List CmapPart := []
  /-- FAB_ARBOUR (bit 0) and FAB_MEMBERS (bit 1) have been written since reset (FAB_STATE.CONFIGURED) -/
  written : Nat := 0
  deriving DecidableEq, Repr

/-- A unit of data on its way to an arrival buffer (R21, R24). -/
structure Unit where
  tile : Nat
  /-- the context is the background one -/
  bg : Bool
  part : Nat
  /-- arrival buffer by handle; 0 when the unit only advances a counter -/
  handle : Nat
  ctr : Nat
  /-- byte offset in the buffer -/
  off : Nat
  data : List Byte
  /-- weight-class data is refetched, activations poison (R24) -/
  weight : Bool
  cause : Nat
  /-- the unit is a redelivery: the counter keeps its value (R335) -/
  again : Bool
  /-- D2D link whose die-edge buffer holds it; 3 for its own Granary -/
  link : Nat
  /-- the counter advances when the unit lands -/
  counts : Bool
  /-- SRAM address of the data where it is named by address and not by place in a buffer (R239) -/
  direct : Option Nat := none
  /-- response that leaves when the unit has landed (R239, R245) -/
  ack : Option Pkt := none
  /-- handle entry of the buffer where the instruction has resolved it (R295); none where `handle` names it -/
  entry : Option Nat := none
  /-- lines that have entered the mesh, and the ACLK in which the last of them has been written (R17, R474) -/
  entered : Nat := 0
  due : Nat := 0
  deriving DecidableEq, Repr

/-! ## Steps and partitions -/

/-- Where a step stands (R177, R301, R303, R333). -/
inductive StepPhase where
  | queued | admitted | running | halting | replayWait | restarting
  deriving DecidableEq, Repr

/-- A T0 entry of an admission set (R284). -/
structure T0Fill where
  addr : Nat
  len : Nat
  tile : Nat
  handle : Nat
  transpose : Bool
  esize : Nat
  line : Nat
  /-- sourced from host memory (R399) -/
  host : Bool
  done : Bool
  deriving DecidableEq, Repr

/-- A tile's program in an image (R283): its PBANK section and the handle table entries. -/
structure TileProg where
  tile : Nat
  bank : Nat
  bankSet : Nat
  entry : Nat
  code : Nat
  handles : NMap Nat
  retain : List Nat
  /-- offset and bytes of what is loaded into the program bank -/
  off : Nat
  len : Nat
  deriving DecidableEq, Repr

/-- A plan table entry (R285). -/
inductive PlanEnt where
  | migrate (step target grains addr : Nat)
  | handover (step tile banks commit : Nat)
  deriving DecidableEq, Repr

/-- A mesh transfer of a FRAME section (R474). -/
structure FrameEnt where
  die : Nat
  slot : Nat
  /-- 0 SEND, 1 GATE, 2 EDGE -/
  kind : Nat
  src : Nat
  dst : Nat
  deriving DecidableEq, Repr

/-- A registration of a BIND section: an expert slot (R91) or a message channel (R251). -/
structure BindEnt where
  isSlot : Bool
  slot : Nat
  tile : Nat
  ctr : Nat
  handle : Nat
  cap : Nat
  stride : Nat
  deriving DecidableEq, Repr

/-- A queued or admitted step (R23, R441). -/
structure Step where
  num : Nat := 0
  progId : Nat := 0
  /-- job address of the image -/
  image : Nat := 0
  imageBytes : Nat := 0
  check : Nat := 0
  seed : Nat := 0
  flags : Nat := 0
  energy : Nat := 0
  peak : Nat := 0
  ectVersion : Nat := 0
  layers : Nat := 0
  phase : StepPhase := .queued
  /-- mask of the tiles that run code -/
  tiles : Nat := 0
  /-- FLAGS.DET and FLAGS.DIGEST_EN are bits of `flags`; the parsed sections of the image -/
  progs : List TileProg := []
  t0 : List T0Fill := []
  streams : List (Nat × Nat) := []
  plan : List PlanEnt := []
  frame : List FrameEnt := []
  /-- Thresher tables: unit, ingress entries, return entries -/
  slots : List (Nat × List Nat × List Nat) := []
  binds : List BindEnt := []
  /-- ACLK since which the first three conditions of R177 hold -/
  condAt : Option Nat := none
  /-- rate r in µJ per window (R347) -/
  rate : Nat := 0
  /-- ACLK at which the step starts or restarts on its tiles (R301, R314, R333) -/
  startAt : Option Nat := none
  /-- frame boundary of a poison's halt in ACLK -/
  haltAt : Nat := 0
  /-- redelivery of landed units is done, or none was needed -/
  redelivered : Bool := true
  /-- SRAM addresses whose parity failed: tile and address -/
  damaged : List (Nat × Nat) := []
  /-- energy admission passed, and whether alone (R348, R349) -/
  energyOk : Bool := false
  soleAdmit : Bool := false
  staleEct : Bool := false
  /-- end of the load notice in time base, if one was given (R355) -/
  notice : Option Nat := none
  noticeDone : Bool := false
  queuedAt : Nat := 0
  queuedAclk : Nat := 0
  admittedAt : Nat := 0
  admitAclk : Nat := 0
  startAclk : Nat := 0
  /-- time of the poison's detection in ACLK -/
  poisonAclk : Nat := 0
  poisonCode : Nat := 0
  /-- replays of the layer in progress, and of the step -/
  layerReplays : Nat := 0
  replays : Nat := 0
  stops : Nat := 0
  stretch : Nat := 0
  layersDone : List Nat := []
  /-- the step has not met the conditions of R315 -/
  unclean : Bool := false
  tallyFirst : Nat := 0
  tallyCount : Nat := 0
  admitWait : List Nat := [0, 0, 0, 0, 0, 0, 0, 0, 0, 0, 0]
  stall : List Nat := [0, 0, 0, 0, 0, 0, 0, 0, 0, 0, 0]
  debited : Nat := 0
  /-- queue pair of its submission entry, and the entry's place in the order of fetching -/
  qp : Nat := 0
  ent : Nat := 0
  deriving DecidableEq, Repr

/-- State codes of a partition (R415). -/
inductive PartState where
  | free | configured | opened | stopped | faulted | closing
  deriving DecidableEq, Repr

/-- Where a stop of a partition stands (R131 to R133). -/
inductive StopPhase where
  | none | requested | stopping | stopped | resuming
  deriving DecidableEq, Repr

/-- A local partition (R413). -/
structure Part where
  state : PartState := .free
  tiles : Nat := 0
  frame0 : Nat := 0
  frame1 : Nat := 0
  eptBase : Nat := 0
  eptLen : Nat := 0
  senderTrusted : Bool := false
  thrBanks : Nat := 0
  thrSort : Bool := false
  thrStreams : Nat := 0
  thrTags : Nat := 0
  egress : Nat := 0
  tmapDir : Nat := 0
  saveBase : Nat := 0
  quota0 : Nat := 0
  quota1 : Nat := 0
  contexts : Nat := 0
  quantum : Nat := 0
  rank : Nat := 0
  staging : Nat := 0
  stamp : Nat := 0
  /-- steps queued or admitted, in submission order (R400) -/
  steps : List Step := []
  lastStep : Option Nat := none
  committed : Nat := 0
  firstError : Nat := 0
  decaySteps : Nat := 0
  /-- stop causes in force: command, Gatehouse hold, FREEZE of some tile, parity refetch -/
  stopCmd : Bool := false
  stopHold : Bool := false
  stopFreeze : Bool := false
  stopParity : Bool := false
  /-- stall cause of a stop that refetches a stationary line; 0 with none (R135) -/
  stopCause : Nat := 0
  stop : StopPhase := .none
  /-- frame boundary F of the stop in ACLK (R131) -/
  stopAt : Nat := 0
  /-- ACLK at which the resume was requested (R133) -/
  resumeReq : Option Nat := none
  /-- a partition reset awaits the next frame boundary (R369), with the code its steps end with -/
  resetPending : Option Nat := none
  /-- the reset leaves the partition OPEN (PART_RESET); otherwise it keeps its state -/
  resetOpens : Bool := false
  /-- first error codes raised and step records are kept by the Lodge -/
  poisons : Nat := 0
  /-- STAGING value that takes effect at the next boundary with no dispatch (R422) -/
  stagingNext : Option Nat := none
  contextsNext : Option Nat := none
  quantumNext : Option Nat := none
  rankNext : Option Nat := none
  /-- the last step number fetched in the partition (R400) -/
  lastNum : Option Nat := none
  /-- admission wait, stalls by cause and commits since the last Health Summary Record (R427), in ACLK and steps -/
  hsrAdmit : Nat := 0
  hsrCause : List Nat := [0, 0, 0, 0, 0, 0, 0, 0, 0, 0, 0]
  hsrCommits : Nat := 0
  deriving DecidableEq, Repr

/-! ## Granary -/

/-- A STORE whose completion is awaited (R170). -/
structure GStore where
  tile : Nat
  bg : Bool
  part : Nat
  ctr : Nat
  /-- mirror acknowledgements still to come -/
  acks : Nat
  tag : Nat
  /-- response of a home request that leaves with the last acknowledgement (R245) -/
  resp : Option Pkt := none
  /-- banks of the tile that the STORE reads, owned until it completes (R114) -/
  banks : Nat := 0
  /-- stall cause of its completion (R179) -/
  cause : Nat := 1
  deriving DecidableEq, Repr

/-- A lease of this device's partitions on a lender (R181). -/
structure Lease where
  part : Nat
  lender : Nat
  frame : Nat
  /-- page entry address that uses the frame, if any -/
  page : Option Nat
  lost : Bool
  recalled : Bool
  deriving DecidableEq, Repr

/-- A grain copy in progress (R174). -/
structure Copy where
  /-- T1 address of the page entry -/
  entry : Nat
  grain : Nat
  /-- state at completion -/
  target : Nat
  part : Nat
  die : Nat
  /-- job address of the page -/
  page : Nat
  /-- 0 plain, 1 for a HINT, 2 recovery after a lender loss -/
  kind : Nat := 0
  /-- step by which a HINT wants the grain -/
  step : Nat := 0
  /-- tag of the writes to the target's mirrors, and how many of them are not acknowledged -/
  tag : Nat := 0
  acks : Nat := 0
  /-- the lines have been written to the mirrors -/
  sent : Bool := false
  /-- writes to the source meanwhile: job addresses and bytes (R175) -/
  written : List (Nat × List Byte) := []
  deriving DecidableEq, Repr

/-- A T2 or remote-home request in flight (R182, R183). -/
structure T2Req where
  tag : Nat
  part : Nat
  lender : Nat
  entry : Nat
  grain : Nat
  /-- 0 read, 1 write -/
  kind : Nat
  addr : Nat
  die : Nat
  /-- tag of the STORE that a write belongs to; 0 for none -/
  store : Nat
  deriving DecidableEq, Repr

/-- An UNMAP that waits for its page's requests (R163). -/
structure PendUnmap where
  die : Nat
  part : Nat
  addr : Nat
  deriving DecidableEq, Repr

/-- The two Granaries (R158 to R192). -/
structure Grn where
  /-- live page entries held in the Tier Map buffers by entry address, where they differ from T1 (R164) -/
  live : NMap (List Byte) := []
  /-- Tier Map buffers: die and entry address, most recent first -/
  pageBuf : List (Nat × Nat) := []
  /-- directory buffers: die and directory entry address, most recent first -/
  dirBuf : List (Nat × Nat) := []
  reqs : List GReq := []
  stores : List GStore := []
  leases : List Lease := []
  copies : List Copy := []
  held : List Copy := []
  t2 : List T2Req := []
  unmaps : List PendUnmap := []
  /-- owner of a T1 frame (R331): partition × 4 + 3 a home page, 1 firmware, 2 lent, absent free -/
  owner : NMap Nat := []
  /-- job page address of an owned frame -/
  ownerPage : NMap Nat := []
  /-- frames lent: frame to borrower stamp (R181) -/
  lent : NMap Nat := []
  nextTag : Nat := 1
  /-- blocks that read responses have brought: lender, address, bytes -/
  t2buf : List (Nat × Nat × List Byte) := []
  /-- grains that became unreadable in a lender loss and are being recovered (R184) -/
  lostT2 : List (Nat × Nat) := []
  /-- lender and home devices declared lost (R183, R184) -/
  down : List Nat := []
  /-- by die: time base at which the recovery's next grain may move (GRN_RECOVER_RATE) -/
  recoverAt : NMap Nat := []
  /-- structure a reserved frame is assigned to (R331): 4 × partition a Tier Map, 1 the lease table, 2 the ATPT, 3 the
  congestion ring; absent unassigned -/
  assigned : NMap Nat := []
  deriving DecidableEq, Repr

/-- One memory channel's queue of demand corrections (R330) and scrub state. -/
structure Mch where
  queue : List Nat := []
  scrubPos : Nat := 0
  errSeen : Bool := false
  trained : Bool := false
  scrubbing : Bool := false
  disabled : Bool := false
  detSched : Bool := false
  deriving DecidableEq, Repr

/-! ## Host interface -/

/-- A completion waiting for CQ room (R401, R402). -/
structure Compl where
  cid : Nat
  status : Nat
  result0 : Nat
  result1 : Nat
  noint : Bool
  /-- SQ head after the entry -/
  head : Nat
  deriving DecidableEq, Repr

/-- A submission entry that has been fetched and not completed (R397, R398). -/
structure Entry where
  opc : Nat
  fence : Bool
  noint : Bool
  cid : Nat
  /-- operand bytes 8 to 63 -/
  body : List Byte
  /-- its operation has started -/
  started : Bool
  /-- place in the order of fetching, and the SQ head after the entry -/
  seq : Nat
  after : Nat
  /-- tag of the T2 writes that it waits for; 0 none -/
  tag : Nat := 0
  /-- error code noted for its completion; 0 none -/
  bad : Nat := 0
  deriving DecidableEq, Repr

/-- A queue pair (R395 to R403). -/
structure Qp where
  enabled : Bool := false
  /-- local index in the VF that the pair is assigned to (R410) -/
  vfIdx : Nat := 0
  draining : Bool := false
  quarantined : Bool := false
  sqBase : Nat := 0
  cqBase : Nat := 0
  cfg : Nat := 0x84
  coal : Nat := 0
  sqHead : Nat := 0
  sqTail : Nat := 0
  cqHead : Nat := 0
  cqTail : Nat := 0
  /-- PHASE of the present pass through the CQ -/
  phase : Bool := true
  held : List Compl := []
  entries : List Entry := []
  coalCount : Nat := 0
  coalFirst : Nat := 0
  /-- violations in the running ms and its start in time base (R407) -/
  viol : Nat := 0
  violSince : Nat := 0
  deriving DecidableEq, Repr

/-- A channel bound by RECV_BIND (R251, R398). -/
structure Bind where
  channel : Nat
  part : Nat
  /-- host binding: queue pair and slot ring; otherwise a tile binding -/
  host : Bool
  qp : Nat
  addr : Nat
  slotBytes : Nat
  slots : Nat
  next : Nat
  tile : Nat
  handle : Nat
  ctr : Nat
  bg : Bool
  unbinding : Bool
  /-- slots freed by discarded messages, taken first -/
  freed : List Nat
  deriving DecidableEq, Repr

/-- The host interface (R389 to R410). -/
structure HostIf where
  linkUp : Bool := false
  /-- negotiated width and speed of the link (HOST_LINK); 0 while it is down -/
  width : Nat := 0
  speed : Nat := 0
  numVfs : Nat := 0
  /-- functions in D3hot: PF 0, VF n -/
  d3 : List Nat := []
  perst : Bool := false
  qps : NMap Qp := []
  /-- MSI-X table: vector of function f at f × 256 + v: message address, data, masked -/
  msix : NMap (Nat × Nat × Bool) := []
  /-- pending bits -/
  pba : NMap Bool := []
  /-- MSI-X messages sent: function, vector, address, data -/
  sent : List (Nat × Nat × Nat × Nat) := []
  /-- mailbox request in progress -/
  mboxBusy : Bool := false
  hsrSeq : Nat := 0
  /-- totals at the previous Health Summary Record (R427) -/
  hsrPrev : List Nat := []
  /-- entries fetched so far -/
  fetchSeq : Nat := 0
  /-- bytes of the Health Summary Record -/
  hsr : List Byte := []
  binds : List Bind := []
  deriving DecidableEq, Repr

/-! ## Lodge -/

/-- An error log entry (R438). -/
structure LogEnt where
  time : Nat
  code : Nat
  btype : Nat
  inst : Nat
  part : Option Nat
  suppressed : Nat
  step : Nat
  info : Nat
  deriving DecidableEq, Repr

/-- The Lodge (R429 to R443). -/
structure Lodge where
  running : Bool := false
  /-- ring of 1,024 entries by index -/
  log : NMap (Option LogEnt) := []
  logHead : Nat := 0
  logWrapped : Bool := false
  /-- last entry of a (code, instance): time base and occurrences suppressed since -/
  last : List (Nat × Nat × Nat × Nat) := []
  /-- pending snapshot: T -/
  snapAt : Option Nat := none
  snapTag : Nat := 0
  snapTs : Nat := 0
  snapUnlocked : Bool := false
  /-- pages that entered reset since their last snapshot, and pages that show RESET_SINCE -/
  fresh : List Nat := []
  /-- end of the interrupt hold-off in time base, and whether a rise waits for it (R436) -/
  holdUntil : Nat := 0
  holdRise : Bool := false
  deriving DecidableEq, Repr

/-- An expert slot registration (R91). -/
structure SlotReg where
  part : Nat
  tile : Nat
  slot : Nat
  handle : Nat
  stride : Nat
  cap : Nat
  ctr : Nat
  deriving DecidableEq, Repr

/-! ## Thresher -/

/-- A token of a call whose chunks are arriving (R63). -/
structure ThrTok where
  pos : Nat
  /-- the chunk expected next -/
  next : Nat
  /-- FP32 codes of the scores received -/
  scores : List Nat
  deriving DecidableEq, Repr

/-- Up to four decisions of a token on their way to the egress buffer (R72, R73). -/
structure ThrOut where
  unit : Nat
  tile : Nat
  part : Nat
  tag : Nat
  /-- ACLK in which they are written -/
  at' : Nat
  recs : List Nat
  /-- the token's last decision is among them -/
  last : Bool
  deriving DecidableEq, Repr

/-- A Thresher call in progress (R61). -/
structure ThrCall where
  unit : Nat
  tile : Nat
  part : Nat
  tag : Nat
  /-- first 8 descriptor bytes -/
  desc : Nat
  op : Nat
  gate : Nat
  fmt : Nat
  k : Nat
  biasEn : Bool
  bank : Nat
  gscore : Bool
  nExp : Nat
  eptBase : Nat
  nGroups : Nat
  topGroups : Nat
  ctx : Nat
  scale : Nat
  n : Nat
  tokenBase : Nat
  /-- handle entry of the destination -/
  dst : Nat
  /-- banks of the source and the destination, owned until the call completes (R114) -/
  banks : Nat
  /-- handle entry of the source, and its bytes -/
  src : Nat := 0
  srcLen : Nat := 0
  /-- ACLK of the issue, and the first in which a source transfer may arrive -/
  issueAt : Nat := 0
  srcAt : Nat := 0
  /-- source transfers that have arrived (R62, R473) -/
  sent : Nat := 0
  /-- keys of 64 bits, and deduplication (R77, R78) -/
  key64 : Bool := false
  dedup : Bool := false
  /-- ACLK after which a call with no output is no longer in progress -/
  endAt : Nat
  toks : List ThrTok
  /-- positions whose last chunk has arrived -/
  done : List Nat
  /-- tokens whose decisions have left -/
  left : Nat
  /-- output still to return, and where it lands (R473) -/
  ret : List Byte
  retOff : Nat
  /-- ACLK in which the last return transfer is ready -/
  retReady : Nat
  deriving DecidableEq, Repr

/-- An open stream context (R80). -/
structure Stream where
  part : Nat
  /-- the tile that opened it (R116) -/
  tile : Nat
  k : Nat
  nextId : Nat
  /-- ids and FP32 scores in rank order -/
  ents : List (Nat × Nat)
  deriving DecidableEq, Repr

/-- A decision record in an egress buffer (R71, R75). -/
structure Egr where
  die : Nat
  part : Nat
  record : Nat
  deriving DecidableEq, Repr

/-- The eight Threshers and the two egress buffers (R60 to R82). -/
structure Thr where
  calls : List ThrCall := []
  outs : List ThrOut := []
  /-- egress buffers, oldest record first -/
  egress : List Egr := []
  /-- ingress and return tables at unit × 64 + slot: a quadrant tile number, 15 for an empty slot (R62) -/
  ingress : NMap Nat := []
  return' : NMap Nat := []
  /-- bias banks at (unit × 2 + bank) × 16384 + entry: FP32 codes -/
  bias : NMap Nat := []
  /-- banks marked invalid, at unit × 2 + bank -/
  badBank : NMap Bool := []
  /-- open contexts at unit × 4 + context -/
  streams : NMap Stream := []
  /-- units whose ingress slot carried a transfer in this ACLK, and whose return slot did -/
  slotUsed : List Nat := []
  retUsed : List Nat := []
  /-- ACLK from which the gate stage and the second stage of a unit take a token (R74) -/
  gateFree : NMap Nat := []
  stageFree : NMap Nat := []
  deriving DecidableEq, Repr

/-! ## Memory semantics and messages -/

/-- Who issues a request (R253): a tile context, the Granary of a compute die, or the Lodge. -/
inductive Issuer where
  | tile (t : Nat) (bg : Bool)
  | granary (die : Nat)
  | lodge
  deriving DecidableEq, Repr

/-- What a request's reply or acknowledgement does at its issuer. -/
structure Reply where
  /-- the operation it belongs to (R295, R296): 0 none -/
  group : Nat := 0
  /-- handle entry and byte offset of returned data; entry 0 writes none -/
  handle : Nat := 0
  off : Nat := 0
  deriving DecidableEq, Repr

/-- An issued request or message, neither answered nor failed (R247, R250). -/
structure Req where
  arb : Nat
  dev : Nat
  id : Nat
  proto : Nat
  part : Nat
  stamp : Nat
  issuer : Issuer
  /-- it counts toward fences (R253) -/
  counted : Bool
  pkts : List Pkt
  sentAt : Nat
  tries : Nat
  reply : Reply
  /-- combined requests that it answers: their issuers and replies (R254) -/
  members : List (Issuer × Reply)
  /-- the members that a multicast message is for; 0 for a single destination (R252) -/
  mask : Nat := 0
  deriving DecidableEq, Repr

/-- An RMEM or MSGS operation in progress: its tile, counter, and answers still to come (R295, R296). -/
structure Group where
  id : Nat
  tile : Nat
  bg : Bool
  part : Nat
  ctr : Nat
  left : Nat
  deriving DecidableEq, Repr

/-- A pending fence (R253). -/
structure Fence where
  tile : Nat
  bg : Bool
  part : Nat
  ctr : Nat
  deriving DecidableEq, Repr

/-- The sequence window of a source (R248). -/
structure SeqWindow where
  arb : Nat
  dev : Nat
  high : Nat
  /-- marked ids with the stored response: header and up to 16 bytes -/
  marks : List (Nat × Nat × List Byte)
  lastUse : Nat
  deriving DecidableEq, Repr

/-- A message being received (R252). -/
structure InMsg where
  arb : Nat
  dev : Nat
  id : Nat
  part : Nat
  channel : Nat
  /-- slot index of the channel's ring -/
  slot : Nat
  len : Nat
  count : Nat
  got : List Nat
  /-- payload received: offset and bytes -/
  data : List (Nat × List Byte)
  since : Nat
  deriving DecidableEq, Repr

/-- A combining entry of the issuing router (R254). -/
structure Comb where
  dev : Nat
  line : Nat
  ty : Nat
  stamp : Nat
  part : Nat
  /-- operand bytes by offset in the line -/
  vals : NMap Byte
  members : List (Issuer × Reply)
  merged : Nat
  /-- FCLK in which it opened -/
  since : Nat
  deriving DecidableEq, Repr

/-- The atomic home, its issuers and its windows (R238 to R256). -/
structure Atom where
  /-- next message id at Arbour × 64 + device (R247) -/
  nextId : NMap Nat := []
  out : List Req := []
  /-- requests that wait for room toward their destination -/
  held : List Req := []
  groups : List Group := []
  nextGroup : Nat := 1
  fences : List Fence := []
  windows : List SeqWindow := []
  inMsgs : List InMsg := []
  combs : List Comb := []
  /-- last forwarding of an eligible ADD: device, line, type, stamp, FCLK -/
  fwd : List (Nat × Nat × Nat × Nat × Nat) := []
  /-- Outbound Range Table -/
  ort : NMap Nat := []
  /-- ATPT entries buffered, most recent first: leaf and directory entry addresses (R241) -/
  leafBuf : List Nat := []
  dirBuf : List Nat := []
  deriving DecidableEq, Repr

/-! ## Sheaf engine and pool units -/

/-- A (token, expert) pair of an origin (R92, R98). -/
structure Pair where
  token : Nat
  expert : Nat
  rank : Nat
  gate : Nat
  rep : Nat
  dev : Nat
  /-- 0 round A, 1 round B -/
  round : Nat
  /-- 0 asked, 1 granted, 2 not granted, 3 not hosted -/
  st : Nat
  row : Nat
  sent : Bool
  /-- return segments received: offset and bytes -/
  got : List (Nat × List Byte)
  back : Bool
  deriving DecidableEq, Repr

/-- A staged token (R107, R297). -/
structure Staged where
  /-- low 16 bits of its TOKEN index -/
  tok : Nat
  tile : Nat
  row : Nat
  bytes : List Byte
  kib : Nat
  /-- its staging room has been returned -/
  freed : Bool
  /-- its room is to be returned once the spill region has room (R108) -/
  due : Bool
  /-- its combined vector has been written -/
  done : Bool
  deriving DecidableEq, Repr

/-- A token being combined (R104): the FP32 accumulator, and the products held in DET_MODE by rank. -/
structure Accum where
  token : Nat
  vals : List Nat
  held : List (Nat × List Nat)
  ranks : List Nat
  deriving DecidableEq, Repr

/-- A range of rows granted to an origin (R97). -/
structure Grant where
  arb : Nat
  dev : Nat
  base : Nat
  n : Nat
  deriving DecidableEq, Repr

/-- A row being received (R102). -/
structure ShRow where
  row : Nat
  token : Nat
  rank : Nat
  tlen : Nat
  /-- byte ranges received: offset and length -/
  got : List (Nat × Nat)
  full : Bool
  deriving DecidableEq, Repr

/-- An expert replica that a destination hosts in an instance (R91, R97). -/
structure Hosted where
  expert : Nat
  rep : Nat
  tile : Nat
  slot : Nat
  handle : Nat
  stride : Nat
  cap : Nat
  ctr : Nat
  /-- rows granted, pairs requested, pairs requested in round B -/
  used : Nat
  asked : Nat
  rerouted : Nat
  grants : List Grant
  rows : List ShRow
  manifest : Bool
  returned : Bool
  deriving DecidableEq, Repr

/-- What a member knows of another (R95 to R99). -/
structure ShPeer where
  arb : Nat
  dev : Nat
  /-- control packets sent to it -/
  sentNo : Nat
  /-- window of its control packets: highest number, marked numbers -/
  high : Nat
  marks : List Nat
  /-- COUNT_A, COUNT_B, GRANT_A and GRANT_B FINAL received from it -/
  finA : Bool
  finB : Bool
  gfinA : Bool
  gfinB : Bool
  /-- GRANT_A and GRANT_B FINAL sent to it -/
  gsA : Bool
  gsB : Bool
  deriving DecidableEq, Repr

/-- Count records held in DET_MODE, or waiting for a context (R94, R97). -/
structure CountRec where
  arb : Nat
  dev : Nat
  expert : Nat
  rep : Nat
  n : Nat
  round : Nat
  deriving DecidableEq, Repr

/-- A flow context by its instance and its end: outbound or inbound, device, expert and replica (R93). -/
structure CtxId where
  part : Nat
  comm : Nat
  seq : Nat
  inbound : Bool
  arb : Nat
  dev : Nat
  expert : Nat
  rep : Nat
  deriving DecidableEq, Repr

/-- A tile that takes part in an instance: its combine or destination handle entry and counter (R297). -/
structure ShTile where
  tile : Nat
  handle : Nat
  ctr : Nat
  staged : Nat
  deriving DecidableEq, Repr

/-- A window of an EMBAG or ROWUPD request area (R195). -/
structure PoolWin where
  owner : Nat
  bags : Nat
  first : Nat
  /-- the row list that goes to the owner -/
  list : List Byte
  /-- the owner's grant is in, and the list has left -/
  granted : Bool
  sent : Bool
  /-- every contribution has been applied at the owner (ROWUPD) -/
  done : Bool
  deriving DecidableEq, Repr

/-- A window granted at its owner (R198, R199). -/
structure OwnWin where
  arb : Nat
  dev : Nat
  idx : Nat
  bags : Nat
  first : Nat
  bytes : Nat
  /-- rows readable in this device's T1, pooled for its own instance (R197) -/
  here : Bool
  /-- slots are held -/
  granted : Bool
  /-- the pieces of the row list received, and whether it is whole -/
  rx : List (Nat × List Byte)
  ready : Bool
  /-- row entries still to read: address, references as (bag, weight), and gradient bytes for ROWUPD -/
  rows : List (Nat × List (Nat × Nat) × List Byte)
  /-- places in the orders in which counts arrived, windows were granted, and lists became whole -/
  order : Nat
  grantNo : Nat
  readyNo : Nat
  /-- channel of the row read last in DET_MODE; 128 before the first (R202) -/
  chan : Nat
  /-- pooled slots at die × 4096 + bag: FP32 codes; unlisted slots are empty -/
  slots : NMap (List Nat)
  deriving DecidableEq, Repr

/-- A bag at its requester (R201): FP32 values merged so far, held partials, partials still to come. -/
structure BagAcc where
  bag : Nat
  /-- pieces of partials: window, offset and bytes, and windows whose partials are whole -/
  rx : List (Nat × Nat × List Byte)
  from' : List Nat
  acc : List Nat
  empty : Bool
  held : List (List Nat)
  left : Nat
  remote : Nat
  done : Bool
  deriving DecidableEq, Repr

/-- A dispatch, EMBAG or ROWUPD instance in progress (R84, R194, R204). -/
structure ShInst where
  /-- 0 dispatch, 1 EMBAG, 2 ROWUPD -/
  kind : Nat := 0
  comm : Nat := 0
  seq : Nat := 0
  part : Nat := 0
  step : Nat := 0
  kUse : Nat := 0
  kSel : Nat := 0
  reroute : Bool := false
  renorm : Bool := false
  tokenFmt : Nat := 0
  retFmt : Nat := 0
  width : Nat := 0
  nTokens : Nat := 0
  seed : Nat := 0
  accepting : Bool := false
  lasts : Nat := 0
  tiles : List ShTile := []
  peers : List ShPeer := []
  /-- decision table (R86) -/
  decisions : List Nat := []
  pairs : List Pair := []
  /-- coalescing count records: destination device, ACLK of opening, records (R96) -/
  coalesce : List (Nat × Nat × List (Nat × Nat × Nat)) := []
  staged : List Staged := []
  accums : List Accum := []
  zeroed : List Nat := []
  counts : List CountRec := []
  heldB : List Pkt := []
  hosted : List Hosted := []
  /-- COUNT_A and COUNT_B FINAL sent to every member -/
  finASent : Bool := false
  finBSent : Bool := false
  /-- round B has begun at this origin (R99) -/
  bBegun : Bool := false
  roundADone : Bool := false
  roundBDone : Bool := false
  /-- grants of every member are in (R98, R99) -/
  closed : Bool := false
  dropped : Nat := 0
  /-- time of the last progress in time base (R277) -/
  prog : Nat := 0
  /-- EMBAG: MODE, LOCAL_EN, ROW_FMT, ROW_VALUES, RET_FMT (retFmt), OUT_FMT, HOT_AT; ROWUPD: OP, STOCH, GRAD_FMT, ALPHA,
  BETA -/
  mode : Nat := 0
  localEn : Bool := false
  rowFmt : Nat := 0
  rowValues : Nat := 0
  outFmt : Nat := 0
  hotAt : Nat := 0
  stoch : Bool := false
  gradFmt : Nat := 0
  alpha : Nat := 0
  beta : Nat := 0
  nBags : Nat := 0
  lengths : List Nat := []
  wins : List PoolWin := []
  ownWins : List OwnWin := []
  bags : List BagAcc := []
  /-- members whose counts are all in -/
  counted : List (Nat × Nat) := []
  /-- the instance's combine handle and counter at the tile that issued it -/
  tile : Nat := 0
  handle : Nat := 0
  ctr : Nat := 0
  ended : Bool := false
  /-- rows already updated once in the instance -/
  touched : List Nat := []
  deriving DecidableEq, Repr

/-- A payload held for an instance not issued yet (R475). -/
structure HeldPkt where
  pkt : Pkt
  since : Nat
  deriving DecidableEq, Repr

/-- A DSEND transfer held for staging room (R107). -/
structure HeldStage where
  comm : Nat
  seq : Nat
  tile : Nat
  tok : Nat
  bytes : List Byte
  deriving DecidableEq, Repr

/-- What waits for a flow context that is not resident (R94). -/
inductive CtxWork where
  /-- the context alone: data of the sheaf can be sent once it is back -/
  | none
  /-- a pair to be binned -/
  | pair (p : Pair)
  /-- an inbound count record -/
  | count (c : CountRec)
  /-- an inbound grant record: its sender's device, round and bits -/
  | grant (dev round bits : Nat)
  /-- a segment of a DATA or RETURN packet: header and bytes -/
  | seg (p : Pkt) (h : Nat) (bytes : List Byte)
  /-- RETURN packets of a sheaf -/
  | pkts (ps : List Pkt)
  deriving DecidableEq, Repr

/-- A flow context being fetched with the record that waits for it (R94). -/
structure CtxFetch where
  ctx : CtxId
  work : CtxWork
  /-- ACLK at which its read left; none while 64 reads are outstanding -/
  since : Option Nat
  deriving DecidableEq, Repr

/-- Items of an instance spilled together to whole 64 KiB blocks (R108). -/
structure SpillGroup where
  comm : Nat
  seq : Nat
  /-- tokens whose staged copies it holds, and tokens whose accumulators and held returns it holds -/
  staged : List Nat
  accums : List Nat
  bytes : Nat
  /-- the blocks of the spill region that it takes -/
  blocks : List Nat
  /-- its read-back has been asked for -/
  wanted : Bool
  deriving DecidableEq, Repr

/-- The Sheaf engine (R84 to R111). -/
structure Sheaf where
  insts : List ShInst := []
  /-- slot registrations (R91) -/
  slots : List SlotReg := []
  /-- EPT at bank × 65536 + index: 128-bit entries -/
  ept : NMap Nat := []
  /-- entries that failed parity and read invalid until rewritten -/
  eptBad : NMap Bool := []
  held : List HeldPkt := []
  stageQ : List HeldStage := []
  /-- number given to the next window counted, granted or made whole (R198) -/
  winNo : Nat := 0
  /-- resident flow contexts, most recent first; contexts that exist -/
  resident : List CtxId := []
  ctxs : List CtxId := []
  fetches : List CtxFetch := []
  /-- what is spilled, oldest first (R108) -/
  spills : List SpillGroup := []
  /-- range into which an indexed entry is partly written: DATA0 to 2 written and DATA3 not (R90) -/
  eptPart : Option Nat := none
  /-- a bulk EPT copy is in progress (R90): range, next index, entries left, job address -/
  load : Option (Nat × Nat × Nat × Nat) := none
  deriving DecidableEq, Repr

/-! ## Pavilion -/

/-- One transfer of a step: the other end, the chunk index, the element range, the carrier (R262 CFMT), and whether the
data replace or reduce what the receiver holds, and whether they are final (R268). -/
structure PavMove where
  arb : Nat
  dev : Nat
  chunk : Nat
  lo : Nat
  hi : Nat
  cfmt : Nat
  place : Bool
  fin : Bool
  deriving DecidableEq, Repr

/-- One step of an algorithm at a member (R267, R271): what it multicasts or sends, what it receives, and the ranges that
it brings to their final format once the step is complete. -/
structure PavStep where
  no : Nat := 0
  mcast : Bool := false
  sends : List PavMove := []
  recvs : List PavMove := []
  conv : List (Nat × Nat) := []
  /-- receivers announce their room by READY (R267) -/
  ready : Bool := true
  deriving DecidableEq, Repr

/-- A receipt of the running step: the move, whether READY has left, and the verified elements with their order. -/
structure PavWait where
  mv : PavMove
  told : Bool
  got : Option (Nat × List Nat)
  deriving DecidableEq, Repr

/-- A run of steps, one after another: an endpoint algorithm, or one chunk of a tree (R271, R273). -/
structure PavTrack where
  tree : Bool
  /-- chunk of a tree track; 0 for an endpoint track -/
  chunk : Nat
  steps : List PavStep
  started : Bool := false
  waits : List PavWait := []
  /-- sends of the running step whose contribution is still to drain (R297) -/
  todo : List PavMove := []
  deriving DecidableEq, Repr

/-- A chunk sent, with the receivers that have not acknowledged it and their resends, and those that have (R265). -/
structure PavOut where
  step : Nat
  tree : Bool
  chunk : Nat
  cfmt : Nat
  bytes : List Byte
  mcast : Bool
  dests : List (Nat × Nat × Nat)
  done : List (Nat × Nat)
  /-- READY is needed before the chunk is sent -/
  need : Bool
  sent : Bool
  sentAt : Nat
  deriving DecidableEq, Repr

/-- A chunk being received (R262). -/
structure PavIn where
  arb : Nat
  dev : Nat
  comm : Nat
  seq : Nat
  step : Nat
  chunk : Nat
  count : Nat
  crc : Nat
  cfmt : Nat
  got : List (Nat × List Byte)
  since : Nat
  deriving DecidableEq, Repr

/-- A tile's piece of an instance: its source bytes, destination handle and counter (R260, R297). -/
structure PavPiece where
  tile : Nat
  src : List Byte
  /-- bytes that its pass has still to drain (R297) -/
  due : Nat := 0
  handle : Nat
  cap : Nat
  ctr : Nat
  /-- banks of the source, owned until the instance completes (R260) -/
  banks : Nat := 0
  deriving DecidableEq, Repr

/-- A control request that awaits its answer: the device, when it was last sent, and the resends (R273, R274). -/
structure PavAsk where
  dev : Nat
  sentAt : Nat
  tries : Nat
  deriving DecidableEq, Repr

/-- A general collective instance (R259, R260). -/
structure PavInst where
  comm : Nat := 0
  seq : Nat := 0
  part : Nat := 0
  step : Nat := 0
  op : Nat := 0
  red : Nat := 0
  ety : Nat := 0
  len : Nat := 0
  root : Nat := 0
  noTree : Bool := false
  dchk : Nat := 0
  /-- the communicator entry at issue and its Arbours in order -/
  entry : Nat := 0
  arbs : List Nat := []
  det : Bool := false
  pieces : List PavPiece := []
  /-- the whole contribution is named, and the instance has begun -/
  begun : Bool := false
  /-- the max round of R55 is running -/
  maxRound : Bool := false
  exps : List Int := []
  /-- codes of the contribution, elements as the round began, and elements now -/
  codes : List Nat := []
  src : List Nat := []
  vals : List Nat := []
  /-- tree-eligible (R266), the algorithm decided (0 tree, 1 to 3 endpoint), its first chunk and the round it counts in -/
  eligible : Bool := false
  alg : Option Nat := none
  fromChunk : Nat := 0
  decRound : Nat := 0
  reserves : List PavAsk := []
  decides : List PavAsk := []
  /-- the tracks of the round are set -/
  live : Bool := false
  tracks : List PavTrack := []
  /-- chunks of the tree not yet begun -/
  later : List PavTrack := []
  outs : List PavOut := []
  /-- READY received: Arbour, device, step, first and last chunk -/
  readys : List (Nat × Nat × Nat × Nat × Nat) := []
  /-- READY and COUNT sent and not answered: packet and time of sending -/
  asks : List (Pkt × Nat) := []
  /-- acknowledged receipts: Arbour, device, step, chunk -/
  acked : List (Nat × Nat × Nat × Nat) := []
  /-- receipts verified so far -/
  verified : Nat := 0
  /-- ALLTOALLV: bytes to send by rank, bytes to come by rank -/
  sizes : List Nat := []
  /-- tile and SRAM address of the send-count table -/
  table : Nat × Nat := (0, 0)
  counts : List (Nat × Nat) := []
  /-- ranges that are final, and result chunks still to be written: index and range -/
  fin : List (Nat × Nat) := []
  result : List (Nat × Nat × Nat) := []
  usedTree : Bool := false
  usedEnd : Bool := false
  /-- last progress in time base (R277) -/
  prog : Nat := 0
  deriving DecidableEq, Repr

/-- Slots that a reduction point holds for an instance (R273). -/
structure PavSlots where
  comm : Nat
  seq : Nat
  n : Nat
  dchk : Nat
  since : Nat
  deriving DecidableEq, Repr

/-- The Pavilion (R257 to R280). -/
structure Pav where
  /-- communicator table: 512-bit entries by id -/
  comms : NMap Nat := []
  insts : List PavInst := []
  slots : List PavSlots := []
  /-- early table: READY, DECIDE and COUNT packets of instances not yet issued (R267) -/
  early : List Pkt := []
  ins : List PavIn := []
  /-- names completed here, most recent first (R265: their chunks are acknowledged again) -/
  past : List (Nat × Nat) := []
  deriving DecidableEq, Repr

/-! ## Power, clocks, reset and the module -/

/-- The Gatehouse (R341 to R359). -/
structure Gate where
  /-- stretch asked for by the energy, current and thermal controllers -/
  kE : Nat := 0
  kI : Nat := 0
  kT : Nat := 0
  hold : Bool := false
  /-- true-up factor u in units of 1/256 -/
  u : Nat := 256
  /-- debt D in µJ -/
  debt : Nat := 0
  /-- module energy of the running window, in pJ (µW × µs) -/
  eUsed : Nat := 0
  /-- VIN power (µW), current (mA) and voltage (mV) of the latest sample -/
  lastP : Nat := 0
  lastI : Nat := 0
  lastV : Nat := 0
  /-- evaluations in a row with k = 56 and the projection, or the current, beyond its limit (R356) -/
  overE : Nat := 0
  overI : Nat := 0
  /-- pace table, most recently used first: PROG_ID and ACLK count (R347) -/
  pace : List (Nat × Nat) := []
  /-- steps that ended in the running window: rate, and TCLK of the window in which they were admitted (R350) -/
  ended : List (Nat × Nat) := []
  /-- adopted and measured coefficients (R344, R345), FP32 codes -/
  ect : List Nat := []
  meas : List Nat := []
  version : Nat := 0
  /-- time base of the last evaluation, window end, and thermal action -/
  evalAt : Option Nat := none
  winAt : Option Nat := none
  deriving DecidableEq, Repr

/-- The Belvedere units (R341, R357, R360). -/
structure Belv where
  /-- consecutive samples outside the window at unit × 4 + rail -/
  out : NMap Nat := []
  /-- consecutive samples at 110 °C or more at unit × 16 + sensor -/
  hot : NMap Nat := []
  /-- energy below 1 µJ not yet counted, in pJ, by unit -/
  rest : NMap Nat := []
  /-- time base of the last valid sensor reading of a die, by unit -/
  validAt : NMap Nat := []
  heavy : Bool := false
  deriving DecidableEq, Repr

/-- The fuses (R375, R381, R384, R341). -/
structure Fuse where
  grade : Grade := .h
  /-- the two copies of every field agree (R386) -/
  agree : Bool := true
  /-- units marked bad: 128 physical tiles, 128 channels, 32 ports, 8 Threshers, 3 die-to-die links -/
  badTiles : Nat := 0
  badChans : Nat := 0
  badPorts : Nat := 0
  badThr : Nat := 0
  badD2d : Nat := 0
  keyHash : List Nat := [0, 0, 0, 0]
  keyPresent : Nat := 0
  keyRevoked : Nat := 0
  svnFloor : Nat := 0
  seed : List Byte := []
  /-- regulator setpoints from the trims at unit × 4 + rail: light load and heavy load, mV -/
  set : NMap (Nat × Nat) := [(0, (750, 800)), (1, (825, 825)), (2, (775, 775)), (4, (750, 800)), (5, (825, 825)),
    (6, (775, 775)), (8, (750, 800)), (9, (875, 875)), (13, (1025, 1025)), (14, (500, 500)), (15, (3300, 3300))]
  deriving DecidableEq, Repr

/-- Bring-up states (R371). -/
inductive BootState where
  | fuses | selftest | training | waitImage | verifying | powerup | kat | reconcile | ready | fuseFault | deviceFault
  deriving DecidableEq, Repr

/-- Boot, fuses' results and reconciliation (R371 to R387). -/
structure Boot where
  state : BootState := .fuses
  /-- LOAD, BROADCAST or ATTEST in progress: 1, 2, 3; 0 none -/
  busy : Nat := 0
  incomplete : Bool := false
  trained : Bool := false
  imgValid : Bool := false
  /-- received payloads of an image being loaded: offset and bytes; its length; time of the last packet -/
  rx : List (Nat × List Byte) := []
  rxLen : Nat := 0
  rxAt : Option Nat := none
  /-- the verified image, its key index and SVN -/
  image : List Byte := []
  keyIndex : Nat := 0xFF
  svn : Nat := 0
  round : Nat := 0
  waves : Nat := 0
  /-- T1 of every good channel is initialised -/
  t1Ready : Bool := false
  /-- units found bad by checkers, training or known-answer runs -/
  testTiles : Nat := 0
  testChans : Nat := 0
  testPorts : Nat := 0
  testThr : Nat := 0
  testD2d : Nat := 0
  /-- core units found bad: Sheaf, Pavilion, Gatehouse, Lodge, atomic home -/
  testCore : Nat := 0
  /-- the logical map: physical tile 64 × die + p of each logical tile; 128 absent (R382) -/
  map : List Nat := []
  cls : Nat := 0
  /-- compute dies in reset: bits 0 and 1 -/
  dieReset : Nat := 0
  /-- ports that are bad after reconciliation -/
  badPorts : Nat := 0
  deriving DecidableEq, Repr

/-- The time base's alignment (R364 to R367). -/
structure Tb where
  good : Nat := 0
  locked : Bool := false
  deep : Bool := false
  /-- rate in ppb -/
  rate : Int := 0
  /-- slewing in ppb over the TCLK that are left -/
  slew : Int := 0
  slewLeft : Nat := 0
  /-- periods without a valid exchange -/
  missed : Nat := 0
  seq : Nat := 0
  /-- the open request: SEQ and its sending stamp -/
  req : Option (Nat × Nat) := none
  /-- time base of the last request -/
  reqAt : Nat := 0
  parent : Option Nat := none
  port : Nat := 0
  depth : Nat := 7
  /-- DEPTH last heard from a device; 0xFF not locked -/
  heard : NMap Nat := []
  deriving DecidableEq, Repr

/-- DET_MODE (R310, R453). -/
structure Det where
  active : Bool := false
  /-- a write that has not taken effect, and the root cycle of the write -/
  pending : Option (Bool × Nat) := none
  deriving DecidableEq, Repr

/-- A die-to-die link (R324, R454 to R456). -/
structure D2d where
  /-- 0 DOWN, 1 TRAINING, 2 UP, 3 RETRAINING, 4 FAILED -/
  lstate : Nat := 0
  /-- FSEQ expected next from end A and from end B -/
  seqA : Nat := 0
  seqB : Nat := 0
  /-- failed replays in a row of the expected flit, from end A and from end B -/
  failA : Nat := 0
  failB : Nat := 0
  /-- credits that the flits accepted from end A and from end B have returned, per VC (R18, R212) -/
  credA : List Nat := [0, 0, 0, 0, 0, 0, 0, 0]
  credB : List Nat := [0, 0, 0, 0, 0, 0, 0, 0]
  deriving DecidableEq, Repr

/-- The module's supervisor and pins (R459 to R469). -/
structure Module where
  /-- VIN lies above the turn-on threshold -/
  vin : Bool := false
  /-- stages of the rail sequence that have settled, 0 to 8; none while the regulators are off -/
  rails : Option Nat := none
  powerGood : Bool := false
  latch : Bool := false
  /-- module position straps -/
  pos : Nat := 0
  deriving DecidableEq, Repr

/-! ## The machine -/

/-- The state of the device. -/
structure State where
  /-- commands that wait, first in first out -/
  pending : List Instr := []
  clk : Clk := {}
  regs : Regs := {}
  mem : Mem := {}
  tiles : NMap Tile := []
  parts : NMap Part := []
  /-- units at the die edge, and in the mesh, oldest first (R21, R24) -/
  edge : List Unit := []
  mesh : List Unit := []
  /-- units that wait at their source for room in a die-edge ingress buffer, oldest first (R24, R28) -/
  backlog : List Unit := []
  /-- tiles whose gate slot of this ACLK has carried a line (R17) -/
  gateUsed : List Nat := []
  /-- units delivered since their partition's last layer commit, kept for redelivery (R335) -/
  kept : List Unit := []
  grn : Grn := {}
  mch : NMap Mch := []
  host : HostIf := {}
  lodge : Lodge := {}
  fab : Fab := {}
  thr : Thr := {}
  sheaf : Sheaf := {}
  pav : Pav := {}
  atom : Atom := {}
  gate : Gate := {}
  belv : Belv := {}
  fuse : Fuse := {}
  boot : Boot := {}
  tb : Tb := {}
  det : Det := {}
  d2d : NMap D2d := []
  mod : Module := {}
  /-- the next free value (DESIGN CHOICE: the model's own counter) -/
  freeIdx : Nat := 0
  /-- result of the last read command: register reads and BAR2 reads answer here -/
  rdata : List Byte := []
  deriving DecidableEq, Repr

/-- Reasons for which a command stops the model. -/
inductive Fault where
  /-- Raised by a memory access whose T1 address lies beyond the device's 786,432 frames (R158). Safe: the manual gives
  such an address no meaning. -/
  | t1Address (a : Nat)
  deriving DecidableEq, Repr

/-- Reasons for which the model refuses a command. -/
inductive Refusal where
  /-- Raised by an arm of exec whose command has no meaning yet. Safe. -/
  | notModelled (mnemonic : String)
  deriving DecidableEq, Repr

/-- The outcome of a command. -/
abbrev Out : Type := Host.Outcome State Fault Refusal

/-- The device at power-on, before VIN is applied (R368, module domain): every field at its reset value. -/
def State.reset : State := {}

end Sys2Proof.Machine
end

