-- ==== Sys2Proof/Machine/Ops.lean ====
section
/-!
DEFINITION. The named operations wrap registers, counters, events, errors and memories that every command shares.
A block has no exception entry: an error is recorded by `err` (R437, R438) and an event by `evt` (R435).
-/

namespace Sys2Proof.Machine

open Sys2Proof Sys2Proof.Config

/-- The outcome of a command: its effect where it is enabled, and nothing but the command's removal otherwise. -/
def whenOk (ok : Bool) (s t : State) : Out := .next (if ok then t else s)

/-! ## Registers and counters -/

/-- A register's stored value; an unlisted register holds its reset value (R446). -/
def getReg (s : State) (a : Nat) : Word := NMap.get regReset s.regs.val a

/-- The stored value as a number. -/
def regN (s : State) (a : Nat) : Nat := (getReg s a).toNat

/-- A register given a value. -/
def setReg (s : State) (a : Nat) (v : Word) : State :=
  { s with regs := { s.regs with val := NMap.set regReset s.regs.val a v } }

/-- A register given a number. -/
def setRegN (s : State) (a v : Nat) : State := setReg s a (BitVec.ofNat 32 v)

/-- A 64-bit pair's stored value. -/
def pairN (s : State) (lo : Nat) : Nat := regN s lo + 2 ^ 32 * regN s (lo + 4)

/-- A 64-bit pair given a number. -/
def setPair (s : State) (lo v : Nat) : State := setRegN (setRegN s lo v) (lo + 4) (v / 2 ^ 32)

/-- A live 64-bit counter (R429). -/
def ctr64 (s : State) (a : Nat) : DWord := NMap.get (fun _ => 0) s.regs.c64 a

/-- A live saturating counter (R429). -/
def ctr32 (s : State) (a : Nat) : Word := NMap.get (fun _ => 0) s.regs.c32 a

/-- A 64-bit counter advanced, modulo 2^64 (R429). -/
def inc64 (s : State) (a n : Nat) : State :=
  { s with
    regs := { s.regs with
      c64 := NMap.set (fun _ => 0) s.regs.c64 a (ctr64 s a + BitVec.ofNat 64 n) } }

/-- A sum that stops at 0xFFFF_FFFF (R429). -/
def satAdd (x : Word) (n : Nat) : Word := BitVec.ofNat 32 (min (x.toNat + n) 0xFFFFFFFF)

/-- A saturating counter advanced (R429). -/
def incSat (s : State) (a n : Nat) : State :=
  { s with
    regs := { s.regs with
      c32 := NMap.set (fun _ => 0) s.regs.c32 a (satAdd (ctr32 s a) n) } }

/-! ## Interrupts and events -/

/-- This device's Arbour id (R236). -/
def myArb (s : State) : Nat := fld (regN s (pgFab + 0x108)) 31 16

/-- This device's index in its Arbour (R221). -/
def myDev (s : State) : Nat := 8 * fld (regN s (pgFab + 0x108)) 5 3 + fld (regN s (pgFab + 0x108)) 2 0

/-- The time base as a number of TCLK. -/
def now (s : State) : Nat := s.clk.tb.toNat

/-- An MSI-X vector of a function is sent, or its pending bit is set while it is masked (R403) or the function is in D3hot
(R390). -/
def msixSend (s : State) (fn v : Nat) : State :=
  let k := fn * 256 + v
  let e := NMap.get (fun _ => (0, 0, true)) s.host.msix k
  if e.2.2 || s.host.d3.contains fn then { s with host := { s.host with pba := NMap.set (fun _ => false) s.host.pba k true } }
  else { s with host := { s.host with sent := s.host.sent ++ [(fn, v, e.1, e.2.1)] } }

/-- The device event vector after a pending bit rises: sent at once, or once at the end of the hold-off (R436). -/
def irqRise (s : State) : State :=
  if regN s (pgHost + 0x104) % 2 = 0 then s
  else if now s < s.lodge.holdUntil then { s with lodge := { s.lodge with holdRise := true } }
  else
    let s := msixSend s 0 0
    { s with
      lodge := { s.lodge with
        holdUntil := now s + 1000 * regN s (pgLodge + 0x134), holdRise := false } }

/-- The page of a register address. -/
def pageOf (a : Nat) : Nat := a / 0x1000 * 0x1000

/-- An event bit of a page occurs (R435, R436). -/
def evt (s : State) (page b : Nat) : State :=
  let m : Word := BitVec.ofNat 32 (2 ^ b)
  let s := setReg s (page + 0x10) (getReg s (page + 0x10) ||| m)
  let s := setReg s (page + 0x1C) (satAdd (getReg s (page + 0x1C)) 1)
  if getReg s (page + 0x14) &&& m = 0 then
    let old := getReg s (page + 0x18)
    let s := setReg s (page + 0x18) (old ||| m)
    if old &&& m = 0 ∧ regN s (page + 8) % 2 = 1 then irqRise s else s
  else s

/-! ## Errors -/

/-- The fault register whose value an error log entry carries as INFO (R438). -/
def infoOf (s : State) (page : Nat) : Nat :=
  match (blockOf page).1 with
  | 2 => regN s (page + 0x124)
  | 3 => regN s (page + 0x104)
  | 4 => regN s (page + 0x170)
  | 5 => regN s (page + 0x108)
  | 6 => regN s (page + 0x16C)
  | 7 => regN s (page + 0x160)
  | 9 => regN s (page + 0x118)
  | 0xA => regN s (page + 0x140)
  | _ => 0

/-- The Lodge's error log takes one entry per (code, instance) and ms of time base (R438). -/
def logErr (s : State) (page code : Nat) (part : Option Nat) (step : Nat) : State :=
  if s.clk.pllLocked = false then s
  else
    let l := s.lodge
    match l.last.find? (fun e => e.1 == code && e.2.1 == page) with
    | some e =>
      if now s < e.2.2.1 + 1000000 then
        let l := { l with
        last := l.last.map (fun x =>
          if x.1 = code ∧ x.2.1 = page then (x.1, x.2.1, x.2.2.1, x.2.2.2 + 1) else x) }
        incSat { s with lodge := l } (pgLodge + 0x50) 1
      else writeLog s code page part step e.2.2.2
    | none => writeLog s code page part step 0
where
  /-- one entry at the head of the ring, wrap the oldest when it is full -/
  writeLog (s : State) (code page : Nat) (part : Option Nat) (step supp : Nat) : State :=
    let l := s.lodge
    let wrap := (NMap.get (fun _ => none) l.log l.logHead).isSome
    let b := blockOf page
    let ent : LogEnt := ⟨now s, code, b.1, b.2, part, min supp 65535, step, infoOf s page⟩
    let l := { l with
      log := NMap.set (fun _ => none) l.log l.logHead (some ent),
      logHead := (l.logHead + 1) % 1024,
      logWrapped := l.logWrapped || wrap,
      last := (code, page, now s, 0) :: l.last.filter (fun e => !(e.1 == code && e.2.1 == page)) }
    let s := inc64 { s with lodge := l } (pgLodge + 0x40) 1
    if wrap then evt s pgLodge 2 else s

/-- A block instance detects an error (R437): the first since the last read of ERR_COUNT is captured, of several in one cycle the
lowest code (log entry 117), every one is counted, and the Lodge logs it (R438). -/
def errIn (s : State) (page code : Nat) (part : Option Nat) (step : Nat) : State :=
  let s :=
    if getReg s (page + 0x28) = 0 then
      let s := setRegN (setRegN s (page + 0x20) code) (page + 0x24) (now s)
      { s with regs := { s.regs with errAt := NMap.put s.regs.errAt page s.clk.root } }
    else if NMap.find s.regs.errAt page = some s.clk.root ∧ code < regN s (page + 0x20) then setRegN s (page + 0x20) code
    else s
  let s := setReg s (page + 0x28) (satAdd (getReg s (page + 0x28)) 1)
  logErr s page code part step

/-- A block instance detects an error outside any partition. -/
def err (s : State) (page code : Nat) : State := errIn s page code none 0

/-! ## Which writes a page accepts -/

/-- Bring-up has not reached READY (R373). -/
def beforeReady (s : State) : Bool := s.boot.state != .ready && s.boot.state != .deviceFault

/-- The compute die that a page belongs to. -/
def pageDie (a : Nat) : Option Nat :=
  match (blockOf a).1 with
  | 2 => some (if (blockOf a).2 < 128 then (blockOf a).2 / 60 else ((blockOf a).2 - 128) / 64)
  | 3 => some ((blockOf a).2 / 4)
  | 4 => some (blockOf a).2
  | 5 => some ((blockOf a).2 / 64)
  | _ => none

/-- A page lies on a compute die that is in reset (R370, R451). -/
def pageInReset (s : State) (a : Nat) : Bool :=
  match pageDie a with
  | some d => bit s.boot.dieReset d
  | none => false

/-- A block type takes writes before READY: BOOT, TB, HOST, FAB and PORT (R373). -/
def earlyType (t : Nat) : Bool := t == 0xF || t == 0xE || t == 0xD || t == 8 || t == 9

/-- A block type acts although a core unit is bad: BOOT, TB and HOST (R383). -/
def coreType (t : Nat) : Bool := t == 0xF || t == 0xE || t == 0xD

/-- A write to a page: ignored with error 0x0F09 before READY (R373), ignored while a core unit is bad (R383) or the page's die is
in reset (R451), else done. -/
def guardWrite (s : State) (page : Nat) (k : Out) : Out :=
  let t := (blockOf page).1
  if (beforeReady s && !earlyType t) || (s.boot.state == .fuseFault && t != 0xF) then .next (err s pgBoot 0x0F09)
  else if (bit s.boot.cls 4 && !coreType t) || pageInReset s page then .next s
  else k

/-- A fresh free value: nothing constrains it. -/
def freshFree (s : State) : BitVec 64 × State :=
  (freeValue s.freeIdx, { s with freeIdx := s.freeIdx + 1 })

/-! ## Tile SRAM -/

/-- Bytes of one tile's SRAM (R113). -/
def tileBytes : Nat := 0x900000

/-- The key of a tile's SRAM byte. -/
def sramKey (t a : Nat) : Nat := t * 2 ^ 24 + a

/-- Bytes of a tile's SRAM. -/
def readSram (s : State) (t a n : Nat) : List Byte := readBytes s.mem.sram (sramKey t a) n

/-- Bytes written to a tile's SRAM; the write sets their parity right (R323). -/
def writeSram (s : State) (t a : Nat) (bs : List Byte) : State :=
  { s with
    mem := { s.mem with
      sram := writeBytes s.mem.sram (sramKey t a) bs,
      sramBad := NMap.delIf s.mem.sramBad (fun k => sramKey t a ≤ k && k < sramKey t a + bs.length) } }

/-- A bank's address range holds zeros, with its parity right. -/
def zeroSram (s : State) (t lo hi : Nat) : State :=
  { s with
    mem := { s.mem with
      sram := zeroBytes s.mem.sram (sramKey t lo) (sramKey t hi),
      sramBad := NMap.delIf s.mem.sramBad (fun k => sramKey t lo ≤ k && k < sramKey t hi) } }

/-! ## Host memory -/

/-- Bytes of host memory. -/
def readHost (s : State) (a n : Nat) : List Byte := readBytes s.mem.host a n

/-- Bytes written to host memory by the device, and counted (R409). -/
def writeHost (s : State) (a : Nat) (bs : List Byte) : State :=
  inc64 { s with mem := { s.mem with host := writeBytes s.mem.host a bs } } (pgHost + 0x58) bs.length

/-- Bytes of host memory read by the device, and counted (R409). -/
def fetchHost (s : State) (a n : Nat) : List Byte × State := (readHost s a n, inc64 s (pgHost + 0x50) n)

/-! ## T1 and its code -/

/-- Blocks of 64 bytes in T1 (R158: 786,432 frames of 2 MiB). -/
def t1Bytes : Nat := 786432 * 0x200000

/-- The compute die of a T1 address (R167: frame f lies on die f mod 2). -/
def t1Die (a : Nat) : Nat := a / 0x200000 % 2

/-- The memory channel of a T1 address (R167). -/
def t1Channel (a : Nat) : Nat :=
  let f := a / 0x200000
  64 * (f % 2) + (a % 0x200000 / 256 + f / 2) % 64

/-- The block index of a T1 address within its channel (R167). -/
def t1Block (a : Nat) : Nat :=
  let f := a / 0x200000
  (f / 2 * 128 + a % 0x200000 / 256 / 64) * 4 + a % 256 / 64

/-- The T1 address of a block of a channel (the inverse of R167's placement). -/
def t1AddrOf (c b : Nat) : Nat :=
  let sl := b / 4
  let k := sl / 128
  let j := sl % 128
  let u := 64 * j + (c + 64 - k % 64) % 64
  (2 * k + c / 64) * 0x200000 + u * 256 + b % 4 * 64

/-- The data bytes a read of T1 returns, the code not considered. -/
def t1Raw (s : State) (a n : Nat) : List Byte := readBytes s.mem.t1 a n

/-- The error pattern of the block at a T1 address: what was added to its codeword (R325). -/
def errWord (s : State) (a : Nat) : List Byte :=
  (List.range 72).map (fun k => NMap.get (fun _ => 0) s.mem.t1err (a / 64 * 72 + k))

/-- The 72 symbols that the package holds of the block at a T1 address (R325, R326). -/
def t1Stored (s : State) (a : Nat) : List Byte := addWords (rsEncode (t1Raw s (a / 64 * 64) 64)) (errWord s a)

/-- The block at a T1 address with the bits at the given transfer indices wrong (R326). -/
def strikeBits (s : State) (a : Nat) (ts : List Nat) : State :=
  let e := wrongBits ts
  { s with
    mem := { s.mem with
      t1err := (List.range 72).foldl (fun m k =>
        let i := a / 64 * 72 + k
        NMap.set (fun _ => 0) m i (NMap.get (fun _ => 0) m i ^^^ e.getD k 0)) s.mem.t1err } }

/-- The decoder's answer for a block (R327); the choice past five wrong symbols is a free value. -/
def t1Decode (s : State) (a : Nat) : Decoded :=
  rsDecode (t1Raw s (a / 64 * 64) 64) (errWord s a) ((freeValue (s.freeIdx + a)).getLsbD 0)

/-- The data symbols of the stored word: what passes where the syndromes are all 0 (R327). -/
def t1Passed (s : State) (a : Nat) : List Byte :=
  if (wrongSymbols (errWord s a)).isEmpty then t1Raw s a 64 else (t1Stored s a).take 64

/-- The T1 blocks that a byte range touches. -/
def blocksOf (a n : Nat) : List Nat :=
  if n = 0 then [] else (List.range ((a + n - 1) / 64 - a / 64 + 1)).map (fun i => (a / 64 + i) * 64)

/-- Whole blocks are written with a fresh code (R325). -/
def t1WriteRaw (s : State) (a : Nat) (bs : List Byte) : State :=
  let lo := a / 64 * 72
  let hi := ((a + bs.length + 63) / 64) * 72
  { s with
    mem := { s.mem with
      t1 := writeBytes s.mem.t1 a bs,
      t1err := NMap.delIf s.mem.t1err (fun k => lo ≤ k && k < hi) } }

/-- A memory channel's queue. -/
def getMch (s : State) (c : Nat) : Mch := NMap.get (fun _ => {}) s.mch c

/-- A memory channel's queue replaced. -/
def setMch (s : State) (c : Nat) (m : Mch) : State :=
  { s with mch := NMap.set (fun _ => {}) s.mch c m }

/-- A read finds a correctable block: counted once, and a demand read queues it for the scrub (R327, R330). -/
def noteCorrected (s : State) (a : Nat) (queueIt : Bool) : State :=
  let c := t1Channel a
  let b := t1Block a
  let m := getMch s c
  let s := if m.errSeen then s else setRegN s (pgMch c + 0x108) b
  let m := { m with
    errSeen := true,
    queue := if queueIt ∧ m.queue.length < 64 ∧ !m.queue.contains b then m.queue ++ [b] else m.queue }
  evt (incSat (setMch s c m) (pgMch c + 0x64) 1) (pgMch c) 0

/-- A read finds an uncorrectable block (R331): recorded with the code of its kind of read. -/
def noteUncorrectable (s : State) (a code : Nat) : State :=
  let c := t1Channel a
  let m := getMch s c
  let s := if m.errSeen then s else setRegN s (pgMch c + 0x108) (t1Block a)
  err (evt (incSat (setMch s c { m with errSeen := true }) (pgMch c + 0x68) 1) (pgMch c) 1) (pgMch c) code

/-- A demand read of one block: its data, or none where it is uncorrectable (R327, R331). A miscorrected block
holds a free value. -/
def readBlock (s : State) (a : Nat) (code : Nat) (queueIt : Bool) : Option (List Byte) × State :=
  let s := inc64 s (pgMch (t1Channel a) + 0x40) 1
  match t1Decode s a with
  | .ok => (some (t1Passed s a), s)
  | .corrected => (some (t1Raw s a 64), noteCorrected s a queueIt)
  | .uncorrectable => (none, noteUncorrectable s a code)
  | .miscorrected =>
    let f := freshFree s
    (some (padTo 64 (leBytes 8 f.1.toNat)), noteCorrected f.2 a queueIt)

/-- Reads of the blocks of a byte range: the bytes, or none where one block is uncorrectable. -/
def readBlocks (code : Nat) (queueIt : Bool) : List Nat → State → Option (List Byte) × State
  | [], s => (some [], s)
  | a :: as, s =>
    match readBlock s a code queueIt with
    | (none, s) => (none, s)
    | (some d, s) =>
      match readBlocks code queueIt as s with
      | (none, s) => (none, s)
      | (some ds, s) => (some (d ++ ds), s)

/-- A demand read of T1 bytes. -/
def t1Read (s : State) (a n : Nat) : Option (List Byte) × State :=
  match readBlocks 0x0503 true (blocksOf a n) s with
  | (none, s) => (none, s)
  | (some ds, s) => (some ((ds.drop (a % 64)).take n), s)

/-- A write within one block: a narrow one reads, corrects and merges first, and writes nothing where the block is
uncorrectable (R328). The answer says whether the bytes were written. -/
def t1WriteBlock (s : State) (a : Nat) (bs : List Byte) : Bool × State :=
  let c := t1Channel a
  let m := getMch s c
  let drop := fun (s : State) => setMch s c { getMch s c with queue := m.queue.filter (fun b => b != t1Block a) }
  if a % 64 = 0 ∧ bs.length = 64 then (true, drop (t1WriteRaw (inc64 s (pgMch c + 0x48) 1) a bs))
  else
    match readBlock (incSat s (pgMch c + 0x58) 1) (a / 64 * 64) 0x0505 false with
    | (none, s) => (false, s)
    | (some d, s) =>
      let o := a % 64
      let merged := d.take o ++ bs ++ d.drop (o + bs.length)
      (true, drop (t1WriteRaw (inc64 s (pgMch c + 0x48) 1) (a / 64 * 64) merged))

/-- The pieces of a byte range that lie in single blocks. -/
def blockPieces : Nat → Nat → List Byte → List (Nat × List Byte)
  | 0, _, _ => []
  | f + 1, a, bs =>
    if bs.isEmpty then []
    else
      let n := 64 - a % 64
      (a, bs.take n) :: blockPieces f (a + n) (bs.drop n)

/-- A write of T1 bytes, block by block (R328). -/
def t1Write (s : State) (a : Nat) (bs : List Byte) : Bool × State :=
  (blockPieces (bs.length + 1) a bs).foldl
    (fun (r : Bool × State) p => let w := t1WriteBlock r.2 p.1 p.2; (r.1 && w.1, w.2)) (true, s)

/-! ## Tiles -/

/-- A tile. -/
def getTile (s : State) (t : Nat) : Tile := NMap.get (fun _ => {}) s.tiles t

/-- A tile replaced. -/
def setTile (s : State) (t : Nat) (x : Tile) : State :=
  { s with tiles := NMap.set (fun _ => {}) s.tiles t x }

/-- A tile's foreground context replaced. -/
def setFg (s : State) (t : Nat) (c : Ctx) : State := setTile s t { getTile s t with fg := c }

/-- A tile's context by role. -/
def ctxOf (s : State) (t : Nat) (bg : Bool) : Ctx := if bg then (getTile s t).bg else (getTile s t).fg

/-- A tile's context by role replaced. -/
def setCtx (s : State) (t : Nat) (bg : Bool) (c : Ctx) : State :=
  if bg then setTile s t { getTile s t with bg := c } else setFg s t c

/-- A counter of a context. -/
def getCtr (c : Ctx) (k : Nat) : Ctr := NMap.get (fun _ => {}) c.ctrs k

/-- A counter of a context replaced. -/
def setCtr (c : Ctx) (k : Nat) (x : Ctr) : Ctx := { c with ctrs := NMap.set (fun _ => {}) c.ctrs k x }

/-- Bytes of one source transfer of a call (R63, R67, R79): 64 bias entries, a chunk of scores, or the elements that a sort
takes in an ACLK. -/
def transferBytes (c : ThrCall) : Nat :=
  if c.op = 5 ∧ c.fmt = 4 then 264 else if c.op = 3 ∧ c.key64 then 192 else 256

/-- Source transfers of a call. -/
def transfersOf (c : ThrCall) : Nat := (c.srcLen + transferBytes c - 1) / transferBytes c

/-- A call is in progress: an S_PUSH, which returns nothing, until its scores have entered. -/
def callLive (s : State) (c : ThrCall) : Bool := c.op != 5 || c.sent < transfersOf c || s.clk.aclk < c.endAt

end Sys2Proof.Machine
end

