-- ==== Sys2Proof/Machine/Packet.lean ====
section
/-!
DEFINITION. Packets and link flits as bytes (R211, R212, R215, R216), and the packets that this device originates.
-/

namespace Sys2Proof.Machine

open Sys2Proof Sys2Proof.Config

/-- Payload bytes of a packet (LEN). -/
def Pkt.len (p : Pkt) : Nat := p.body.length

/-- The routing header as a number (R216). -/
def Pkt.header (p : Pkt) : Nat :=
  p.rsv % 128 + b2n p.last * 2 ^ 7 + p.count % 2 ^ 12 * 2 ^ 8 + p.msgId % 2 ^ 16 * 2 ^ 20 + b2n p.via * 2 ^ 36
    + p.viaDev % 64 * 2 ^ 37 + b2n p.data * 2 ^ 43 + b2n p.dor * 2 ^ 44 + b2n p.mcast * 2 ^ 45
    + b2n p.outer * 2 ^ 46 + p.ohops % 4 * 2 ^ 47 + p.hops % 8 * 2 ^ 49 + p.len % 2 ^ 12 * 2 ^ 52
    + p.proto % 16 * 2 ^ 64 + p.stamp % 2 ^ 16 * 2 ^ 68 + p.srcArb % 2 ^ 16 * 2 ^ 84 + p.dstArb % 2 ^ 16 * 2 ^ 100
    + p.src % 64 * 2 ^ 116 + p.dst % 64 * 2 ^ 122

/-- The bytes of a packet on a link (R215). -/
def Pkt.bytes (p : Pkt) : List Byte :=
  leBytes 16 p.header ++ (if p.mcast then leBytes 8 p.mask else []) ++ (if p.data then leBytes 16 p.thdr else [])
    ++ p.body

/-- Length of a packet on a link, from its header (R215). -/
def pktLength (h : Nat) : Nat := 16 + (if bit h 45 then 8 else 0) + (if bit h 43 then 16 else 0) + fld h 63 52

/-- A packet read from its bytes. -/
def parsePkt (bs : List Byte) : Pkt :=
  let h := leNat (bs.take 16)
  let r := bs.drop 16
  let m := bit h 45
  let r1 := if m then r.drop 8 else r
  let d := bit h 43
  { dst := fld h 127 122, src := fld h 121 116, dstArb := fld h 115 100, srcArb := fld h 99 84, stamp := fld h 83 68,
    proto := fld h 67 64, hops := fld h 51 49, ohops := fld h 48 47, outer := bit h 46, mcast := m, dor := bit h 44,
    data := d, viaDev := fld h 42 37, via := bit h 36, msgId := fld h 35 20, count := fld h 19 8, last := bit h 7,
    rsv := fld h 6 0, mask := if m then leNat (r.take 8) else 0, thdr := if d then leNat (r1.take 16) else 0,
    body := if d then r1.drop 16 else r1 }

/-- Bytes of a packet on a link. -/
def Pkt.size (p : Pkt) : Nat := 16 + (if p.mcast then 8 else 0) + (if p.data then 16 else 0) + p.len

/-- Credit units of a packet (R219). -/
def Pkt.units (p : Pkt) : Nat := (p.size + 31) / 32

/-- The virtual channel of a packet on its next hop (R218). -/
def Pkt.vc (p : Pkt) : Nat := 4 * b2n p.data + (if p.outer then p.ohops else p.hops) % 4

/-- The transport header of a packet: in a data packet the header of its own, in a control packet the first 16
payload bytes (R243, R251, R262). -/
def Pkt.th (p : Pkt) : Nat := if p.data then p.thdr else leNat (p.body.take 16)

/-- The payload after the transport header. -/
def Pkt.rest (p : Pkt) : List Byte := if p.data then p.body else p.body.drop 16

/-- A packet with a transport header and payload: a control packet where both fit 48 bytes (R243). -/
def Pkt.withTh (p : Pkt) (th : Nat) (bs : List Byte) : Pkt :=
  let bs := padTo (roundUp bs.length 4) bs
  if bs.length + 16 ≤ 48 then { p with data := false, thdr := 0, body := leBytes 16 th ++ bs }
  else { p with data := true, thdr := th, body := bs }

/-! ## Flits -/

/-- The header word of a flit (R212). -/
def Flit.header (f : Flit) : Nat :=
  b2n f.rsv + f.credB % 256 * 2 + f.cvcB % 8 * 2 ^ 9 + f.credA % 256 * 2 ^ 12 + f.cvcA % 8 * 2 ^ 20
    + b2n f.abort * 2 ^ 23 + f.fill % 64 * 2 ^ 24 + f.start % 64 * 2 ^ 30 + f.ack % 4096 * 2 ^ 36
    + f.fseq % 4096 * 2 ^ 48 + f.ftype % 16 * 2 ^ 60

/-- The 256 bytes of a flit with its CRC-32 (R211). -/
def Flit.bytes (f : Flit) : List Byte :=
  let b := leBytes 8 f.header ++ padTo 244 f.words
  b ++ leBytes 4 (crc32 b)

/-- A flit's CRC-32 holds (R211). -/
def flitGood (bs : List Byte) : Bool := bs.length == 256 && leNat (bs.drop 252) == crc32 (bs.take 252)

/-- A flit read from its bytes. -/
def parseFlit (bs : List Byte) : Flit :=
  let h := leNat (bs.take 8)
  let n := fld h 29 24
  { ftype := fld h 63 60, fseq := fld h 59 48, ack := fld h 47 36, start := fld h 35 30, fill := n, abort := bit h 23,
    cvcA := fld h 22 20, credA := fld h 19 12, cvcB := fld h 11 9, credB := fld h 8 1, rsv := bit h 0,
    words := ((bs.drop 8).take 244).take (4 * n) }

/-! ## Origination -/

/-- A packet of this device: source, OUTER and DOR set (R216, R228, R312). -/
def mkPkt (s : State) (proto stamp dstArb dst : Nat) : Pkt :=
  { dst := dst, src := myDev s, dstArb := dstArb, srcArb := myArb s, stamp := stamp, proto := proto,
    outer := dstArb != myArb s, dor := s.det.active }

/-- A multicast packet of this device within its Arbour (R227). -/
def mkMcast (s : State) (proto stamp mask : Nat) : Pkt :=
  { mkPkt s proto stamp (myArb s) 0 with mcast := true, mask := mask }

/-- The stamp table entry of a job tag (R416). -/
def stampEntry (s : State) (tag : Nat) : Nat := NMap.get (fun _ => 0) s.fab.stamps tag

/-- A stamp is CLOSING on this device (R416, R419). -/
def stampClosing (s : State) (stamp : Nat) : Bool := fld (stampEntry s (stamp / 16)) 15 14 == 2

/-- A packet handed to the router core (R230). With a closing stamp the device sends no packet (R419). -/
def send (s : State) (p : Pkt) : State :=
  if stampClosing s p.stamp then s else { s with fab := { s.fab with inject := s.fab.inject ++ [p] } }

/-- The oldest ejected packet that meets `f`, with the state in which it has been taken. -/
def takeEjected (s : State) (f : Pkt → Bool) : Option (Pkt × State) :=
  (s.fab.ejected.find? f).map (fun p =>
    (p, { s with fab := { s.fab with ejected := s.fab.ejected.eraseP f } }))

end Sys2Proof.Machine
end

