-- ==== Sys2Proof/Machine/Fabric.lean ====
section
/-!
DEFINITION. The router core and the fabric ports: flits, retry and credits, link states, routing, multicast, outer
routing, congestion maps and the outer table (R210 to R237).
-/

namespace Sys2Proof.Machine

open Sys2Proof Sys2Proof.Config

/-! ## Ports -/

/-- A port. -/
def getPort (s : State) (p : Nat) : Port := NMap.get (fun _ => {}) s.fab.ports p

/-- A port replaced. -/
def setPort (s : State) (p : Nat) (x : Port) : State :=
  { s with fab := { s.fab with ports := NMap.set (fun _ => {}) s.fab.ports p x } }

/-- The LSTATE code of a link state (R237). -/
def LState.code : LState → Nat
  | .disabled => 0 | .training => 1 | .up => 2 | .down => 3 | .quarantined => 4 | .miswired => 5

/-- Position `i` of a list of eight changed. -/
def atVc (l : List Nat) (i : Nat) (f : Nat → Nat) : List Nat := l.set i (f (l.getD i 0))

/-- The whole buffer of a VC in units of 32 bytes (R219). -/
def vcCap (v : Nat) : Nat := if v < 4 then 128 else 1024

/-- The whole buffers of a port, advertised as soon as it is UP (R214). -/
def allCredits : List Nat := [128, 128, 128, 128, 1024, 1024, 1024, 1024]

/-! ## Wiring (R221) -/

/-- A device of the Arbour is a member (R221). -/
def isMember (s : State) (d : Nat) : Bool :=
  let m := regN s (pgFab + 0x10C)
  d < 64 && bit m (8 + d / 8) && bit m (d % 8)

/-- The members, ascending. -/
def members (s : State) : List Nat := (List.range 64).filter (isMember s)

/-- Two devices share a row or a column, and differ. -/
def peers (a b : Nat) : Bool := a != b && (a / 8 == b / 8 || a % 8 == b % 8)

/-- The lower port of the pair by which device `a` reaches its peer `b` (R221). -/
def pairPort (a b : Nat) : Nat :=
  let r := fun (q own : Nat) => if q > own then q - 1 else q
  if a / 8 = b / 8 then 2 * r (b % 8) (a % 8) else 14 + 2 * r (b / 8) (a / 8)

/-- The peer device of a port of device `a` (R221); none for an outer port. -/
def portPeer (a p : Nat) : Option Nat :=
  if p < 28 then ((List.range 64).filter (peers a)).find? (fun b => pairPort a b == p / 2 * 2) else none

/-- The latest known state of a port of a device: its own, or the last notice applied (R233); a port of another device is taken
to be UP until a notice says otherwise (log entry 53). -/
def portUpAt (s : State) (d p : Nat) : Bool :=
  if d = myDev s then (getPort s p).lstate == .up
  else (NMap.get (fun _ => (0, 2)) s.fab.links (d * 32 + p)).2 == 2

/-- Link `k` of the pair between two peers is UP at both ends. -/
def linkUp (s : State) (a b k : Nat) : Bool :=
  portUpAt s a (pairPort a b + k) && portUpAt s b (pairPort b a + k)

/-- A hop is usable: both devices are members and a link of the pair is UP (R233). -/
def hopUsable (s : State) (a b : Nat) : Bool :=
  peers a b && isMember s a && isMember s b && (linkUp s a b 0 || linkUp s a b 1)

/-- Link pairs of the Arbour with no link UP (R236). -/
def pairsDown (s : State) : Nat :=
  ((members s).flatMap (fun a => (members s).filter (fun b => a < b && peers a b && !hopUsable s a b))).length

/-! ## Costs and routes (R222 to R225) -/

/-- B_p of R223 for a class: bytes queued here for the port and bytes of its downstream buffers in use. -/
def portLoad (s : State) (p : Nat) (data : Bool) : Nat :=
  let x := getPort s p
  let q := ((x.queue.filter (fun e => e.pkt.data == data)).map (fun e => e.pkt.size)).sum
  let vs := if data then [4, 5, 6, 7] else [0, 1, 2, 3]
  let d := if x.lstate = .up then (vs.map (fun v => vcCap v - x.cred.getD v 0)).sum else 0
  q + 32 * d

/-- The UP ports of this device's pair toward a peer. -/
def upPorts (s : State) (b : Nat) : List Nat :=
  let p := pairPort (myDev s) b
  [p, p + 1].filter (fun q => (getPort s q).lstate == .up)

/-- The link of the pair with the smaller load, the lower port on a tie (R224). -/
def lighter (s : State) (b : Nat) (data : Bool) : Option Nat :=
  match upPorts s b with
  | [p, q] => some (if portLoad s q data < portLoad s p data then q else p)
  | l => l.head?

/-- The link that R225 fixes for a source and a destination index, or the other where it is not UP. -/
def detPort (s : State) (b src dst : Nat) : Option Nat :=
  let p := pairPort (myDev s) b
  let k := (src + dst) % 2
  if (getPort s (p + k)).lstate = .up then some (p + k)
  else if (getPort s (p + (1 - k))).lstate = .up then some (p + (1 - k)) else none

/-- The X-first and Y-first minimal paths, as the devices after the first (R222). -/
def xFirst (a b : Nat) : List Nat := if peers a b then [b] else [8 * (a / 8) + b % 8, b]
def yFirst (a b : Nat) : List Nat := if peers a b then [b] else [8 * (b / 8) + a % 8, b]

/-- Every hop of a path is usable. -/
def pathUsable (s : State) : Nat → List Nat → Bool
  | _, [] => true
  | a, b :: r => hopUsable s a b && pathUsable s b r

/-- Devices from which the destination is within `k` usable hops. -/
def reach (s : State) (d : Nat) : Nat → List Nat
  | 0 => [d]
  | k + 1 =>
    let r := reach s d k
    (members s).filter (fun a => r.contains a || r.any (fun b => hopUsable s a b))

/-- Hops of the shortest usable route, at most `lim`. -/
def shortest (s : State) (a d lim : Nat) : Option Nat := (List.range (lim + 1)).find? (fun k => (reach s d k).contains a)

/-- A route candidate: its first port, its next device, its hops and its rank among equals. -/
structure Cand where
  port : Nat
  next : Nat
  hops : Nat
  /-- 0 X-first, 1 Y-first -/
  order : Nat
  via : Option Nat
  deriving DecidableEq, Repr

/-- The cost of a candidate (R223). -/
def candCost (s : State) (data : Bool) (c : Cand) : Nat := c.hops * (portLoad s c.port data + regN s (pgFab + 0x110))

/-- The order of candidates: lower cost, fewer hops, X-first, lower port (R223). -/
def candBetter (s : State) (data : Bool) (a b : Cand) : Bool :=
  let ka := candCost s data a
  let kb := candCost s data b
  ka < kb || (ka == kb && (a.hops < b.hops || (a.hops == b.hops && (a.order < b.order
    || (a.order == b.order && a.port < b.port)))))

/-- The best of a list of candidates. -/
def bestCand (s : State) (data : Bool) : List Cand → Option Cand
  | [] => none
  | c :: cs =>
    match bestCand s data cs with
    | none => some c
    | some d => if candBetter s data d c then some d else some c

/-- The candidates over the links of the first hops of the minimal routes to a target. -/
def minimalCands (s : State) (me target extra : Nat) (via : Option Nat) : List Cand :=
  let one := fun (o n : Nat) => (upPorts s n).map (fun p =>
    (⟨p, n, (if peers me target then 1 else 2) + extra, o, via⟩ : Cand))
  let use := fun (o : Nat) (l : List Nat) => match l with
    | n :: _ => if hopUsable s me n then one o n else []
    | [] => []
  if peers me target then use 0 [target] else use 0 (xFirst me target) ++ use 1 (yFirst me target)

/-- The shortest route of usable hops within the hop limit: the port of its first hop (R224, R233). -/
def detour (s : State) (me d hops : Nat) (data : Bool) : Option Cand :=
  match shortest s me d (4 - hops) with
  | none => none
  | some 0 => none
  | some k =>
    bestCand s data (((reach s d (k - 1)).filter (hopUsable s me)).flatMap (fun n =>
      (upPorts s n).map (fun p => (⟨p, n, k, 0, none⟩ : Cand))))

/-- The route of R225: X-first, then Y-first, then through each member. -/
def detRoute (s : State) (me d src dst : Nat) : Option Cand :=
  let via := (members s).filter (fun i => i != me && i != d)
  let paths := (xFirst me d, (none : Option Nat)) :: (yFirst me d, none)
    :: via.map (fun i => (xFirst me i ++ xFirst i d, some i))
  match paths.find? (fun p => pathUsable s me p.1) with
  | some (n :: r, v) => (detPort s n src dst).map (fun p => ⟨p, n, r.length + 1, 0, v⟩)
  | _ => none

/-! ## Transmission -/

/-- Bytes cut into flit payloads. -/
def flitWords (bs : List Byte) : List (List Byte) := chunks 244 bs

/-- The flits of a packet from FSEQ `q` on (R211 to R213, R215). -/
def pktFlits (ack : Nat) : Nat → Nat → List (List Byte) → List Flit
  | _, _, [] => []
  | q, i, w :: ws =>
    { ftype := 1, fseq := q % 4096, ack := ack, start := if i = 0 then 0 else 63, fill := w.length / 4, words := w }
      :: pktFlits ack (q + 1) (i + 1) ws

/-- The FSEQ of the last sequenced flit received in order. -/
def Port.ackOf (x : Port) : Nat := (x.rxSeq + 4095) % 4096

/-- Flits leave on a port; each carries the ACK of what has been received in order (R212). -/
def wireOut (s : State) (p : Nat) (fs : List Flit) : State :=
  let s := match fs.getLast? with
    | some f => setPort s p { getPort s p with ackSent := f.ack }
    | none => s
  inc64 { s with fab := { s.fab with wire := s.fab.wire ++ fs.map (fun f => (p, f)) } } (pgPort p + 0x40) fs.length

/-- An IDLE flit, which carries only ACK (R212, R213). -/
def sendIdle (s : State) (p : Nat) : State := wireOut s p [{ ack := (getPort s p).ackOf }]

/-- A LINK_MGMT flit of the identity exchange: this device's Arbour id, index and port (R212). The manual gives the contents and no
layout: bytes 0 and 1 the Arbour id, 2 the device, 3 the port. DESIGN CHOICE (log entry 111). -/
def sendIdentity (s : State) (p : Nat) : State :=
  let id := leBytes 2 (myArb s) ++ [BitVec.ofNat 8 (myDev s), BitVec.ofNat 8 p]
  wireOut s p [{ ftype := 4, ack := (getPort s p).ackOf, words := id }]

/-- Credits owed to the peer leave in CREDIT flits while the retry buffer has room (R213). -/
def sendCredits : Nat → State → Nat → State
  | 0, s, _ => s
  | n + 1, s, p =>
    let x := getPort s p
    match (List.range 8).filter (fun v => x.owed.getD v 0 != 0) with
    | [] => s
    | a :: r =>
      if x.lstate ≠ .up ∨ x.retry.length ≥ 256 then s
      else
        let b := r.headD a
        let ca := min 255 (x.owed.getD a 0)
        let cb := if r.isEmpty then 0 else min 255 (x.owed.getD b 0)
        let f : Flit := { ftype := 2, fseq := x.txSeq, ack := x.ackOf, cvcA := a, credA := ca, cvcB := b, credB := cb }
        let x := { x with
          txSeq := (x.txSeq + 1) % 4096, retry := x.retry ++ [f],
          owed := atVc (atVc x.owed a (fun k => k - ca)) b (fun k => k - cb),
          adv := atVc (atVc x.adv a (fun k => k + ca)) b (fun k => k + cb) }
        sendCredits n (wireOut (setPort s p x) p [f]) p

/-- The packets of a port that may leave next: the oldest of each VC (R218, R219). -/
def vcHeads : List Nat → List QPkt → List QPkt
  | _, [] => []
  | vs, e :: r => if vs.contains e.pkt.vc then vcHeads vs r else e :: vcHeads (e.pkt.vc :: vs) r

/-- A packet of a port holds credits for itself whole (R219). -/
def hasCredit (x : Port) (e : QPkt) : Bool := decide (e.pkt.units ≤ x.cred.getD e.pkt.vc 0)

/-- The retry buffer has no room for what the port would send: 256 flits, or a packet's flits beyond them (R213). -/
def retryFull (x : Port) : Bool :=
  x.retry.length ≥ 256 || (match (vcHeads [] x.queue).find? (hasCredit x) with
    | some e => decide (256 < x.retry.length + (flitWords e.pkt.bytes).length)
    | none => false)

/-- Queued packets leave, the oldest of a VC with credits for the whole of it first, while the retry buffer has room (R213,
R218, R219). -/
def sendQueue : Nat → State → Nat → State
  | 0, s, _ => s
  | n + 1, s, p =>
    let x := getPort s p
    match (vcHeads [] x.queue).find? (hasCredit x) with
    | none => s
    | some e =>
      let ws := flitWords e.pkt.bytes
      if x.lstate ≠ .up ∨ x.retry.length + ws.length > 256 then s
      else
        let fs := pktFlits x.ackOf x.txSeq 0 ws
        let x := { x with
          txSeq := (x.txSeq + ws.length) % 4096, retry := x.retry ++ fs, queue := x.queue.erase e,
          sent := x.sent ++ [{ e with lastSeq := (x.txSeq + ws.length + 4095) % 4096 }],
          cred := atVc x.cred e.pkt.vc (fun k => k - e.pkt.units) }
        sendQueue n (inc64 (wireOut (setPort s p x) p fs) (pgPort p + 0x50) e.pkt.size) p

/-- What a port can send, it sends; where nothing has carried the latest ACK, or the retry buffer is full, an IDLE flit does
(R212, R213). IDLE flits that would say nothing new are left out (log entry 111). -/
def portPump (s : State) (p : Nat) : State :=
  let s := sendCredits 16 s p
  let s := sendQueue ((getPort s p).queue.length + 1) s p
  let x := getPort s p
  if x.lstate = .up ∧ x.ackSent ≠ x.ackOf then sendIdle s p else s

/-- One copy of a held packet is acknowledged, ejected or dropped; with the last its credits go back upstream
(R219, R227). -/
def releaseHold (s : State) (h : Nat) : State :=
  match s.fab.holds.find? (fun x => x.id == h) with
  | none => s
  | some x =>
    if x.left > 1 then
      { s with fab := { s.fab with holds := s.fab.holds.map (fun y => if y.id = h then { y with left := y.left - 1 } else y) } }
    else
      let s := { s with fab := { s.fab with holds := s.fab.holds.filter (fun y => y.id != h) } }
      let q := getPort s x.port
      portPump (setPort s x.port { q with owed := atVc q.owed x.vc (fun k => k + x.units) }) x.port

/-- A packet is queued for a port of this device. -/
def enqueue (s : State) (p : Nat) (pkt : Pkt) (hold : Nat) : State :=
  let x := getPort s p
  portPump (setPort s p { x with queue := x.queue ++ [⟨pkt, hold, 0⟩] }) p

/-! ## Ejection and drops -/

/-- An acknowledgement of a message (R251). -/
def isMsgAck (p : Pkt) : Bool := p.proto == 6 && (fld p.th 31 28 == 1 || fld p.th 31 28 == 2)

/-- The stamp check of a packet addressed to this device (R417). -/
def stampOk (s : State) (p : Pkt) : Bool :=
  if 8 ≤ p.proto ∧ p.proto ≤ 11 then p.stamp == 0
  else
    let e := stampEntry s (p.stamp / 16)
    let st := fld e 15 14
    if p.stamp / 16 = 0 ∨ st = 0 ∨ fld e 13 10 ≠ p.stamp % 16 then false
    else if st = 2 then p.proto == 5 || isMsgAck p
    else if p.proto = 7 then bit e 9 || bit e 8 else bit e 9

/-- A SHEAF or POOL payload with a reserved KIND (R95, R110); the kinds of POOL payloads are the model's (log entry 42). -/
def reservedKind (p : Pkt) : Bool :=
  let k := fld (leNat (p.body.take 8)) 7 0
  (p.proto == 1 && !(1 ≤ k && k ≤ 7)) || (p.proto == 2 && k != 7 && !(0x11 ≤ k && k ≤ 0x16))
    || ((p.proto == 1 || p.proto == 2) && p.data && p.thdr != 0)

/-- A COLL packet with a reserved KIND, carrier or header bit (R5, R262). -/
def collBad (p : Pkt) : Bool :=
  let k := fld p.th 127 124
  p.proto == 3 && (k == 0 || 0xB < k || (k == 8 && 4 < fld p.th 123 120) || fld p.th 44 32 != 0)

/-- A packet whose transport header or payload has a reserved value or a reserved field that is not 0 (R5): a memory response
(R243), a message (R251), a congestion map (R232) or a time exchange (R366). -/
def formBad (p : Pkt) : Bool :=
  match p.proto with
  | 5 => fld p.th 113 56 != 0 || 7 < fld p.th 123 120
  | 6 => 2 < fld p.th 31 28 || fld p.th 107 96 != 0 || fld p.th 23 0 != 0
      || (fld p.th 31 28 == 0 && (fld p.th 27 24 != 0 || p.count ≤ fld p.th 119 108))
  | 8 => 1 < byteFld p.body 10 10 || byteFld p.body 11 15 != 0
  | 10 => !(byteFld p.body 0 0 == 1 || byteFld p.body 0 0 == 2) || byteFld p.body 2 3 != 0 || byteFld p.body 32 47 != 0
  | _ => false

/-- A packet reaches its destination unit, or is dropped silently for its stamp (R230, R417); the Sheaf engine discards a
payload of a reserved KIND (R110), the Pavilion a malformed COLL packet, and the owner of a protocol any other malformed packet
(R5; log entry 112). -/
def eject (s : State) (p : Pkt) : State :=
  if stampOk s p then
    let s := inc64 s (pgFab + 0x48) 1
    if reservedKind p then err (incSat s (pgShf + 0x88) 1) pgShf 0x0611
    else if collBad p then incSat s (pgPav + 0x84) 1
    else if formBad p then s
    else { s with fab := { s.fab with ejected := s.fab.ejected ++ [p] } }
  else incSat s (pgFab + 0x74) 1

/-- A stamp table entry fails parity: its tag is UNKNOWN until the entry is rewritten (R428). -/
def loseStamp (s : State) (p : Pkt) : State :=
  err { s with fab := { s.fab with stamps := NMap.set (fun _ => 0) s.fab.stamps (p.stamp / 16) 0 } } pgLodge 0x1107

/-- A packet is dropped as unroutable (R235). -/
def dropUnroutable (s : State) : State := err (evt (incSat s (pgFab + 0x68) 1) pgFab 1) pgFab 0x0801

/-- An outer packet is dropped (R235). -/
def dropOuter (s : State) (code : Nat) : State := err (evt (incSat s (pgFab + 0x70) 1) pgFab 2) pgFab code

/-! ## Routing of one packet -/

/-- Adaptive choice is in force for a packet (R223, R225, R236). -/
def adaptive (s : State) (p : Pkt) : Bool := !s.det.active && !p.dor && bit (regN s (pgFab + 0x104)) 0

/-- A packet goes to the next device over a port: HOPS as R218 sets it at a transit device. -/
def goTo (s : State) (p : Pkt) (c : Cand) (hold : Nat) (atSource : Bool) : State :=
  let p := { p with hops := if atSource then p.hops else p.hops + 1 }
  let p := match c.via with
    | some v => { p with via := true, viaDev := v }
    | none => p
  let s := if c.via.isSome ∧ atSource then incSat s (pgFab + 0x60) 1 else s
  enqueue s c.port p hold

/-- Two intermediates drawn by the router's LFSR from the members (R223); the draw is a free value. -/
def drawIntermediates (s : State) (me d : Nat) : List Nat × State :=
  let ms := (members s).filter (fun i => i != me && i != d)
  let f := freshFree s
  let n := ms.length
  if n = 0 then ([], s)
  else ([ms.getD (f.1.toNat % n) 0, ms.getD (f.1.toNat / 65536 % n) 0], f.2)

/-- A path of minimal routes is shut by a pair of members with no link UP, which the route must avoid (R235). -/
def pairShut (s : State) : Nat → List Nat → Bool
  | _, [] => false
  | a, b :: r => (isMember s a && isMember s b && peers a b && !hopUsable s a b) || pairShut s b r

/-- A packet's route avoids a pair with no link UP: counted (R235). -/
def noteAvoided (s : State) (me target : Nat) (xOnly : Bool) : State :=
  if pairShut s me (xFirst me target) ∨ (!xOnly ∧ pairShut s me (yFirst me target)) then incSat s (pgFab + 0x64) 1 else s

/-- The lower-numbered UP link of the pair between two devices (R366). -/
def pairLink (s : State) (a b : Nat) : Option Nat :=
  if !peers a b then none
  else if linkUp s a b 0 then some (pairPort a b)
  else if linkUp s a b 1 then some (pairPort a b + 1)
  else none

/-- A unicast packet inside the destination Arbour leaves this device toward its target (R223 to R225); a TIME packet goes over its
pair (R366). -/
def routeUnicast (s : State) (p : Pkt) (hold : Nat) (atSource : Bool) : State :=
  let me := myDev s
  let p := if p.via ∧ p.viaDev = me then { p with via := false } else p
  let target := if p.via then p.viaDev else p.dst
  let used := if atSource then p.hops else p.hops + 1
  let drop := fun (s : State) => releaseHold (dropUnroutable s) hold
  if !isMember s p.dst ∨ (p.via && !isMember s p.viaDev) then drop s
  else if p.proto = 0xA ∧ atSource then
    match pairLink s me p.dst with
    | some q => enqueue s q p hold
    | none => drop s
  else if p.outer then
    match detRoute s me p.dst p.src p.dst with
    | some c => goTo (noteAvoided s me p.dst true) p { c with via := none } hold atSource
    | none => drop s
  else if !adaptive s p then
    match detRoute s me target p.src p.dst with
    | some c => if used + c.hops > 4 then drop s else goTo (noteAvoided s me target true) p c hold atSource
    | none => drop s
  else
    let r := if atSource ∧ bit (regN s (pgFab + 0x104)) 1 then drawIntermediates s me p.dst else ([], s)
    let s := r.2
    let non := r.1.flatMap (fun i => minimalCands s me i (if peers i p.dst then 1 else 2) (some i))
    let cs := minimalCands s me target 0 none ++ non
    match bestCand s p.data cs with
    | some c =>
      let s := noteAvoided s me target false
      if atSource then goTo s p c hold true
      else
        match lighter s c.next p.data with
        | some q => goTo s p { c with port := q } hold false
        | none => drop s
    | none =>
      match detour s me p.dst used p.data with
      | some c => goTo (noteAvoided s me p.dst false) { p with via := false } c hold atSource
      | none => drop s

/-- The next device of a multicast copy from its source: along the row first, else, where a pair of that tree has no link UP, down
the column first; none where that tree is shut too (R227). -/
def mcastHop (s : State) (me d : Nat) : Option Nat :=
  let x := 8 * (me / 8) + d % 8
  let y := 8 * (d / 8) + me % 8
  let open' := fun (n : Nat) => hopUsable s me n && (n == d || hopUsable s n d)
  if me % 8 = d % 8 then (if hopUsable s me d then some d else none)
  else if open' x then some x
  else if y ≠ me ∧ open' y then some y
  else none

/-- The copies of a multicast packet that leave its source: next device and mask (R227). Each device of the source's column has one
of its own. -/
def mcastFirst (s : State) (me mask : Nat) : List (Nat × Nat) :=
  let ds := (List.range 64).filter (fun d => bit mask d && d != me && isMember s d)
  let hops := ds.filterMap (fun d => (mcastHop s me d).map (fun n => (n, d)))
  let col := hops.filter (fun e => e.2 % 8 == me % 8)
  let rest := hops.filter (fun e => e.2 % 8 != me % 8)
  col.map (fun e => (e.1, 2 ^ e.2)) ++ ((rest.map (fun e => e.1)).eraseDups).map (fun n =>
    (n, ((rest.filter (fun e => e.1 == n)).map (fun e => 2 ^ e.2)).sum))

/-- Members that no open tree of the source reaches get no copy, and copies that take the Y-first tree avoid a pair: counted
(R227, R235). -/
def mcastNote (s : State) (me mask : Nat) : State :=
  let ds := (List.range 64).filter (fun d => bit mask d && d != me && isMember s d)
  let s := (ds.filter (fun d => (mcastHop s me d).isNone)).foldl (fun s _ => dropUnroutable s) s
  if ds.any (fun d => d % 8 != me % 8 && (match mcastHop s me d with
    | some n => n != 8 * (me / 8) + d % 8
    | none => false)) then incSat s (pgFab + 0x64) 1 else s

/-- A packet's copies are queued over the links that R225's choice gives (R227). -/
def sendCopies : List (Nat × Nat) → State → Pkt → Nat → Bool → State
  | [], s, _, _, _ => s
  | (n, m) :: r, s, p, hold, atSource =>
    let s := match detPort s n p.src n with
      | some q => enqueue s q { p with mask := m, hops := if atSource then p.hops else p.hops + 1 } hold
      | none => releaseHold (dropUnroutable s) hold
    sendCopies r s p hold atSource

/-- Mask bits that name no member are dropped and counted (R235). -/
def dropNonMembers (s : State) (mask : Nat) : State :=
  let n := ((List.range 64).filter (fun d => bit mask d && !isMember s d)).length
  if n = 0 then s else err (incSat s (pgFab + 0x6C) n) pgFab 0x0803

/-- The usable candidates of an outer entry, in order (R228): index, gateway and outer port. -/
def outerCands (s : State) (arb : Nat) : List (Nat × Nat × Nat) :=
  let e := NMap.get (fun _ => 0) s.fab.otab arb
  let me := myDev s
  if !bit e 63 then []
  else (List.range (fld e 61 60 + 1)).filterMap (fun i =>
    let c := fld e (8 * i + 7) (8 * i)
    let g := c / 4
    let q := 28 + c % 4
    let ok := if g = me then (getPort s q).lstate == .up else peers me g && hopUsable s me g && portUpAt s g q
    if ok then some (i, g, q) else none)

/-- A valid outer entry names a gateway that is no member (R235). -/
def gatewayForeign (s : State) (arb : Nat) : Bool :=
  let e := NMap.get (fun _ => 0) s.fab.otab arb
  bit e 63 && (List.range (fld e 61 60 + 1)).any (fun i => !isMember s (fld e (8 * i + 7) (8 * i + 2)))

/-- An OUTER packet outside its destination Arbour goes toward a gateway or over an outer port (R229). -/
def routeOuter (s : State) (p : Pkt) (hold : Nat) (atSource : Bool) : State :=
  let me := myDev s
  let drop := fun (s : State) => releaseHold (dropOuter s 0x0802) hold
  let cs := outerCands s p.dstArb
  -- a packet that has hopped to a gateway leaves there
  let cs := if atSource then cs else cs.filter (fun c => c.2.1 == me)
  let n := fld (NMap.get (fun _ => 0) s.fab.otab p.dstArb) 61 60 + 1
  let toCand := fun (c : Nat × Nat × Nat) =>
    if c.2.1 = me then some (⟨c.2.2, me, 1, 0, none⟩ : Cand)
    else (if adaptive s p then lighter s c.2.1 p.data else detPort s c.2.1 p.src p.dst).map
      (fun q => (⟨q, c.2.1, 2, 0, none⟩ : Cand))
  let pick := if adaptive s p then bestCand s p.data (cs.filterMap toCand)
    else
      let k := (p.src + p.dst) % n
      ((cs.filter (fun c => c.1 ≥ k) ++ cs.filter (fun c => c.1 < k)).head?).bind toCand
  match pick with
  | none => if gatewayForeign s p.dstArb then releaseHold (dropUnroutable s) hold else drop s
  | some c =>
    if c.next = me then
      if p.ohops ≥ 3 then drop s else enqueue s c.port p hold
    else goTo s p { c with via := none } hold atSource

/-- A hold of a received packet with a number of copies. -/
def openHold (s : State) (port vc units copies : Nat) : Nat × State :=
  let id := s.fab.nextHold
  (id, { s with fab := { s.fab with nextHold := id + 1, holds := s.fab.holds ++ [⟨id, port, vc, units, copies⟩] } })

/-- PACKET_INJECT (R220 to R229): the oldest packet that a unit has handed over chooses its route and is sent. -/
def execPacketInject (s : State) : Out :=
  match s.fab.inject with
  | [] => .next s
  | p :: r =>
    let s := inc64 { s with fab := { s.fab with inject := r } } (pgFab + 0x40) 1
    let me := myDev s
    if p.outer ∧ (p.mcast ∨ p.proto = 4 ∨ p.proto = 5 ∨ p.proto = 7) then .next (dropOuter s 0x0804)
    else if p.mcast then
      let s := mcastNote (dropNonMembers s p.mask) me p.mask
      let s := if bit p.mask me ∧ isMember s me then eject s p else s
      .next (sendCopies (mcastFirst s me p.mask) s p 0 true)
    else if p.outer then .next (routeOuter s p 0 true)
    else if p.dst = me then .next (eject s p)
    else .next (routeUnicast s p 0 true)

/-- PACKET_RECEIVE (R224, R227, R229, R235): the oldest received packet is forwarded, replicated or ejected.
`parity` is 1 where its words in the router's buffer fail their parity, 2 where the stamp table entry of its tag does, which a packet
for this device meets (R417, R428). -/
def execPacketReceive (parity : Nat) (s : State) : Out :=
  match s.fab.arrived with
  | [] => .next s
  | (port, p) :: r =>
    let x := getPort s port
    let s := setPort { s with fab := { s.fab with arrived := r } } port { x with stale := x.stale - 1 }
    -- room that a later training has advertised anew is not owed again (R214)
    let units := if x.stale = 0 then p.units else 0
    let me := myDev s
    let vc := p.vc
    let fwd := fun (s : State) => inc64 (inc64 s (pgFab + 0x50) 1) (pgFab + 0x58) p.size
    let mine := p.dstArb = myArb s
    -- over an outer link OHOPS rises and HOPS restarts (R218)
    let q := if port ≥ 28 then { p with ohops := p.ohops + 1, hops := 0 } else p
    let fresh := decide (port ≥ 28)
    let s := if parity = 2 ∧ mine ∧ (if p.mcast then bit p.mask me else p.dst = me ∧ !(p.via && p.viaDev != me)) then loseStamp s p else s
    if parity = 1 then
      let h := openHold s port vc units 1
      .next (releaseHold (err (evt (incSat h.2 (pgFab + 0x78) 1) pgFab 0) pgFab 0x0805) h.1)
    else if p.mcast then
      let others := (List.range 64).filter (fun d => bit p.mask d && d != me && isMember s d && peers me d)
      let copies := others.map (fun d => (d, 2 ^ d))
      let h := openHold (dropNonMembers s p.mask) port vc units (copies.length + 1)
      let s := if bit p.mask me then eject h.2 p else h.2
      let s := if copies.isEmpty then s else fwd s
      .next (releaseHold (sendCopies copies s q h.1 false) h.1)
    else if mine ∧ p.dst = me ∧ !(p.via && p.viaDev != me) then
      let h := openHold s port vc units 1
      .next (releaseHold (eject h.2 { q with via := false }) h.1)
    else
      let h := openHold s port vc units 1
      let s := if p.outer ∧ !mine then routeOuter h.2 q h.1 fresh else routeUnicast h.2 q h.1 fresh
      -- a packet that has been dropped holds its buffer no longer
      .next (if s.fab.holds.any (fun x => x.id == h.1) then fwd s else s)

/-! ## Link states -/

/-- A LINKSTATE notice of this device to every member (R233). -/
def sendNotice (s : State) (p code : Nat) : State :=
  if !bit (regN s (pgFab + 0x104)) 2 then s
  else
    let m := ((members s).map (fun d => 2 ^ d)).sum
    let b := leBytes 8 (now s) ++ [BitVec.ofNat 8 (myDev s), BitVec.ofNat 8 p, BitVec.ofNat 8 code] ++ List.replicate 5 0
    send s { mkMcast s 9 0 m with body := b }

/-- A held packet stands for a number of copies instead of one. -/
def splitHold (s : State) (h copies : Nat) : State :=
  { s with fab := { s.fab with holds := s.fab.holds.map (fun y => if y.id = h then { y with left := y.left + copies - 1 } else y) } }

/-- A copy of a multicast packet held for a port that has left UP: its members are reached by the trees of this device (R227,
R233). -/
def rerouteCopies (s : State) (p : Pkt) (hold : Nat) : State :=
  let cs := mcastFirst s (myDev s) p.mask
  let s := mcastNote s (myDev s) p.mask
  if cs.isEmpty then releaseHold s hold else sendCopies cs (splitHold s hold cs.length) p hold true

/-- Packets held for a port that has left UP are rerouted whole from this device: by the shortest route of usable hops, or where
R225 routes them, by its own order (R224, R225, R233). -/
def reroute : List QPkt → State → State
  | [], s => s
  | e :: r, s =>
    let p := e.pkt
    let s := incSat s (pgFab + 0x64) 1
    let me := myDev s
    let drop := fun (s : State) => releaseHold (dropUnroutable s) e.hold
    let s :=
      if p.mcast then rerouteCopies s p e.hold
      else if p.outer ∧ p.dstArb ≠ myArb s then routeOuter s { p with via := false } e.hold true
      else if p.dst = me then releaseHold (eject s { p with via := false }) e.hold
      else if p.outer ∨ !adaptive s p then
        match detRoute s me (if p.via then p.viaDev else p.dst) p.src p.dst with
        | some c => if p.hops + c.hops > 4 then drop s else goTo s p (if p.outer then { c with via := none } else c) e.hold true
        | none => drop s
      else
        match detour s me p.dst p.hops p.data with
        | some c => goTo s { p with via := false } c e.hold true
        | none => drop s
    reroute r s

/-- A port leaves UP for a state: its packet in progress is void, its held packets are rerouted, a notice is sent
(R214, R233). -/
def leaveUp (s : State) (p : Nat) (st : LState) : State :=
  let x := getPort s p
  let pairBefore := pairsDown s
  let held := x.sent ++ x.queue
  let s := setPort s p { x with lstate := st, sent := [], queue := [], part := [], downAt := now s, tries := 0 }
  let s := evt (incSat s (pgPort p + 0x74) 1) (pgPort p) 1
  let s := if pairsDown s > pairBefore then evt s pgFab 3 else s
  reroute held (sendNotice s p st.code)

/-- A port enters TRAINING: credits, sequence numbers and the retry buffer are reset, and the identity exchange begins (R212,
R214). The room of packets received before is advertised anew and owed no more. -/
def toTraining (s : State) (p : Nat) : State :=
  let x := getPort s p
  let old := (s.fab.arrived.filter (fun e => e.1 == p)).length
  let s := { s with fab := { s.fab with holds := s.fab.holds.map (fun h => if h.port = p then { h with units := 0 } else h) } }
  sendIdentity (setPort s p { lstate := .training, tries := x.tries, downAt := x.downAt, stale := old }) p

/-- A port is marked bad by reconciliation (R383). -/
def portBad (s : State) (p : Nat) : Bool := bit s.boot.badPorts p

/-- PORT_ENABLE (R214, R237). -/
def execPortEnable (p : Nat) (s : State) : Out :=
  guardWrite s (pgPort p) (whenOk (p < 32 && (getPort s p).lstate == .disabled && !portBad s p) s (toTraining s p))

/-- PORT_DISABLE (R214). -/
def execPortDisable (p : Nat) (s : State) : Out :=
  guardWrite s (pgPort p)
    (if p ≥ 32 ∨ (getPort s p).lstate = .disabled then .next s
     else
       let old := (s.fab.arrived.filter (fun e => e.1 == p)).length
       .next (setPort (if (getPort s p).lstate = .up then leaveUp s p .disabled else s) p { stale := old }))

/-- PORT_RETRAIN (R214). -/
def execPortRetrain (p : Nat) (s : State) : Out :=
  guardWrite s (pgPort p) (whenOk (p < 32 && (getPort s p).lstate == .up) s (leaveUp s p .down))

/-- PORT_UNQUARANTINE (R214). -/
def execPortUnquarantine (p : Nat) (s : State) : Out :=
  guardWrite s (pgPort p) (whenOk (p < 32 && (getPort s p).lstate == .quarantined) s (toTraining s p))

/-- The peer that training expects on a port (R221). -/
def peerExpected (s : State) (p arb dev port : Nat) : Bool :=
  if p < 28 then
    match portPeer (myDev s) p with
    | some b => arb == myArb s && dev == b && port == pairPort b (myDev s) + p % 2
    | none => false
  else arb != myArb s && port ≥ 28

/-- PORT_TRAINING_DONE (R214, R221): training finds the lanes of inverted polarity, and the identity exchange gives the peer's Arbour
id, device index and port. -/
def execPortTrainingDone (p pol arb dev port : Nat) (s : State) : Out :=
  if p ≥ 32 ∨ (getPort s p).lstate ≠ .training then .next s
  else
    let s := setRegN s (pgPort p + 0x108) (arb % 65536 * 65536 + dev % 64 * 256 + port % 32)
    let x := { getPort s p with pol := pol % 16, locked := true }
    if peerExpected s p arb dev port then
      let s := setPort s p { x with lstate := .up, owed := allCredits, lastFlit := now s, tries := 0 }
      .next (portPump (sendNotice (evt s (pgPort p) 0) p 2) p)
    else .next (err (evt (setPort s p { x with lstate := .miswired }) (pgPort p) 4) (pgPort p) 0x0906)

/-- ALIGNMENT_LOSS (R214): PCS alignment has been lost for more than 10 µs. -/
def execAlignmentLoss (p : Nat) (s : State) : Out :=
  whenOk (p < 32 && (getPort s p).lstate == .up) s (leaveUp s p .down)

/-- FLIT_SILENCE_TIMEOUT (R214): no flit of any type for 10 µs. -/
def execFlitSilenceTimeout (p : Nat) (s : State) : Out :=
  whenOk (p < 32 && (getPort s p).lstate == .up && now s ≥ (getPort s p).lastFlit + 10000) s (leaveUp s p .down)

/-- Delay of a retraining attempt from the entry to DOWN, in TCLK (R214). -/
def backoff (tries : Nat) : Nat :=
  match tries with
  | 0 => 1000000
  | 1 => 10000000
  | 2 => 100000000
  | n + 3 => 100000000 + (n + 1) * 1000000000

/-- DOWN_BACKOFF_RETRAIN (R214). -/
def execDownBackoffRetrain (p : Nat) (s : State) : Out :=
  let x := getPort s p
  let down := x.lstate == .down || (x.lstate == .training && x.tries > 0)
  whenOk (p < 32 && down && now s ≥ x.downAt + backoff x.tries) s
    (toTraining (setPort s p { x with tries := x.tries + 1 }) p)

/-- RETRY_LIMIT_DOWN (R214): eight RETRY_REQ for one FSEQ without ACK progress. -/
def execRetryLimitDown (p : Nat) (s : State) : Out :=
  whenOk (p < 32 && (getPort s p).lstate == .up && (getPort s p).reqCount ≥ 8) s (leaveUp s p .down)

/-- QUARANTINE_LIMIT (R234). -/
def execQuarantineLimit (p : Nat) (s : State) : Out :=
  let x := getPort s p
  whenOk (p < 32 && x.lstate == .up && x.viol > regN s (pgFab + 0x114)) s
    (sendIdle (err (evt (leaveUp s p .quarantined) (pgPort p) 3) (pgPort p) 0x0907) p)

/-! ## Reception -/

/-- A violation on a port (R234): counted, recorded, and counted toward quarantine in its ms. -/
def violation (s : State) (p code : Nat) : State :=
  let pg := pgPort p
  let s := if regN s (pg + 0x118) = 0 then setRegN s (pg + 0x118) code else s
  let x := getPort s p
  let ms := now s / 1000000
  let x := if x.violSince = ms then { x with viol := x.viol + 1 } else { x with viol := 1, violSince := ms }
  err (evt (incSat (setPort s p x) (pg + 0x70) 1) pg 2) pg code

/-- An ACK lies in the transmit window: the last flit sent, one still held, or the one before them (R213, R234). -/
def ackBehind (x : Port) (a : Nat) : Nat := (x.txSeq + 4096 * 2 - 1 - a) % 4096

/-- Packets whose last flit is acknowledged: those not among the flits still held. -/
def ackedPkts (x : Port) : List QPkt := x.sent.filter (fun e => !x.retry.any (fun f => f.fseq == e.lastSeq))

/-- ACK progress: acknowledged flits leave the retry buffer, and packets acknowledged whole are released. -/
def applyAck (s : State) (p a : Nat) : State :=
  let x := getPort s p
  let d := ackBehind x a
  if d > x.retry.length then violation s p 0x0904
  else
    let moved := d < x.retry.length
    let x := { x with retry := x.retry.drop (x.retry.length - d), reqCount := if moved then 0 else x.reqCount }
    let done := ackedPkts x
    let x := { x with sent := x.sent.filter (fun e => x.retry.any (fun f => f.fseq == e.lastSeq)) }
    portPump (done.foldl (fun s e => releaseHold s e.hold) (setPort s p x)) p

/-- The receiver asks for the expected FSEQ again (R213). -/
def askRetry (s : State) (p : Nat) : State :=
  let x := getPort s p
  let f : Flit := { ftype := 3, fseq := x.rxSeq, ack := x.ackOf }
  incSat (wireOut (setPort s p { x with awaiting := true, retryAt := now s }) p [f]) (pgPort p + 0x68) 1

/-- A transmitter resends from the named FSEQ in order (R213). -/
def resend (s : State) (p q : Nat) : State :=
  let x := getPort s p
  let n := if x.reqSeq = q ∧ x.reqCount > 0 then x.reqCount + 1 else 1
  let fs := x.retry.dropWhile (fun f => f.fseq != q)
  let s := setPort s p { x with reqSeq := q, reqCount := n }
  incSat (wireOut s p (fs.map (fun f => { f with ack := x.ackOf }))) (pgPort p + 0x6C) 1

/-- RETRY_REQ (R213): a transmitter receives RETRY_REQ for an FSEQ. -/
def execRetryReq (p q : Nat) (s : State) : Out :=
  whenOk (p < 32 && (getPort s p).lstate == .up) s (resend s p (q % 4096))

/-- RETRY_REQ_REPEAT (R213): every 2 µs until the expected flit arrives. -/
def execRetryReqRepeat (p : Nat) (s : State) : Out :=
  let x := getPort s p
  whenOk (p < 32 && x.lstate == .up && x.awaiting && now s ≥ x.retryAt + 2000) s (askRetry s p)

/-- The checks of a received packet (R234): 0 for a good one. -/
def pktViolation (p : Nat) (k : Pkt) (units adv : Nat) : Nat :=
  let lim := if k.data then 2048 else if k.mcast then 40 else 48
  if k.proto = 0 ∨ k.proto ≥ 12 ∨ k.rsv ≠ 0 then 0x0902
  else if k.len > lim ∨ k.len % 4 ≠ 0 ∨ k.hops > 3 then 0x0903
  else if adv < units then 0x0901
  else if p ≥ 28 ∧ (k.mcast ∨ [4, 5, 7, 9, 10, 11].contains k.proto) then 0x0905
  else 0

/-- Whole packets leave the bytes received; what is left belongs to the packet in progress. -/
def takePackets : Nat → State → Nat → List Byte → State × List Byte
  | 0, s, _, bs => (s, bs)
  | n + 1, s, p, bs =>
    if bs.length < 16 then (s, bs)
    else
      let l := pktLength (leNat (bs.take 16))
      if l % 4 ≠ 0 then (violation s p 0x0903, [])
      else if bs.length < l then (s, bs)
      else
        let k := parsePkt (bs.take l)
        let x := getPort s p
        let v := pktViolation p k k.units (x.adv.getD k.vc 0)
        let s :=
          if v ≠ 0 then violation s p v
          else
            let s := setPort s p { x with adv := atVc x.adv k.vc (fun u => u - k.units) }
            { s with fab := { s.fab with arrived := s.fab.arrived ++ [(p, k)] } }
        takePackets n s p (bs.drop l)

/-- Word offset at which the first packet begins in a flit, given the bytes of the packet in progress (R212). -/
def startOf (part words : List Byte) : Nat :=
  let n := words.length / 4
  if part.isEmpty then (if n = 0 then 63 else 0)
  else
    let all := part ++ words
    if all.length < 16 then 63
    else
      let l := pktLength (leNat (all.take 16))
      if all.length > l then (l - part.length) / 4 else 63

/-- The payload and the credits of an accepted sequenced flit (R212, R213, R233). -/
def acceptFlit (s : State) (p : Nat) (f : Flit) : State :=
  let x := getPort s p
  let cred := atVc (atVc x.cred f.cvcA (fun k => k + f.credA)) f.cvcB (fun k => k + f.credB)
  let x := { x with
                    rxSeq := (x.rxSeq + 1) % 4096, awaiting := false, cred := cred,
                    part := if f.abort then [] else x.part }
  let s := setPort s p x
  let s :=
    if f.ftype ≠ 1 then s
    else if f.fill > 61 ∨ f.start ≠ startOf x.part f.words then
      violation (setPort s p { x with part := [] }) p 0x0904
    else
      let r := takePackets 17 s p (x.part ++ f.words)
      setPort r.1 p { getPort r.1 p with part := r.2 }
  portPump s p

/-- A bit that the header's type reserves is set (R212, R234): bit 0, and FSEQ of IDLE and LINK_MGMT. -/
def flitReserved (f : Flit) : Bool := decide (f.ftype > 4) || f.rsv || ((f.ftype == 0 || f.ftype == 4) && f.fseq != 0)

/-- A flit that carries no packet bytes claims some (R212, R234). -/
def flitContradicts (f : Flit) : Bool := f.ftype != 1 && f.ftype != 4 && (f.fill != 0 || f.start != 63)

/-- A flit that a port in TRAINING receives: the identity exchange is its LINK_MGMT flits (R212), whose outcome PORT_TRAINING_DONE
brings; anything else is discarded. -/
def trainFlit (s : State) (p : Nat) (bytes : List Byte) : State :=
  if flitGood bytes then inc64 (setPort s p { getPort s p with lastFlit := now s }) (pgPort p + 0x48) 1 else incSat s (pgPort p + 0x64) 1

/-- FLIT_RECEIVE (R213): a port receives 256 bytes of a link flit; `fec` is 1 where the FEC corrected a codeword and 2
where it could not. -/
def execFlitReceive (p : Nat) (bytes : List Byte) (fec : Nat) (s : State) : Out :=
  if p ≥ 32 then .next s
  else if (getPort s p).lstate = .training ∧ fec ≠ 2 then .next (trainFlit s p bytes)
  else if (getPort s p).lstate ≠ .up then .next s
  else
    let pg := pgPort p
    let s := setPort s p { getPort s p with lastFlit := now s }
    let s := if fec = 1 then inc64 s (pg + 0x58) 1 else if fec = 2 then incSat s (pg + 0x60) 1 else s
    let f := parseFlit bytes
    let x := getPort s p
    if fec = 2 ∨ !flitGood bytes then
      let s := incSat s (pg + 0x64) 1
      .next (if x.awaiting then s else askRetry s p)
    else
      let s := inc64 s (pg + 0x48) 1
      if flitReserved f then .next (violation s p 0x0902)
      else if flitContradicts f then .next (violation s p 0x0904)
      else
        let s := if f.ftype ≤ 3 then applyAck s p f.ack else s
        match f.ftype with
        | 3 => .next (resend s p f.fseq)
        | 0 => .next s
        | 4 => .next s
        | _ =>
          if f.fseq = (getPort s p).rxSeq then .next (acceptFlit s p f)
          else if (getPort s p).awaiting then .next s
          else .next (askRetry s p)

/-- An FCLK of the router die at a port: a packet that waits for credit, and a full retry buffer, which lets only IDLE flits leave,
are counted (R213, R237). -/
def fclkTick (s : State) (p : Nat) : State :=
  let x := getPort s p
  if x.lstate ≠ .up then s
  else
    let s := if (vcHeads [] x.queue).any (fun e => !hasCredit x e) then incSat s (pgPort p + 0x78) 1 else s
    if retryFull x then incSat s (pgPort p + 0x7C) 1 else s

/-! ## Congestion maps -/

/-- Occupancy of a (port, VC) in bytes (R231). -/
def vcOccupancy (s : State) (p v : Nat) : Nat :=
  let x := getPort s p
  let q := ((x.queue.filter (fun e => e.pkt.vc == v)).map (fun e => e.pkt.size)).sum
  q + (if x.lstate = .up then 32 * (vcCap v - x.cred.getD v 0) else 0)

/-- CMAP_SAMPLE (R231): at a multiple of 1,000 TCLK every (port, VC) is sampled. -/
def execCmapSample (s : State) : Out :=
  whenOk (now s % 1000 == 0 && s.fab.cmapN < 100 && s.fab.cmapAt != now s) s
    { s with
      fab := { s.fab with
        cmapN := s.fab.cmapN + 1, cmapAt := now s,
        cmapSum := (List.range 256).foldl (fun m k =>
          NMap.set (fun _ => 0) m k (NMap.get (fun _ => 0) m k + vcOccupancy s (k / 8) (k % 8))) s.fab.cmapSum } }

/-- The level of a mean occupancy (R231). -/
def cmapLevel (sum n v : Nat) : Nat :=
  let full := vcCap v * 32 * n
  if n = 0 then 0 else if 4 * sum < full then 0 else if 2 * sum < full then 1 else if sum < full then 2 else 3

/-- The congestion map as a 512-bit number (R231). -/
def cmapOf (s : State) : Nat :=
  (List.range 256).foldl (fun a k =>
    a + cmapLevel (NMap.get (fun _ => 0) s.fab.cmapSum k) s.fab.cmapN (k % 8) * 2 ^ (2 * k)) 0

/-- A CMAP packet with one part of a map (R232). -/
def cmapPkt (s : State) (seq part : Nat) (map : List Byte) : Pkt :=
  let d := regN s (pgFab + 0x118)
  let arb := if bit d 30 then fld d 21 6 else myArb s
  { mkPkt s 8 0 arb (fld d 5 0) with
    msgId := seq, count := 2, last := part == 1,
    body := leBytes 8 (now s) ++ leBytes 2 seq ++ [BitVec.ofNat 8 part] ++ List.replicate 5 0
      ++ (map.drop (32 * part)).take 32 }

/-- The congestion map of an interval formed and shown in the registers, and the sums restarted (R231, R232). -/
def cmapFormed (s : State) : State :=
  let m := leBytes 64 (cmapOf s)
  let s := setRegN (setRegN s (pgFab + 0x11C) ((regN s (pgFab + 0x11C) + 1) % 65536)) (pgFab + 0x160) (now s)
  let s := (List.range 16).foldl (fun s i => setRegN s (pgFab + 0x120 + 4 * i) (leNat ((m.drop (4 * i)).take 4))) s
  { s with fab := { s.fab with cmapSum := [], cmapN := 0, cmapEnd := now s } }

/-- CMAP_INTERVAL_END (R231, R232): at a multiple of 100,000 TCLK the map is formed, and sent where a collector is
named. -/
def execCmapIntervalEnd (s : State) : Out :=
  if now s % 100000 ≠ 0 ∨ s.fab.cmapN = 0 then .next s
  else
    let m := leBytes 64 (cmapOf s)
    let seq := (regN s (pgFab + 0x11C) + 1) % 65536
    let s := cmapFormed s
    if bit (regN s (pgFab + 0x118)) 31 then
      .next (incSat (send (send s (cmapPkt s seq 0 m)) (cmapPkt s seq 1 m)) (pgFab + 0x7C) 1)
    else .next s

/-- A collector's ring record (R232). -/
def cmapRecord (s : State) (arb dev seq time : Nat) (incomplete : Bool) (map : List Byte) : State :=
  let n := regN s (pgFab + 0x16C)
  if n = 0 then s
  else
    let h := regN s (pgFab + 0x170)
    let b := leBytes 8 time ++ leBytes 2 seq ++ leBytes 2 arb ++ [BitVec.ofNat 8 dev, BitVec.ofNat 8 (b2n incomplete)]
      ++ leBytes 2 0 ++ map ++ List.replicate 48 0
    let s := t1WriteRaw s (pairN s (pgFab + 0x164) + 128 * h) b
    incSat (setRegN s (pgFab + 0x170) ((h + 1) % n)) (pgFab + 0x80) 1

/-- CMAP (R232): a collector takes the oldest received part, and writes the record once both parts are held. -/
def execCmap (s : State) : Out :=
  match takeEjected s (fun p => p.proto == 8) with
  | none => .next s
  | some (p, s) =>
    let seq := byteFld p.body 8 9
    let part := byteFld p.body 10 10
    let bs := padTo 32 (p.body.drop 16)
    match s.fab.cmapParts.find? (fun c => c.arb == p.srcArb && c.dev == p.src && c.seq == seq && c.part != part) with
    | some c =>
      let s := { s with fab := { s.fab with cmapParts := s.fab.cmapParts.erase c } }
      .next (cmapRecord s p.srcArb p.src seq c.time false (if part = 1 then c.bytes ++ bs else bs ++ c.bytes))
    | none =>
      if s.fab.cmapParts.any (fun c => c.arb == p.srcArb && c.dev == p.src && c.seq == seq) then .next s
      else
        .next { s with
        fab := { s.fab with
        cmapParts := s.fab.cmapParts ++
          [⟨p.srcArb, p.src, seq, byteFld p.body 0 7, part, bs, now s⟩] } }

/-- CMAP_PART_TIMEOUT (R232): a part missing 1 ms after its sibling arrived is written as zeros. -/
def execCmapPartTimeout (s : State) : Out :=
  match s.fab.cmapParts.find? (fun c => now s ≥ c.since + 1000000) with
  | none => .next s
  | some c =>
    let s := { s with fab := { s.fab with cmapParts := s.fab.cmapParts.erase c } }
    let z := List.replicate 32 0
    .next (cmapRecord s c.arb c.dev c.seq c.time true (if c.part = 0 then c.bytes ++ z else z ++ c.bytes))

/-- OTAB_ENTRY_WRITE (R228): the write of FAB_OTAB_DATA_HI stores an entry and advances the index. -/
def execOtabEntryWrite (hi : Nat) (s : State) : Out :=
  guardWrite s pgFab (
    let i := regN s (pgFab + 0x174) % 65536
    let e := regN s (pgFab + 0x178) + hi % 2 ^ 32 * 2 ^ 32
    .next (setRegN { s with fab := { s.fab with otab := NMap.set (fun _ => 0) s.fab.otab i e } } (pgFab + 0x174)
      ((i + 1) % 65536)))

end Sys2Proof.Machine
end

