-- ==== Sys2Proof/Machine/Issuer.lean ====
section
/-!
DEFINITION. Issuing a request or message: its id, its outstanding counter, its retries and its failure (R247, R250,
R253).
-/

namespace Sys2Proof.Machine

open Sys2Proof Sys2Proof.Config

/-- The FCLK edges since power-on (18 GHz ÷ 10, R361). -/
def fclk (s : State) : Nat := s.clk.root / 10

/-- Requests outstanding toward a destination. -/
def toward (s : State) (arb dev : Nat) : List Req := s.atom.out.filter (fun r => r.arb == arb && r.dev == dev)

/-- The destination devices of a request: those of a multicast message are its mask's (R252). -/
def destsOf (r : Req) : List Nat := if r.mask = 0 then [r.dev] else (List.range 64).filter (fun d => bit r.mask d)

/-- The next id toward a destination (R247). -/
def nextIdOf (s : State) (arb dev : Nat) : Nat := NMap.get (fun _ => 0) s.atom.nextId (arb * 64 + dev)

/-- The id that a request takes: the next of its destination; a multicast message takes the one, of its destinations' next
ids, that is behind none of the others (R247, R252). -/
def takenId (s : State) (r : Req) : Nat :=
  let ns := (destsOf r).map (nextIdOf s r.arb)
  ns.foldl (fun a b => if (b + 65536 - a) % 65536 < 32768 then b else a) (ns.headD 0)

/-- A request may leave: at most 256 are outstanding toward each destination, and no id 1,024 behind it is
unacknowledged (R247). -/
def mayLeave (s : State) (r : Req) : Bool :=
  let n := takenId s r
  (destsOf r).all (fun d =>
    let l := toward s r.arb d
    l.length < 256 && !l.any (fun q => (n + 65536 - q.id) % 65536 ≥ 1024))

/-- A request leaves the device with its id (R247). A multicast message leaves once, is outstanding toward every member, and is
sent again to each alone (R250, R252). -/
def leave (s : State) (r : Req) : State :=
  let n := takenId s r
  let ps := r.pkts.map (fun p => { p with msgId := n })
  (destsOf r).foldl (fun s d =>
    let qs := if r.mask = 0 then ps else ps.map (fun p => { p with mcast := false, mask := 0, dst := d })
    let s := if r.proto = 7 then s else inc64 s (pgAtom + 0x40) 1
    { s with
      atom := { s.atom with
        nextId := NMap.set (fun _ => 0) s.atom.nextId (r.arb * 64 + d) ((n + 1) % 65536),
        out := s.atom.out ++ [{ r with dev := d, id := n, pkts := qs, sentAt := now s, mask := 0 }] } })
    (ps.foldl send s)

/-- Two requests are for a common destination. -/
def shareDest (q r : Req) : Bool := q.arb == r.arb && (destsOf q).any (fun d => (destsOf r).contains d)

/-- A request is issued: it leaves, or waits for room toward its destination behind those that wait already. -/
def issueReq (s : State) (r : Req) : State :=
  if mayLeave s r ∧ !s.atom.held.any (fun q => shareDest q r) then leave s r
  else { s with atom := { s.atom with held := s.atom.held ++ [r] } }

/-- Held requests that may leave now do, oldest first. -/
def releaseHeld : List Req → State → State
  | [], s => s
  | r :: rs, s =>
    let s := if mayLeave s r ∧ !(s.atom.held.takeWhile (fun q => q != r)).any (fun q => shareDest q r) then leave { s with atom := { s.atom with held := s.atom.held.erase r } } r else s
    releaseHeld rs s

/-- A request is answered or has failed: it is no longer outstanding, and a waiting one may take its room. -/
def settle (s : State) (r : Req) : State :=
  let s := { s with atom := { s.atom with out := s.atom.out.erase r } }
  releaseHeld s.atom.held s

/-- An issuer's outstanding counter (R253). -/
def outstandingOf (s : State) (i : Issuer) : Nat :=
  ((s.atom.out ++ s.atom.held).filter (fun r => r.counted && (r.issuer == i || r.members.any (fun m => m.1 == i)))).length
    + (s.atom.combs.filter (fun c => c.members.any (fun m => m.1 == i))).length

/-! ## Sequence windows (R248) -/

/-- The window of a source, if the receiver keeps one. -/
def windowOf (s : State) (arb dev : Nat) : Option SeqWindow :=
  s.atom.windows.find? (fun w => w.arb == arb && w.dev == dev)

/-- What an id is to its source's window. -/
inductive Seen where
  /-- to be processed -/
  | fresh
  /-- marked: the stored response header and bytes -/
  | dup (hdr : Nat) (bs : List Byte)
  /-- below the window, or with no window to be had -/
  | old
  deriving DecidableEq, Repr

/-- A source outside the Arbour finds a window or a free entry among 512; an entry idle for 1 ms is free (R248). -/
def windowRoom (s : State) (arb : Nat) : Bool :=
  arb == myArb s || (s.atom.windows.filter (fun w => w.arb != myArb s && now s < w.lastUse + 1000000)).length < 512

/-- An id against its source's window. -/
def seen (s : State) (arb dev id : Nat) : Seen :=
  match windowOf s arb dev with
  | none => if windowRoom s arb then .fresh else .old
  | some w =>
    let ahead := (id + 65536 - w.high) % 65536
    if 0 < ahead ∧ ahead < 32768 then .fresh
    else if (w.high + 65536 - id) % 65536 ≥ 1024 then .old
    else
      match w.marks.find? (fun m => m.1 == id) with
      | some m => .dup m.2.1 m.2.2
      | none => .fresh

/-- The window slides over an id, and the id is marked with its stored response where one is given. -/
def noteId (s : State) (arb dev id : Nat) (mark : Option (Nat × List Byte)) : State :=
  let w := (windowOf s arb dev).getD ⟨arb, dev, id, [], 0⟩
  let ahead := (id + 65536 - w.high) % 65536
  let high := if ahead < 32768 then id else w.high
  let marks := w.marks.filter (fun m => (high + 65536 - m.1) % 65536 < 1024)
  let marks := match mark with
    | some r => (id, r.1, r.2.take 16) :: marks
    | none => marks
  let others := s.atom.windows.filter (fun x => !(x.arb == arb && x.dev == dev))
  -- a new outer window takes the place of one idle for 1 ms where 512 are kept
  let others := if (windowOf s arb dev).isNone ∧ arb ≠ myArb s
      ∧ (others.filter (fun x => x.arb != myArb s)).length ≥ 512 then
      others.eraseP (fun x => x.arb != myArb s && now s ≥ x.lastUse + 1000000) else others
  { s with atom := { s.atom with windows := ⟨arb, dev, high, marks, now s⟩ :: others } }

/-- The response to a performed request: its window is marked with it, and it leaves (R245, R248). -/
def sendMarked (s : State) (r : Pkt) : State := send (noteId s r.dstArb r.dst r.msgId (some (r.th, r.rest))) r

end Sys2Proof.Machine
end

