-- ==== Sys2Proof/Machine/JobMem.lean ====
section
/-!
DEFINITION. The job address space: the Tier Map walk, page entries, grain states, access counts, and reads and
writes of job memory (R160 to R166, R173, R175, R328).
-/

namespace Sys2Proof.Machine

open Sys2Proof Sys2Proof.Config

/-- What a walk of the Tier Map finds (R160). -/
inductive Walk where
  /-- directory or page entry with VALID clear -/
  | unmapped
  /-- an entry lies in an uncorrectable block -/
  | bad
  /-- the page entry: its T1 address and its 64 bytes as a number -/
  | page (ea w : Nat)
  deriving DecidableEq, Repr

/-- The T1 address of a partition's directory, as the Granary of a die holds it. -/
def dirBase (s : State) (die part : Nat) : Nat := pairN s (pgGrn die + 0x108 + 8 * part)

/-- The T1 address of the directory entry of a job address (R160). -/
def dirEntryAddr (s : State) (die part a : Nat) : Nat := dirBase s die part + 8 * fld a 47 33

/-- A block of T1 that reads as uncorrectable. -/
def blockBad (s : State) (a : Nat) : Bool := t1Decode s (a / 64 * 64) == .uncorrectable

/-- The live page entry: the buffered one where it differs from T1 (R164). -/
def entryW (s : State) (ea : Nat) : Nat :=
  match NMap.find s.grn.live ea with
  | some bs => leNat bs
  | none => leNat (t1Raw s ea 64)

/-- The T1 address of the page entry of a job address, whatever its VALID bit; none with no valid directory entry. -/
def entryAddr (s : State) (die part a : Nat) : Option Nat :=
  let d := leNat (t1Raw s (dirEntryAddr s die part a) 8)
  if bit d 63 then some (fld d 40 0 + 64 * fld a 32 21) else none

/-- The walk of the Tier Map for a job address (R160). -/
def walk (s : State) (die part a : Nat) : Walk :=
  if blockBad s (dirEntryAddr s die part a) then .bad
  else
    match entryAddr s die part a with
    | none => .unmapped
    | some ea =>
      if (NMap.find s.grn.live ea).isNone ∧ blockBad s ea then .bad
      else
        let w := entryW s ea
        if bit w 63 then .page ea w else .unmapped

/-! The fields of a page entry (R161). -/

def peClass (w : Nat) : Nat := fld w 62 60
def peWritable (w : Nat) : Bool := bit w 59
def pePlanned (w : Nat) : Bool := bit w 58
def peOwner (w : Nat) : Nat := fld w 57 57
def peHomeDev (w : Nat) : Nat := fld w 55 50
def peHomeFrame (w : Nat) : Nat := fld w 49 30
def peFrame (w : Nat) : Nat := fld w 29 10
def peEpoch (w : Nat) : Nat := fld w 9 2
def peGrain (w g : Nat) : Nat := fld w (64 + 4 * g + 3) (64 + 4 * g)
def peLenderA (w : Nat) : Nat := fld w 255 250
def peFrameA (w : Nat) : Nat := fld w 249 230
def peLenderB (w : Nat) : Nat := fld w 229 224
def peFrameB (w : Nat) : Nat := fld w 223 204
def peCount (w g : Nat) : Nat := fld w (256 + 8 * g + 7) (256 + 8 * g)

/-- The entry with a grain in a state. -/
def peSetGrain (w g st : Nat) : Nat := setFld w (64 + 4 * g + 3) (64 + 4 * g) st

/-- The grain of a job address. -/
def grainOf (a : Nat) : Nat := fld a 20 16

/-- A page is dirty by its class (R166). -/
def peDirty (w : Nat) : Bool :=
  let c := peClass w
  c == 1 || c == 2 || c == 4 || (c == 3 && peWritable w)

/-- The buffered entry replaced (R164). -/
def setEntry (s : State) (ea w : Nat) : State :=
  { s with grn := { s.grn with live := NMap.put s.grn.live ea (leBytes 64 w) } }

/-- The buffered entry written back to T1 (R164: at a flip, at eviction and at every commit). -/
def writeBack (s : State) (ea : Nat) : State :=
  match NMap.find s.grn.live ea with
  | none => s
  | some bs =>
    let s := inc64 (t1WriteRaw s ea bs) (pgMch (t1Channel ea) + 0x48) 1
    { s with grn := { s.grn with live := NMap.del s.grn.live ea } }

/-- A Tier Map buffer lookup that misses reads one block of T1 and is counted (R164); what the read finds is noted on its
channel (R192, R331). -/
def missRead (s : State) (die a : Nat) : State := (readBlock (incSat s (pgGrn die + 0xCC) 1) (a / 64 * 64) 0x0503 true).2

/-- A T1 frame is reserved (R168). -/
def reservedFrame (f : Nat) : Bool := decide (391168 ≤ f / 2)

/-- The reserved frames that firmware itself holds on each die (R168, GRN_RSV). -/
def fwFrames (s : State) (die : Nat) : Nat := regN s (pgGrn die + 0x17C) / 2 ^ 20

/-- A software frame among the reserved ones is assigned to a structure at its first use as that structure (R331). -/
def assignFrame (s : State) (a code : Nat) : State :=
  let f := a / 0x200000
  if reservedFrame f ∧ 391168 + fwFrames s (f % 2) ≤ f / 2 then
    { s with grn := { s.grn with assigned := NMap.put s.grn.assigned f code } }
  else s

/-- The lookup of a directory entry in a Granary's buffer of 256 (R164). -/
def lookDir (s : State) (die da : Nat) : State :=
  if s.grn.dirBuf.contains (die, da) then s
  else
    let s := missRead s die da
    if blockBad s da then s
    else
      { s with
        grn := { s.grn with
          dirBuf := (die, da) :: (s.grn.dirBuf.filter (fun e => e.1 == die)).take 255
            ++ s.grn.dirBuf.filter (fun e => e.1 != die) } }

/-- The lookup of a page entry in a Granary's buffer of 32,768 (R164): only a valid entry stays, and the oldest leaves a full
buffer; a Granary writes back the entries that it owns. -/
def lookPage (s : State) (die ea : Nat) : State :=
  if s.grn.pageBuf.contains (die, ea) then s
  else
    let s := missRead s die ea
    if ((NMap.find s.grn.live ea).isNone && blockBad s ea) || !bit (entryW s ea) 63 then s
    else
      let mine := s.grn.pageBuf.filter (fun e => e.1 == die)
      let s := match mine.drop 32767 with
        | [] => s
        | e :: _ => if peOwner (entryW s e.2) = die then writeBack s e.2 else s
      { s with
        grn := { s.grn with
          pageBuf := (die, ea) :: mine.take 32767 ++ s.grn.pageBuf.filter (fun e => e.1 != die) } }

/-- The lookups of one walk (R164): at the Granary of the requesting die, and at the owner's for a page of the other die. -/
def noteWalk (s : State) (die part a : Nat) : State :=
  let da := dirEntryAddr s die part a
  let s := lookDir s die da
  if blockBad s da then s
  else
    match entryAddr s die part a with
    | none => s
    | some ea =>
      let s := assignFrame (assignFrame (lookPage s die ea) da (4 * part)) ea (4 * part)
      if ((NMap.find s.grn.live ea).isNone && blockBad s ea) || !bit (entryW s ea) 63 then s
      else
        let o := peOwner (entryW s ea)
        if o = die then s else lookPage s o ea

/-- The decay epoch of a partition (R165). -/
def decayEpoch (s : State) (die part : Nat) : Nat :=
  let p := NMap.get (fun _ => ({} : Part)) s.parts part
  p.decaySteps / max 1 (regN s (pgGrn die + 0x15C)) % 256

/-- The entry's counts shifted to an epoch (R165). -/
def decayCounts (w ep : Nat) : Nat :=
  let sh := min 8 ((ep + 256 - peEpoch w) % 256)
  let w := (List.range 32).foldl
    (fun w g => setFld w (256 + 8 * g + 7) (256 + 8 * g) (peCount w g / 2 ^ sh)) w
  setFld w 9 2 ep

/-- One request touches a grain: its count advances, saturating at 255 (R165). -/
def touchGrain (s : State) (part ea g : Nat) : State :=
  let w := entryW s ea
  let o := peOwner w
  if regN s (pgGrn o + 0x104) % 2 = 0 then s
  else
    let w := decayCounts w (decayEpoch s o part)
    setEntry s ea (setFld w (256 + 8 * g + 7) (256 + 8 * g) (min 255 (peCount w g + 1)))

/-- The grain of a mapped job address is touched. -/
def touchAt (s : State) (part a : Nat) : State :=
  match walk s 0 part a with
  | .page ea _ => touchGrain s part ea (grainOf a)
  | _ => s

/-- The grains that byte ranges lie in, each once, by their first addresses. -/
def grainsOf (ps : List (Nat × Nat)) : List Nat := (ps.map (fun p => p.1 / 65536 * 65536)).eraseDups

/-- What an access to job memory meets. -/
inductive JobRes where
  | data (bs : List Byte)
  | unmapped
  | badTmap
  | readOnly
  | lost (a : Nat)
  /-- the T1 block is uncorrectable -/
  | uncorr (ea g : Nat)
  /-- the grain is NONE or in FILL: the request waits -/
  | wait (ea g : Nat)
  /-- the working copy is at a lender: device, T1 address there, and the mirror if any -/
  | remote (ea g dev addr : Nat) (mirror : Option (Nat × Nat))
  deriving DecidableEq, Repr

/-- Where one byte range inside a grain is served (R162, R175). -/
def locate (w a : Nat) : JobRes ⊕ Nat :=
  let g := grainOf a
  let off := a % 0x200000
  match peGrain w g with
  | 1 | 5 => .inr (peFrame w * 0x200000 + off)
  | 2 => .inl (.remote 0 g (peLenderA w) (peFrameA w * 0x200000 + off) none)
  | 3 => .inl (.remote 0 g (peLenderA w) (peFrameA w * 0x200000 + off)
      (some (peLenderB w, peFrameB w * 0x200000 + off)))
  | 6 => .inl (.remote 0 g (peLenderA w) (peFrameA w * 0x200000 + off)
      (if peDirty w then some (peLenderB w, peFrameB w * 0x200000 + off) else none))
  | 7 => .inl (.remote 0 g (peLenderA w) (peFrameA w * 0x200000 + off) none)
  | 8 => .inl (.lost a)
  | _ => .inl (.wait 0 g)

/-- The answer with the entry's address in it. -/
def JobRes.at (ea : Nat) : JobRes → JobRes
  | .remote _ g d a m => .remote ea g d a m
  | .wait _ g => .wait ea g
  | r => r

/-- A read inside one grain by the Granary of a die (R164). -/
def grainRead (s : State) (die part a n : Nat) : JobRes × State :=
  let s := noteWalk s die part a
  match walk s die part a with
  | .unmapped => (.unmapped, s)
  | .bad => (.badTmap, s)
  | .page ea w =>
    match locate w a with
    | .inl r => (r.at ea, s)
    | .inr t =>
      match t1Read s t n with
      | (none, s) => (.uncorr ea (grainOf a), s)
      | (some bs, s) => (.data bs, inc64 s (pgGrn (peOwner w) + 0x40) n)

/-- A write inside one grain; `force` writes pages whose WRITABLE is clear (H2D, R398). -/
def grainWrite (s : State) (die part a : Nat) (bs : List Byte) (force : Bool) : JobRes × State :=
  let s := noteWalk s die part a
  match walk s die part a with
  | .unmapped => (.unmapped, s)
  | .bad => (.badTmap, s)
  | .page ea w =>
    if !force && !peWritable w then (.readOnly, s)
    else
      match locate w a with
      | .inl r => (r.at ea, s)
      | .inr t =>
        match t1Write s t bs with
        | (false, s) => (.uncorr ea (grainOf a), s)
        | (true, s) => (.data bs, inc64 s (pgGrn (peOwner w) + 0x48) bs.length)

/-- A byte range cut at grain boundaries. -/
def grainPieces : Nat → Nat → Nat → List (Nat × Nat)
  | 0, _, _ => []
  | f + 1, a, n =>
    if n = 0 then []
    else
      let k := min n (65536 - a % 65536)
      (a, k) :: grainPieces f (a + k) (n - k)

/-- A read of job memory: the bytes, or the first obstacle met. -/
def jobReadFuel : List (Nat × Nat) → State → Nat → Nat → JobRes × State
  | [], s, _, _ => (.data [], s)
  | (a, n) :: ps, s, die, part =>
    match grainRead s die part a n with
    | (.data d, s) =>
      match jobReadFuel ps s die part with
      | (.data ds, s) => (.data (d ++ ds), s)
      | r => r
    | r => r

/-- A read of `n` bytes of job memory in T1 through the Granary of a die; each grain is touched once (R165). -/
def jobRead (s : State) (die part a n : Nat) : JobRes × State :=
  let ps := grainPieces (n / 65536 + 2) a n
  match jobReadFuel ps s die part with
  | (.data d, s) => (.data d, (grainsOf ps).foldl (fun s a => touchAt s part a) s)
  | r => r

/-- The walks of a byte range are noted. -/
def noteRange (s : State) (die part a n : Nat) : State :=
  (grainPieces (n / 65536 + 2) a n).foldl (fun s p => noteWalk s die part p.1) s

/-- Whether every grain of a byte range is readable, and how it fails if not (R162, R177). -/
def rangeState (s : State) (part a n : Nat) : List JobRes :=
  (grainPieces (n / 65536 + 2) a n).map (fun p =>
    match walk s 0 part p.1 with
    | .unmapped => .unmapped
    | .bad => .badTmap
    | .page ea w =>
      match locate w p.1 with
      | .inl (.lost x) => .lost x
      | .inl (.wait _ g) => .wait ea g
      | _ => .data [])

end Sys2Proof.Machine
end

