-- ==== Sys2Proof/Machine/Tiers.lean ====
section
/-!
DEFINITION. Access to job memory in every tier: T2 traffic, the migration of grains, and reads and writes that reach
lenders (R170, R174 to R176, R181, R182).
-/

namespace Sys2Proof.Machine

open Sys2Proof Sys2Proof.Config

/-- A partition. -/
def getPart (s : State) (n : Nat) : Part := NMap.get (fun _ => {}) s.parts n

/-- DET_MODE is in force (R310). -/
def detMode (s : State) : Bool := s.det.active

/-! ## T2 traffic -/

/-- The header of a GRAIN request or response: a memory header (R243) whose bit 56, reserved there, marks a response
(log entry 34). -/
def grainHeader (op status size addr : Nat) (response : Bool) : Nat :=
  op * 2 ^ 124 + status * (if response then 2 ^ 120 else 0)
    + ((size + 3) / 4 - 1) * (if response then 2 ^ 114 else 2 ^ 113) + b2n response * 2 ^ 56 + addr % 2 ^ 56

/-- One T2 or remote-home request to a lender (R181, R182, R247): a read of a 256-byte block (`kind` 0) or a write
(`kind` 1), under the partition's stamp. -/
def sendGrain (s : State) (q : T2Req) (bs : List Byte) : State :=
  let hdr := if q.kind = 0 then grainHeader 1 0 256 q.addr false else grainHeader 2 0 bs.length q.addr false
  let p := (mkPkt s 7 (getPart s q.part).stamp (myArb s) q.lender).withTh hdr (if q.kind = 0 then [] else bs)
  let stale := fun (e : Nat × Nat × List Byte) =>
    q.kind == 1 && e.1 == q.lender && decide (e.2.1 < q.addr + bs.length) && decide (q.addr < e.2.1 + e.2.2.length)
  let s := { s with
    grn := { s.grn with
      t2 := s.grn.t2 ++ [q], nextTag := s.grn.nextTag + 1, t2buf := s.grn.t2buf.filter (fun e => !stale e) } }
  let s := if q.kind = 0 then s else inc64 s (pgGrn q.die + 0x58) bs.length
  issueReq s {
    arb := myArb s, dev := q.lender, id := 0, proto := 7, part := q.part, stamp := p.stamp,
    issuer := .granary q.die, counted := q.kind == 1, pkts := [p], sentAt := 0, tries := 0,
    reply := { group := q.tag }, members := [] }

/-- The 256-byte blocks that a byte range touches. -/
def blocksOf256 (a n : Nat) : List Nat := (List.range ((a % 256 + n + 255) / 256)).map (fun i => a / 256 * 256 + 256 * i)

/-- A block of a lender that a read response has brought. -/
def t2Block (s : State) (d b : Nat) : Option (List Byte) :=
  (s.grn.t2buf.find? (fun e => e.1 == d && e.2.1 == b)).map (fun e => e.2.2)

/-- The bytes of a lender's frame, once read responses have brought all their blocks. -/
def t2Have (s : State) (d a n : Nat) : Option (List Byte) :=
  if (blocksOf256 a n).all (fun b => (t2Block s d b).isSome) then
    some (((((blocksOf256 a n).map (fun b => padTo 256 ((t2Block s d b).getD []))).flatten).drop (a % 256)).take n)
  else none

/-- The blocks of a byte range at a lender that are neither here nor asked for are asked for, by the Granary that owns the
page (R159). -/
def t2Ask (s : State) (n ea g d a len : Nat) : State :=
  let o := peOwner (entryW s ea)
  ((blocksOf256 a len).filter (fun b => (t2Block s d b).isNone
    && !s.grn.t2.any (fun q => q.lender == d && q.addr == b && q.kind == 0))).foldl
    (fun s b => sendGrain s ⟨s.grn.nextTag, n, d, ea, g, 0, b, o, 0⟩ []) s

/-- A byte string cut at 256-byte boundaries of its address. -/
def blocks256 : Nat → Nat → List Byte → List (Nat × List Byte)
  | 0, _, _ => []
  | f + 1, a, bs =>
    if bs.isEmpty then []
    else (a, bs.take (256 - a % 256)) :: blocks256 f (a + (256 - a % 256)) (bs.drop (256 - a % 256))

/-- Writes of a byte range to one mirror, a request per 256-byte block, by the Granary that owns the page; the answer counts
them. -/
def sendWrites (s : State) (n d ea g a store : Nat) (bs : List Byte) : State × Nat :=
  let ps := blocks256 (bs.length / 256 + 2) a bs
  let o := peOwner (entryW s ea)
  (ps.foldl (fun s p => sendGrain s ⟨s.grn.nextTag, n, d, ea, g, 1, p.1, o, store⟩ p.2) s, ps.length)

/-- The lenders' blocks that pieces were read from are given up. -/
def dropT2 (s : State) (die part : Nat) (ps : List (Nat × Nat)) : State :=
  ps.foldl (fun s p =>
    match walk s die part p.1 with
    | .page _ w =>
      match locate w p.1 with
      | .inl (.remote _ _ d a _) => { s with
        grn := { s.grn with t2buf := s.grn.t2buf.filter (fun e => !(e.1 == d && (blocksOf256 a p.2).contains e.2.1)) } }
      | _ => s
    | _ => s) s

/-! ## Frames and leases -/

/-- Bytes of a row; 0 where the format or the count is not one of R193. -/
def rowBytesOf (fmt n : Nat) : Nat :=
  match fmt with
  | 1 => if n % 32 = 0 ∧ 32 ≤ n ∧ n ≤ 2048 then n else 0
  | 2 => if n % 32 = 0 ∧ 32 ≤ n ∧ n ≤ 2048 then n else 0
  | 4 => if n % 32 = 0 ∧ 32 ≤ n ∧ n ≤ 1984 then n + n / 32 else 0
  | 5 => if n % 32 = 0 ∧ 32 ≤ n ∧ n ≤ 1024 then 2 * n else 0
  | 6 => if n % 32 = 0 ∧ 32 ≤ n ∧ n ≤ 512 then 4 * n else 0
  | _ => 0

/-- A grain is migrating. -/
def migrating (s : State) (ea g : Nat) : Bool := s.grn.copies.any (fun c => c.entry == ea && c.grain == g)

/-- Leases of a partition that no page uses (R181). -/
def freeLeases (s : State) (n : Nat) : List Lease :=
  s.grn.leases.filter (fun l => l.part == n && l.page.isNone && !l.lost && !l.recalled)

/-- The frame quota of a partition on a die leaves room. -/
def quotaRoom (s : State) (die n : Nat) : Bool :=
  regN s (pgGrn die + 0x138 + 4 * n) < regN s (pgGrn die + 0x128 + 4 * n) && regN s (pgGrn die + 0x148) > 0

/-- OVER_QUOTA of a partition: set by a quota written below use, clear once use has fallen to the quota (R186). -/
def overNow (s : State) (die n : Nat) : Bool :=
  bit (regN s (pgGrn die + 0x100)) (16 + n)
    && decide (regN s (pgGrn die + 0x138 + 4 * n) > regN s (pgGrn die + 0x128 + 4 * n))

/-- A page has a T1 frame of its partition behind it; T1_FRAME 0 is none (R161). -/
def frameOwned (s : State) (n w : Nat) : Bool :=
  peFrame w != 0 && NMap.get (fun _ => 0) s.grn.owner (peFrame w) == 4 * n + 3

/-- A T1 frame of a die is free: unowned, unreserved, not lent (R167, R168). Frame 0, which T1_FRAME cannot name, is given to no
page. -/
def frameFree (s : State) (die f : Nat) : Bool :=
  f != 0 && f % 2 == die && f / 2 < 391168 && (NMap.find s.grn.owner f).isNone && (NMap.find s.grn.lent f).isNone

/-- A partition takes a T1 frame, which counts against its quota (R185). -/
def ownFrame (s : State) (n f : Nat) : State :=
  let d := f % 2
  let s := setRegN s (pgGrn d + 0x138 + 4 * n) (regN s (pgGrn d + 0x138 + 4 * n) + 1)
  let s := setRegN s (pgGrn d + 0x148) (regN s (pgGrn d + 0x148) - 1)
  { s with grn := { s.grn with owner := NMap.put s.grn.owner f (4 * n + 3) } }

/-- A partition's T1 frame becomes free again. -/
def dropFrame (s : State) (n f : Nat) : State :=
  let d := f % 2
  let s := setRegN s (pgGrn d + 0x138 + 4 * n) (regN s (pgGrn d + 0x138 + 4 * n) - 1)
  let s := setRegN s (pgGrn d + 0x148) (regN s (pgGrn d + 0x148) + 1)
  { s with grn := { s.grn with owner := NMap.del s.grn.owner f, ownerPage := NMap.del s.grn.ownerPage f } }

/-- A page takes a T1 frame of its owner die (R185). -/
def takeFrame (s : State) (n ea page f : Nat) : State :=
  let s := ownFrame (setEntry s ea (setFld (entryW s ea) 29 10 f)) n f
  { s with grn := { s.grn with ownerPage := NMap.put s.grn.ownerPage f page } }

/-- A page entry's frame is given up once no grain of the page lies in T1 or on its way there (R174); the home frame of a clean
page stays. -/
def releaseFrame (s : State) (n ea : Nat) : State :=
  let w := entryW s ea
  if !frameOwned s n w ∨ (List.range 32).any (fun g => [1, 4, 5, 6].contains (peGrain w g))
      ∨ (peHomeDev w = myDev s ∧ !peDirty w) then s
  else dropFrame (writeBack (setEntry s ea (setFld w 29 10 0)) ea) n (peFrame w)

/-- One entry of the lease table: [127:64] the address of the borrowing page's entry, [63] VALID, [62] a page uses it, [61:60]
partition, [59:54] lender, [53:34] frame. The manual gives the contents and no layout: DESIGN CHOICE (log entry 109). -/
def leaseBytes (l : Lease) : List Byte :=
  leBytes 8 (2 ^ 63 + b2n l.page.isSome * 2 ^ 62 + l.part % 4 * 2 ^ 60 + l.lender % 64 * 2 ^ 54 + l.frame % 2 ^ 20 * 2 ^ 34)
    ++ leBytes 8 (l.page.getD 0)

/-- The leases replaced, and the lease table of each Granary whose base names a reserved frame rewritten (R181). -/
def setLeases (s : State) (ls : List Lease) : State :=
  let n := max ls.length s.grn.leases.length
  let bs := padTo (roundUp (16 * n) 64) (ls.flatMap leaseBytes)
  let table := fun (s : State) (d : Nat) =>
    let b := pairN s (pgGrn d + 0x154)
    if ls = s.grn.leases ∨ !reservedFrame (b / 0x200000) ∨ t1Bytes < b + bs.length then s else (t1Write s b bs).2
  let s := table (table s 0) 1
  { s with grn := { s.grn with leases := ls } }

/-- A lease is bound to a page. -/
def bindLease (s : State) (l : Lease) (ea : Nat) : State :=
  setLeases s (s.grn.leases.map (fun x => if x = l then { x with page := some ea } else x))

/-- A lender's frame, as lender A's where `isA`, holds a copy of a grain of a page, or is to receive one (R162, R174). -/
def grainAt (s : State) (ea w : Nat) (isA : Bool) (g : Nat) : Bool :=
  let target := ((s.grn.copies.find? (fun c => c.entry == ea && c.grain == g)).map (fun c => c.target)).getD 0
  match peGrain w g with
  | 2 => isA
  | 3 | 6 => true
  | 7 => isA || target == 3
  | 4 | 5 => (isA && target == 2) || target == 3
  | _ => false

/-- A page uses lender A's frame, or B's. -/
def usesLender (s : State) (ea w : Nat) (isA : Bool) : Bool := (List.range 32).any (grainAt s ea w isA)

/-- A lease's frame holds no copy of a grain any more (R184). -/
def vacated (s : State) (l : Lease) : Bool :=
  match l.page with
  | none => true
  | some ea =>
    let w := entryW s ea
    !(peLenderA w == l.lender && peFrameA w == l.frame && usesLender s ea w true)
      && !(peLenderB w == l.lender && peFrameB w == l.frame && usesLender s ea w false)

/-- Leases of a page that hold no copy of its grains are free again. -/
def releaseLeases (s : State) (ea : Nat) : State :=
  setLeases s (s.grn.leases.map (fun l => if l.page = some ea ∧ vacated s l then { l with page := none } else l))

/-- A page has a good lease of a lender's frame. -/
def hasLease (s : State) (ea d f : Nat) : Bool :=
  s.grn.leases.any (fun l => l.page == some ea && l.lender == d && l.frame == f && !l.lost && !l.recalled)

/-- Lender A of a page written. -/
def setLenderA (w d f : Nat) : Nat := setFld (setFld w 255 250 d) 249 230 f

/-- Lender B of a page written. -/
def setLenderB (w d f : Nat) : Nat := setFld (setFld w 229 224 d) 223 204 f

/-- A page has a frame at lender A: its own, or a free lease on a lender other than B's; none where there is none. -/
def bindA (s : State) (n ea : Nat) : Option State :=
  let w := entryW s ea
  if hasLease s ea (peLenderA w) (peFrameA w) then some s
  else if usesLender s ea w true then none
  else ((freeLeases s n).find? (fun l => !hasLease s ea (peLenderB w) (peFrameB w) || l.lender != peLenderB w)).map
    (fun l => bindLease (setEntry s ea (setLenderA w l.lender l.frame)) l ea)

/-- A page has a frame at a lender B distinct from A (R182). -/
def bindB (s : State) (n ea : Nat) : Option State :=
  let w := entryW s ea
  if hasLease s ea (peLenderB w) (peFrameB w) ∧ peLenderB w ≠ peLenderA w then some s
  else if usesLender s ea w false then none
  else ((freeLeases s n).find? (fun l => l.lender != peLenderA w)).map
    (fun l => bindLease (setEntry s ea (setLenderB w l.lender l.frame)) l ea)

/-- The frames that a copy to a target needs at lenders are bound to the page; none where the leases do not suffice. -/
def bindTarget (s : State) (n ea target : Nat) : Option State :=
  match target with
  | 2 => bindA s n ea
  | 3 => (bindA s n ea).bind (fun s => bindB s n ea)
  | _ => some s

/-! ## Migration -/

/-- A row of a window that is pooled on this device touches a grain (R197). -/
def pooledGrain (s : State) (n a : Nat) : Bool :=
  s.sheaf.insts.any (fun i => i.kind == 1 && i.part == n && i.ownWins.any (fun w => w.here && w.rows.any (fun r =>
    r.1 < a / 65536 * 65536 + 65536 && a / 65536 * 65536 < r.1 + rowBytesOf i.rowFmt i.rowValues)))

/-- The admitted steps of the device hold a grain of a stream entry (R178), or a pooled row does (R197). -/
def heldGrain (s : State) (n a : Nat) : Bool :=
  pooledGrain s n a || (getPart s n).steps.any (fun st => st.phase != .queued &&
    st.streams.any (fun r => r.1 < a / 65536 * 65536 + 65536 && a / 65536 * 65536 < r.1 + r.2))

/-- A step, queued or admitted, names a grain in a stream entry (R184). -/
def wantedGrain (s : State) (n a : Nat) : Bool :=
  (getPart s n).steps.any (fun st => st.streams.any (fun r =>
    r.1 < a / 65536 * 65536 + 65536 && a / 65536 * 65536 < r.1 + r.2))

/-- Copies of a grain in progress are abandoned. -/
def dropCopy (s : State) (ea g : Nat) : State :=
  { s with grn := { s.grn with copies := s.grn.copies.filter (fun c => !(c.entry == ea && c.grain == g)) } }

/-- A grain's entry is settled after its copy has left a tier: written back, and what no grain uses is released (R164, R174). -/
def settlePage (s : State) (n ea : Nat) : State := releaseLeases (releaseFrame (writeBack s ea) n ea) ea

/-- A grain enters a copying state toward a target, or is released (R174): 0 release, 1 T1, 2 T2, 3 T2_PAIR. `kind` and `step` are
those of the copy. A migration that finds no frame or lease for its target does not start. -/
def migrate (kind step : Nat) (s : State) (n a target : Nat) : State :=
  match walk s 0 n a with
  | .page ea w =>
    let g := grainOf a
    let st := peGrain w g
    let d := peOwner w
    let s := noteWalk s d n a
    let cp : Copy := {
      entry := ea, grain := g, target := target, part := n, die := d, page := a / 0x200000 * 0x200000, kind := kind, step := step }
    let go := fun (mid : Nat) =>
      match bindTarget s n ea target with
      | none => s
      | some s =>
        let s := setEntry s ea (peSetGrain (entryW s ea) g mid)
        { s with grn := { s.grn with copies := s.grn.copies ++ [cp] } }
    let room := frameOwned s n w || quotaRoom s d n
    if migrating s ea g then { s with grn := { s.grn with held := s.grn.held ++ [cp] } }
    else
      match st, target with
      | 0, 1 => if room then go 4 else s
      | 0, 2 | 0, 3 => if target = 2 ∧ peDirty w then s else go 4
      | 1, 0 | 2, 0 | 3, 0 =>
        if peHomeDev w ≠ myDev s ∧ !peDirty w ∧ !heldGrain s n a then
          incSat (settlePage (setEntry s ea (peSetGrain w g 0)) n ea) (pgGrn d + 0xC4) 1
        else s
      | 1, 2 => if peDirty w ∨ peClass w = 4 then s else go 5
      | 1, 3 => if peClass w = 4 then s else go 5
      | 2, 1 | 3, 1 => if room then go 6 else s
      | 7, 3 => go 7
      | _, _ => s
  | _ => noteWalk s 0 n a

/-- A migration of the plan, of demand, of a count or of a quota. -/
def startMigration (s : State) (n a target : Nat) : State := migrate 0 0 s n a target

/-- The lender frames that a copy's lines go to, as addresses of the grain there (R174): both of a pair, or the new mirror
alone. -/
def copyDests (w : Nat) (cp : Copy) : List (Nat × Nat) :=
  let a := (peLenderA w, peFrameA w * 0x200000 + cp.grain * 65536)
  let b := (peLenderB w, peFrameB w * 0x200000 + cp.grain * 65536)
  if cp.target = 2 then [a] else if cp.target ≠ 3 then [] else if peGrain w cp.grain = 7 then [b] else [a, b]

/-- Bytes at an offset of a grain go to every destination of its copy, under the copy's tag; the answer counts the
acknowledgements to come. -/
def sendLines (s : State) (cp : Copy) (off : Nat) (bs : List Byte) : State × Nat :=
  (copyDests (entryW s cp.entry) cp).foldl (fun (r : State × Nat) d =>
    let x := sendWrites r.1 cp.part d.1 cp.entry cp.grain (d.2 + off) cp.tag bs
    (x.1, r.2 + x.2)) (s, 0)

/-- A request's COUNT reaches PROMOTE_AT: a T2 grain of a page without PLANNED is promoted within quota (R176). -/
def promoteByCount (s : State) (n a : Nat) : State :=
  match walk s 0 n a with
  | .page ea w =>
    let g := grainOf a
    let lim := fld (regN s (pgGrn (peOwner w) + 0x104)) 15 8
    if detMode s ∨ pePlanned w ∨ lim = 0 ∨ peCount w g < lim ∨ !(peGrain w g == 2 || peGrain w g == 3)
        ∨ migrating s ea g then s
    else startMigration s n a 1
  | _ => s

/-! ## Reads -/

/-- What stands in the way of a read inside one grain: nothing where it answers no data. -/
def pieceState (s : State) (die part : Nat) (p : Nat × Nat) : JobRes :=
  match walk s die part p.1 with
  | .unmapped => .unmapped
  | .bad => .badTmap
  | .page ea w =>
    match locate w p.1 with
    | .inr _ => .data []
    | .inl (.remote _ g d a m) => if (t2Have s d a p.2).isSome then .data [] else .remote ea g d a m
    | .inl r => r.at ea

/-- One piece that nothing stands in the way of is read; what comes from a lender counts at the owning Granary (R159). -/
def readPiece (s : State) (die part : Nat) (p : Nat × Nat) : JobRes × State :=
  match grainRead s die part p.1 p.2 with
  | (.remote ea g d a m, s) =>
    match t2Have s d a p.2 with
    | some bs => (.data bs, inc64 s (pgGrn (peOwner (entryW s ea)) + 0x50) p.2)
    | none => (.remote ea g d a m, s)
  | x => x

/-- Pieces read in order. -/
def readAll : List (Nat × Nat) → State → Nat → Nat → JobRes × State
  | [], s, _, _ => (.data [], s)
  | p :: ps, s, die, part =>
    match readPiece s die part p with
    | (.data d, s) =>
      match readAll ps s die part with
      | (.data ds, s) => (.data (d ++ ds), s)
      | x => x
    | x => x

/-- What stands in the way of reading pieces together, if anything does; what lenders hold of them is asked for. Each piece's
walk is noted (R164). -/
def askPieces (ps : List (Nat × Nat)) (s : State) (die part : Nat) : Option JobRes × State :=
  let s := ps.foldl (fun s p => noteWalk s die part p.1) s
  let os := (ps.map (fun p => (p, pieceState s die part p))).filter (fun o => match o.2 with
    | .data _ => false
    | _ => true)
  let s := os.foldl (fun s o => match o.2 with
    | .remote ea g d a _ => t2Ask s part ea g d a o.1.2
    | _ => s) s
  let other := os.find? (fun o => match o.2 with
    | .remote _ _ _ _ _ => false
    | _ => true)
  (((other.toList ++ os).head?).map (fun o => o.2), s)

/-- Pieces are read together once nothing stands in the way of any. -/
def readPieces (ps : List (Nat × Nat)) (s : State) (die part : Nat) : JobRes × State :=
  match askPieces ps s die part with
  | (some o, s) => (o, s)
  | (none, s) => readAll ps s die part

/-- Byte ranges cut at the boundaries of grains. -/
def cutGrains (ps : List (Nat × Nat)) : List (Nat × Nat) := ps.flatMap (fun p => grainPieces (p.2 / 65536 + 2) p.1 p.2)

/-- A request touches the grains of its pieces, each once (R165), and a T2 grain may be promoted for it (R176). -/
def touchAll (s : State) (n : Nat) (ps : List (Nat × Nat)) : State :=
  (grainsOf ps).foldl (fun s a => promoteByCount (touchAt s n a) n a) s

/-- A read of `n` bytes of job memory in any tier through the Granary of a die, as one request. -/
def jobFetch (s : State) (die part a n : Nat) : JobRes × State :=
  let ps := cutGrains [(a, n)]
  match readPieces ps s die part with
  | (.data d, s) => (.data d, touchAll (dropT2 s die part ps) part ps)
  | x => x

/-! ## Writes -/

/-- A write to a grain that is being copied reaches the destination too (R175): by requests to the mirrors once the lines have
been written to them; before that the copy keeps what does not lie in T1. -/
def dualWrite (s : State) (ea a : Nat) (bs : List Byte) : State :=
  match s.grn.copies.find? (fun c => c.entry == ea && c.grain == grainOf a) with
  | none => s
  | some cp =>
    let put := fun (s : State) (c : Copy) => { s with grn := { s.grn with copies := s.grn.copies.map (fun x => if x = cp then c else x) } }
    if cp.sent then
      let r := sendLines s cp (a % 65536) bs
      put r.1 { cp with acks := cp.acks + r.2 }
    else put s { cp with written := cp.written ++ [(a, bs)] }

/-- Rows, each inside one grain, written to job memory in any tier; T2 mirrors are written by GRAIN requests under a tag and
acknowledge later (R170, R182). The answer counts the acknowledgements to come. -/
def putRows (die n tag : Nat) (force : Bool) : List (Nat × List Byte) → State → Nat → JobRes × State × Nat
  | [], s, acks => (.data [], s, acks)
  | (a, bs) :: ps, s, acks =>
    match grainWrite s die n a bs force with
    | (.data _, s) =>
      match walk s die n a with
      | .page ea _ => putRows die n tag force ps (dualWrite s ea a bs) acks
      | _ => putRows die n tag force ps s acks
    | (.remote ea g d ad m, s) =>
      let r := sendWrites s n d ea g ad tag bs
      match m with
      | some (d2, a2) =>
        let r2 := sendWrites r.1 n d2 ea g a2 tag bs
        putRows die n tag force ps (dualWrite r2.1 ea a bs) (acks + r.2 + r2.2)
      | none => putRows die n tag force ps (dualWrite r.1 ea a bs) (acks + r.2)
    | (o, s) => (o, s, acks)

/-- The grains of rows are touched, each once (R165). -/
def touchRows (s : State) (n : Nat) (rows : List (Nat × List Byte)) : State :=
  touchAll s n (rows.map (fun r => (r.1, r.2.length)))

/-- Bytes cut at the boundaries of grains. -/
def grainRows (a : Nat) (bs : List Byte) : List (Nat × List Byte) :=
  (grainPieces (bs.length / 65536 + 2) a bs.length).map (fun p => (p.1, (bs.drop (p.1 - a)).take p.2))

/-- A fresh tag for the writes of one access. -/
def newTag (s : State) : Nat × State :=
  (s.grn.nextTag, { s with grn := { s.grn with nextTag := s.grn.nextTag + 1 } })

/-- A write of bytes to job memory in any tier, WRITABLE or not, that no one waits for. -/
def jobPut (s : State) (die part a : Nat) (bs : List Byte) : JobRes × State :=
  let t := newTag s
  let r := putRows die part t.1 true (grainRows a bs) t.2 0
  (r.1, touchRows r.2.1 part (grainRows a bs))

end Sys2Proof.Machine
end

