-- ==== Sys2Proof/Machine/StepEnd.lean ====
section
/-!
DEFINITION. How work ends: completions in the host's queues (R401 to R403), step and digest records (R318 to R320,
R440, R441), error completions (R135) and the partition fault (R190, R415).
-/

namespace Sys2Proof.Machine

open Sys2Proof Sys2Proof.Config

/-- A local partition replaced. -/
def setPart (s : State) (n : Nat) (p : Part) : State :=
  { s with parts := NMap.set (fun _ => {}) s.parts n p }

/-! ## Rates and windows (R346 to R351) -/

/-- A positive FP32 coefficient times `k`, rounded down; 0 for any other code. -/
def ectScaled (c k : Nat) : Nat :=
  match decFP32 c with
  | .fin false m e => if e ≥ 0 then m * 2 ^ e.toNat * k else m * k / 2 ^ (-e).toNat
  | _ => 0

/-- E_idle: ECT entry 0 over a window, in µJ (R348). -/
def eIdle (s : State) : Nat := ectScaled (s.gate.ect.getD 0 0) 100

/-- The steps that have passed energy admission, with their partitions. -/
def energySteps (s : State) : List (Nat × Step) :=
  (List.range 4).flatMap (fun n => ((getPart s n).steps.filter (fun st => st.energyOk)).map (fun st => (n, st)))

/-- u × Σ r over a list of steps, in µJ per window. -/
def ratesOf (s : State) (l : List (Nat × Step)) : Nat := s.gate.u * ((l.map (fun x => x.2.rate)).sum) / 256

/-- The remainder R of a window beside a list of admitted steps (R348). -/
def remainderOf (s : State) (l : List (Nat × Step)) : Int :=
  (regN s (pgGate + 0x108) : Int) - eIdle s - s.gate.debt - ratesOf s l

/-- VIN of the latest sample in mV; 48.0 V before the first. -/
def vinNow (s : State) : Nat := if s.gate.lastV = 0 then 48000 else s.gate.lastV

/-- Condition 3 of R348: the scaled PEAKs stay within the current limit less the idle current. -/
def peakFits (s : State) (l : List (Nat × Step)) (peak : Nat) : Bool :=
  48000 * (peak + (l.map (fun x => x.2.peak)).sum) + 100 * eIdle s ≤ regN s (pgGate + 0x10C) % 65536 * vinNow s

/-- Conditions 2 and 3 of R348 for a rate and a peak beside a list of admitted steps; with ADMIT_EN clear they always
hold. -/
def fits (s : State) (l : List (Nat × Step)) (rate peak : Nat) : Bool :=
  !bit (regN s (pgGate + 0x104)) 0
    || (decide (((s.gate.u * rate / 256 : Nat) : Int) ≤ remainderOf s l) && peakFits s l peak)

/-- The rate of a step (R347). -/
def stepRate (s : State) (st : Step) : Nat :=
  match s.gate.pace.find? (fun e => e.1 == st.progId) with
  | some e =>
    if st.ectVersion = s.gate.version ∧ e.2 ≠ 0 then st.energy * 1800000 / (e.2 * s.fuse.grade.aclkDiv)
    else min st.energy (480 * st.peak)
  | none => min st.energy (480 * st.peak)

/-- TCLK of the running window during which a step was admitted (R350). -/
def windowShare (s : State) (st : Step) : Nat :=
  if st.energyOk ∧ st.phase ≠ .queued then min 100000 (now s - max (s.gate.winAt.getD 0) st.admittedAt) else 0

/-- The step with its energy of the running window attributed to it (R351). -/
def charged (s : State) (st : Step) : Step :=
  { st with debited := st.debited + s.gate.u * st.rate * windowShare s st / 25600000 }

/-- A step that ends stays in the account of its window (R350). -/
def leaveWindow (s : State) (st : Step) : State :=
  if windowShare s st = 0 then s
  else { s with gate := { s.gate with ended := s.gate.ended ++ [(st.rate, windowShare s st)] } }

/-- A queue pair. -/
def getQp (s : State) (q : Nat) : Qp := NMap.get (fun _ => {}) s.host.qps q

/-- A queue pair replaced. -/
def setQp (s : State) (q : Nat) (x : Qp) : State :=
  { s with host := { s.host with qps := NMap.set (fun _ => {}) s.host.qps q x } }

/-- Entries of a queue pair's CQ. -/
def cqSize (x : Qp) : Nat := 2 ^ fld x.cfg 9 5

/-- Entries of a queue pair's SQ. -/
def sqSize (x : Qp) : Nat := 2 ^ fld x.cfg 4 0

/-- A queue pair's CQ has no room: the device never writes the entry at the head (R402). -/
def cqFull (x : Qp) : Bool := (x.cqTail + 1) % cqSize x == x.cqHead

/-- The 16 bytes of a completion entry (R401). -/
def complBytes (x : Qp) (q : Nat) (c : Compl) : List Byte :=
  leBytes 4 c.result0 ++ leBytes 4 c.result1 ++ leBytes 2 c.head ++ leBytes 2 c.cid
    ++ leBytes 2 c.status ++ [BitVec.ofNat 8 (b2n x.phase), BitVec.ofNat 8 (if fld x.cfg 12 10 = 0 then q else x.vfIdx)]

/-- The pair's MSI-X vector is sent and its coalescing starts anew (R403). -/
def qpIrq (s : State) (q : Nat) : State :=
  let x := getQp s q
  msixSend (setQp s q { x with coalCount := 0 }) (fld x.cfg 12 10) (fld x.cfg 25 18)

/-- A completion entry is written and counted toward coalescing (R401, R403). -/
def writeCompl (s : State) (q : Nat) (c : Compl) : State :=
  let x := getQp s q
  let s := writeHost s (x.cqBase + 16 * x.cqTail) (complBytes x q c)
  let tail := (x.cqTail + 1) % cqSize x
  let x := { x with cqTail := tail, phase := if tail = 0 then !x.phase else x.phase }
  let s := inc64 (setQp s q x) (pgHost + 0x48) 1
  if c.noint ∨ !bit x.cfg 26 then s
  else
    let x := { x with coalFirst := if x.coalCount = 0 then now s else x.coalFirst, coalCount := x.coalCount + 1 }
    let s := setQp s q x
    if c.status ≠ 0 ∨ x.coalCount ≥ fld x.coal 15 0 then qpIrq s q else s

/-- A completion: written, or held while the CQ is full (R402). -/
def complete (s : State) (q : Nat) (c : Compl) : State :=
  let x := getQp s q
  if !x.enabled then s
  else if cqFull x ∨ !x.held.isEmpty then
    evt (setQp s q { x with held := x.held ++ [c] }) pgHost 3
  else writeCompl s q c

/-- A fetched entry completes: it leaves the pair and its completion is written; an entry that a reset dropped gets none
(R394). -/
def completeEntry (s : State) (q seq status r0 r1 : Nat) : State :=
  let x := getQp s q
  match x.entries.find? (fun e => e.seq == seq) with
  | none => s
  | some e =>
    let s := setQp s q { x with entries := x.entries.filter (fun e => e.seq != seq) }
    complete s q ⟨e.cid, status, r0, r1, e.noint, e.after⟩

/-! ## The die edge (R24, R28) -/

/-- Units of the die-edge ingress buffer that a unit uses: those over its link at its die. -/
def sameEdge (u v : Unit) : Bool := u.link == v.link && u.tile / 60 == v.tile / 60

/-- The ingress buffer of a unit's link has room for it: the buffer is empty or below its size, and the link is not retraining
(R24, R28, R324). -/
def edgeRoom (s : State) (u : Unit) : Bool :=
  let q := s.edge.filter (sameEdge u)
  (u.link ≥ 3 || (NMap.get (fun _ => ({} : D2d)) s.d2d u.link).lstate != 3) && (q.isEmpty || decide (q.length < edgeUnits))

/-- The role that a partition's context has in a tile: true in the background (R116). -/
def roleOf (s : State) (t n : Nat) : Bool :=
  let x := getTile s t
  x.bg.live && x.bg.part == n && !(x.fg.live && x.fg.part == n)

/-- A unit goes to the die edge, or waits at its source for credit, behind those of its source that wait (R24, R28). It is for
the context of its partition; a unit of the host names its context (R398). -/
def toEdge (s : State) (u : Unit) : State :=
  let u := if u.cause = 9 then u else { u with bg := roleOf s u.tile u.part }
  if s.backlog.any (sameEdge u) ∨ !edgeRoom s u then { s with backlog := s.backlog ++ [u] } else { s with edge := s.edge ++ [u] }

/-- Units that wait at their sources enter the ingress buffers that have room, in order (R28). -/
def edgePump (s : State) : State :=
  s.backlog.foldl (fun s u => toEdge s u) { s with backlog := [] }

/-- The two contexts of a tile exchange their roles, and what is under way for them follows (R305). -/
def swapRoles (s : State) (t : Nat) : State :=
  let x := getTile s t
  let unit := fun (u : Unit) => if u.tile = t then { u with bg := !u.bg } else u
  let s := setTile s t { x with fg := x.bg, bg := x.fg }
  { s with
    edge := s.edge.map unit, mesh := s.mesh.map unit, backlog := s.backlog.map unit, kept := s.kept.map unit,
    grn := { s.grn with
      reqs := s.grn.reqs.map (fun r => if r.tile = t then { r with bg := !r.bg } else r),
      stores := s.grn.stores.map (fun r => if r.tile = t ∧ r.resp.isNone then { r with bg := !r.bg } else r) },
    atom := { s.atom with
      groups := s.atom.groups.map (fun g => if g.tile = t then { g with bg := !g.bg } else g),
      fences := s.atom.fences.map (fun f => if f.tile = t then { f with bg := !f.bg } else f) },
    host := { s.host with binds := s.host.binds.map (fun b => if !b.host ∧ b.tile = t then { b with bg := !b.bg } else b) } }

/-- Units on their way to tiles, oldest first. -/
def inFlight (s : State) : List Unit := s.mesh ++ s.edge ++ s.backlog

/-! ## Records in job memory -/

/-- A record written to a ring of job memory, or dropped and counted (R440). -/
def ringWrite (s : State) (part base slot : Nat) (bs : List Byte) : State :=
  match jobPut s 0 part (base + slot * bs.length) bs with
  | (.data _, t) => t
  | _ => evt (errIn (incSat s (pgLodge + 0x58) 1) pgLodge 0x110A (some part) 0) pgLodge 1

/-- The tiles of a mask, in logical order. -/
def tilesOf (m : Nat) : List Nat := (List.range 120).filter (fun t => bit m t)

/-- The contexts of a partition on a tile: role and context. -/
def partCtxs (s : State) (n t : Nat) : List (Bool × Ctx) :=
  let x := NMap.get (fun _ => ({} : Tile)) s.tiles t
  ([(false, x.fg), (true, x.bg)]).filter (fun e => e.2.live && e.2.part == n)

/-- The layer parts of a tile for the partition's step in progress, the oldest of the partition. -/
def stepParts (s : State) (n t : Nat) : List LayerPart :=
  match (getPart s n).steps.head? with
  | some st => ((partCtxs s n t).filter (fun e => e.2.step == st.num)).flatMap (fun e => e.2.parts)
  | none => []

/-- The tile's part of a layer of the partition's step. -/
def partOfLayer (s : State) (n t layer : Nat) : Option LayerPart := (stepParts s n t).find? (fun p => p.layer == layer)

/-- The layer digest and its length, tiles in logical order (R318). -/
def layerDigest (s : State) (n layer : Nat) : Nat × Nat :=
  (List.range 120).foldl (fun (a : Nat × Nat) t =>
    match partOfLayer s n t layer with
    | some p => (crc64Combine a.1 p.crc p.len, a.2 + p.len)
    | none => a) (0, 0)

/-- A digest record of 64 bytes (R319). -/
def digestRecord (s : State) (n : Nat) (st : Step) (layer : Nat) (partial' : Bool) : List Byte :=
  let d := layerDigest s n layer
  let ps := (List.range 120).filterMap (fun t => partOfLayer s n t layer)
  let cyc := (ps.map (fun p => p.cycles)).foldl max 0
  let rep := ps.any (fun p => p.replayed)
  let det := bit (regN s (pgDev + 0x120 + 0x20 * n + 0x14)) 16
  let fl := b2n (detMode s) + 2 * b2n (detMode s && !st.unclean && !partial') + 4 * b2n rep + 8 * b2n det
    + 16 * b2n partial'
  let b := leBytes 4 st.num ++ leBytes 2 layer ++ [BitVec.ofNat 8 n, BitVec.ofNat 8 (myDev s)]
    ++ leBytes 8 d.1 ++ leBytes 8 d.2 ++ leBytes 4 cyc ++ leBytes 2 (fld (regN s (pgFab + 0x108)) 31 16)
    ++ [BitVec.ofNat 8 fl, 0] ++ leBytes 4 st.progId ++ List.replicate 24 0
  b ++ leBytes 4 (crc32c b)

/-- The detail entry of a layer: the pair (c_t, n_t) of each tile (R320). -/
def detailEntry (s : State) (n layer : Nat) : List Byte :=
  padTo 2048 ((List.range 120).flatMap (fun t =>
    match partOfLayer s n t layer with
    | some p => leBytes 8 p.crc ++ leBytes 8 p.len
    | none => List.replicate 16 0))

/-- The digest records of a step that ends, one per layer that any tile completed, ascending (R319). -/
def writeDigests (s : State) (n : Nat) (st : Step) (partial' : Bool) : State :=
  let b := pgDev + 0x120 + 0x20 * n
  let cfg := regN s (b + 0x14)
  let recs := cfg % 65536
  if recs = 0 ∨ !bit st.flags 0 ∨ st.phase = .queued then s
  else
    let ls := ((List.range 120).flatMap (fun t => (stepParts s n t).map (fun p => p.layer))).eraseDups
    (sortBy id ls).foldl (fun s l =>
      let k := regN s (b + 0x10)
      let s := if bit cfg 16 then ringWrite s n (pairN s (b + 8)) k (detailEntry s n l) else s
      let s := ringWrite s n (pairN s b) k (digestRecord s n st l partial')
      inc64 (setRegN s (b + 0x10) ((k + 1) % recs)) (pgDev + 0x50) 1) s

/-- A 256-byte step record (R441). -/
def stepRecord (s : State) (n : Nat) (st : Step) (code : Nat) (refused : Bool) : List Byte :=
  let fl := bit st.flags 1
  let cyc := if refused ∨ st.startAclk = 0 then 0 else s.clk.aclk - st.startAclk
  let b := leBytes 4 st.num ++ leBytes 4 st.progId ++ leBytes 2 code
    ++ [BitVec.ofNat 8 n, BitVec.ofNat 8 (b2n fl + 2 * b2n (detMode s && !st.unclean && code == 0)
      + 4 * b2n (st.replays != 0) + 8 * b2n (st.stops != 0) + 16 * b2n st.soleAdmit
      + 32 * b2n st.staleEct + 64 * b2n refused)]
    ++ leBytes 4 st.layersDone.length ++ leBytes 8 st.queuedAt
    ++ leBytes 8 (if refused then 0 else st.admittedAt) ++ leBytes 8 (now s) ++ leBytes 4 cyc
    ++ leBytes 4 (popcount 120 st.tiles) ++ leBytes 8 st.debited ++ leBytes 8 st.stretch
    ++ st.admitWait.flatMap (fun x => leBytes 4 (min x 0xFFFFFFFF)) ++ List.replicate 4 0
    ++ st.stall.flatMap (fun x => leBytes 8 x) ++ leBytes 4 st.replays ++ leBytes 2 st.stops
    ++ List.replicate 2 0 ++ leBytes 4 st.tallyFirst ++ leBytes 4 st.tallyCount ++ List.replicate 36 0
  b ++ leBytes 4 (crc32c b)

/-- The step record of a step that ends (R441). -/
def writeStepRecord (s : State) (n : Nat) (st : Step) (code : Nat) (refused : Bool) : State :=
  let b := pgLodge + 0x160 + 0x20 * n
  let recs := regN s (b + 8) % 65536
  if recs = 0 then s
  else
    let k := regN s (b + 0xC)
    let s := ringWrite s n (pairN s b) k (stepRecord s n st code refused)
    inc64 (setRegN s (b + 0xC) ((k + 1) % recs)) (pgLodge + 0x48) 1

/-- The tiles' contexts of a partition are emptied: its program leaves them. -/
def clearCtxs (s : State) (n : Nat) : State :=
  { s with
    tiles := s.tiles.map (fun e =>
      let x := e.2
      let x := if x.fg.live ∧ x.fg.part = n then
        { x with
          fg := { x.fg with live := false, waiting := none, readyAt := none, committing := none, husk := [] }, stat := [],
          tags := [], passes := [], busy := [], refetch := [], huskWait := none } else x
      (e.1, if x.bg.live ∧ x.bg.part = n then { x with bg := { x.bg with live := false } } else x)) }

/-- Instances leave the Sheaf engine with their contexts, fetches, held transfers and spilled blocks (R93, R110, R369). -/
def dropInsts (s : State) (gone : ShInst → Bool) : State :=
  let h := s.sheaf
  let names := (h.insts.filter gone).map (fun i => (i.comm, i.seq))
  { s with
    sheaf := { h with
      insts := h.insts.filter (fun i => !gone i),
      resident := h.resident.filter (fun x => !names.contains (x.comm, x.seq)),
      ctxs := h.ctxs.filter (fun x => !names.contains (x.comm, x.seq)),
      fetches := h.fetches.filter (fun x => !names.contains (x.ctx.comm, x.ctx.seq)),
      stageQ := h.stageQ.filter (fun x => !names.contains (x.comm, x.seq)),
      spills := h.spills.filter (fun x => !names.contains (x.comm, x.seq)) } }

/-- What a partition's program has under way outside its tiles ends with it: Thresher calls and their decisions, Granary
requests (log entry 60). -/
def endCalls (s : State) (n : Nat) : State :=
  { s with
    thr := { s.thr with
      calls := s.thr.calls.filter (fun c => c.part != n), outs := s.thr.outs.filter (fun c => c.part != n),
      egress := s.thr.egress.filter (fun e => e.part != n) },
    grn := { s.grn with
      reqs := s.grn.reqs.filter (fun r => r.part != n),
      stores := s.grn.stores.filter (fun r => r.part != n || r.resp.isSome) } }

/-- The collective instances that `gone` names end without ABORT: their slots and unfinished receipts go with them (R279). -/
def dropColls (s : State) (gone : PavInst → Bool) : State :=
  let names := (s.pav.insts.filter gone).map (fun i => (i.comm, i.seq))
  { s with
    pav := { s.pav with
      insts := s.pav.insts.filter (fun i => !gone i),
      slots := s.pav.slots.filter (fun x => !names.contains (x.comm, x.seq)),
      ins := s.pav.ins.filter (fun x => !names.contains (x.comm, x.seq)) } }

/-- The dispatch, EMBAG, ROWUPD and collective instances of a partition end (R369). -/
def endInstances (s : State) (n : Nat) : State :=
  endCalls (dropInsts (dropColls s (fun i => i.part == n)) (fun i => i.part == n)) n

/-- The instances that a step opened end with it (log entry 60). -/
def endStepInstances (s : State) (n step : Nat) : State :=
  dropInsts (dropColls s (fun i => i.part == n && i.step == step))
    (fun i => i.part == n && i.step == step)

/-- One step of a partition ends with an error code: completion, counters, events and records. -/
def endStep (s : State) (n : Nat) (st : Step) (code : Nat) (refused : Bool) : State :=
  let s := writeDigests s n st true
  let s := leaveWindow (writeStepRecord s n (charged s st) code refused) st
  let s := if refused then evt (incSat s (pgDev + 0x5C) 1) pgDev 4 else evt (incSat s (pgDev + 0x58) 1) pgDev 3
  let cyc := if st.startAclk = 0 then 0 else s.clk.aclk - st.startAclk
  completeEntry s st.qp st.ent code st.num cyc

/-- The partition's first error code is kept for the Health Summary Record (R427). -/
def noteError (s : State) (n code : Nat) : State :=
  let p := getPart s n
  if p.firstError = 0 then setPart s n { p with firstError := code } else s

/-- The tokens whose combined vectors a counter of a tile awaits: instance and low TOKEN bits (R297). -/
def shTokens (s : State) (t k : Nat) : List (Nat × Nat × Nat) :=
  s.sheaf.insts.flatMap (fun i =>
    if i.tiles.any (fun y => y.tile == t && y.ctr == k) then
      (i.staged.filter (fun x => x.tile == t && !x.done)).map (fun x => (i.comm, i.seq, x.tok))
    else [])

/-- A counter of a tile awaits a transfer that finds its staging share full (R107). -/
def awaitsStaging (s : State) (t k : Nat) : Bool :=
  s.sheaf.stageQ.any (fun q => q.tile == t && s.sheaf.insts.any (fun i =>
    i.comm == q.comm && i.seq == q.seq && i.tiles.any (fun y => y.tile == t && y.ctr == k)))

/-- A counter of a tile awaits a unit that depends on a spilled block whose read-back is under way (R108). -/
def awaitsReadback (s : State) (t k : Nat) : Bool :=
  s.sheaf.spills.any (fun g => g.wanted && (shTokens s t k).any (fun x =>
    x.1 == g.comm && x.2.1 == g.seq && (g.staged.contains x.2.2 || (g.accums.map (fun a => a % 65536)).contains x.2.2)))

/-- The stall cause of an instance's waits: PAV_WAIT for a tree or its decision, PEER_SYNC otherwise (R179, R266). -/
def pavCause (i : PavInst) : Nat := if i.eligible ∧ (i.alg = none ∨ i.alg = some 0) then 8 else 6

/-- The stall cause of the pending unit of a tile's wait on a counter of its foreground (R22, R179, R252, R253), from what is
under way for it; with nothing under way yet, that of a unit of another device. -/
def waitCause (s : State) (t k : Nat) : Nat :=
  let c := (getTile s t).fg
  let x := getCtr c k
  if x.kind ≠ 0 ∨ awaitsStaging s t k then 7
  else if awaitsReadback s t k then 1
  else if s.atom.fences.any (fun f => f.tile == t && !f.bg && f.ctr == k) then 5
  else
    match s.atom.groups.find? (fun g => g.tile == t && !g.bg && g.ctr == k) with
    | some g => if (s.atom.out ++ s.atom.held).any (fun r => r.reply.group == g.id && r.proto == 6) then 6 else 5
    | none =>
      match s.pav.insts.find? (fun i => i.part == c.part && i.pieces.any (fun p => p.tile == t && p.ctr == k)) with
      | some i => pavCause i
      | none =>
      if x.cause ≠ 0 then x.cause
      else
        match (inFlight s).find? (fun u => u.tile == t && !u.bg && u.ctr == k) with
        | some u => u.cause
        | none =>
          match s.grn.stores.find? (fun e => e.tile == t && !e.bg && e.ctr == k && e.resp.isNone) with
          | some e => e.cause
          | none =>
            match s.grn.reqs.find? (fun r => r.tile == t && !r.bg && r.op != 3 && r.handle == x.handleA) with
            | some r => max 1 r.cause
            | none => 6

/-- The ACLK that a tile has been held at its present wait count under a stall cause (R22): the tile's counter, the step's
record and the partition's summary. -/
def settleHold (s : State) (t cause : Nat) : State :=
  let x := getTile s t
  let h := x.fg.held
  if h = 0 ∨ cause = 0 ∨ cause > 11 then s
  else
    let i := cause - 1
    let s := inc64 (setTile s t { x with fg := { x.fg with held := 0 } }) (pgTile t + 0x60 + 8 * i) h
    let p := getPart s x.fg.part
    setPart s x.fg.part { p with
      hsrCause := p.hsrCause.set i (p.hsrCause.getD i 0 + h),
      steps := p.steps.map (fun st =>
        if st.num = x.fg.step ∧ st.phase ≠ .queued then { st with stall := st.stall.set i (st.stall.getD i 0 + h) } else st) }

/-- The holds of a partition's tiles end with no unit landed: each counts under the cause of what is pending. -/
def settleHolds (s : State) (n : Nat) : State :=
  (tilesOf (getPart s n).tiles).foldl (fun s t =>
    let c := (getTile s t).fg
    match c.waiting with
    | some (k, _) => if c.live ∧ c.part = n then settleHold s t (waitCause s t k) else s
    | none => s) s

/-- The partition's admitted step ends with an error completion and no replay (R135): where `whole`, its instances end with it. -/
def endHeadWith (whole : Bool) (s : State) (n code : Nat) : State :=
  let p := getPart s n
  match p.steps with
  | [] => noteError s n code
  | _ :: _ =>
    let s := settleHolds s n
    let s := match (getPart s n).steps.head? with
      | some st => let s := endStep s n st code false; if whole then endStepInstances s n st.num else s
      | none => s
    let s := setPart s n { getPart s n with steps := (getPart s n).steps.tail }
    noteError (endCalls (clearCtxs s n) n) n code

/-- The partition's admitted step ends with an error completion, and its instances with it. -/
def endHead (s : State) (n code : Nat) : State := endHeadWith true s n code

/-- The step of a partition that has a number ends with a code, where it is the admitted one. -/
def endStepOf (s : State) (n step code : Nat) : State :=
  match (getPart s n).steps.head? with
  | some st => if st.num = step then endHead s n code else noteError s n code
  | none => noteError s n code

/-- Every admitted and queued step of a partition ends with a code. -/
def endAll (s : State) (n code : Nat) : State :=
  let s := settleHolds s n
  let s := (getPart s n).steps.foldl (fun s st => endStep s n st code false) s
  let s := setPart s n { getPart s n with steps := [] }
  endInstances (clearCtxs s n) n

/-- A partition fault (R190, R415): every step ends with the code, its instances end, and the partition is FAULTED. -/
def partFault (s : State) (n code : Nat) : State :=
  let p := getPart s n
  if p.state = .opened ∨ p.state = .stopped then
    let s := noteError (endAll s n code) n code
    evt (incSat (setPart s n { getPart s n with state := .faulted }) (pgDev + 0x64) 1) pgDev 1
  else s

/-- A Granary's call or partition fault event (R191). -/
def grnFault (s : State) (die : Nat) (n code : Nat) : State :=
  errIn (evt s (pgGrn die) 0) (pgGrn die) code (some n) 0

/-- A grain becomes LOST: recorded, counted, and the partition faults with 0x0404 (R184, R190). -/
def loseGrain (s : State) (n ea g a : Nat) : State :=
  let w := entryW s ea
  let d := peOwner w
  let s := writeBack (setEntry s ea (peSetGrain w g 8)) ea
  let s := if pairN s (pgGrn d + 0x170) = 0 then setPair s (pgGrn d + 0x170) a else s
  let s := evt (incSat s (pgGrn d + 0xD4) 1) (pgGrn d) 2
  partFault (grnFault s d n 0x0404) n 0x0404

/-- The Granary that owns the page of a job address; die 0 where it is not mapped. -/
def ownerDie (s : State) (n a : Nat) : Nat :=
  match walk s 0 n a with
  | .page _ w => peOwner w
  | _ => 0

/-- An access meets a LOST grain: counted, and the partition faults (R190). -/
def lostAccess (s : State) (n a : Nat) : State :=
  let d := ownerDie s n a
  partFault (grnFault (incSat s (pgGrn d + 0xD4) 1) d n 0x0404) n 0x0404

/-- A clean grain is lost with its home: counted, and the partition faults (R184, R331). -/
def homeLost (s : State) (d n : Nat) : State :=
  partFault (grnFault (incSat s (pgGrn d + 0xD4) 1) d n 0x040A) n 0x040A

/-- An uncorrectable block in a grain of a mapped page, by the class of the page (R331). -/
def uncorrGrain (s : State) (n ea g a : Nat) : State :=
  let w := entryW s ea
  let d := peOwner w
  if peDirty w then loseGrain s n ea g a
  else if peHomeDev w = myDev s ∨ s.grn.down.contains (peHomeDev w) then homeLost s d n
  else
    -- refetched from the home
    let s := dropCopy (incSat (setEntry s ea (peSetGrain w g 4)) (pgGrn d + 0xC8) 1) ea g
    { s with
      grn := { s.grn with
        copies := s.grn.copies ++ [{ entry := ea, grain := g, target := 1, part := n, die := d, page := a / 0x200000 * 0x200000 }] } }

/-- What an obstacle in job memory does to the access's partition, where a tile's request met it (R190). The answer
says whether the request waits. -/
def obstacle (s : State) (t n a : Nat) (callFault' : State → Nat → State) : JobRes → State
  | .unmapped => callFault' (grnFault s (t / 60) n 0x0402) 0x0402
  | .readOnly => callFault' (grnFault s (t / 60) n 0x0403) 0x0403
  | .badTmap => partFault (grnFault s (t / 60) n 0x0405) n 0x0405
  | .lost x => lostAccess s n x
  | .uncorr ea g => uncorrGrain s n ea g a
  | _ => s

end Sys2Proof.Machine
end

