-- ==== Sys2Proof/Machine/TileOps.lean ====
section
/-!
DEFINITION. What every tile instruction shares: its context, its handles and buffers (R113, R287), bank ownership
(R114), the descriptor line (R288), random bits (R39) and the call fault (R135).
-/

namespace Sys2Proof.Machine

open Sys2Proof Sys2Proof.Config

/-- The step that the foreground context of a tile runs. -/
def stepOf (s : State) (t : Nat) : Option Step :=
  (getPart s (getTile s t).fg.part).steps.head?

/-- A stop of the partition has reached its frame boundary F and no resume its F′ (R131, R133). -/
def stopHolds (s : State) (n : Nat) : Bool :=
  let p := getPart s n
  p.stop == .stopped || (p.stop == .stopping && p.stopAt ≤ s.clk.aclk)

/-- The next 64-ACLK frame boundary at or after an ACLK (R17). -/
def frameAfter (a : Nat) : Nat := roundUp a 64

/-- The frame boundary of a poison's halt: at least 128 ACLK after the detection (R333). -/
def poisonHaltAt (st : Step) : Nat := frameAfter (st.poisonAclk + 128)

/-- The step's tiles run: a stop or a poison's halt has not reached its frame boundary (R131, R333). -/
def stepRuns (s : State) (n : Nat) (st : Step) : Bool :=
  !stopHolds s n && (st.phase == .running || (st.phase == .halting && s.clk.aclk < poisonHaltAt st))

/-- The tile issues: it is present and powered, its step runs, no stop is in force (R15, R131), and no stationary line waits
for its refetch (R135; log entry 65). -/
def issues (s : State) (t : Nat) : Bool :=
  let x := getTile s t
  t < 120 && x.powered && x.fg.live && !x.fg.ended && x.fg.waiting.isNone && x.fg.committing.isNone && x.refetch.isEmpty
    && (match (getPart s x.fg.part).steps.head? with
        | some st => stepRuns s x.fg.part st && st.num == x.fg.step
        | none => false)

/-- The SRAM byte address of the bundle at the program counter (R286). -/
def pcAddr (c : Ctx) : Nat := c.progBank * 0x90000 + 32 * c.pc

/-- A call fault (R135): recorded with the program counter, and the step ends with an error completion. The tile counts the
faults of its own tables (codes 02xx); a fault of another block is counted where its row says (R190). DEDUCED (log 60). -/
def callFault (s : State) (t code bed : Nat) : State :=
  let c := (getTile s t).fg
  let pg := pgTile t
  let s := if ctr32 s (pg + 0xCC) = 0 ∧ regN s (pg + 0x124) = 0 then
    setRegN s (pg + 0x124) (bed * 2 ^ 24 + pcAddr c % 2 ^ 24) else s
  let s := if code / 256 = 2 then incSat s (pg + 0xCC) 1 else s
  let s := errIn (evt s pg 0) pg code (some c.part) c.step
  endHead s c.part code

/-- A step that has started and neither committed nor ended. -/
def started (st : Step) : Bool := st.phase != .queued && st.phase != .admitted

/-- The running steps of the device are not clean: a stop, a replay, a spill, a scrub write-back or a retry occurs (R315). -/
def soilSteps (s : State) : State :=
  (List.range 4).foldl (fun s n =>
    let p := getPart s n
    setPart s n { p with steps := p.steps.map (fun st => { st with unclean := st.unclean || started st }) }) s

/-- The step of a tile's context awaits a unit of another device, of T2 or of the host, and is not clean (R315). -/
def soilCtx (s : State) (t : Nat) (bg : Bool) : State :=
  let c := ctxOf s t bg
  let p := getPart s c.part
  setPart s c.part { p with steps := p.steps.map (fun st => { st with unclean := st.unclean || st.num == c.step }) }

/-- The step of a unit's context is not clean where the unit comes from outside the device (R315). -/
def soilUnit (s : State) (away : Bool) (u : Unit) : State := if away then soilCtx s u.tile (if u.cause = 9 then u.bg else roleOf s u.tile u.part) else s

/-- A poison is raised for the partition's running step (R333); a second one while the first is handled merges
with it (R340). -/
def poison (s : State) (n code : Nat) : State :=
  let p := getPart s n
  match p.steps with
  | [] => s
  | st :: r =>
    if st.phase = .running ∨ st.phase = .restarting then
      let st := { st with phase := .halting, poisonAclk := s.clk.aclk, poisonCode := code, unclean := true }
      soilSteps (setPart s n { p with steps := st :: r, poisons := p.poisons + 1 })
    else setPart s n { p with poisons := p.poisons + 1 }

/-- A poison that a tile detects: its error, event and code (R333). -/
def tilePoison (s : State) (t n code : Nat) : State :=
  let pg := pgTile t
  poison (errIn (evt s pg 2) pg code (some n) (getTile s t).fg.step) n code

/-! ## Handles and buffers -/

/-- The banks of a handle entry, ascending (R287). -/
def hBanks (h : Nat) : List Nat := (List.range 16).filter (fun i => bit h (48 + i))

/-- The bank mask of a handle entry. -/
def hMask (h : Nat) : Nat := fld h 63 48

/-- First line of a handle in each bank. -/
def hBase (h : Nat) : Nat := fld h 47 34

/-- Lines of a handle's buffer. -/
def hLines (h : Nat) : Nat := fld h 33 16

/-- Lines per row of a handle. -/
def hRow (h : Nat) : Nat := fld h 15 8

/-- The SRAM address of the k-th line of a buffer, rows first (R113). -/
def lineAddr (h l : Nat) : Nat :=
  let r := l / max 1 (hRow h)
  let k := l % max 1 (hRow h)
  let bs := hBanks h
  let n := max 1 bs.length
  bs.getD (k % n) 0 * 0x90000 + (hBase h + r * ((hRow h + n - 1) / n) + k / n) * 64

/-- The SRAM address of byte `i` of a buffer. -/
def bufAddr (h i : Nat) : Nat := lineAddr h (i / 64) + i % 64

/-- Bytes of a buffer. -/
def readBuf (s : State) (t h off n : Nat) : List Byte :=
  (List.range n).map (fun i => NMap.get (fun _ => 0) s.mem.sram (sramKey t (bufAddr h (off + i))))

/-- The first byte of a buffer range whose parity is wrong. -/
def badByte (s : State) (t h off n : Nat) : Option Nat :=
  ((List.range n).map (fun i => bufAddr h (off + i))).find?
    (fun a => NMap.get (fun _ => false) s.mem.sramBad (sramKey t a))

/-- Bytes written to a buffer, line by line. -/
def writeBufFuel : Nat → State → Nat → Nat → Nat → List Byte → State
  | 0, s, _, _, _, _ => s
  | f + 1, s, t, h, off, bs =>
    if bs.isEmpty then s
    else
      let n := 64 - off % 64
      writeBufFuel f (writeSram s t (bufAddr h off) (bs.take n)) t h (off + n) (bs.drop n)

/-- Bytes written to a buffer. -/
def writeBuf (s : State) (t h off : Nat) (bs : List Byte) : State := writeBufFuel (bs.length / 64 + 2) s t h off bs

/-- The loop on a register that is running, if any. -/
def loopOn (c : Ctx) (r : Nat) : Option Loop := c.loops.find? (fun l => l.reg == r)

/-- The handle an instruction resolves to: PARTNER in odd iterations of its loop (R287); 0 if undefined. -/
def resolve (c : Ctx) (h : Nat) : Nat :=
  let e := NMap.get (fun _ => 0) c.handles h
  let p := fld e 71 64
  if h = 0 then 0
  else if p = 0 then e
  else
    match loopOn c (fld e 74 72) with
    | some l => if l.done % 2 = 1 then NMap.get (fun _ => 0) c.handles p else e
    | none => e

/-- The counter that arms a handle, if it is armed and unsatisfied. -/
def ctrOwns (c : Ctx) (k : Ctr) : Nat :=
  if !k.armed ∨ k.kind ≠ 0 ∨ k.value ≥ k.target then 0
  else if k.handleB = 0 then hMask (NMap.get (fun _ => 0) c.handles k.handleA)
  else
    -- a ring element owns its banks until its unit lands (R299)
    let armedUpTo := min (k.released + 2) k.target
    (List.range (armedUpTo - k.value)).foldl (fun m i =>
      let h := if (k.value + i) % 2 = 0 then k.handleA else k.handleB
      Nat.lor m (hMask (NMap.get (fun _ => 0) c.handles h))) 0

/-- The banks that a pass owns in an ACLK (R114): its stationary source, feed and validity until its last injection slot, its
drain and carry until its last result is written. -/
def passOwns (p : LivePass) (aclk : Nat) : Nat :=
  let a := if aclk ≤ p.last then Nat.lor (hMask p.src) (Nat.lor (hMask p.bufs.feed) (hMask p.bufs.vmap)) else 0
  Nat.lor a (if aclk ≤ p.endAt then Nat.lor (hMask p.bufs.drain) (hMask p.bufs.carry) else 0)

/-- The banks owned in a tile by armed arrival buffers, RECV windows, passes and the stationary sources of passes to come, and
the program bank (R114, R286, R291, R292). -/
def ownedBanks (x : Tile) (aclk : Nat) : Nat :=
  let c := x.fg
  let a := c.ctrs.foldl (fun m e => Nat.lor m (ctrOwns c e.2)) 0
  let w := c.windows.foldl (fun m e => Nat.lor m (hMask (NMap.get (fun _ => 0) c.handles e.1))) 0
  let r := x.stat.foldl (fun m e => if e.2.sfmt ≠ 0 ∧ !e.2.used then Nat.lor m (hMask e.2.src) else m) 0
  let r := x.passes.foldl (fun m p => Nat.lor m (passOwns p aclk)) r
  let committed := (c.parts.getLast?).map (fun p => p.layer)
  let given := c.handover.foldl (fun m h => match committed with
    | some l => if l ≥ h.2 then Nat.lor m h.1 else m
    | none => m) 0
  Nat.lor (Nat.lor (Nat.lor a w) given) (Nat.lor r (2 ^ c.progBank))

/-- The banks that a tile's Thresher calls, STOREs and collectives own until they complete (R114, R260). -/
def unitBanks (s : State) (t : Nat) : Nat :=
  let n := (getTile s t).fg.part
  let a := s.thr.calls.foldl (fun m c => if c.tile = t ∧ c.part = n ∧ callLive s c then Nat.lor m c.banks else m) 0
  let a := s.grn.stores.foldl (fun m x => if x.tile = t ∧ x.part = n ∧ !x.bg then Nat.lor m x.banks else m) a
  s.pav.insts.foldl (fun m i => if i.part = n then
    i.pieces.foldl (fun m x => if x.tile = t then Nat.lor m x.banks else m) m else m) a

/-- The banks an issue may not name: owned ones and those of the other context (R114). -/
def blockedBanks (s : State) (i : Issue) : Nat :=
  let x := getTile s i.tile
  Nat.lor (Nat.lor (Nat.lor (ownedBanks x s.clk.aclk) (unitBanks s i.tile)) (i.live % 65536)) (if x.bg.live then x.bg.bankSet else 0)

/-- A buffer operand is good: its handle is defined, its range lies within its lines, its banks are free (R114, R294). -/
def bufOk (s : State) (i : Issue) (h off n : Nat) : Bool :=
  h != 0 && off + n ≤ hLines h * 64 && Nat.land (hMask h) (blockedBanks s i) == 0

/-- A buffer operand whose banks the model need not find free: its own armed buffer or stationary source. -/
def bufIn (h off n : Nat) : Bool := h != 0 && off + n ≤ hLines h * 64

/-- The bytes of the descriptor an instruction names, from its DOFF on (R288); empty with no line named. -/
def descOf (s : State) (i : Issue) (doff n : Nat) : List Byte :=
  if i.dline ≥ 9216 then []
  else readSram s i.tile ((getTile s i.tile).fg.progBank * 0x90000 + 64 * i.dline + 16 * doff) n

end Sys2Proof.Machine

namespace Sys2Proof

open Sys2Proof.Machine

/-- The slot word as a number. -/
def Issue.w (i : Issue) : Nat := i.slot.toNat


/-- DOFF of a 64-bit slot (R288). -/
def Issue.doff (i : Issue) : Nat := fld i.w 55 54

end Sys2Proof

namespace Sys2Proof.Machine

open Sys2Proof Sys2Proof.Config

/-- A loop count register. -/
def lcGet (c : Ctx) (r : Nat) : Nat := c.lc.getD r 0

/-- A loop count register written, with the ACLK of the write (R290). -/
def lcSet (c : Ctx) (r v aclk : Nat) : Ctx :=
  { c with lc := c.lc.set r (v % 2 ^ 32), lcAt := c.lcAt.set r aclk }

/-- A tile counts conversions that saturate (R59). -/
def convSat (s : State) (t n : Nat) : State := if n = 0 then s else incSat s (pgTile t + 0xC0) n

/-- The random bits of element `k` of an instruction's output (R39). -/
def srBits (c : Ctx) (t : Nat) (stoch : Bool) (k : Nat) : Option Nat :=
  if stoch then some (h64 c.seed c.step t k % 65536) else none

/-- A parity error that a tile meets at an SRAM address: counted, the first one's address kept (R135, R136). -/
def noteParity (s : State) (t a : Nat) : State :=
  let pg := pgTile t
  let s' := evt (incSat s (pg + 0xBC) 1) pg 1
  if regN s (pg + 0xBC) = 0 then setRegN s' (pg + 0x120) a else s'

/-- The lines of a buffer range whose parity is wrong, in order. -/
def badLines (s : State) (t h off n : Nat) : List Nat :=
  (((List.range n).map (fun i => bufAddr h (off + i))).filter
    (fun a => NMap.get (fun _ => false) s.mem.sramBad (sramKey t a))).map (fun a => a / 64 * 64) |>.eraseDups

/-- The stall cause of a refetch: that of the unit which delivered the line, T1_LATE where none is kept (R135). -/
def refetchCause (s : State) (t : Nat) (h : Nat) : Nat :=
  match s.kept.find? (fun u => u.tile == t && u.cause == 2
      && NMap.get (fun _ => 0) (ctxOf s u.tile u.bg).handles u.handle == h) with
  | some _ => 2
  | none => 1

/-- A parity error in a read of stationary or predictor data (R135, R157): counted, and a stop of the partition for the refetch
of its lines is asked for. -/
def parityStop (s : State) (t h : Nat) (lines : List Nat) : State :=
  let s := lines.foldl (fun s a => noteParity s t a) s
  let x := getTile s t
  let s := setTile s t { x with refetch := (x.refetch ++ lines).eraseDups }
  let p := getPart s x.fg.part
  setPart s x.fg.part { p with
    stopParity := true, stopCause := refetchCause s t h, stop := if p.stop = .none then .requested else p.stop }

/-- A parity error in a read of activations (R135): counted, recorded, poisons the step. -/
def parityPoison (s : State) (t a : Nat) : State :=
  let s := noteParity s t a
  let n := (getTile s t).fg.part
  let s := setPart s n { getPart s n with
  steps := (getPart s n).steps.map (fun st =>
    if st.num = (getTile s t).fg.step then { st with damaged := st.damaged ++ [(t, a)] } else st) }
  tilePoison s t n 0x0207

/-- An instruction's common frame: it has effect only on an issuing tile; a reserved bit set in the slot is a call
fault with 0x0206 (R288). `used` is the mask of the slot's fields: DOFF of a 32-byte descriptor is 0 or 2, and so leaves bit 54
clear. One that takes a descriptor in a bundle that names no line is refused alike (log entry 116). -/
def issued (s : State) (i : Issue) (used : Nat) (eff : State → State) : Out :=
  if !issues s i.tile then .next s
  else if Nat.land i.w (2 ^ 64 - 1 - used) ≠ 0 ∨ (bit used 55 ∧ 9216 ≤ i.dline) then .next (callFault s i.tile 0x0206 0)
  else .next (eff s)

/-- A tile counts a dynamic effect that it issues (R334). -/
def countEffect (s : State) (t : Nat) : State :=
  setFg s t { (getTile s t).fg with effects := (getTile s t).fg.effects + 1 }

/-- A dynamic effect of a tile: matched against the abandoned run in a replay, else issued and counted (R334). -/
def dynamic (s : State) (t : Nat) (eff : State → State) : State :=
  let c := (getTile s t).fg
  if c.matched > 0 then setFg s t { c with matched := c.matched - 1, effects := c.effects + 1 }
  else eff (countEffect s t)

/-- The step's FRAME schedule gives a tile an EDGE entry, by which it reaches the die edge (R474). -/
def edgeGives (s : State) (t : Nat) : Bool :=
  match stepOf s t with
  | some st => st.frame.any (fun e => e.kind == 2 && e.src == t)
  | none => false

/-- A dynamic effect that a tile sends over the die edge: Granary requests, DSEND and RETURN. Without an EDGE entry it never leaves
the tile (R17, R474). -/
def overEdge (s : State) (t : Nat) (eff : State → State) : State := dynamic s t (fun s => if edgeGives s t then eff s else s)

end Sys2Proof.Machine
end

