-- ==== Sys2Proof/Machine/Operands.lean ====
section
/-!
DEFINITION. Every operand form of a tile instruction: the formats of a slot word, tensors in buffers, the pass
descriptor (R292), stationary blocks and manifests.
-/

namespace Sys2Proof.Machine

open Sys2Proof Sys2Proof.Config

/-- The format of a stream or element code; `none` for a code that the field does not take. -/
def streamFmt (c : Nat) : Option Fmt :=
  match c with
  | 1 => some .e4m3 | 2 => some .e5m2 | 3 => some .bs4 | 5 => some .bf16 | 7 => some .int8 | _ => none

/-- Stationary formats (R292): an element format, dense or FSW. -/
def statFmt (c : Nat) : Option (Fmt × Bool) :=
  match c with
  | 9 => some (.e4m3, true)
  | 10 => some (.bs4, true)
  | _ => (streamFmt c).map (fun f => (f, false))

/-- Rows and columns of a bed in a bed mode (R127). -/
def bedSize (mode : Nat) : Nat := 64 / 2 ^ mode

/-- Beds in a bed mode. -/
def bedCount (mode : Nat) : Nat := 4 ^ mode

/-- The pass descriptor of 32 bytes. -/
def parsePass (d : List Byte) : PassDesc :=
  let w := leNat d
  { sfmt := fld w 3 0, xfmt := fld w 7 4, bed := fld w 11 8, tag := fld w 12 12, present := bit w 14,
    acc := bit w 15, vsrc := fld w 17 16, m := fld w 63 32, feed := fld w 71 64, drain := fld w 79 72,
    carry := fld w 87 80, vmap := fld w 95 88, feedRow := fld w 127 96, drainRow := fld w 159 128,
    carryRow := fld w 191 160, gapEvery := fld w 207 192, gapLen := fld w 223 208,
    bad := d.length != 32 || bit w 13 || fld w 23 18 != 0 || fld w 31 24 != 0 || fld w 255 224 != 0
      || fld w 17 16 == 3 || (statFmt (fld w 3 0)).isNone || (streamFmt (fld w 7 4)).isNone
      || (!bit w 15 && fld w 87 80 != 0) }

/-- Bytes of one column of a stationary block of s rows: codes, position codes and scales (R120, R153). -/
def columnBytes (sfmt s : Nat) : Nat :=
  match statFmt sfmt with
  | some (.bf16, _) => 2 * s
  | some (.bs4, false) => s / 2 + s / 16
  | some (.bs4, true) => s / 2 + s / 2 + s / 4
  | some (_, true) => s + s / 2
  | some (_, false) => s
  | none => 0

/-- T_load of a stationary format on a bed of s rows: the bytes of a column divided by 2 (R120, R153). -/
def tLoad (sfmt s : Nat) : Nat := (columnBytes sfmt s + 1) / 2

/-- Bytes of a stationary block of s × s cells. -/
def blockBytes (sfmt s : Nat) : Nat := columnBytes sfmt s * s

/-- The byte of a stationary block at which the segment of a group begins, and the group's place in it: groups of 16 rows
(BS4) or of 4 slots (FSW) follow one another across the bed's columns, row group by row group, and 64 of them make a segment
(R41, R52; log entry 14). -/
def segmentOf (segBytes g : Nat) : Nat × Nat := (g / 64 * segBytes, g % 64)

/-- The stationary value of cell (i, j), and the contraction position within its group of 16 that an FSW slot names (0 for a
dense block). A block of unscaled elements is stored in row order, each row across the bed's columns (R123); BS4 and FSW blocks
are stored in the segments of R41 and R52 (log entry 14). -/
def cellVal (sfmt s : Nat) (bs : List Byte) (i j : Nat) : Val × Nat :=
  let at' := fun k => (bs.getD k 0).toNat
  let nib := fun (base v : Nat) => let b := at' (base + v / 2); if v % 2 = 0 then b % 16 else b / 16
  let pos := fun (base k : Nat) => fld (at' (base + 2 * k) + 256 * at' (base + 2 * k + 1)) (4 * (i % 4) + 3) (4 * (i % 4))
  match statFmt sfmt with
  | none => (.fin false 0 0, 0)
  | some (.bs4, false) =>
    let (b, k) := segmentOf 576 (i / 16 * s + j)
    let n := min 64 (s / 16 * s)
    (decBS4 (at' (b + 8 * n + k)) (nib b (16 * k + i % 16)), 0)
  | some (.bs4, true) =>
    let (b, k) := segmentOf 320 (i / 4 * s + j)
    (decBS4 (at' (b + 256 + k)) (nib (b + 128) (4 * k + i % 4)), pos b k)
  | some (f, true) =>
    let (b, k) := segmentOf 384 (i / 4 * s + j)
    (decode f 0 (at' (b + 128 + 4 * k + i % 4)), pos b k)
  | some (.bf16, false) => (decBF16 (at' (2 * (i * s + j)) + 256 * at' (2 * (i * s + j) + 1)), 0)
  | some (f, false) => (decode f 0 (at' (i * s + j)), 0)

/-- The result of one column of a bed: the mode follows the stationary format (R44 to R47, R152). -/
def columnResult (sfmt s : Nat) (blk : List Byte) (x : List Val) (j : Nat) : Nat :=
  let rows := List.range s
  match statFmt sfmt with
  | none => 0
  | some (f, fsw) =>
    let ps := rows.map (fun i =>
      let c := cellVal sfmt s blk i j
      (c.1, x.getD (if fsw then 16 * (i / 4) + c.2 else i) (.fin false 0 0)))
    match f with
    | .bs4 => if fsw then colFswBs4 ps else colBlocks 16 ps
    | .bf16 => colTree ps
    | .int8 => colInt ps
    | _ => colExact ps

/-- The FP32 or INT32 row that one vector leaves at the drain. -/
def passRow (sfmt s : Nat) (blk : List Byte) (x : List Val) : List Nat :=
  (List.range s).map (columnResult sfmt s blk x)

/-- The values of one streaming vector (R150: absent blocks are fed as zeros). -/
def feedVector (s : State) (t h row n : Nat) (f : Fmt) : List Val :=
  decodeTensor f n (readBuf s t h (row * hRow h * 64) (tensorBytes f n))

/-- The CBS records of a feed row of `n` values: none where a record is malformed (R59). -/
def feedCbs (s : State) (t h row n : Nat) (f : Fmt) : Option (List CbsRec) :=
  parseCbs (some f) n (readBuf s t h (row * hRow h * 64) (hRow h * 64))

/-- The CBS blocks of 32 values that are present in a stream. -/
def presentBlocks (rs : List CbsRec) : List Nat :=
  ((List.range rs.length).zip rs).flatMap (fun p => p.2.blocks.map (fun b => 16 * p.1 + b.1))

/-- A present block overlaps a chunk of `n` positions (R150). -/
def chunkPresent (rs : List CbsRec) (chunk n : Nat) : Bool :=
  (presentBlocks rs).any (fun b => decide (32 * b < (chunk + 1) * n ∧ chunk * n < 32 * (b + 1)))

/-- The values of a chunk of `n` positions, absent blocks as zeros (R150). -/
def chunkVals (rs : List CbsRec) (chunk n : Nat) : List Val := ((rs.flatMap CbsRec.vals).drop (chunk * n)).take n

/-- The validity of the vectors of a pass (R292). -/
def validVectors (s : State) (t : Nat) (d : PassDesc) (vmap : Nat) : List Nat :=
  let ms := List.range d.m
  match d.vsrc with
  | 1 => ms.filter (fun m => ((readBuf s t vmap (m / 8) 1).headD 0).getLsbD (m % 8))
  | 2 => ms.filter (fun m => bit (leNat (readBuf s t vmap (16 + 8 * m) 8)) 57)
  | _ => ms

/-- Vectors that share an injection slot: two in BS4 (R118). -/
def slotVectors (sfmt : Nat) : Nat := if sfmt = 3 then 2 else 1

/-- Slots from one vector to the next: two in BF16 (R118). -/
def slotStep (sfmt : Nat) : Nat := if sfmt = 5 then 2 else 1

/-- Slots from a pass's first to that of its vector `k`: its gaps follow every GAP_EVERY vectors, and `slow` is how many times
slower than the full rate its banks take vectors (R118, R120, R292). -/
def slotOff (d : PassDesc) (slow k : Nat) : Nat :=
  let w := slotStep d.sfmt * slow
  let per := slotVectors d.sfmt
  if d.gapEvery = 0 then k / per * w
  else k / d.gapEvery * ((d.gapEvery + per - 1) / per * w + d.gapLen) + k % d.gapEvery / per * w

/-- Drain banks that a pass needs at full rate with a STORE drain, and again for the carry-in of an ACCUMULATE drain (R120,
R153). -/
def drainNeed (sfmt s : Nat) : Nat :=
  if sfmt = 3 then max 1 (s / 8) else if sfmt = 5 then max 1 (s / 32) else max 1 (s / 16)

/-- Feed banks that a pass needs at full rate (R120, R153). -/
def feedNeed (sfmt s : Nat) : Nat :=
  if sfmt = 9 ∨ sfmt = 10 then max 1 (s / 16) else if sfmt = 3 then max 1 (s / 32) else 1

/-- ACLK from a vector's slot to the landing of its last column (R118): s − 1 + s + d. -/
def drainTail (sfmt s : Nat) : Nat := 2 * s - 1 + (if sfmt = 3 ∨ sfmt = 10 then 4 else if sfmt = 5 then 8 else 2)

/-- ⌈a ÷ b⌉, with no bank counted as one. -/
def timesOver (a b : Nat) : Nat := (a + max 1 b - 1) / max 1 b

/-- Bytes per ACLK that all beds of a mode drain at full rate (R120, R128). -/
def modeDrain (sfmt mode : Nat) : Nat :=
  bedCount mode * (bedSize mode * 4 * slotVectors sfmt / slotStep sfmt)

/-- How many times slower than the full rate a pass feeds: the slowest of its drain, carry and feed banks (R120, R153), and the
512 B per ACLK that all beds of its mode drain (R128; log entry 107). -/
def passSlow (d : PassDesc) (b : PassBufs) (mode : Nat) : Nat :=
  let s := bedSize mode
  let n := fun h => (hBanks h).length
  let a := max (timesOver (drainNeed d.sfmt s) (n b.drain)) (timesOver (feedNeed d.sfmt s) (n b.feed))
  let c := if d.acc then timesOver (drainNeed d.sfmt s) (n b.carry) else 1
  max (max a c) (timesOver (modeDrain d.sfmt mode) 512)

/-- The elements of a vector instruction's operand (R293). -/
def vecElems (s : State) (t h n : Nat) (f : Fmt) : List Val := decodeTensor f n (readBuf s t h 0 (tensorBytes f n))

end Sys2Proof.Machine

namespace Sys2Proof

open Sys2Proof.Machine

/-- FMT of a vector slot. -/
def Issue.fmt (i : Issue) : Option Fmt := fmtOfCode (fld i.w 53 50)

/-- SAT of a vector slot. -/
def Issue.sat (i : Issue) : Bool := bit i.w 48

end Sys2Proof
end

