-- ==== Sys2Proof/Machine/Array.lean ====
section
/-!
DEFINITION. The array family: stationary loads, weight-stationary and output-stationary passes, their injection slots and bed
modes (R118 to R128, R150 to R153, R292).
-/

namespace Sys2Proof.Machine

open Sys2Proof Sys2Proof.Config

/-- The buffers that a pass names. -/
def passBufs (c : Ctx) (d : PassDesc) : PassBufs :=
  ⟨resolve c d.feed, resolve c d.drain, resolve c d.carry, resolve c d.vmap⟩

/-- The contraction positions of a pass (R118, R152). -/
def contraction (sfmt s : Nat) : Nat :=
  match statFmt sfmt with
  | some (_, true) => 4 * s
  | _ => s

/-- Bytes that a pass reads of one feed row: a vector, or column q of A and row q of B (R125; log entry 14). -/
def feedRowBytes (d : PassDesc) (os : Bool) (s : Nat) : Nat :=
  if os then 2 * s else tensorBytes ((streamFmt d.xfmt).getD .e4m3) (contraction d.sfmt s)

/-- Output-stationary mode takes E4M3 and E5M2 in any pairing, and INT8 (R125). -/
def osFormats (d : PassDesc) : Bool :=
  ([1, 2].contains d.sfmt && [1, 2].contains d.xfmt) || (d.sfmt == 7 && d.xfmt == 7)

/-- The ranges of a pass's buffers are good, and their banks free and disjoint (R114, R119, R294). -/
def passBufsOk (s : State) (i : Issue) (d : PassDesc) (b : PassBufs) (os : Bool) : Bool :=
  let sz := bedSize (getTile s i.tile).bedMode
  let row := fun h => hRow h * 64
  let out := (if os then sz else d.m) * row b.drain + (if d.present then 4 * d.m else 0)
  let feed := if d.m = 0 then 0 else max (d.m * row b.feed) ((d.m - 1) * row b.feed + feedRowBytes d os sz)
  bufOk s i b.feed (d.feedRow * row b.feed) (if d.present then d.m * row b.feed else feed)
    && bufOk s i b.drain (d.drainRow * row b.drain) out
    && sz * 4 ≤ row b.drain
    && (!d.acc || (bufOk s i b.carry (d.carryRow * row b.carry) ((if os then sz else d.m) * row b.carry)
          && Nat.land (hMask b.carry) (hMask b.drain) == 0))
    && (d.vsrc == 0 || bufOk s i b.vmap 0 (if d.vsrc = 1 then (d.m + 7) / 8 else 16 + 8 * d.m))
    && Nat.land (hMask b.feed) (hMask b.drain) == 0

/-- The handover rules of R124, and the registers that output-stationary mode takes over (R126), are kept by a pass whose first
slot is `t0`: its register is latched for it, no other operand of the bed names it, and the tags alternate. That a bed injects
one pass at a time is log entry 107. -/
def handoverOk (x : Tile) (d : PassDesc) (os : Bool) (t0 : Nat) : Bool :=
  let r := NMap.get (fun _ => {}) x.stat (d.bed * 2 + d.tag)
  let latched := r.loadAt + tLoad d.sfmt (bedSize x.bedMode) ≤ t0
  !x.passes.any (fun p => p.desc.bed == d.bed && decide (t0 ≤ p.last))
    && (if os then (r.sfmt == 0 || r.used || decide (r.loadAt + tLoad r.sfmt (bedSize x.bedMode) ≤ t0))
          && !(r.used && decide (t0 ≤ r.lastSlot))
        else r.sfmt == d.sfmt && !r.used && latched && NMap.get (fun _ => 2) x.tags d.bed != d.tag)

/-- The checks of a pass in the order R114, R294, R127, R157, R125, R292, R124: the code of the first one broken, 0 with none.
DESIGN CHOICE (log entry 107): an output-stationary pass of formats that R125 does not accept, or of more than 64 k-steps, ends
with 0x0202, for which the manual gives no code; a pairing of SFMT and XFMT that no row of R120 or R153 has is taken, and the
stationary format chooses the mode. -/
def passFault (s : State) (i : Issue) (d : PassDesc) (b : PassBufs) (os : Bool) : Nat :=
  let x := getTile s i.tile
  if d.bad then 0x0206
  else if d.bed ≥ bedCount x.bedMode then 0x0203
  else if (d.sfmt == 9 || d.sfmt == 10) && (os || d.xfmt != 1) then 0x020D
  else if os && !(osFormats d && d.m ≤ 64) then 0x0202
  else if !passBufsOk s i d b os then 0x0201
  else if !handoverOk x d os (s.clk.aclk + 4) then 0x0202
  else 0

/-- The FP32 (or INT32) value that a drain writes from a result and the carry-in at a buffer (R119). -/
def drainVal (s : State) (t : Nat) (d : PassDesc) (b : PassBufs) (row j v : Nat) : Nat :=
  if d.acc then
    let c := leNat (readBuf s t b.carry ((d.carryRow + row) * hRow b.carry * 64 + 4 * j) 4)
    if d.sfmt = 7 then (c + v) % 2 ^ 32 else f32Add c v
  else v

/-- The results of row `row` of a pass written by its drain (R119). -/
def drainRow (s : State) (t : Nat) (d : PassDesc) (b : PassBufs) (row : Nat) (rs : List Nat) : State :=
  writeBuf s t b.drain ((d.drainRow + row) * hRow b.drain * 64)
    ((List.zip (List.range rs.length) rs).flatMap (fun q => leBytes 4 (drainVal s t d b row q.1 q.2)))

/-! ## The issue of a pass -/

/-- ACLK of the last injection slot of a pass of `n` vectors from `t0` on. -/
def lastSlotOf (d : PassDesc) (slow t0 n : Nat) : Nat := if n = 0 then t0 - 1 else t0 + slotOff d slow (n - 1)

/-- The slot after which the accumulators of an output-stationary pass are free: they shift south one row per ACLK once the pass
and the bed's shift before it have ended (R126). -/
def shiftEnd (x : Tile) (d : PassDesc) (last : Nat) : Nat :=
  let s := bedSize x.bedMode
  let before := (x.passes.filter (fun p => p.os && p.desc.bed == d.bed)).foldl (fun m p => max m (p.endAt - drainTail d.sfmt s)) 0
  max last before + s

/-- A pass enters its bed (R118, R126, R292): its first slot is 4 ACLK away, its register is taken, its tag noted. -/
def startPass (s : State) (i : Issue) (d : PassDesc) (b : PassBufs) (os : Bool) (vecs : List (Nat × Bool))
    (feeds : Option (Nat × Nat)) : State :=
  let x := getTile s i.tile
  let sz := bedSize x.bedMode
  let key := d.bed * 2 + d.tag
  let r := NMap.get (fun _ => ({} : StatReg)) x.stat key
  let slow := passSlow d b x.bedMode
  let t0 := s.clk.aclk + 4
  let last := lastSlotOf d slow t0 vecs.length
  let free := if os then shiftEnd x d last else last
  let w := leNat (descOf s i i.doff 32)
  let p : LivePass := {
    desc := d, bufs := b, descAddr := x.fg.progBank * 0x90000 + 64 * i.dline + 16 * i.doff, os := os, size := sz, t0 := t0,
    vecs := vecs, slow := slow, last := last, chunk := if d.present then presentChunk w else 0,
    rowLen := if d.present then presentLen w else 0, blk := if os then [] else r.bytes, src := if os then 0 else r.src,
    off := if os then 0 else r.off, cells := if os then List.replicate (sz * sz) {} else [],
    endAt := free + drainTail d.sfmt sz, feeds := feeds }
  setTile s i.tile { x with
    passes := x.passes ++ [p], tags := NMap.set (fun _ => 2) x.tags d.bed d.tag, os := os,
    stat := NMap.set (fun _ => {}) x.stat key
      (if os then { used := true, lastSlot := free } else { r with used := true, lastSlot := last }) }

/-- The vectors of a present-block pass: the rows that have a present block in the chunk (R150); none where a record is
malformed. -/
def presentVecs (s : State) (i : Issue) (d : PassDesc) (b : PassBufs) : Option (List (Nat × Bool)) :=
  let w := leNat (descOf s i i.doff 32)
  let n := contraction d.sfmt (bedSize (getTile s i.tile).bedMode)
  let recs := (validVectors s i.tile d b.vmap).map (fun m =>
    (m, feedCbs s i.tile b.feed (d.feedRow + m) (presentLen w) ((streamFmt d.xfmt).getD .e4m3)))
  if recs.any (fun p => p.2.isNone) then none
  else some ((recs.filter (fun p => chunkPresent (p.2.getD []) (presentChunk w) n)).map (fun p => (p.1, true)))

/-- The slots of a dense pass: every vector takes one, an invalid vector as a bubble (R122, R292). -/
def denseVecs (s : State) (i : Issue) (d : PassDesc) (b : PassBufs) : List (Nat × Bool) :=
  let valid := validVectors s i.tile d b.vmap
  (List.range d.m).map (fun m => (m, valid.contains m))

/-- One weight-stationary pass of a descriptor issues (R118, R119, R150). -/
def runPass (s : State) (i : Issue) (d : PassDesc) (feeds : Option (Nat × Nat)) : State :=
  let x := getTile s i.tile
  let b := passBufs x.fg d
  let f := passFault s i d b false
  if f ≠ 0 then callFault s i.tile f d.bed
  else if d.present then
    match badByte s i.tile b.feed (d.feedRow * hRow b.feed * 64) (d.m * hRow b.feed * 64) with
    | some a => parityPoison s i.tile a
    | none =>
      match presentVecs s i d b with
      | none => tilePoison s i.tile x.fg.part 0x0216
      | some vs => startPass s i d b false vs feeds
  else startPass s i d b false (denseVecs s i d b) feeds

/-- APASS (R118): one weight-stationary pass. -/
def execApass (i : Issue) (s : State) : Out :=
  issued s i 0xFF80000000000000 (fun s => runPass s i (parsePass (descOf s i i.doff 32)) none)

/-- AOS (R125, R126): one output-stationary pass of at most 64 k-steps; feed row q holds column q of A and then row q
of B (log entry 14). -/
def execAos (i : Issue) (s : State) : Out :=
  issued s i 0xFF80000000000000 (fun s =>
    let d := parsePass (descOf s i i.doff 32)
    let b := passBufs (getTile s i.tile).fg d
    let f := passFault s i d b true
    if f ≠ 0 then callFault s i.tile f d.bed else startPass s i d b true (denseVecs s i d b) none)

/-! ## Loads and bed modes -/

/-- ACLK in which the last cell of a bed latches a load (R123). -/
def latchEnd (r : StatReg) (s : Nat) : Nat := r.loadAt + tLoad r.sfmt s - 1 + 2 * (s - 1)

/-- The load rules of R124 are kept by a load into register `k` of a bed that starts at `L`: no operand in flight names the
register, and the previous load on its north lanes started T_load before. -/
def loadOk (x : Tile) (bed k L : Nat) : Bool :=
  let sz := bedSize x.bedMode
  let old := NMap.get (fun _ => ({} : StatReg)) x.stat k
  let prev := (x.stat.filter (fun e => e.1 / 2 % (64 / sz) = bed % (64 / sz) ∧ e.2.sfmt ≠ 0)).map
    (fun e => e.2.loadAt + tLoad e.2.sfmt sz)
  !(old.used && decide (L ≤ old.lastSlot)) && prev.all (fun p => decide (p ≤ L))

/-- ALOAD (R123, R124): loads a stationary block into one register of a bed; a parity error in the block stops the partition
for a refetch (R135). -/
def execAload (i : Issue) (s : State) : Out :=
  issued s i 0xFF3FE0FFFFFFFFFF (fun s =>
    let x := getTile s i.tile
    let sfmt := fld i.w 53 50
    let bed := fld i.w 49 46
    let k := bed * 2 + fld i.w 45 45
    let h := resolve x.fg (fld i.w 39 32)
    let off := fld i.w 31 0 * 64
    let n := blockBytes sfmt (bedSize x.bedMode)
    let L := s.clk.aclk + 2
    if (statFmt sfmt).isNone then callFault s i.tile 0x0206 bed
    else if bed ≥ bedCount x.bedMode then callFault s i.tile 0x0203 bed
    else if !bufOk s i h off n then callFault s i.tile 0x0201 bed
    else if !loadOk x bed k L then callFault s i.tile 0x0202 bed
    else
      let bad := badLines s i.tile h off n
      let s := setTile s i.tile { x with
        stat := NMap.set (fun _ => {}) x.stat k
          { sfmt := sfmt, src := h, off := off, loadAt := L, bytes := readBuf s i.tile h off n,
            lastSlot := (NMap.get (fun _ => ({} : StatReg)) x.stat k).lastSlot, used := false } }
      if bad.isEmpty then s else parityStop s i.tile h bad)

/-- A pass or a load is live in the array (R127). -/
def arrayLive (x : Tile) (aclk : Nat) : Bool :=
  x.passes.any (fun p => decide (aclk ≤ p.endAt))
    || x.stat.any (fun e => e.2.sfmt ≠ 0 && decide (aclk ≤ latchEnd e.2 (bedSize x.bedMode)))

/-- ABED (R127): changes the bed mode; a fault while a pass or a load is live, or for a mode that does not exist. -/
def execAbed (i : Issue) (s : State) : Out :=
  issued s i 0xFF00000000000003 (fun s =>
    let x := getTile s i.tile
    let m := fld i.w 1 0
    if m = x.bedMode then s
    else if m = 3 ∨ arrayLive x s.clk.aclk then callFault s i.tile 0x0203 0
    else
      let s := setTile s i.tile { x with bedMode := m, passes := [], stat := [], tags := [], os := false }
      setRegN s (pgTile i.tile + 0x100) (setFld (regN s (pgTile i.tile + 0x100)) 19 18 m))

/-- The stationary registers and the blocks of passes under way are read from their sources again (R133, R135). -/
def reloadBlocks (s : State) (t : Nat) : State :=
  let x := getTile s t
  setTile s t { x with
    stat := x.stat.map (fun e =>
      (e.1, if e.2.sfmt = 0 then e.2
        else { e.2 with bytes := readBuf s t e.2.src e.2.off (blockBytes e.2.sfmt (bedSize x.bedMode)) })),
    passes := x.passes.map (fun p =>
      if p.os then p else { p with blk := readBuf s t p.src p.off (blockBytes p.desc.sfmt p.size) }) }

/-! ## The ACLK of the array -/

/-- One k-step's product in an output-stationary cell (R125, R49). -/
def cellAdd (int : Bool) (c : Cell) (a b : Val) : Cell :=
  match Val.mul a b with
  | .nan => { c with flags := Nat.lor c.flags 1 }
  | .inf neg => { c with flags := Nat.lor c.flags (if neg then 4 else 2) }
  | .fin g m e => { c with sum := c.sum + scaledInt (if int then 0 else -32) (.fin g m e) }

/-- The value that an accumulator leaves at the south edge (R44, R47, R49). -/
def cellOut (int : Bool) (c : Cell) : Nat :=
  if int then ofSigned 32 c.sum
  else
    Sticky.result ⟨bit c.flags 0, bit c.flags 1, bit c.flags 2⟩ (encFP32 none false (.fin (c.sum < 0) c.sum.natAbs (-32)))

/-- A valid vector of a weight-stationary pass is injected (R118, R119): its result goes to the row of its count, and a
present-block pass notes its row number behind its results (R150; log entry 14). -/
def injectWs (s : State) (t : Nat) (p : LivePass) (m : Nat) : State :=
  let d := p.desc
  let b := p.bufs
  let n := contraction d.sfmt p.size
  let xf := (streamFmt d.xfmt).getD .e4m3
  if d.present then
    let x := chunkVals ((feedCbs s t b.feed (d.feedRow + m) p.rowLen xf).getD []) p.chunk n
    writeBuf (drainRow s t d b p.done (passRow d.sfmt p.size p.blk x)) t b.drain
      ((d.drainRow + p.vecs.length) * hRow b.drain * 64 + 4 * p.done) (leBytes 4 m)
  else drainRow s t d b p.done (passRow d.sfmt p.size p.blk (feedVector s t b.feed (d.feedRow + m) n xf))

/-- The accumulators of an output-stationary pass after k-step `q` (R125). -/
def cellsAfter (s : State) (t : Nat) (p : LivePass) (q : Nat) : List Cell :=
  let d := p.desc
  let row := readBuf s t p.bufs.feed ((d.feedRow + q) * hRow p.bufs.feed * 64) (2 * p.size)
  let a := decodeTensor ((streamFmt d.xfmt).getD .e4m3) p.size (row.take p.size)
  let b := decodeTensor ((streamFmt d.sfmt).getD .e4m3) p.size (row.drop p.size)
  (List.zip (List.range p.cells.length) p.cells).map (fun c =>
    cellAdd (d.sfmt == 7) c.2 (a.getD (c.1 / p.size) (.fin false 0 0)) (b.getD (c.1 % p.size) (.fin false 0 0)))

/-- A vector of a pass takes its slot: a valid one is injected, its feed row's parity checked (R135); an invalid one is a
bubble. -/
def injectVec (t : Nat) (a : State × LivePass) (v : Nat × Bool) : State × LivePass :=
  let p := a.2
  if !v.2 then (a.1, { p with next := p.next + 1 })
  else
    let d := p.desc
    let bad := if d.present then none
      else badByte a.1 t p.bufs.feed ((d.feedRow + v.1) * hRow p.bufs.feed * 64) (feedRowBytes d p.os p.size)
    let s := match bad with
      | some x => parityPoison a.1 t x
      | none => a.1
    if p.os then (s, { p with next := p.next + 1, cells := cellsAfter s t p v.1 })
    else (injectWs s t p v.1, { p with next := p.next + 1, done := p.done + 1 })

/-- The vectors of a pass whose slot is an ACLK. -/
def slotNow (p : LivePass) (aclk : Nat) : List (Nat × Bool) :=
  ((((List.range p.vecs.length).zip p.vecs).drop p.next).takeWhile
    (fun q => p.t0 + slotOff p.desc p.slow q.1 == aclk)).map (fun q => q.2)

/-- The second half of a BF16 vector's slot pair (R118). -/
def secondHalf (p : LivePass) (aclk : Nat) : Bool :=
  p.desc.sfmt == 5 && p.next != 0 && p.t0 + slotOff p.desc p.slow (p.next - 1) + 1 == aclk

/-- An injection slot of a pass (R118, R122): its valid vectors are counted, or its bubble. -/
def passTick (s : State) (t : Nat) (p : LivePass) : State × LivePass :=
  if s.clk.aclk < p.t0 ∨ p.last < s.clk.aclk then (s, p)
  else
    let here := slotNow p s.clk.aclk
    let n := (here.filter (fun v => v.2)).length
    let r := here.foldl (injectVec t) (s, p)
    if n ≠ 0 then (inc64 r.1 (pgTile t + 0x48) n, r.2)
    else if here.isEmpty ∧ secondHalf p s.clk.aclk then r
    else (inc64 r.1 (pgTile t + 0x50) 1, r.2)

/-- Beds whose pass has ended while another bed still runs (R122). -/
def endedBeds (x : Tile) (aclk : Nat) : Nat :=
  let runs := x.passes.any (fun p => decide (p.t0 ≤ aclk ∧ aclk ≤ p.last))
  if runs then (x.tags.filter (fun e => !x.passes.any (fun p => p.desc.bed == e.1 && decide (aclk ≤ p.last)))).length else 0

/-- An ACLK of a tile's array: every bed's slot, unless a stop holds the feed (R131). -/
def arrayTick (s : State) (t : Nat) : State :=
  let x := getTile s t
  if x.passes.isEmpty ∨ stopHolds s x.fg.part then s
  else
    let r := x.passes.foldl (fun (a : State × List LivePass) p => let q := passTick a.1 t p; (q.1, a.2 ++ [q.2])) (s, [])
    let s := setTile r.1 t { getTile r.1 t with passes := r.2 }
    inc64 s (pgTile t + 0x50) (endedBeds x s.clk.aclk)

/-- A pass has injected its last vector and written its last result. -/
def passLands (p : LivePass) (aclk : Nat) : Bool := p.next == p.vecs.length && decide (p.endAt + 2 ≤ aclk)

/-- The rows of an output-stationary pass leave at the south edge (R126). -/
def shiftOut (s : State) (t : Nat) (p : LivePass) : State :=
  (List.range p.size).foldl (fun s r =>
    drainRow s t p.desc p.bufs r (((p.cells.drop (r * p.size)).take p.size).map (cellOut (p.desc.sfmt == 7)))) s

/-- The passes whose last result is written leave the array. -/
def landTick (s : State) (t : Nat) : State :=
  let x := getTile s t
  if x.passes.isEmpty then s
  else
    let s' := (x.passes.filter (fun p => p.os && passLands p s.clk.aclk)).foldl (fun s p => shiftOut s t p) s
    setTile s' t { getTile s' t with passes := x.passes.filter (fun p => !passLands p s.clk.aclk) }

end Sys2Proof.Machine
end

