-- ==== Sys2Proof/Machine/Image.lean ====
section
/-!
DEFINITION. Program images: header, sections and the checks before admission (R281 to R287, R307, R414, R474).
-/

namespace Sys2Proof.Machine

open Sys2Proof Sys2Proof.Config

/-- A section table entry (R282). -/
structure Sect where
  kind : Nat
  target : Nat
  off : Nat
  len : Nat
  rsv : Nat
  deriving DecidableEq, Repr

/-- Bytes of an image section. -/
def sectBytes (bs : List Byte) (x : Sect) : List Byte := (bs.drop x.off).take x.len

/-- The section table of an image. -/
def sections (bs : List Byte) : List Sect :=
  let n := byteFld bs 10 11
  let o := byteFld bs 12 15
  (List.range n).map (fun i =>
    let e := (bs.drop (o + 16 * i)).take 16
    ⟨byteFld e 0 0, byteFld e 2 3, byteFld e 4 7, byteFld e 8 11, byteFld e 1 1 + byteFld e 12 15⟩)

/-- A handle table entry is good (R287): `n` entries are in the table `hs`, `set` is the context's bank set. -/
def handleOk (hs : NMap Nat) (h set bank : Nat) : Bool :=
  let e := NMap.get (fun _ => 0) hs h
  let p := fld e 71 64
  let n := popcount 16 (fld e 63 48)
  let r := fld e 15 8
  e == 0 || (fld e 127 75 == 0 && fld e 7 0 == 0 && n != 0 && r != 0
    && (p == 0 || (p != h && NMap.get (fun _ => 0) hs p != 0))
    && fld e 47 34 + ((fld e 33 16 + r - 1) / max 1 r) * ((r + n - 1) / max 1 n) ≤ 9216
    && Nat.land (fld e 63 48) set == fld e 63 48 && !bit (fld e 63 48) bank)

/-- A PBANK section (R283). -/
def parseProg (bs : List Byte) (x : Sect) : TileProg :=
  let b := sectBytes bs x
  let hl := byteFld b 12 13
  let n := byteFld b 14 15
  let tab := (b.drop (64 + 64 * hl)).take (16 * n)
  { tile := x.target, bank := byteFld b 0 0, bankSet := byteFld b 2 3, entry := byteFld b 4 7, code := byteFld b 8 11,
    handles := (List.range n).foldl (fun m h =>
      NMap.set (fun _ => 0) m h (leNat ((tab.drop (16 * h)).take 16))) [],
    retain := (List.range 8).map (fun i => byteFld b (16 + i) (16 + i)),
    off := x.off + 64, len := x.len - 64 }

/-- A PBANK section passes its checks (R283, R287, R307). -/
def progOk (bs : List Byte) (x : Sect) : Bool :=
  let b := sectBytes bs x
  let p := parseProg bs x
  64 ≤ x.len && x.len ≤ 64 + 0x90000 && byteFld b 60 63 == crc32c (b.take 60)
    && p.bank < 16 && byteFld b 1 1 == 0 && (b.drop 24).take 36 == List.replicate 36 0 && bit p.bankSet p.bank
    && 1 ≤ byteFld b 14 15 && byteFld b 14 15 ≤ 256 && byteFld b 12 13 < 9216
    && NMap.get (fun _ => 0) p.handles 0 == 0
    && (List.range 256).all (fun h => handleOk p.handles h p.bankSet p.bank)
    && p.retain.all (fun h => h == 0 || NMap.get (fun _ => 0) p.handles h != 0)

/-- The transfers of a FRAME section (R474). -/
def parseFrame (bs : List Byte) (x : Sect) : List FrameEnt :=
  let b := sectBytes bs x
  (List.range (byteFld b 0 1)).map (fun i =>
    let e := (b.drop (16 + 8 * i)).take 8
    let k := byteFld e 0 0
    ⟨x.target, k % 64, k / 64, byteFld e 1 1, byteFld e 2 2⟩)

/-- A FRAME section is well formed. -/
def frameForm (bs : List Byte) (x : Sect) : Bool :=
  let b := sectBytes bs x
  let n := byteFld b 0 1
  16 ≤ x.len && n ≤ 8192 && 16 + 8 * n ≤ x.len && byteFld b 2 2 == 1 && (b.drop 3).take 13 == List.replicate 13 0
    && (List.range n).all (fun i =>
      let e := (b.drop (16 + 8 * i)).take 8
      let k := byteFld e 0 0 / 64
      byteFld e 3 7 == 0 && k != 3 && (k != 1 || byteFld e 1 1 == 0) && (k != 2 || byteFld e 2 2 == 0)
        && (k == 1 || byteFld e 1 1 / 60 == x.target) && (k == 2 || byteFld e 2 2 / 60 == x.target))

/-- Mesh column and row of a logical tile (R136, R382); none for an absent one. -/
def meshPos (map : List Nat) (t : Nat) : Option (Nat × Nat) :=
  let q := map.getD t 128
  if q ≥ 128 then none else some (q % 64 % 8, q % 64 / 8)

/-- The nodes of a transfer, X first (R474); node 64 + row is the die edge at the west end of a row. -/
def framePath (map : List Nat) (e : FrameEnt) : List Nat :=
  let node := fun (x y : Nat) => 8 * y + x
  let xrun := fun (a b y : Nat) =>
    if a ≤ b then (List.range (b - a + 1)).map (fun i => node (a + i) y)
    else (List.range (a - b + 1)).map (fun i => node (a - i) y)
  let yrun := fun (x a b : Nat) =>
    if a ≤ b then (List.range (b - a)).map (fun i => node x (a + 1 + i))
    else (List.range (a - b)).map (fun i => node x (a - 1 - i))
  match e.kind, meshPos map e.src, meshPos map e.dst with
  | 0, some s, some d => xrun s.1 d.1 s.2 ++ yrun d.1 s.2 d.2
  | 1, _, some d => (64 + d.2) :: xrun 0 d.1 d.2
  | 2, some s, _ => xrun s.1 0 s.2 ++ [64 + s.2]
  | _, _, _ => []

/-- The (resource, ACLK of the frame) pairs that a transfer takes: its send port, its links and its arrival port. -/
def frameUse (map : List Nat) (e : FrameEnt) : List Nat :=
  let p := framePath map e
  let key := fun (r i : Nat) => r * 64 + (e.slot + i) % 64
  let links := (List.range (p.length - 1)).map (fun i => key (p.getD i 0 * 128 + p.getD (i + 1) 0) i)
  links ++ (if e.kind = 1 then [] else [key (20000 + e.src) 0])
    ++ (if e.kind = 2 then [] else [key (30000 + e.dst) (p.length - 1)])

/-- No two transfers of a FRAME section collide, and each names present tiles (R474). -/
def frameOk (map : List Nat) (es : List FrameEnt) : Bool :=
  es.all (fun e => !(framePath map e).isEmpty) && ((es.flatMap (frameUse map)).eraseDups.length == (es.flatMap (frameUse map)).length)

/-- The Thresher tables of a SLOTS section: ingress then return, 64 entries of 4 bits each (R62, R282). -/
def parseSlots (bs : List Byte) (x : Sect) : Nat × List Nat × List Nat :=
  let b := sectBytes bs x
  let nib := fun (k : Nat) => let v := byteFld b (k / 2) (k / 2); if k % 2 = 0 then v % 16 else v / 16
  (x.target, (List.range 64).map nib, (List.range 64).map (fun k => nib (64 + k)))

/-- T0 and stream entries of an ADMIT section (R284), the stream entries last. -/
def parseAdmit (bs : List Byte) (x : Sect) : List T0Fill × List (Nat × Nat) :=
  let b := sectBytes bs x
  let n0 := byteFld b 0 3
  let n1 := byteFld b 4 7
  ((List.range n0).map (fun i =>
    let e := (b.drop (16 + 32 * i)).take 32
    let f := byteFld e 15 15
    { addr := byteFld e 0 7, len := byteFld e 8 11, tile := byteFld e 12 13, handle := byteFld e 14 14,
      transpose := f % 2 == 1, esize := 2 ^ (f / 2 % 4), line := byteFld e 16 19, host := false, done := false }),
   (List.range n1).map (fun i =>
    let e := (b.drop (16 + 32 * n0 + 16 * i)).take 16
    (byteFld e 0 7, byteFld e 8 15)))

/-- An ADMIT section is well formed (R284, R307). -/
def admitForm (bs : List Byte) (x : Sect) : Bool :=
  let b := sectBytes bs x
  let n0 := byteFld b 0 3
  let n1 := byteFld b 4 7
  16 ≤ x.len && byteFld b 8 15 == 0 && 16 + 32 * n0 + 16 * n1 ≤ x.len
    && (List.range n0).all (fun i =>
      let e := (b.drop (16 + 32 * i)).take 32
      byteFld e 0 7 < 2 ^ 48 && byteFld e 0 7 % 64 == 0 && byteFld e 8 11 % 64 == 0 && byteFld e 15 15 < 6
        && byteFld e 20 31 == 0)
    && (List.range n1).all (fun i =>
      let e := (b.drop (16 + 32 * n0 + 16 * i)).take 16
      byteFld e 0 7 < 2 ^ 48 && byteFld e 0 7 % 64 == 0 && byteFld e 8 15 % 64 == 0)

/-- A plan table entry (R285); none where a field is reserved or a value is not defined. -/
def parsePlan (e : List Byte) : Option PlanEnt :=
  let st := byteFld e 0 3
  if byteFld e 4 4 = 1 then
    if byteFld e 5 5 ≤ 3 ∧ byteFld e 6 7 ≠ 0 ∧ byteFld e 8 13 % 65536 = 0 ∧ byteFld e 14 15 = 0 then
      some (.migrate st (byteFld e 5 5) (byteFld e 6 7) (byteFld e 8 13))
    else none
  else if byteFld e 4 4 = 2 then
    if byteFld e 11 15 = 0 then some (.handover st (byteFld e 5 6) (byteFld e 7 8) (byteFld e 9 10)) else none
  else none

/-- The 16-byte entries of a section. -/
def entries16 (bs : List Byte) (x : Sect) : List (List Byte) :=
  let b := sectBytes bs x
  (List.range (x.len / 16)).map (fun i => (b.drop (16 * i)).take 16)

/-- A BIND entry (log entry 24): 1 an expert slot, 2 a message channel. -/
def parseBind (e : List Byte) : BindEnt :=
  { isSlot := byteFld e 0 0 == 1, slot := byteFld e 1 1, tile := byteFld e 2 3, ctr := byteFld e 4 4,
    handle := byteFld e 5 5, cap := byteFld e 6 7, stride := byteFld e 8 11 }

/-- What an image gives a step. -/
structure Parsed where
  progs : List TileProg
  t0 : List T0Fill
  streams : List (Nat × Nat)
  plan : List PlanEnt
  frame : List FrameEnt
  slots : List (Nat × List Nat × List Nat)
  binds : List BindEnt
  deriving DecidableEq, Repr

/-- The sections of an image, parsed. -/
def parseImage (bs : List Byte) : Parsed :=
  let ss := sections bs
  let of := fun (k : Nat) => ss.filter (fun x => x.kind == k)
  { progs := (of 1).map (parseProg bs),
    frame := (of 2).flatMap (parseFrame bs),
    slots := (of 3).map (parseSlots bs),
    t0 := (of 4).flatMap (fun x => (parseAdmit bs x).1),
    streams := (of 4).flatMap (fun x => (parseAdmit bs x).2),
    plan := (of 5).flatMap (fun x => (entries16 bs x).filterMap parsePlan),
    binds := (of 6).flatMap (fun x => ((entries16 bs x).filter (fun e => leNat e != 0)).map parseBind) }

/-- A section lies inside the image and its KIND and TARGET are in range (R282, R307). -/
def sectForm (bs : List Byte) (x : Sect) : Bool :=
  x.rsv == 0 && x.off + x.len ≤ bs.length
    && (match x.kind with
        | 1 => x.target < 120
        | 2 => x.target < 2
        | 3 => x.target < 8 && x.len == 64
        | 4 | 5 | 6 => x.target == 0xFFFF
        | _ => false)

/-- A tile and handle that an entry names are defined by the image (R307). -/
def namesHandle (ps : List TileProg) (t h : Nat) : Bool :=
  match ps.find? (fun p => p.tile == t) with
  | some p => h != 0 && NMap.get (fun _ => 0) p.handles h != 0
  | none => false

/-- The error code that refuses an image before admission (R307); 0 for a good one. -/
def imageFault (map : List Nat) (part : Part) (det : Bool) (bs : List Byte) : Nat :=
  let ss := sections bs
  let p := parseImage bs
  let once := ((ss.map (fun x => (x.kind, x.target))).eraseDups).length == ss.length
  let form := bs.length ≥ 64 && bs.length % 64 == 0 && byteFld bs 4 7 == bs.length && byteFld bs 8 8 == 1
    && fld (byteFld bs 9 9) 7 2 == 0 && 1 ≤ byteFld bs 10 11 && byteFld bs 10 11 ≤ 1024
    && byteFld bs 12 15 + 16 * byteFld bs 10 11 ≤ bs.length && (bs.drop 36).take 24 == List.replicate 24 0
    && byteFld bs 60 63 == crc32c (bs.take 60 ++ [0, 0, 0, 0] ++ bs.drop 64)
  if !form || !once || !ss.all (sectForm bs) then 0x0208
  else if !(ss.all (fun x =>
      (x.kind != 1 || progOk bs x) && (x.kind != 2 || frameForm bs x) && (x.kind != 4 || admitForm bs x)
        && (x.kind != 5 || (entries16 bs x).all (fun e => (parsePlan e).isSome))
        && (x.kind != 6 || (entries16 bs x).all (fun e => leNat e == 0 || byteFld e 0 0 == 1 || byteFld e 0 0 == 2)))) then
    0x0208
  else if p.progs.isEmpty || !p.progs.all (fun q => map.getD q.tile 128 < 128)
      || !p.t0.all (fun f => namesHandle p.progs f.tile f.handle)
      || !p.binds.all (fun b => namesHandle p.progs b.tile b.handle) || !frameOk map p.frame then 0x0208
  else if bit (byteFld bs 9 9) 1 != det then 0x020E
  else if !p.progs.all (fun q => bit part.tiles q.tile)
      || !p.frame.all (fun e => bit (if e.die = 0 then part.frame0 else part.frame1) e.slot)
      || !p.slots.all (fun u => (List.range 64).all (fun i =>
          (u.2.1.getD i 15 == 15 && u.2.2.getD i 15 == 15) || bit (if u.1 < 4 then part.frame0 else part.frame1) i)) then
    0x0103
  else 0

end Sys2Proof.Machine
end

