-- ==== Sys2Proof/Machine/Granary.lean ====
section
/-!
DEFINITION. The Granary: requests of the tiles and their delivery, STORE, HINT, mapping, migration, quotas and T2
traffic (R158 to R186).
-/

namespace Sys2Proof.Machine

open Sys2Proof Sys2Proof.Config

/-- The arrival counter of a context that arms a handle, if one does (R298, R299). -/
def ctrOfHandle (c : Ctx) (h : Nat) : Option (Nat × Ctr) :=
  c.ctrs.find? (fun e => e.2.armed && e.2.kind == 0 && (e.2.handleA == h || (e.2.handleB == h && h != 0)))

/-- Whether unit `u` of an armed buffer has room: a single buffer while its target lies ahead, a ring element once it
is released (R170, R299). -/
def unitRoom (k : Ctr) (u : Nat) : Bool :=
  u < k.target && (k.handleB == 0 || u < k.released + 2)

/-- The element and byte offset at which unit `u` of `n` bytes lands (R299). -/
def unitPlace (k : Ctr) (u n : Nat) : Nat × Nat :=
  if k.handleB = 0 then (k.handleA, u * n) else (if u % 2 = 0 then k.handleA else k.handleB, 0)

/-! ## Request descriptors -/

/-- A Granary request descriptor (R169). -/
structure GrnDesc where
  op : Nat
  transpose : Bool
  esize : Nat
  hintTier : Nat
  rows : Nat
  rowBytes : Nat
  addr : Nat
  stride : Nat
  unit : Nat
  hintStep : Nat
  bad : Bool
  deriving DecidableEq, Repr

/-- The descriptor of 32 bytes; `op` is the operation the instruction asks for (R169, R172, R190). -/
def parseGrn (op : Nat) (d : List Byte) : GrnDesc :=
  let w := leNat d
  let rows := fld w 31 16
  let rb := fld w 63 32
  let es := 2 ^ fld w 6 5
  let tr := bit w 4
  { op := fld w 3 0, transpose := tr, esize := es, hintTier := fld w 15 8, rows := rows, rowBytes := rb,
    addr := fld w 111 64, stride := fld w 159 128, unit := fld w 191 160, hintStep := fld w 223 192,
    bad := d.length != 32 || fld w 3 0 != op || bit w 7 || fld w 6 5 == 3 || rows == 0 || rb % 64 != 0 || rb == 0
      || fld w 127 112 != 0 || fld w 111 64 % 64 != 0 || fld w 159 128 % 64 != 0 || fld w 255 224 != 0
      || (op != 2 && fld w 191 160 % 64 != 0) || (op == 1 && fld w 191 160 == 0)
      || (tr && (op != 1 || rows % 64 != 0 || rb % (64 * es) != 0))
      || (!tr && fld w 6 5 != 0) || (op != 4 && (fld w 15 8 != 0 || fld w 223 192 != 0))
      || (op == 4 && fld w 15 8 != 1 && fld w 15 8 != 2) }

/-- The job address of byte `o` of a request's data. -/
def reqAddr (r : GReq) (o : Nat) : Nat := r.addr + o / r.rowBytes * r.stride + o % r.rowBytes

/-- The job-memory pieces of `n` bytes of a request's data from byte `o` on, row by row. -/
def reqPieces : Nat → GReq → Nat → Nat → List (Nat × Nat)
  | 0, _, _, _ => []
  | f + 1, r, o, n =>
    if n = 0 then []
    else
      let k := min n (r.rowBytes - o % r.rowBytes)
      (reqAddr r o, k) :: reqPieces f r (o + k) (n - k)

/-- Squares of 64 × 64 elements of `es` bytes with rows and columns exchanged, each in its place, in rows of
`rb` bytes (R172). -/
def transposeSquares (es rb : Nat) (bs : List Byte) : List Byte :=
  (List.range bs.length).map (fun o =>
    let r := o / rb
    let e := o % rb / es
    let r' := r / 64 * 64 + e % 64
    let e' := e / 64 * 64 + r % 64
    bs.getD (r' * rb + e' * es + o % es) 0)

/-! ## Delivery -/

/-- The rows that unit `u` of a LIST asks for; a PAD entry asks for none (R171). -/
def listPieces (r : GReq) (u : Nat) : List (Nat × Nat) :=
  (((r.list.drop (64 * u)).take 64).filter (fun e => !bit e 14)).map (fun e => (r.addr + e % 8192 * r.rowBytes, r.rowBytes))

/-- The pieces of job memory that unit `u` of a request is made of (R170 to R172). -/
def unitPieces (r : GReq) (u : Nat) : List (Nat × Nat) :=
  let o := u * r.unit
  cutGrains (if r.op = 2 then listPieces r u
    else if r.transpose then reqPieces (r.rows + 1) r 0 (r.rows * r.rowBytes)
    else reqPieces (r.unit / 64 + 2) r o (min r.unit (r.rows * r.rowBytes - o)))

/-- The records of a LIST's entries in their places; a PAD entry's is zero (R171). -/
def spreadList (n : Nat) : List Nat → List Byte → List Byte
  | [], _ => []
  | e :: es, bs =>
    if bit e 14 then List.replicate n 0 ++ spreadList n es bs else bs.take n ++ spreadList n es (bs.drop n)

/-- The data of unit `u` of a request (R170 to R172); a transposing request keeps what it has read. -/
def unitData (s : State) (r : GReq) (u : Nat) : JobRes × Option (List Byte) × State :=
  let cut := fun (d : List Byte) => ((transposeSquares r.esize r.rowBytes d).drop (u * r.unit)).take r.unit
  match r.buf with
  | some d => (.data (cut d), some d, s)
  | none =>
    match readPieces (unitPieces r u) s (r.tile / 60) r.part with
    | (.data d, s) =>
      let s := dropT2 s (r.tile / 60) r.part (unitPieces r u)
      if r.op = 2 then (.data (spreadList r.rowBytes ((r.list.drop (64 * u)).take 64) d), none, s)
      else if r.transpose then (.data (cut d), some d, s)
      else (.data d, none, s)
    | (o, s) => (o, none, s)

/-- Units of a request. -/
def unitCount (r : GReq) : Nat :=
  if r.op = 2 then (r.list.length + 63) / 64 else (r.rows * r.rowBytes + r.unit - 1) / max 1 r.unit

/-- Whether a job address lies in a page of weight class. -/
def isWeight (s : State) (part a : Nat) : Bool :=
  match walk s 0 part a with
  | .page _ w => peClass w == 0
  | _ => false

/-- The stall cause of a request that meets an obstacle (R179, R190): a lender loss, a lender or a remote home, or this device's
T1. -/
def obstacleCause (s : State) : JobRes → Nat
  | .remote ea g _ _ _ => if s.grn.lostT2.contains (ea, g) then 3 else 2
  | .wait ea g =>
    if s.grn.lostT2.contains (ea, g) then 3 else if peHomeDev (entryW s ea) ≠ myDev s then 2 else 1
  | _ => 1

/-- The lines of job memory that a request has still to read or write. -/
def leftPieces (r : GReq) : List (Nat × Nat) :=
  if r.op = 3 then r.put.map (fun p => (p.1, p.2.length))
  else if r.transpose ∧ r.buf.isSome then []
  else (List.range (unitCount r - r.sent)).flatMap (fun i => unitPieces r (r.sent + i))

/-- Byte ranges touch one 64-byte line. -/
def sameLine (p q : Nat × Nat) : Bool :=
  decide (p.1 / 64 * 64 < q.1 + q.2) && decide (q.1 / 64 * 64 < p.1 + p.2) && 0 < p.2 && 0 < q.2

/-- An earlier request of the die touches a line that a part of request `r` touches, and one of the two writes it (R173). -/
def lineHeld (s : State) (r : GReq) (ps : List (Nat × Nat)) : Bool :=
  (s.grn.reqs.takeWhile (fun q => q != r)).any (fun q =>
    q.part == r.part && q.tile / 60 == r.tile / 60 && (q.op == 3 || r.op == 3)
      && (leftPieces q).any (fun x => ps.any (sameLine x)))

/-- A request is among the 16 of its tile that the Granary holds (R170). -/
def heldReq (s : State) (r : GReq) : Bool :=
  ((s.grn.reqs.takeWhile (fun q => q != r)).filter (fun q => q.tile == r.tile)).length < 16

/-- A request replaced, or ended. -/
def putReq (s : State) (r : GReq) (r' : Option GReq) : State :=
  { s with grn := { s.grn with reqs := s.grn.reqs.flatMap (fun q => if q = r then r'.toList else [q]) } }

/-- The grains of pieces that a request touches for the first time advance their COUNTs (R165). -/
def touchNew (s : State) (r : GReq) (ps : List (Nat × Nat)) : State × List Nat :=
  let new := (grainsOf ps).filter (fun a => !r.seen.contains a)
  (touchAll s r.part (new.map (fun a => (a, 1))), r.seen ++ new)

/-- The request delivers its next unit to the die edge, if its buffer is armed with room, its data are readable and no earlier
request of the die has their lines to write; the stall cause is attached to the pending unit (R22, R170, R173, R179). The
answer says whether it moved. -/
def deliverUnit (s : State) (r : GReq) : Bool × State :=
  let c := ctxOf s r.tile r.bg
  match ctrOfHandle c r.handle with
  | none => (false, s)
  | some (k, x) =>
    if !c.live ∨ c.part ≠ r.part ∨ r.sent ≥ unitCount r ∨ !unitRoom x r.sent ∨ lineHeld s r (unitPieces r r.sent) then (false, s)
    else
      match unitData s r r.sent with
      | (.data d, b, s) =>
        let pl := unitPlace x r.sent (if r.op = 2 then 64 * r.rowBytes else r.unit)
        let u : Sys2Proof.Machine.Unit := {
          tile := r.tile, bg := r.bg, part := r.part, handle := pl.1, ctr := k, off := pl.2, data := d,
          weight := isWeight s r.part r.addr, cause := max 1 r.cause, again := false, link := 3, counts := true }
        let t := touchNew s r (unitPieces r r.sent)
        (true, putReq (toEdge (soilUnit t.1 (decide (2 ≤ u.cause)) u) u) r
          (if r.sent + 1 < unitCount r then some { r with sent := r.sent + 1, buf := b, seen := t.2, cause := 0 } else none))
      | (.remote ea g d a m, _, s) =>
        (false, putReq s r (some { r with cause := max r.cause (obstacleCause s (.remote ea g d a m)) }))
      | (.wait ea g, _, s) => (false, putReq s r (some { r with cause := max r.cause (obstacleCause s (.wait ea g)) }))
      | (.uncorr ea g, _, s) =>
        let away := if peHomeDev (entryW s ea) ≠ myDev s then 2 else 1
        let s := putReq s r (some { r with cause := max r.cause away })
        (false, uncorrGrain s r.part ea g (reqAddr r 0))
      | (o, _, s) => (false, obstacle s r.tile r.part (reqAddr r 0) (fun s code => callFault s r.tile code 0) o)

/-- What stands in the way of writing rows, if anything does: a lender's copy does not (R182). -/
def rowObstacle (s : State) (die n : Nat) (rows : List (Nat × List Byte)) : Option JobRes :=
  rows.findSome? (fun p =>
    match walk s die n p.1 with
    | .unmapped => some .unmapped
    | .bad => some .badTmap
    | .page ea w =>
      if !peWritable w then some .readOnly
      else
        match locate w p.1 with
        | .inl (.wait _ g) => some (.wait ea g)
        | .inl (.lost a) => some (.lost a)
        | _ => none)

/-- A STORE is written once every grain of its rows can be and no earlier request of the die has their lines to read or write
(R170, R173, R175). The answer says whether it moved. -/
def deliverStore (s : State) (r : GReq) : Bool × State :=
  if lineHeld s r (leftPieces r) then (false, s)
  else
    let die := r.tile / 60
    let a := reqAddr r 0
    match rowObstacle s die r.part r.put with
    | some (.wait ea g) => (false, putReq s r (some { r with cause := max r.cause (obstacleCause s (.wait ea g)) }))
    | some o => (false, obstacle (putReq s r none) r.tile r.part a (fun s code => callFault s r.tile code 0) o)
    | none =>
      match putRows die r.part r.tag false r.put s 0 with
      | (.data _, s, acks) =>
        let s := touchRows (putReq s r none) r.part r.put
        let cause := max r.cause (if acks = 0 then 1 else 2)
        (true, { s with grn := { s.grn with
          stores := s.grn.stores.map (fun x => if x.tag = r.tag then { x with acks := x.acks + acks, cause := cause } else x) } })
      | (.uncorr ea g, s, _) => (false, callFault (uncorrGrain (putReq s r none) r.part ea g a) r.tile 0x0505 0)
      | (o, s, _) => (false, obstacle (putReq s r none) r.tile r.part a (fun s code => callFault s r.tile code 0) o)

/-- A request that its Granary holds moves on, if it can. -/
def deliverNext (s : State) (r : GReq) : Bool × State :=
  if !heldReq s r then (false, s) else if r.op = 3 then deliverStore s r else deliverUnit s r

/-- Every request that can move delivers, up to `fuel` units. -/
def pumpFuel : Nat → State → State
  | 0, s => s
  | f + 1, s =>
    -- a request that an obstacle has ended or replaced is not tried again
    let try' := s.grn.reqs.foldl (fun (a : Bool × State) r =>
      if a.1 || !a.2.grn.reqs.contains r then a else deliverNext a.2 r) (false, s)
    if try'.1 then pumpFuel f try'.2 else try'.2

/-- The Granaries deliver what armed buffers have room for (R170). -/
def grnPump (s : State) : State := pumpFuel ((s.grn.reqs.map (fun r => unitCount r + 1)).sum + 1) s

/-- The fields of a GRQ slot: opcode, DOFF, two handles, counter. -/
def grqMask : Nat := 0xFF80FFFF0000001F

/-- FILL (R169, R170, R172): fills job memory into an arrival buffer, unit by unit. -/
def execFill (i : Issue) (s : State) : Out :=
  issued s i grqMask (fun s => overEdge s i.tile (fun s =>
    let c := (getTile s i.tile).fg
    let d := parseGrn 1 (descOf s i i.doff 32)
    if d.bad then callFault (grnFault s (i.tile / 60) c.part 0x0401) i.tile 0x0401 0
    else if !bufIn (NMap.get (fun _ => 0) c.handles (fld i.w 47 40)) 0 64 then callFault s i.tile 0x0201 0
    else grnPump { s with
    grn := { s.grn with
    reqs := s.grn.reqs ++
      [{ tile := i.tile, bg := false, part := c.part, op := 1, transpose := d.transpose, esize := d.esize,
         rows := d.rows, rowBytes := d.rowBytes, addr := d.addr, stride := d.stride, unit := d.unit,
         handle := fld i.w 47 40, list := [], sent := 0 }] } }))

/-- The entries of the fetch list in handle `k`: what the latest HUSK wrote there, or its whole buffer (R140, R157, R171). -/
def listCount (c : Ctx) (k h : Nat) : Nat := (NMap.find c.listLens k).getD (hLines h * 32)

/-- The expert step whose list a LIST sends keeps the request, for a strict recompute (R147). -/
def noteList (c : Ctx) (k : Nat) (q : GReq) : Ctx :=
  let ctr := ((c.ctrs.find? (fun e => e.2.armed && e.2.kind == 0 && (e.2.handleA == q.handle || e.2.handleB == q.handle))).map
    (fun e => e.1)).getD 0
  { c with husk := c.husk.map (fun r => if r.listH = k then { r with list := some (q, c.pc, ctr) } else r) }

/-- LIST (R171): delivers the neuron records of a fetch list, one unit per 64-entry chunk. The list's length is the
chunk count that HUSK left in its loop register, held with the expert step. -/
def execList (i : Issue) (s : State) : Out :=
  issued s i grqMask (fun s => overEdge s i.tile (fun s =>
    let c := (getTile s i.tile).fg
    let d := parseGrn 2 (descOf s i i.doff 32)
    let h := resolve c (fld i.w 39 32)
    let n := listCount c (fld i.w 39 32) h
    if d.bad then callFault (grnFault s (i.tile / 60) c.part 0x0401) i.tile 0x0401 0
    else if !bufOk s i h 0 (2 * n) || !bufIn (NMap.get (fun _ => 0) c.handles (fld i.w 47 40)) 0 64 then
      callFault s i.tile 0x0201 0
    else
      match badByte s i.tile h 0 (2 * n) with
      | some a => parityPoison s i.tile a
      | none =>
        let q : GReq := {
          tile := i.tile, bg := false, part := c.part, op := 2, transpose := false, esize := 1,
          rows := 1, rowBytes := d.rowBytes, addr := d.addr, stride := d.stride, unit := 64 * d.rowBytes,
          handle := fld i.w 47 40, list := codesOfBytes2 (readBuf s i.tile h 0 (2 * n)), sent := 0 }
        let s := setFg s i.tile (noteList (getTile s i.tile).fg (fld i.w 39 32) q)
        if n = 0 then s else grnPump { s with grn := { s.grn with reqs := s.grn.reqs ++ [q] } }))
where
  /-- the 16-bit entries of a fetch list -/
  codesOfBytes2 (bs : List Byte) : List Nat := (chunks 2 bs).map leNat

/-- The bytes that a STORE writes, cut at grain boundaries: job address and bytes of each piece (R170). -/
def storeRows (s : State) (t h : Nat) (d : GrnDesc) : List (Nat × List Byte) :=
  (List.range d.rows).flatMap (fun r =>
    (grainPieces (d.rowBytes / 65536 + 2) (d.addr + r * d.stride) d.rowBytes).map (fun p =>
      (p.1, readBuf s t h (r * d.rowBytes + (p.1 - (d.addr + r * d.stride))) p.2)))

/-- STORE (R170, R173): queues the named banks, which the tile owns until completion, to be written to job memory. -/
def execStore (i : Issue) (s : State) : Out :=
  issued s i grqMask (fun s => overEdge s i.tile (fun s =>
    let c := (getTile s i.tile).fg
    let d := parseGrn 3 (descOf s i i.doff 32)
    let h := resolve c (fld i.w 47 40)
    if d.bad then callFault (grnFault s (i.tile / 60) c.part 0x0401) i.tile 0x0401 0
    else if !bufOk s i h 0 (d.rows * d.rowBytes) then callFault s i.tile 0x0201 0
    else
      match badByte s i.tile h 0 (d.rows * d.rowBytes) with
      | some a => parityPoison s i.tile a
      | none =>
        let t := newTag s
        let q : GReq := {
          tile := i.tile, bg := false, part := c.part, op := 3, transpose := false, esize := 1, rows := d.rows,
          rowBytes := d.rowBytes, addr := d.addr, stride := d.stride, unit := d.rowBytes, handle := 0, list := [], sent := 0,
          put := storeRows s i.tile h d, tag := t.1 }
        let x : GStore := { tile := i.tile, bg := false, part := c.part, ctr := fld i.w 4 0, acks := 0, tag := t.1, banks := hMask h }
        let s := t.2
        grnPump { s with grn := { s.grn with reqs := s.grn.reqs ++ [q], stores := s.grn.stores ++ [x] } }))

/-- A unit advances an armed counter as it lands, with the stall cause that its delivering block attaches (R22, R170,
R296). -/
def bumpCtr (s : State) (t : Nat) (bg : Bool) (k cause : Nat) : State :=
  let c := ctxOf s t bg
  let x := getCtr c k
  if x.armed then setCtx s t bg (setCtr c k { x with value := x.value + 1, cause := cause }) else s

/-- STORE_COMPLETE (R170): every line of the tile's oldest STORE on the counter is written and acknowledged. -/
def execStoreComplete (t k : Nat) (s : State) : Out :=
  match s.grn.stores.find? (fun x =>
    x.tile == t && x.ctr == k && x.acks == 0 && x.resp.isNone && !s.grn.reqs.any (fun r => r.op == 3 && r.tag == x.tag)) with
  | none => .next s
  | some x =>
    let s := if 2 ≤ x.cause then soilCtx s t x.bg else s
    .next (bumpCtr { s with grn := { s.grn with stores := s.grn.stores.erase x } } t x.bg k x.cause)

/-- The grains that a HINT names, each once (R176). -/
def hintGrains (d : GrnDesc) : List Nat :=
  ((List.range d.rows).flatMap (fun r =>
    (grainPieces (d.rowBytes / 65536 + 2) (d.addr + r * d.stride) d.rowBytes).map (fun p => p.1 / 65536 * 65536))).eraseDups

/-- One grain of a HINT: dropped and counted, or its migration starts, wanted by a step (R176). -/
def hintGrain (t n tier by' : Nat) (s : State) (a : Nat) : State :=
  let die := t / 60
  let s := noteWalk s die n a
  match walk s die n a with
  | .page ea w =>
    if detMode s ∨ !bit (regN s (pgGrn die + 0x104)) 1 ∨ migrating s ea (grainOf a) ∨ pePlanned w then
      incSat s (pgGrn die + 0xD8) 1
    else migrate 1 by' s n a (if tier = 1 then 1 else if peDirty w then 3 else 2)
  | .bad => partFault (grnFault s die n 0x0405) n 0x0405
  | .unmapped => callFault (grnFault s die n 0x0402) t 0x0402 0

/-- HINT (R176): grains are asked into a tier; dropped and counted for a migrating grain, under DET_MODE or with
HINTS_EN clear. -/
def execHint (i : Issue) (s : State) : Out :=
  issued s i grqMask (fun s => overEdge s i.tile (fun s =>
    let c := (getTile s i.tile).fg
    let d := parseGrn 4 (descOf s i i.doff 32)
    let die := i.tile / 60
    if d.bad then callFault (grnFault s die c.part 0x0401) i.tile 0x0401 0
    else
      (hintGrains d).foldl (hintGrain i.tile c.part d.hintTier d.hintStep) s))

/-! ## Mapping -/

/-- The page address of GRN_MAP_ADDR. -/
def mapAddr (s : State) (die : Nat) : Nat := pairN s (pgGrn die + 0x164) / 0x200000 * 0x200000 % 2 ^ 48

/-- A page entry as T1 holds it, valid or not (R163). -/
def rawEntry (s : State) (die n a : Nat) : Option (Nat × Nat) :=
  (entryAddr s die n a).map (fun ea => (ea, entryW s ea))

/-- A directory or page entry that MAP or UNMAP reads is uncorrectable (R190). -/
def rawBad (s : State) (die n a : Nat) : Bool :=
  blockBad s (dirEntryAddr s die n a)
    || (match entryAddr s die n a with
      | some ea => (NMap.find s.grn.live ea).isNone && blockBad s ea
      | none => false)

/-- An uncorrectable entry met by MAP or UNMAP faults the partition (R190). -/
def mapFault (s : State) (die n : Nat) : State := partFault (grnFault s die n 0x0405) n 0x0405

/-- The command register of a Granary's MAP or UNMAP, with its BUSY bit (R191). -/
def mapCmd (s : State) (die n op : Nat) (busy : Bool) : State :=
  setRegN s (pgGrn die + 0x16C) (b2n busy * 2 ^ 31 + n % 4 * 256 + op)

/-- The time that the recovery takes for a grain at GRN_RECOVER_RATE GB/s, in ns (R184). -/
def recoverTime (s : State) (d : Nat) : Nat := (65536 + max 1 (regN s (pgGrn d + 0x160)) - 1) / max 1 (regN s (pgGrn d + 0x160))

/-- A recovery has moved a grain: its die's next one may move a grain's time later. -/
def recoverPace (s : State) (cp : Copy) : State :=
  if cp.kind ≠ 2 then s
  else
    let t := max (now s) (NMap.get (fun _ => 0) s.grn.recoverAt cp.die)
    { s with grn := { s.grn with recoverAt := NMap.put s.grn.recoverAt cp.die (t + recoverTime s cp.die) } }

/-- A copy can go on: the mirrors have acknowledged its lines, or its lines may move now (R174, R184). -/
def copyReady (s : State) (c : Copy) : Bool :=
  if c.sent then c.acks == 0 else c.kind != 2 || decide (NMap.get (fun _ => 0) s.grn.recoverAt c.die ≤ now s)

/-- The copy that goes on next: one whose lines are acknowledged; the oldest of plan, demand, count and quota; a recovery of a
grain that steps want, of a HALF grain, another; the HINT with the earliest deadline (R176, R184). The order among the
kinds is the model's. DESIGN CHOICE (log entry 110). -/
def nextCopy (s : State) : Option Copy :=
  let cs := s.grn.copies.filter (copyReady s)
  let wants := fun (c : Copy) => c.kind == 2 && wantedGrain s c.part (c.page + c.grain * 65536)
  (cs.find? (fun c => c.sent)).orElse fun _ =>
    (cs.find? (fun c => c.kind == 0)).orElse fun _ =>
      (cs.find? wants).orElse fun _ =>
        (cs.find? (fun c => c.kind == 2 && peGrain (entryW s c.entry) c.grain == 7)).orElse fun _ =>
          (cs.find? (fun c => c.kind == 2)).orElse fun _ => (sortBy (fun (c : Copy) => c.step) (cs.filter (fun c => c.kind == 1))).head?

/-- The bytes that a copy moves: the grain's lines in T1, or those that the lender or the remote home sends (`data`), with the
writes made meanwhile over them; none where a T1 line is uncorrectable (R174, R175). -/
def grainBytes (s : State) (cp : Copy) (data : List Byte) : Option (List Byte) × State :=
  let w := entryW s cp.entry
  let st := peGrain w cp.grain
  if st = 5 ∨ (st = 4 ∧ peHomeDev w = myDev s) then t1Read s (peFrame w * 0x200000 + cp.grain * 65536) 65536
  else
    let put := fun (d : List Byte) (r : Nat × List Byte) => d.take (r.1 % 65536) ++ r.2 ++ d.drop (r.1 % 65536 + r.2.length)
    (some (cp.written.foldl put (padTo 65536 data)), inc64 s (pgGrn cp.die + 0x50) 65536)

/-- A copy has completed: the grain's state is the target, the entry is written back, and what the page no longer uses is
released; a held migration of the grain starts (R174). -/
def flipCopy (s : State) (cp : Copy) : State :=
  let w := entryW s cp.entry
  let st := peGrain w cp.grain
  let s := dropCopy s cp.entry cp.grain
  let s := setEntry s cp.entry (peSetGrain w cp.grain cp.target)
  let s := if cp.target = 1 ∧ (st = 6 ∨ st = 7) then incSat s (pgGrn cp.die + 0xC0) 1
    else if st = 5 then incSat s (pgGrn cp.die + 0xC4) 1 else s
  let s := settlePage s cp.part cp.entry
  let s := { s with grn := { s.grn with lostT2 := s.grn.lostT2.filter (fun e => e != (cp.entry, cp.grain)) } }
  match s.grn.held.find? (fun h => h.entry == cp.entry && h.grain == cp.grain) with
  | some h =>
    let s := { s with grn := { s.grn with held := s.grn.held.erase h } }
    grnPump (migrate h.kind h.step s h.part (h.page + h.grain * 65536) h.target)
  | none => grnPump s

/-- A copy whose target is T1: its bytes are written to the page's frame, and the grain flips. -/
def copyToT1 (s : State) (cp : Copy) (data : List Byte) : State :=
  let w := entryW s cp.entry
  let s := recoverPace s cp
  if peGrain w cp.grain = 4 ∧ peHomeDev w = myDev s then flipCopy s cp
  else
    match grainBytes s cp data with
    | (some bs, s) => flipCopy (t1Write s (peFrame w * 0x200000 + cp.grain * 65536) bs).2 cp
    | (none, s) => s

/-- A copy whose target lies at lenders: its lines are written to the mirrors, whose acknowledgements it awaits (R174). -/
def copyToT2 (s : State) (cp : Copy) (data : List Byte) : State :=
  match grainBytes (recoverPace s cp) cp data with
  | (some bs, s) =>
    let t := newTag s
    let cp' := { cp with tag := t.1, sent := true, written := [] }
    let r := sendLines t.2 cp' 0 bs
    { r.1 with grn := { r.1.grn with copies := r.1.grn.copies.map (fun c => if c = cp then { cp' with acks := r.2 } else c) } }
  | (none, s) => uncorrGrain (dropCopy s cp.entry cp.grain) cp.part cp.entry cp.grain (cp.page + cp.grain * 65536)

/-- GRAIN_FLIP (R174): the next copy of a grain moves its lines; it flips once they are written in T1, or acknowledged by every
mirror. `data` are the grain's bytes where the source is a lender or a remote home. `frame` is the T1 frame that the Granary
takes for a page that has none; the manual does not fix it. -/
def execGrainFlip (data : List Byte) (frame : Nat) (s : State) : Out :=
  match nextCopy s with
  | none => .next s
  | some cp =>
    if cp.sent then .next (flipCopy s cp)
    else if cp.target ≠ 1 then .next (copyToT2 s cp data)
    else
      let w := entryW s cp.entry
      let o := peOwner w
      if frameOwned s cp.part w then .next (copyToT1 s cp data)
      else if !(frameFree s o frame && quotaRoom s o cp.part) then .next s
      else .next (copyToT1 (takeFrame s cp.part cp.entry cp.page frame) cp data)

/-- A page homed here is validated with a home frame: its 32 grains lie in T1, a page of zeros is cleared, the frame counts
against the quota (R163, R185). -/
def mapTake (s : State) (die n frame ea w : Nat) : State :=
  let w := setFld (setFld w 49 30 frame) 29 10 frame
  let w := setFld w 191 64 ((List.range 32).foldl (fun a g => a + 2 ^ (4 * g)) 0)
  let s := t1WriteRaw s ea (leBytes 64 (w + 2 ^ 63))
  let s := if peDirty w then
      { s with
        mem := { s.mem with
          t1 := zeroBytes s.mem.t1 (frame * 0x200000) (frame * 0x200000 + 0x200000),
          t1err := NMap.delIf s.mem.t1err (fun k => frame * 0x8000 * 72 ≤ k && k < (frame + 1) * 0x8000 * 72) } }
    else s
  let s := ownFrame s n frame
  { s with grn := { s.grn with ownerPage := NMap.put s.grn.ownerPage frame (mapAddr s die) } }

/-- MAP (R163): validates a page entry, and allocates a home frame within quota for a page homed here. `frame` is the
frame the Granary takes, which the manual does not fix. -/
def execMap (die n frame : Nat) (s : State) : Out :=
  guardWrite s (pgGrn die) (if die ≥ 2 ∨ n ≥ 4 then .next s
  else
    let s := mapCmd s die n 1 false
    if rawBad s die n (mapAddr s die) then .next (mapFault s die n)
    else match rawEntry s die n (mapAddr s die) with
    | none => .next (err s (pgGrn die) 0x0409)
    | some (ea, w) =>
      if bit w 63 then .next (err s (pgGrn die) 0x0409)
      else if peHomeDev w ≠ myDev s then .next (t1WriteRaw s ea (leBytes 64 (w + 2 ^ 63)))
      else
        let o := peOwner w
        if !quotaRoom s o n then .next (incSat (err s (pgGrn die) 0x0406) (pgGrn die + 0xDC) 1)
        else if !frameFree s o frame then .next s
        else
          .next (mapTake s die n frame ea w))

/-- Requests for a page are in progress, or an admitted step holds it (R163, R190). -/
def pageBusy (s : State) (n a ea : Nat) : Bool :=
  s.grn.reqs.any (fun r => r.part == n && (leftPieces r).any (fun p => p.1 < a + 0x200000 && a < p.1 + p.2))
    || s.grn.copies.any (fun c => c.entry == ea)
    || s.grn.t2.any (fun q => q.entry == ea)
    || (getPart s n).steps.any (fun st => st.phase != .queued &&
        st.streams.any (fun r => r.1 < a + 0x200000 && a < r.1 + r.2))

/-- A page's frame and leases are released and its entry loses VALID (R163); both Granaries drop it (R164). -/
def releasePage (s : State) (n ea : Nat) : State :=
  let w := entryW s ea
  let s := if frameOwned s n w then dropFrame s n (peFrame w) else s
  let s := { s with grn := { s.grn with live := NMap.del s.grn.live ea, pageBuf := s.grn.pageBuf.filter (fun e => e.2 != ea) } }
  setLeases (t1WriteRaw s ea (leBytes 64 (setFld w 63 63 0)))
    (s.grn.leases.map (fun l => if l.page = some ea then { l with page := none } else l))

/-- UNMAP (R163): releases a page's frames and leases once no request is in progress. -/
def execUnmap (die n : Nat) (s : State) : Out :=
  guardWrite s (pgGrn die) (if die ≥ 2 ∨ n ≥ 4 then .next s
  else if rawBad s die n (mapAddr s die) then .next (mapFault (mapCmd s die n 2 false) die n)
  else
    match rawEntry s die n (mapAddr s die) with
    | none => .next (err (mapCmd s die n 2 false) (pgGrn die) 0x0409)
    | some (ea, w) =>
      if !bit w 63 then .next (err (mapCmd s die n 2 false) (pgGrn die) 0x0409)
      else if pageBusy s n (mapAddr s die) ea then
        .next { (mapCmd s die n 2 true) with
          grn := { s.grn with unmaps := s.grn.unmaps ++ [⟨die, n, mapAddr s die⟩] } }
      else .next (releasePage (mapCmd s die n 2 false) n ea))

/-- UNMAP_COMPLETE (R163): the oldest pending UNMAP of a die completes once its page's requests have ended. -/
def execUnmapComplete (die : Nat) (s : State) : Out :=
  match s.grn.unmaps.find? (fun u => u.die == die) with
  | none => .next s
  | some u =>
    match entryAddr s die u.part u.addr with
    | none => .next s
    | some ea =>
      if pageBusy s u.part u.addr ea then .next s
      else
        let s := { s with grn := { s.grn with unmaps := s.grn.unmaps.erase u } }
        .next (releasePage (mapCmd s die u.part 2 false) u.part ea)

/-! ## Quotas -/

/-- The pages of a partition whose frames lie on a die, coldest first by the sum of their counts (R186). -/
def pagesByHeat (s : State) (die n : Nat) : List (Nat × Nat) :=
  let ps := s.grn.owner.filterMap (fun e =>
    if e.2 = 4 * n + 3 ∧ e.1 % 2 = die then
      match NMap.find s.grn.ownerPage e.1 with
      | some a => (entryAddr s die n a).map (fun ea => (ea, a))
      | none => none
    else none)
  let heat := fun (ea : Nat) => ((List.range 32).map (peCount (entryW s ea))).sum
  sortBy (fun x => heat x.1) ps

/-- OVER_QUOTA of a partition after a quota write: whether use exceeds the quota, with its event as it becomes so (R186). -/
def overQuota (s : State) (die n : Nat) (was : Bool) : State :=
  let a := pgGrn die + 0x100
  let exceeds := regN s (pgGrn die + 0x138 + 4 * n) > regN s (pgGrn die + 0x128 + 4 * n)
  let s := setRegN s a (setFld (regN s a) (16 + n) (16 + n) (b2n exceeds))
  if exceeds && !was then evt s (pgGrn die) 3 else s

/-- Frames of a partition on a die beyond its quota, without those whose pages are already leaving T1 (R186). -/
def quotaOver (s : State) (die n : Nat) : Nat :=
  let leaving := (pagesByHeat s die n).filter (fun p =>
    (List.range 32).any (fun g => peGrain (entryW s p.1) g == 5) && !(List.range 32).any (fun g => [1, 4, 6].contains (peGrain (entryW s p.1) g)))
  regN s (pgGrn die + 0x138 + 4 * n) - regN s (pgGrn die + 0x128 + 4 * n) - leaving.length

/-- One page leaves T1 toward a target, its grains in T1 each by a migration (R186). -/
def movePage (s : State) (n : Nat) (p : Nat × Nat) (target : Nat) : State :=
  (List.range 32).foldl (fun s g =>
    if peGrain (entryW s p.1) g = 1 then startMigration s n (p.2 + g * 65536) target else s) s

/-- The local copies of a clean page homed elsewhere are released: to NONE, or where a step or a pooled row holds a grain, to a
lease (R186). -/
def quotaClean (die n : Nat) (s : State) (p : Nat × Nat) : State :=
  let w := entryW s p.1
  if quotaOver s die n = 0 ∨ peDirty w ∨ peHomeDev w = myDev s ∨ (List.range 32).any (fun g => migrating s p.1 g) then s
  else if (List.range 32).any (fun g => peGrain w g == 1 && heldGrain s n (p.2 + g * 65536)) then
    (if (bindA s n p.1).isSome then movePage s n p 2 else s)
  else movePage s n p 0

/-- A dirty page is demoted whole to a pair of leased frames (R186). -/
def quotaDirty (die n : Nat) (s : State) (p : Nat × Nat) : State :=
  let w := entryW s p.1
  if quotaOver s die n = 0 ∨ !peDirty w ∨ peClass w = 4 ∨ (bindTarget s n p.1 3).isNone then s else movePage s n p 3

/-- A quota written: below use, frames are freed by release of clean copies, then by demotion of whole dirty pages to leased
pairs, coldest first; nothing already held is discarded (R186). -/
def quotaWrite (s : State) (die n v : Nat) : State :=
  let was := overNow s die n
  let s := setRegN s (pgGrn die + 0x128 + 4 * n) v
  let s := (pagesByHeat s die n).foldl (quotaClean die n) s
  let s := (pagesByHeat s die n).foldl (quotaDirty die n) s
  grnPump (overQuota s die n was)

/-- GRN_QUOTA_WRITE (R186). -/
def execGrnQuotaWrite (die n v : Nat) (s : State) : Out :=
  guardWrite s (pgGrn die) (if die ≥ 2 ∨ n ≥ 4 then .next s else .next (quotaWrite s die n v))

end Sys2Proof.Machine
end

