-- ==== Sys2Proof/Machine/Transcend.lean ====
section
/-!
DEFINITION. The transcendental results of R117 (and the Thresher's exp and logistic function, R70): the FP32 value
nearest the exact result, computed in fixed point with 256 fraction bits.
-/

namespace Sys2Proof.Machine

/-- The fraction bits of the fixed-point working. -/
def fixBits : Nat := 256

/-- The natural logarithm of 2 in fixed point, rounded down. -/
def fixLn2 : Nat := 0xb17217f7d1cf79abc9e3b39803f2f6af40f343267298b62d8a0d175b8baafa2b

/-- The exponential series of a fixed-point argument below 1, by its first `fuel` terms. -/
def expSeries : Nat → Nat → Nat → Nat → Nat
  | 0, _, _, _ => 0
  | f + 1, n, t, r => t + expSeries f (n + 1) (t * r / 2 ^ fixBits / (n + 1)) r

/-- `e^(r * 2^-256)` for `r` below `2^256`, in fixed point. -/
def expFix (r : Nat) : Nat := expSeries 70 0 (2 ^ fixBits) r

/-- The fixed-point integer nearest below `m * 2^e`. -/
def toFix (m : Nat) (e : Int) : Nat :=
  let x := e + fixBits
  if x ≥ 0 then m * 2 ^ x.toNat else m / 2 ^ (-x).toNat

/-- A pair `(f, k)` with `e^x = f * 2^(k - 256)`, `f` from `2^256` to `2^257`, for fixed-point `x` of a sign. -/
def expParts (neg : Bool) (x : Nat) : Nat × Int :=
  let k := x / fixLn2
  let r := x % fixLn2
  if neg then
    (if r = 0 then (2 ^ fixBits, -(k : Int)) else (expFix (fixLn2 - r), -(k : Int) - 1))
  else (expFix r, (k : Int))

/-- A positive value that is not exact: a sticky bit below the working keeps it off every tie. -/
def inexact (f : Nat) (e : Int) : Val := .fin false (2 * f + 1) (e - 1)

/-- exp of a value. -/
def valExp : Val → Val
  | .nan => .nan
  | .inf s => if s then .fin false 0 0 else .inf false
  | .fin s m e =>
    if m = 0 then .fin false 1 0
    else if (bitLen m : Int) + e > 8 then (if s then .fin false 0 0 else .inf false)
    else if (bitLen m : Int) + e < -40 then
      (if s then .fin false (2 ^ 60 - 1) (-60) else .fin false (2 ^ 60 + 1) (-60))
    else
      let p := expParts s (toFix m e)
      inexact p.1 (p.2 - fixBits)

/-- exp2 of a value; exact at integers. -/
def valExp2 : Val → Val
  | .nan => .nan
  | .inf s => if s then .fin false 0 0 else .inf false
  | .fin s m e =>
    if m = 0 then .fin false 1 0
    else if (bitLen m : Int) + e > 9 then (if s then .fin false 0 0 else .inf false)
    else if (bitLen m : Int) + e < -40 then
      (if s then .fin false (2 ^ 60 - 1) (-60) else .fin false (2 ^ 60 + 1) (-60))
    else
      let x := toFix m e
      let k := x / 2 ^ fixBits
      let r := x % 2 ^ fixBits
      if r = 0 then .fin false 1 (if s then -(k : Int) else k)
      else if s then inexact (expFix ((2 ^ fixBits - r) * fixLn2 / 2 ^ fixBits)) (-(k : Int) - 1 - fixBits)
      else inexact (expFix (r * fixLn2 / 2 ^ fixBits)) ((k : Int) - fixBits)

/-- The inverse hyperbolic tangent series of a fixed-point argument at most 1/3. -/
def atanhSeries : Nat → Nat → Nat → Nat → Nat
  | 0, _, _, _ => 0
  | f + 1, n, t, z2 => t / n + atanhSeries f (n + 2) (t * z2 / 2 ^ fixBits) z2

/-- log2 of a value; exact at powers of two. The manual states no result for a zero or a negative value (log entry 19). -/
def valLog2 : Val → Option Val
  | .nan => some .nan
  | .inf s => if s then none else some (.inf false)
  | .fin s m e =>
    if m = 0 ∨ s then none
    else
      let l := bitLen m
      let k : Int := e + l - 1
      if m = 2 ^ (l - 1) then some (.fin (k < 0) k.natAbs 0)
      else
        let y := m * 2 ^ fixBits / 2 ^ (l - 1)
        let one := 2 ^ fixBits
        let z := (y - one) * one / (y + one)
        let ln := 2 * atanhSeries 90 1 z (z * z / one)
        let lg : Int := ((ln * one / fixLn2 : Nat) : Int) + k * (one : Nat)
        some (.fin (lg < 0) (2 * lg.natAbs + 1) (-(fixBits : Int) - 1))

/-- The logistic function of a value. -/
def valSigm : Val → Val
  | .nan => .nan
  | .inf s => if s then .fin false 0 0 else .fin false 1 0
  | .fin s m e =>
    if m = 0 then .fin false 1 (-1)
    else if (bitLen m : Int) + e > 8 then (if s then .fin false 0 0 else .fin false 1 0)
    else if (bitLen m : Int) + e < -40 then
      (if s then .fin false (2 ^ 60 - 1) (-61) else .fin false (2 ^ 60 + 1) (-61))
    else
      let p := expParts true (toFix m e)
      let x := p.1 / 2 ^ (-p.2).toNat
      let one := 2 ^ fixBits
      inexact (if s then x * one / (one + x) else one * one / (one + x)) (-(fixBits : Int))

/-- tanh of a value; below 2^-13 the nearest FP32 value is the argument itself. -/
def valTanh : Val → Val
  | .nan => .nan
  | .inf s => .fin s 1 0
  | .fin s m e =>
    if m = 0 then .fin s 0 0
    else if (bitLen m : Int) + e < -13 then .fin s m e
    else if (bitLen m : Int) + e > 5 then .fin s 1 0
    else
      let p := expParts true (2 * toFix m e)
      let x := p.1 / 2 ^ (-p.2).toNat
      let one := 2 ^ fixBits
      match inexact ((one - x) * one / (one + x)) (-(fixBits : Int)) with
      | .fin _ a b => .fin s a b
      | v => v

/-- The reciprocal. The manual states no result for a zero (log entry 19). -/
def valRcp (v : Val) : Option Val :=
  match v with
  | .fin _ 0 _ => none
  | v => some (valDiv (.fin false 1 0) v)

/-- The integer square root, rounded down, by `fuel` result bits from the top. -/
def isqrtBits : Nat → Nat → Nat → Nat
  | 0, _, r => r
  | f + 1, n, r => isqrtBits f n (if (r + 2 ^ f) * (r + 2 ^ f) ≤ n then r + 2 ^ f else r)

/-- The integer square root, rounded down. -/
def isqrt (n : Nat) : Nat := isqrtBits (bitLen n / 2 + 1) n 0

/-- The reciprocal square root. The manual states no result for a zero or a negative value (log entry 19). -/
def valRsqrt : Val → Option Val
  | .nan => some .nan
  | .inf s => if s then none else some (.fin false 0 0)
  | .fin s m e =>
    if m = 0 ∨ s then none
    else
      let odd := e % 2 = 1
      let m' := if odd then 2 * m else m
      let e' := if odd then e - 1 else e
      let n := 2 ^ 400 / m'
      let q := isqrt n
      let exact := q * q * m' = 2 ^ 400
      some (.fin false (2 * q + (if exact then 0 else 1)) (-201 - e' / 2))

/-- The FP32 code of a transcendental of an FP32 code. -/
def f32Of (f : Val → Val) (a : Nat) : Nat := encFP32 none false (f (decFP32 a))

end Sys2Proof.Machine
end

