-- ==== Sys2Proof/Machine/Thresher.lean ====
section
/-!
DEFINITION. The Thresher: calls, chunk intake, top-k selection and gates, the key-value sort, streams, bias banks,
return transfers and the egress of decisions (R60 to R82, R473).
-/

namespace Sys2Proof.Machine

open Sys2Proof Sys2Proof.Config

/-! ## Ranking and gates -/

/-- A number that orders FP32 codes as R66 ranks keys: NaN lowest, the two zeros equal. -/
def rankOf (c : Nat) : Int :=
  let m : Nat := c % 2 ^ 31
  if m > 0x7F800000 then -(2 ^ 40) else if c / 2 ^ 31 % 2 = 1 then -(m : Int) else m

/-- An FP32 code is a NaN. -/
def isNanCode (c : Nat) : Bool := c % 2 ^ 31 > 0x7F800000

/-- The order of (id, key) pairs by rank, lower ids first among equals (R66). -/
def ranksFirst (a b : Nat × Nat) : Prop :=
  rankOf a.2 > rankOf b.2 ∨ (rankOf a.2 = rankOf b.2 ∧ a.1 ≤ b.1)

/-- A pair put into a list in rank order. -/
def rankInsert (x : Nat × Nat) : List (Nat × Nat) → List (Nat × Nat)
  | [] => [x]
  | y :: ys =>
    if rankOf x.2 > rankOf y.2 ∨ (rankOf x.2 = rankOf y.2 ∧ x.1 ≤ y.1) then x :: y :: ys else y :: rankInsert x ys

/-- Pairs in rank order (R66). -/
def rankSort (l : List (Nat × Nat)) : List (Nat × Nat) := l.foldr rankInsert []

/-- A number as an FP32 code. -/
def f32OfNat (n : Nat) : Nat := encFP32 none false (.fin false n 0)

/-- The score of a group of keys (R69). -/
def groupScore (mean : Bool) (keys : List Nat) : Nat :=
  if mean then f32Div (treeSum keys) (f32OfNat keys.length)
  else
    match rankSort ((List.range keys.length).zip keys) with
    | [] => 0
    | e :: _ => e.2

/-- The ids of the experts that compete for selection: all, or those of the kept groups (R69). -/
def keptIds (op nGroups topGroups : Nat) (mean : Bool) (keys : List Nat) : List Nat :=
  if op = 1 then List.range keys.length
  else
    let size := keys.length / nGroups
    let gs := (List.range nGroups).map (fun g => (g, groupScore mean ((keys.drop (g * size)).take size)))
    ((rankSort gs).take topGroups).flatMap (fun g => (List.range size).map (fun i => g.1 * size + i))

/-- The gates of the selected scores in rank order (R70). -/
def gatesOf (gate scale : Nat) (ss : List Nat) : List Nat :=
  if gate = 0 then ss.map (fun x => f32Mul x scale)
  else
    let m := ss.tail.foldl f32Max (ss.headD 0)
    let es := if gate = 1 then ss.map (fun x => f32Of valExp (f32Sub x m)) else ss.map (f32Of valSigm)
    let t := es.tail.foldl f32Add (es.headD 0)
    es.map (fun e => f32Mul (f32Div e t) scale)

/-- A decision record (R71). -/
def decisionRecord (part expert rank gate token : Nat) (nanf tie last : Bool) : Nat :=
  token % 2 ^ 32 + gate % 2 ^ 32 * 2 ^ 32 + expert % 2 ^ 16 * 2 ^ 64 + rank % 16 * 2 ^ 80 + b2n last * 2 ^ 85
    + b2n tie * 2 ^ 86 + b2n nanf * 2 ^ 87 + part % 4 * 2 ^ 88

/-- What one token's selection gives (R66 to R71). -/
structure Selection where
  recs : List Nat
  ties : Nat
  nan : Bool
  deriving DecidableEq, Repr

/-- The selection of a token from its scores and biases. -/
def select (c : ThrCall) (pos : Nat) (scores biases : List Nat) : Selection :=
  let keys := if c.biasEn then (scores.zip biases).map (fun p => f32Add p.1 p.2) else scores
  let keys := if c.biasEn then keys else keys.map (fun k => f32Add k 0)
  let pool := (keptIds c.op c.nGroups c.topGroups c.gscore keys).map (fun i => (i, keys.getD i 0))
  let ranked := rankSort pool
  let sel := ranked.take c.k
  let rest := ranked.drop c.k
  let gs := gatesOf c.gate c.scale (sel.map (fun e => scores.getD e.1 0))
  let tie := fun (k : Nat) => rest.any (fun r => rankOf r.2 == rankOf k)
  let recs := ((List.range sel.length).zip (sel.zip gs)).map (fun q =>
    decisionRecord c.part (c.eptBase + q.2.1.1) q.1 q.2.2 (c.tokenBase + pos) (isNanCode q.2.2) (tie q.2.1.2)
      (q.1 + 1 == sel.length))
  ⟨recs, (sel.filter (fun e => tie e.2)).length, keys.any isNanCode⟩

/-! ## Calls -/

/-- The Thresher unit of a tile (R60). -/
def thrUnit (t : Nat) : Nat := t / 15

/-- The calls in progress of a unit. -/
def unitCalls (s : State) (u : Nat) : List ThrCall := s.thr.calls.filter (fun c => c.unit == u && callLive s c)

/-- A call fault of a Thresher (R82): counted, recorded, and the step ends with an error completion. -/
def thrFault (s : State) (u desc part code : Nat) : State :=
  let pg := pgThr u
  let s := if ctr32 s (pg + 0x78) = 0 then setPair s (pg + 0x104) desc else s
  let s := evt (incSat s (pg + 0x78) 1) pg 0
  let s := if code = 0x0306 then evt s pg 1 else s
  let st := (((getPart s part).steps.head?).map (fun x => x.num)).getD 0
  endHead (errIn s pg code (some part) st) part code

/-- The slot of a table in which an ACLK falls: its quadrant tile number (R62). -/
def slotTile (m : NMap Nat) (u a : Nat) : Nat := NMap.get (fun _ => 15) m (u * 64 + a % 64)

/-- A quadrant tile owns a slot of a table. -/
def ownsSlot (m : NMap Nat) (u q : Nat) : Bool := (List.range 64).any (fun i => slotTile m u i == q)

/-- A call's descriptor decoded, as the call it would start (R61). -/
def parseCall (s : State) (i : Issue) (src dst : Nat) : ThrCall :=
  let w := leNat (descOf s i i.doff 32)
  let k := fld w 31 16
  let op := fld w 3 0
  { unit := thrUnit i.tile, tile := i.tile, part := (getTile s i.tile).fg.part, tag := fld i.w 31 30,
    desc := w % 2 ^ 64, op := op, gate := fld w 7 4, fmt := fld w 15 8, k := fld k 10 0,
    biasEn := bit k 13, bank := b2n (bit k 14), gscore := bit k 15, nExp := fld w 47 32, eptBase := fld w 63 48,
    nGroups := fld w 71 64, topGroups := fld w 79 72, ctx := fld w 81 80, scale := fld w 127 96,
    n := fld w 159 128, tokenBase := fld w 191 160, dst := dst, banks := Nat.lor (hMask src) (hMask dst), endAt := 0,
    toks := [], done := [], left := 0, ret := [], retOff := 0, retReady := 0, src := src, issueAt := s.clk.aclk,
    srcAt := s.clk.aclk + (if op = 8 then 2 else 1), key64 := bit w 27, dedup := bit w 28 }

/-- The descriptor bits that each operation uses (R61). -/
def callMask (op : Nat) (biasEn : Bool) : Nat :=
  let r := fun (hi lo : Nat) => 2 ^ (hi + 1) - 2 ^ lo
  let top := r 3 0 + r 7 4 + r 15 8 + r 26 16 + r 29 29 + (if biasEn then r 30 30 else 0) + r 47 32 + r 63 48
    + r 127 96 + r 159 128 + r 191 160
  match op with
  | 1 => top
  | 2 => top + r 31 31 + r 71 64 + r 79 72
  | 3 => r 3 0 + r 27 27 + r 28 28 + r 159 128
  | 4 => r 3 0 + r 26 16 + r 81 80 + r 255 192
  | 5 => r 3 0 + r 15 8 + r 81 80 + r 159 128
  | 6 => r 3 0 + r 81 80
  | 7 => r 3 0 + r 81 80
  | 8 => r 3 0 + r 30 30 + r 159 128
  | _ => 0

/-- The bytes a call reads from its source: the element arrays of R77, the scores of R80, the entries of R67. -/
def srcBytes (c : ThrCall) : Nat :=
  match c.op with
  | 3 => c.n * (if c.key64 then 12 else 8)
  | 5 => match fmtOfCode c.fmt with
    | some f => tensorBytes f c.n
    | none => 0
  | 8 => 4 * c.n
  | _ => 0

/-- The bytes a call returns (R473, R77, R78, R81). -/
def retBytes (c : ThrCall) (strK : Nat) : Nat :=
  let kb := if c.key64 then 8 else 4
  match c.op with
  | 3 => if c.dedup then kb + c.n * (kb + 12) else c.n * (kb + 4)
  | 6 => 16 + 16 * strK
  | 7 => 16 + 16 * strK
  | 8 => 64
  | _ => 0

/-- A bank is in use or being loaded (R67). -/
def bankBusy (s : State) (u b : Nat) : Bool :=
  (unitCalls s u).any (fun c => c.bank == b && (c.op == 8 || (c.op ≤ 2 && c.biasEn)))

/-- A call is in progress on a stream context. -/
def ctxBusy (s : State) (u x : Nat) : Bool :=
  (unitCalls s u).any (fun c => 5 ≤ c.op && c.op ≤ 7 && c.ctx == x)

/-- A descriptor that fails R61: a reserved code, or a field the operation does not use. -/
def callMalformed (c : ThrCall) (w : Nat) : Bool :=
  c.op == 0 || c.op > 8 || Nat.land w (2 ^ 256 - 1 - callMask c.op c.biasEn) != 0
    || (c.op ≤ 2 && c.gate > 2) || ((c.op ≤ 2 || c.op == 5) && !([4, 5, 6].contains c.fmt))

/-- Sizes out of their ranges, with their code (R82, rows 2 to 7). -/
def callSizes (c : ThrCall) : Nat :=
  let size := c.nExp / max 1 c.nGroups
  if c.op ≤ 2 ∧ (c.k = 0 ∨ c.k > 16 ∨ c.k > c.nExp) then 0x0302
  else if c.op = 4 ∧ (c.k = 0 ∨ c.k > 1024) then 0x0302
  else if c.op ≤ 2 ∧ (c.nExp = 0 ∨ c.nExp > 16384 ∨ (c.fmt = 4 ∧ c.nExp % 32 ≠ 0)) then 0x0302
  else if c.op ≤ 2 ∧ c.eptBase + c.nExp > 65536 then 0x0303
  else if c.op = 2 ∧ (c.nGroups = 0 ∨ c.nGroups > 64 ∨ c.nExp % max 1 c.nGroups ≠ 0 ∨ c.topGroups = 0
      ∨ c.topGroups > c.nGroups ∨ c.k > c.topGroups * size) then 0x0302
  else if c.op = 3 ∧ (c.n = 0 ∨ c.n > 65536) then 0x0302
  else if c.op = 5 ∧ (c.n = 0 ∨ (c.fmt = 4 ∧ c.n % 32 ≠ 0)) then 0x0302
  else if c.op = 8 ∧ (c.n = 0 ∨ c.n > 16384) then 0x0302
  else 0

/-- Breaks of the partition's share and of what is in progress, with their code, in the order of R82's rows (R68, R82). That a
call with source data from a tile which owns no ingress slot ends with 0x0306, as one with output from a tile without a return
slot does, is log entry 106. -/
def callShares (s : State) (c : ThrCall) : Nat :=
  let p := getPart s c.part
  let live := unitCalls s c.unit
  let open' := NMap.find s.thr.streams (c.unit * 4 + c.ctx)
  let names := c.op = 8 ∨ (c.op ≤ 2 ∧ c.biasEn)
  let streamOp := 4 ≤ c.op ∧ c.op ≤ 7
  if c.op = 3 ∧ (!p.thrSort || !live.isEmpty) then 0x0302
  else if live.any (fun x => x.op == 3) then 0x0302
  else if [3, 6, 7, 8].contains c.op ∧ !ownsSlot s.thr.return' c.unit (c.tile % 15) then 0x0306
  else if [3, 5, 8].contains c.op ∧ !ownsSlot s.thr.ingress c.unit (c.tile % 15) then 0x0306
  else if names ∧ (!bit p.thrBanks c.bank || bankBusy s c.unit c.bank && (c.op = 8 || live.any (fun x => x.op == 8 && x.bank == c.bank))) then 0x0304
  else if live.length ≥ 4 ∨ live.any (fun x => x.tag == c.tag) ∨ !bit p.thrTags c.tag then 0x0302
  else if streamOp ∧ (!bit p.thrStreams c.ctx || ctxBusy s c.unit c.ctx || (c.op = 4 && open'.isSome)
      || (c.op ≠ 4 && open'.isNone)) then 0x0307
  else if names ∧ c.op ≠ 8 ∧ NMap.get (fun _ => false) s.thr.badBank (c.unit * 2 + c.bank) then 0x0308
  else 0

/-- A Thresher is bad by its fuses, its checker or its known-answer run (R381, R383). -/
def thrBad (s : State) (u : Nat) : Bool := bit s.fuse.badThr u || bit s.boot.testThr u

/-- The buffers of a call hold its source and its output, and their banks are free (R114, R294). -/
def callBufsOk (s : State) (i : Issue) (c : ThrCall) : Bool :=
  let strK := ((NMap.find s.thr.streams (c.unit * 4 + c.ctx)).map (fun x => x.k)).getD 0
  (srcBytes c == 0 || bufOk s i c.src 0 (srcBytes c)) && (retBytes c strK == 0 || bufOk s i c.dst 0 (retBytes c strK))

/-- A Thresher call of one operation: the descriptor is checked (R61, R82), then the call starts. A descriptor of
another operation is another call's, and is left to it. -/
def thrCall (op : Nat) (i : Issue) (s : State) (start : State → ThrCall → Nat → State) : Out :=
  issued s i 0xFF80FFFFC0000000 (fun s =>
    let ctx := (getTile s i.tile).fg
    let w := leNat (descOf s i i.doff 32)
    let c := parseCall s i (resolve ctx (fld i.w 47 40)) (resolve ctx (fld i.w 39 32))
    let f := thrFault s c.unit c.desc c.part
    if c.op ≠ op ∧ 1 ≤ c.op ∧ c.op ≤ 8 then s
    else if thrBad s c.unit then f 0x030B
    else if callMalformed c w then f 0x0301
    else if callSizes c ≠ 0 then f (callSizes c)
    else if callShares s c ≠ 0 then f (callShares s c)
    else if !callBufsOk s i c then callFault s i.tile 0x0201 0
    else
      match badByte s i.tile c.src 0 (srcBytes c) with
      | some a => parityPoison s i.tile a
      | none =>
        let go := fun (s : State) => start s { c with srcLen := srcBytes c } w
        if op = 3 then go s else dynamic s i.tile go)

/-- The call joins those in progress. -/
def addCall (s : State) (c : ThrCall) : State :=
  { s with thr := { s.thr with calls := s.thr.calls.filter (callLive s) ++ [c] } }

/-- TOPK (R66): selects the K experts of highest key per token; its chunks follow in the ingress slots. A call of no token, for
which R61 gives no range of N, is taken and is over at once (log entry 106). -/
def execTopk (i : Issue) (s : State) : Out := thrCall 1 i s (fun s c _ => if c.n = 0 then s else addCall s c)

/-- GTOPK (R69). -/
def execGtopk (i : Issue) (s : State) : Out := thrCall 2 i s (fun s c _ => if c.n = 0 then s else addCall s c)

/-! ## Sort -/

/-- An element put before the first of larger key (stable when inserted from the right, R77). -/
def sortInsert (x : Nat × Nat × Nat) : List (Nat × Nat × Nat) → List (Nat × Nat × Nat)
  | [] => [x]
  | y :: ys => if x.1 ≤ y.1 then x :: y :: ys else y :: sortInsert x ys

/-- (key, value, input index) triples, ascending by key and stable (R77). -/
def stableSort (l : List (Nat × Nat × Nat)) : List (Nat × Nat × Nat) := l.foldr sortInsert []

/-- The output of a KVSORT (R77, R78). -/
def sortOutput (kb : Nat) (dedup : Bool) (keys vals : List Nat) : List Byte :=
  let n := keys.length
  let srt := stableSort (keys.zip (vals.zip (List.range n)))
  if dedup then
    let us := srt.foldr (fun e (a : List (Nat × Nat × Nat)) => match a with
      | [] => [(e.1, 1, e.2.1)]
      | u :: r => if u.1 = e.1 then (e.1, u.2.1 + 1, e.2.1) :: r else (e.1, 1, e.2.1) :: u :: r) []
    let pad := n - us.length
    leBytes kb us.length
      ++ us.flatMap (fun u => leBytes kb u.1) ++ List.replicate (pad * kb) 0xFF
      ++ us.flatMap (fun u => leBytes 4 u.2.1) ++ List.replicate (pad * 4) 0
      ++ us.flatMap (fun u => leBytes 4 u.2.2) ++ List.replicate (pad * 4) 0
      ++ keys.flatMap (fun k => leBytes 4 ((us.findIdx? (fun u => u.1 == k)).getD 0))
  else srt.flatMap (fun e => leBytes kb e.1) ++ srt.flatMap (fun e => leBytes 4 e.2.1)

/-- ⌈log16 of the number of runs of 256⌉ (R79). -/
def sortPasses (n : Nat) : Nat :=
  let r := (n + 255) / 256
  if r ≤ 1 then 0 else if r ≤ 16 then 1 else 2

/-- ⌈N ÷ w⌉ ACLK of one pass of a sort (R79). -/
def sortRows (c : ThrCall) : Nat := let w := if c.key64 then 16 else 32; (c.n + w - 1) / w

/-- The output of a KVSORT call from its source bytes. -/
def sortOf (c : ThrCall) (bs : List Byte) : List Byte :=
  let kb := if c.key64 then 8 else 4
  sortOutput kb c.dedup (codesOfBytes kb (bs.take (c.n * kb))) (codesOfBytes 4 (bs.drop (c.n * kb)))

/-- KVSORT (R77 to R79): a stable sort by key, with optional deduplication; its source follows in the ingress slots. -/
def execKvsort (i : Issue) (s : State) : Out := thrCall 3 i s (fun s c _ => addCall s c)

/-! ## Streams -/

/-- S_OPEN (R80): prepares a context in its issue ACLK. -/
def execSOpen (i : Issue) (s : State) : Out :=
  thrCall 4 i s (fun s c w =>
    { s with
      thr := { s.thr with
        streams := NMap.put s.thr.streams (c.unit * 4 + c.ctx) ⟨c.part, c.tile, c.k, fld w 255 192, []⟩ } })

/-- The FP32 codes of scores in a call's format (R65). -/
def scoreCodes (fmt n : Nat) (bs : List Byte) : List Nat :=
  match fmtOfCode fmt with
  | some f => (decodeTensor f n bs).map (encFP32 none false)
  | none => []

/-- A stream takes scores: the K highest since S_OPEN stay, in rank order (R80). -/
def streamPush (x : Stream) (ss : List Nat) : Stream :=
  { x with
    nextId := (x.nextId + ss.length) % 2 ^ 64,
    ents := ((List.range ss.length).zip ss).foldl
      (fun es e => (rankInsert ((x.nextId + e.1) % 2 ^ 64, e.2) es).take x.k) x.ents }

/-- Scores that enter a stream per ACLK (R80). -/
def pushRate (fmt : Nat) : Nat := if fmt = 4 then 32 else if fmt = 5 then 16 else 8

/-- S_PUSH (R80): feeds N scores into an open context; they follow in the ingress slots. -/
def execSPush (i : Issue) (s : State) : Out :=
  thrCall 5 i s (fun s c _ => addCall s { c with endAt := s.clk.aclk + (c.n + pushRate c.fmt - 1) / pushRate c.fmt })

/-- The bytes of a flush (R81). -/
def flushBytes (x : Stream) : List Byte :=
  leBytes 16 x.ents.length ++ x.ents.flatMap (fun e => leBytes 8 e.1 ++ leBytes 4 e.2 ++ leBytes 4 0)
    ++ (List.range (x.k - x.ents.length)).flatMap (fun _ => leBytes 8 (2 ^ 64 - 1) ++ leBytes 4 0x7FC00000 ++ leBytes 4 0)

/-- A flush of a context as a call in progress. -/
def startFlush (s : State) (c : ThrCall) : State :=
  match NMap.find s.thr.streams (c.unit * 4 + c.ctx) with
  | none => s
  | some x => addCall s { c with ret := flushBytes x, retReady := s.clk.aclk + (x.k + 3) / 4 + 8 }

/-- S_FLUSH (R81): writes the context's entries to the destination without changing them. -/
def execSFlush (i : Issue) (s : State) : Out := thrCall 6 i s (fun s c _ => startFlush s c)

/-- S_CLOSE (R81): flushes and, as the flush completes, frees the context. -/
def execSClose (i : Issue) (s : State) : Out := thrCall 7 i s (fun s c _ => startFlush s c)

/-! ## Bias banks -/

/-- BIAS_LOAD (R67, R473): its entries follow in the ingress slots, from 2 ACLK after issue. -/
def execBiasLoad (i : Issue) (s : State) : Out := thrCall 8 i s (fun s c _ => addCall s c)

/-- A call of a unit replaced. -/
def setCall (s : State) (c : ThrCall) : State :=
  { s with thr := { s.thr with calls := s.thr.calls.map (fun x => if x.unit = c.unit ∧ x.tag = c.tag then c else x) } }

/-! ## Source transfers -/

/-- The bytes of a source transfer of a call: elements in order, an S_PUSH chunk of BSI8 with its 8 scale bytes (R63). -/
def transferData (s : State) (c : ThrCall) : List Byte :=
  if c.op = 5 ∧ c.fmt = 4 then
    let n := min 256 (c.n - 256 * c.sent)
    readBuf s c.tile c.src (256 * c.sent) n ++ readBuf s c.tile c.src (c.n + 8 * c.sent) (n / 32)
  else readBuf s c.tile c.src (transferBytes c * c.sent) (min (transferBytes c) (c.srcLen - transferBytes c * c.sent))

/-- A source transfer of a BIAS_LOAD: up to 64 entries are written; the acknowledge line is ready in the ACLK after the last
(R473). -/
def biasArrives (s : State) (c : ThrCall) (bs : List Byte) : State :=
  let es := codesOfBytes 4 bs
  let b0 := (c.unit * 2 + c.bank) * 16384 + 64 * c.sent
  let s := { s with thr := { s.thr with
    bias := ((List.range es.length).zip es).foldl (fun m e => NMap.set (fun _ => 0) m (b0 + e.1) e.2) s.thr.bias } }
  let c := { c with sent := c.sent + 1 }
  setCall s (if c.sent < transfersOf c then c
    else { c with ret := padTo 64 (leBytes 4 c.n ++ [BitVec.ofNat 8 c.bank]), retReady := s.clk.aclk + 1 })

/-- A source transfer of an S_PUSH: its scores enter the context (R80). -/
def pushArrives (s : State) (c : ThrCall) (bs : List Byte) : State :=
  let k := c.unit * 4 + c.ctx
  let n := min (if c.fmt = 4 then 256 else if c.fmt = 5 then 128 else 64) (c.n - c.sent * (if c.fmt = 4 then 256 else if c.fmt = 5 then 128 else 64))
  match NMap.find s.thr.streams k with
  | none => s
  | some x =>
    let s := inc64 s (pgThr c.unit + 0x58) n
    let s := { s with thr := { s.thr with streams := NMap.put s.thr.streams k (streamPush x (scoreCodes c.fmt n bs)) } }
    setCall s { c with
      sent := c.sent + 1, endAt := max c.endAt (s.clk.aclk + (n + pushRate c.fmt - 1) / pushRate c.fmt) }

/-- A source transfer of a KVSORT: with the last, the output is formed; its last return transfer is ready by R79, and not before
the passes after the intake (log entry 106). -/
def sortArrives (s : State) (c : ThrCall) : State :=
  let c := { c with sent := c.sent + 1 }
  if c.sent < transfersOf c then setCall s c
  else
    let p := sortPasses c.n
    let ready := max (c.issueAt + (2 + p) * sortRows c + 24) (s.clk.aclk + (1 + p) * sortRows c + 24)
    setCall (inc64 s (pgThr c.unit + 0x50) c.n)
      { c with ret := sortOf c (readBuf s c.tile c.src 0 c.srcLen), retReady := ready }

/-- The ingress slot of an ACLK carries the next source transfer of the oldest call of its tile, unless a chunk has taken it
(R62, R473). -/
def sourceTick (s : State) (u : Nat) : State :=
  let q := slotTile s.thr.ingress u s.clk.aclk
  if s.thr.slotUsed.contains u then s
  else
    match (unitCalls s u).find? (fun c => c.tile % 15 == q && decide (c.sent < transfersOf c ∧ c.srcAt ≤ s.clk.aclk)) with
    | none => s
    | some c =>
      let s := { s with thr := { s.thr with slotUsed := s.thr.slotUsed ++ [u] } }
      if c.op = 8 then biasArrives s c (transferData s c)
      else if c.op = 5 then pushArrives s c (transferData s c) else sortArrives s c

/-! ## Intake -/

/-- Scores of a chunk by format code (R63). -/
def chunkScores (fmt : Nat) : Nat := if fmt = 4 then 256 else if fmt = 5 then 128 else 64

/-- ACLK of the second stage of GTOPK that a token occupies (R74). -/
def stageAclk (c : ThrCall) : Nat :=
  if c.op = 2 then (c.topGroups * (c.nExp / max 1 c.nGroups) + 255) / 256 else 0

/-- The ACLK in which a token whose last chunk arrives now enters the gate stage, and the ACLK from which the second stage and the
gate stage take the next token (R73, R74). -/
def gateEntry (s : State) (c : ThrCall) : Nat × Nat × Nat :=
  let at8 := s.clk.aclk + 8
  let st := max at8 (NMap.get (fun _ => 0) s.thr.stageFree c.unit)
  let stEnd := st + stageAclk c
  let g0 := if c.op = 2 then stEnd + 4 + (if c.gscore then 3 else 0) else at8
  let g := max g0 (NMap.get (fun _ => 0) s.thr.gateFree c.unit)
  (g, if c.op = 2 then stEnd else NMap.get (fun _ => 0) s.thr.stageFree c.unit, g + (if c.k ≤ 8 then 1 else 2))

/-- The ACLK in which the decisions of ranks 4j to 4j + 3 of a token are written to the egress buffer: the gate stage's entry is
the c + 8 of R73's table, and the last decision of K from 9 to 16 is written 13 ACLK after it. -/
def writtenAt (k g j : Nat) : Nat := if k > 8 ∧ 4 * j + 4 ≥ k then g + 13 else g + 10 + j

/-- A token's decisions on their way out, four per ACLK (R72, R73). -/
def outsOf (c : ThrCall) (g : Nat) (recs : List Nat) : List ThrOut :=
  let gs := chunks 4 recs
  ((List.range gs.length).zip gs).map (fun p =>
    ⟨c.unit, c.tile, c.part, c.tag, writtenAt c.k g p.1, p.2, p.1 + 1 == gs.length⟩)

/-- The biases of a call's bank. -/
def biasesOf (s : State) (c : ThrCall) : List Nat :=
  (List.range c.nExp).map (fun e => NMap.get (fun _ => 0) s.thr.bias ((c.unit * 2 + c.bank) * 16384 + e))

/-- A token's last chunk has arrived: its selection is made and counted, and its decisions leave (R66 to R74). -/
def tokenDone (s : State) (c : ThrCall) (pos : Nat) (scores : List Nat) : State :=
  let pg := pgThr c.unit
  let r := select c pos scores (biasesOf s c)
  let e := gateEntry s c
  let s := inc64 s (pg + 0x40) 1
  let s := if r.ties = 0 then s else incSat s (pg + 0x70) r.ties
  let s := if r.nan then evt (incSat s (pg + 0x74) 1) pg 2 else s
  { s with thr := { s.thr with
    outs := s.thr.outs ++ outsOf c e.1 r.recs, stageFree := NMap.set (fun _ => 0) s.thr.stageFree c.unit e.2.1,
    gateFree := NMap.set (fun _ => 0) s.thr.gateFree c.unit e.2.2 } }

/-- A parity error in a chunk or in the sort buffer (R82): counted, and the step poisons. -/
def thrParity (s : State) (u part : Nat) : State :=
  poison (errIn (evt (incSat s (pgThr u + 0x7C) 1) (pgThr u) 3) (pgThr u) 0x030C (some part) 0) part 0x030C

/-- A chunk that names no call of TOPK or GTOPK in progress (R82): the parity of a source transfer of another call, or a fault
whose descriptor is unknown, so that THR_FAULT_DESC keeps 0 and the sending tile's partition ends its step (log entry 106). -/
def strayChunk (s : State) (u part tag parity : Nat) : State :=
  match (unitCalls s u).find? (fun c => c.tag == tag && decide (c.sent < transfersOf c)) with
  | some c => if parity = 1 then thrParity s u c.part else thrFault s u c.desc c.part 0x0305
  | none => thrFault s u 0 part 0x0305

/-- THR_INGRESS_CHUNK (R63 to R72): a chunk of tile `t` for the call with `tag` arrives in this ACLK, with the token's
position, the chunk index and the chunk's bytes. `parity` is 1 where the chunk's parity is wrong, 2 where that of a
bias entry it needs is. A slot carries one transfer. -/
def execThrIngressChunk (t tag pos idx : Nat) (data : List Byte) (parity : Nat) (s : State) : Out :=
  if t ≥ 120 then .next s
  else
    let u := thrUnit t
    let pg := pgThr u
    let taken := s.thr.slotUsed.contains u
    let s := { s with thr := { s.thr with slotUsed := s.thr.slotUsed ++ [u] } }
    let part := (getTile s t).fg.part
    if slotTile s.thr.ingress u s.clk.aclk ≠ t % 15 ∨ taken then .next (thrFault s u 0 part 0x0306)
    else
      match (unitCalls s u).find? (fun c => c.tag == tag && c.op ≤ 2) with
      | none => .next (strayChunk s u part tag parity)
      | some c =>
        let f := fun (s : State) => thrFault s u c.desc c.part
        let tok := (c.toks.find? (fun x => x.pos == pos)).getD ⟨pos, 0, []⟩
        let new := !c.toks.any (fun x => x.pos == pos)
        let inUnit := ((unitCalls s u).map (fun x => x.toks.length)).sum
        let inPart := (((unitCalls s u).filter (fun x => x.part == c.part)).map (fun x => x.toks.length)).sum
        let cs := chunkScores c.fmt
        let m := min cs (c.nExp - idx * cs)
        if pos ≥ c.n ∨ c.done.contains pos ∨ idx ≠ tok.next then .next (f s 0x0305)
        else if new ∧ (inUnit ≥ 16 ∨ inPart ≥ 4 * popcount 4 (getPart s c.part).thrTags) then .next (f s 0x0302)
        else if parity = 1 then .next (thrParity s u c.part)
        else if parity = 2 ∧ c.biasEn then
          let s := evt (evt (incSat s (pg + 0x7C) 1) pg 3) pg 4
          let s := { s with thr := { s.thr with badBank := NMap.set (fun _ => false) s.thr.badBank (u * 2 + c.bank) true } }
          .next (f s 0x0308)
        else
          let tok := { tok with next := idx + 1, scores := tok.scores ++ scoreCodes c.fmt m data }
          let others := c.toks.filter (fun x => x.pos != pos)
          if idx * cs + m < c.nExp then .next (setCall s { c with toks := others ++ [tok] })
          else
            let c' := { c with toks := others, done := c.done ++ [pos] }
            .next (tokenDone (setCall s c') c' pos tok.scores)

/-! ## Egress -/

/-- Records of a partition in a die's egress buffer. -/
def egressUsed (s : State) (die part : Nat) : Nat :=
  (s.thr.egress.filter (fun e => e.die == die && e.part == part)).length

/-- DECISION_EGRESS (R72, R73, R75, R76): the oldest decisions of a unit that have reached the die edge, up to four of one token,
are written into its partition's share; a decision that finds the share full is discarded and faults its call. THR_DECISIONS
counts a discarded decision too: the Thresher has emitted it (log entry 106). -/
def execDecisionEgress (u : Nat) (s : State) : Out :=
  match s.thr.outs.find? (fun o => o.unit == u) with
  | none => .next s
  | some o =>
    if s.clk.aclk < o.at' then .next s
    else
      let die := u / 4
      let room := (getPart s o.part).egress * 256 - egressUsed s die o.part
      let s := { s with
      thr := { s.thr with
        outs := s.thr.outs.erase o,
        egress := s.thr.egress ++ (o.recs.take room).map (fun r => ⟨die, o.part, r⟩) } }
      let s := inc64 s (pgThr u + 0x48) o.recs.length
      match s.thr.calls.find? (fun c => c.unit == u && c.tag == o.tag && c.op ≤ 2) with
      | none => .next s
      | some c =>
        if o.recs.length > room then .next (thrFault s u c.desc c.part 0x030A)
        else if !o.last then .next s
        else if c.left + 1 ≥ c.n then .next { s with thr := { s.thr with calls := s.thr.calls.erase c } }
        else .next (setCall s { c with left := c.left + 1 })

/-- THR_RETURN_TRANSFER (R473): the next 64 bytes of a call's output leave in a return slot of the calling tile, one transfer a
slot, and land;
with the last the call completes. A parity error in the sort buffer poisons the step (R82). -/
def execThrReturnTransfer (u tag : Nat) (parityBad : Bool) (s : State) : Out :=
  match (unitCalls s u).find? (fun c => c.tag == tag && !c.ret.isEmpty) with
  | none => .next s
  | some c =>
    let last := c.ret.length ≤ 64
    if slotTile s.thr.return' u s.clk.aclk ≠ c.tile % 15 ∨ s.thr.retUsed.contains u
        ∨ (last ∧ s.clk.aclk < c.retReady) then .next s
    else if parityBad ∧ c.op = 3 then
      .next (thrParity s u c.part)
    else
      let s := { s with thr := { s.thr with retUsed := s.thr.retUsed ++ [u] } }
      let s := writeBuf s c.tile c.dst c.retOff (c.ret.take 64)
      if last then
        let k := u * 4 + c.ctx
        let s := { s with
        thr := { s.thr with
          calls := s.thr.calls.erase c,
          streams := if c.op = 7 then NMap.del s.thr.streams k else s.thr.streams,
          badBank := if c.op = 8 then NMap.set (fun _ => false) s.thr.badBank (u * 2 + c.bank) false else s.thr.badBank } }
        .next s
      else .next (setCall s { c with ret := c.ret.drop 64, retOff := c.retOff + 64 })

end Sys2Proof.Machine
end

