-- ==== Sys2Proof/Machine/Sync.lean ====
section
/-!
DEFINITION. The sync slot and the sequencer: arming, waits, releases, loops, jumps, commits and the end of a tile's
part of the step (R289 to R303, R332).
-/

namespace Sys2Proof.Machine

open Sys2Proof Sys2Proof.Config

/-- Staging KiB that a partition's tokens hold (R107). -/
def stagingUsed (s : State) (part : Nat) : Nat :=
  ((s.sheaf.insts.filter (fun i => i.part == part)).flatMap (fun i =>
    (i.staged.filter (fun t => !t.freed)).map (fun t => t.kib))).sum

/-- The free room that satisfies a credit counter: egress records or staging KiB of the partition (R75, R107, R298). -/
def creditRoom (s : State) (part t kind : Nat) : Nat :=
  let p := getPart s part
  if kind = 1 then p.egress * 256 - egressUsed s (t / 60) part
  else p.staging * 256 - stagingUsed s part

/-- A counter is satisfied (R21, R298). -/
def satisfied (s : State) (part t : Nat) (k : Ctr) : Bool :=
  if k.kind = 0 then k.value ≥ k.target else creditRoom s part t k.kind ≥ k.target

/-- The mask of a sync slot's fields: the opcode and what the instruction uses. -/
def syncMask (fields : Nat) : Nat := 0xFF000000 + fields

end Sys2Proof.Machine

namespace Sys2Proof

open Sys2Proof.Machine

/-- Counter number of a sync slot. -/
def Issue.ctr (i : Issue) : Nat := fld i.w 23 19

end Sys2Proof

namespace Sys2Proof.Machine

open Sys2Proof Sys2Proof.Config

/-- An ARM or REL: matched against the abandoned run in a replay, where its counter keeps its value, else counted
(R334). -/
def counterEvent (s : State) (t : Nat) (eff : State → State) : State :=
  let c := (getTile s t).fg
  if c.syncMatched > 0 then setFg s t { c with syncMatched := c.syncMatched - 1, syncs := c.syncs + 1 }
  else eff (setFg s t { c with syncs := c.syncs + 1 })

/-- ARM (R298, R299): arms a data buffer, a ring or a credit counter with its target. -/
def execArm (i : Issue) (s : State) : Out :=
  issued s i (syncMask 0x00FE0000) (fun s => counterEvent s i.tile (fun s =>
    let c := (getTile s i.tile).fg
    let r := leNat (descOf s i (fld i.w 18 17) 16)
    let kind := fld r 17 16
    let k := i.ctr
    let old := getCtr c k
    let target := if bit r 18 then lcGet c (fld r 21 19) else fld r 63 32
    let ha := fld r 7 0
    let hb := fld r 15 8
    let def' := fun h => NMap.get (fun _ => 0) c.handles h != 0
    if 9216 ≤ i.dline ∨ kind = 3 ∨ fld r 23 22 ≠ 0 ∨ fld r 31 24 ≠ 0 ∨ fld r 127 64 ≠ 0 then callFault s i.tile 0x0206 0
    else if (k = 31) ≠ (kind = 1) ∨ (k = 30) ≠ (kind = 2) ∨ (old.armed ∧ !satisfied s c.part i.tile old) then
      callFault s i.tile 0x0211 0
    else if kind = 0 ∧ (!def' ha || (hb != 0 && !def' hb)
        || Nat.land (Nat.lor (hMask (NMap.get (fun _ => 0) c.handles ha)) (hMask (NMap.get (fun _ => 0) c.handles hb)))
             (blockedBanks s i) != 0) then callFault s i.tile 0x0201 0
    else
      grnPump (setFg s i.tile (setCtr c k
        { armed := true, kind := kind, value := 0, target := target, handleA := ha, handleB := hb,
          released := 0, cause := 0 }))))

/-- A wait passes: at once if its counter is satisfied, counted as an early arrival; else the sequencer holds (R22). -/
def waitOn (s : State) (t k : Nat) (lc : Option Nat) (ok : Bool) : State :=
  if ok then incSat s (pgTile t + 0xB8) 1
  else
    let x := getTile s t
    setTile s t { x with fg := { x.fg with waiting := some (k, lc), readyAt := none, held := 0 } }

/-- WAIT (R22): holds the sequencer until a counter is satisfied. -/
def execWait (i : Issue) (s : State) : Out :=
  issued s i (syncMask 0x00F80000) (fun s =>
    let c := (getTile s i.tile).fg
    let k := getCtr c i.ctr
    if !k.armed then callFault s i.tile 0x0211 0
    else waitOn s i.tile i.ctr none (satisfied s c.part i.tile k))

/-- Completed iterations of the loop on a register; 0 outside it (R299). -/
def iterations (c : Ctx) (r : Nat) : Nat :=
  match loopOn c r with
  | some l => l.done
  | none => 0

/-- WAITI (R299): waits until a counter exceeds the completed iterations of a loop. -/
def execWaiti (i : Issue) (s : State) : Out :=
  issued s i (syncMask 0x00FF0000) (fun s =>
    let c := (getTile s i.tile).fg
    let k := getCtr c i.ctr
    if !k.armed then callFault s i.tile 0x0211 0
    else waitOn s i.tile i.ctr (some (fld i.w 18 16)) (k.value > iterations c (fld i.w 18 16)))

/-- REL (R299): releases the oldest landed ring element and re-arms it. -/
def execRel (i : Issue) (s : State) : Out :=
  issued s i (syncMask 0x00F80000) (fun s => counterEvent s i.tile (fun s =>
    let c := (getTile s i.tile).fg
    let k := getCtr c i.ctr
    if !k.armed ∨ k.handleB = 0 ∨ k.value ≤ k.released then callFault s i.tile 0x0211 0
    else grnPump (setFg s i.tile (setCtr c i.ctr { k with released := k.released + 1 }))))

/-- FENCE (R253): pending until the issuer's outstanding counter is zero, when its counter advances. -/
def execFence (i : Issue) (s : State) : Out :=
  issued s i (syncMask 0x00F80000) (fun s =>
    let x := getTile s i.tile
    { s with atom := { s.atom with fences := s.atom.fences ++ [⟨i.tile, false, x.fg.part, i.ctr⟩] } })

/-- SETLC (R291): writes a loop count register. -/
def execSetlc (i : Issue) (s : State) : Out :=
  issued s i (syncMask 0x00FFFFFF) (fun s =>
    let c := (getTile s i.tile).fg
    if bit i.w 20 then
      let h := resolve c (fld i.w 7 0)
      if fld i.w 19 8 ≠ 0 then callFault s i.tile 0x0206 0
      else if !bufOk s i h 0 4 then callFault s i.tile 0x0201 0
      else setFg s i.tile (lcSet c (fld i.w 23 21) (leNat (readBuf s i.tile h 0 4)) s.clk.aclk)
    else setFg s i.tile (lcSet c (fld i.w 23 21) (fld i.w 19 0) s.clk.aclk))

/-- The register that a LOOP or JNZ reads was written at least 3 ACLK before (R290). -/
def lcSettled (s : State) (c : Ctx) (r : Nat) : Bool := c.lcAt.getD r 0 + 3 ≤ s.clk.aclk

/-- The bundle after one that ends loops (R290, R291): each loop that ends there, the innermost first, has its register
decremented, and runs again while it holds more; else the loop is left. -/
def closeLoops (aclk : Nat) : List Loop → Ctx → Ctx
  | [], c => { c with loops := [], pc := c.pc + 1 }
  | l :: ls, c =>
    if l.last ≠ c.pc then { c with loops := l :: ls, pc := c.pc + 1 }
    else
      let v := (lcGet c l.reg + 0xFFFFFFFF) % 2 ^ 32
      let c := lcSet c l.reg v aclk
      if v = 0 then closeLoops aclk ls c else { c with loops := { l with done := l.done + 1 } :: ls, pc := l.first }

/-- The sequencer goes on from a bundle (R290); `delay` is the transfer that was under way when the bundle issued, which takes
effect after its second delay bundle and leaves the loops that do not hold its target. -/
def advance (c : Ctx) (delay : Option (Nat × Nat)) (aclk : Nat) : Ctx :=
  match delay with
  | none => closeLoops aclk c.loops c
  | some (t, k) =>
    if k ≤ 1 then { c with jump := none, pc := t, loops := c.loops.filter (fun l => l.first ≤ t && t ≤ l.last) }
    else { closeLoops aclk c.loops c with jump := some (t, k - 1) }

/-- LOOP (R290): repeats the next B bundles as many times as its register holds; a count of 0 skips them. Loops
that end inside one another end in order. -/
def execLoop (i : Issue) (s : State) : Out :=
  issued s i (syncMask 0x00FFF000) (fun s =>
    let c := (getTile s i.tile).fg
    let r := fld i.w 23 21
    let n := fld i.w 20 12 + 1
    let last := c.pc + n
    if n > 512 ∨ c.loops.length ≥ 4 ∨ !lcSettled s c r ∨ c.jump.isSome ∨ last ≥ c.codeBundles
        ∨ c.loops.any (fun l => l.last < last) then callFault s i.tile 0x020F 0
    else if lcGet c r = 0 then setFg s i.tile { c with pc := last }
    else setFg s i.tile { c with loops := { reg := r, first := c.pc + 1, last := last, done := 0 } :: c.loops })

/-- A transfer to a bundle after two delay bundles (R290); the target lies within the code and its code pair names
at most one descriptor line (R286). -/
def transfer (s : State) (t target : Nat) : State :=
  let c := (getTile s t).fg
  let line := fun b => fld (leNat (readSram s t (c.progBank * 0x90000 + 32 * b) 32)) 255 242
  let k := target / 2 * 2
  let a := line k
  let b := line (k + 1)
  if target ≥ c.codeBundles ∨ c.jump.isSome ∨ (a ≠ 0x3FFF ∧ b ≠ 0x3FFF ∧ a ≠ b) then callFault s t 0x020F 0
  else setFg s t { c with jump := some (target, 2) }

/-- JUMP (R290). -/
def execJump (i : Issue) (s : State) : Out :=
  issued s i (syncMask 0x00007FFF) (fun s => transfer s i.tile (fld i.w 14 0))

/-- JNZ (R290): jumps when its loop count register is not 0. -/
def execJnz (i : Issue) (s : State) : Out :=
  issued s i (syncMask 0x00E07FFF) (fun s =>
    let c := (getTile s i.tile).fg
    if !lcSettled s c (fld i.w 23 21) then callFault s i.tile 0x020F 0
    else if lcGet c (fld i.w 23 21) = 0 then s
    else transfer s i.tile (fld i.w 14 0))

/-- COMMIT (R302, R317): ends a layer on the tile; layer indices ascend strictly. -/
def execCommit (i : Issue) (s : State) : Out :=
  issued s i (syncMask 0x0000FFFF) (fun s =>
    let c := (getTile s i.tile).fg
    let l := fld i.w 15 0
    if c.lastLayer.any (fun p => decide (l ≤ p)) then callFault s i.tile 0x0213 0
    else setFg s i.tile { c with committing := some l })

/-- The tiles of a partition's running step have all completed COMMIT of a layer, or run no code (R332). -/
def layerDone (s : State) (n l tiles : Nat) : Bool :=
  (tilesOf tiles).all (fun t =>
    (partCtxs s n t).any (fun e => e.2.parts.any (fun p => decide (p.layer ≥ l)) || e.2.ended))

/-- The restart record of a COMMIT (R332): the last two and the one for ENTRY are kept. -/
def keepRestart (c : Ctx) (l pc : Nat) : List Restart :=
  let e := c.restarts.filter (fun r => r.layer.isNone)
  let cs := (c.restarts.filter (fun r => r.layer.isSome)).take 1
  { layer := some l, pc := pc, lc := c.lc, ctrs := c.ctrs, effects := c.effects, syncs := c.syncs } :: cs ++ e

/-- What the commit of a layer by every tile publishes: tallies and Husk records (R302, R332, R441). -/
def publishLayer (s : State) (n l : Nat) (st : Step) : State :=
  let ps := (List.range 120).filterMap (fun t => (partOfLayer s n t l).map (fun p => (t, p)))
  let b := pgLodge + 0x160 + 0x20 * n
  let recs := regN s (b + 0x18) % 2 ^ 24
  let s := ps.foldl (fun s q => q.2.husk.foldl (fun s h => (jobPut s 0 n h.addr h.new).2) s) s
  let s := ps.foldl (fun s q =>
    if recs = 0 ∨ !q.2.tally.used then s
    else
      let y := q.2.tally
      let k := regN s (b + 0x1C)
      let bs := leBytes 4 st.num ++ leBytes 2 l ++ leBytes 2 q.1 ++ leBytes 8 y.chaffIn ++ leBytes 8 y.chaffZeroed
        ++ leBytes 4 y.present ++ leBytes 4 y.absent ++ leBytes 4 y.predicted ++ leBytes 4 y.sampled
        ++ leBytes 4 y.misses ++ leBytes 4 y.fetched ++ leBytes 2 y.dense ++ leBytes 2 y.recomputes
        ++ List.replicate 8 0
      let s := ringWrite s n (pairN s (b + 0x10)) k (bs ++ leBytes 4 (crc32c bs))
      let s := setRegN s (b + 0x1C) ((k + 1) % recs)
      let p := getPart s n
      setPart s n { p with
      steps := p.steps.map (fun x => if x.num = st.num then
        { x with tallyFirst := if x.tallyCount = 0 then k else x.tallyFirst, tallyCount := x.tallyCount + 1 } else x) }) s
  let s := { s with kept := s.kept.filter (fun u => u.part != n) }
  let p := getPart s n
  setPart s n { p with
  steps := p.steps.map (fun x => if x.num = st.num then
    { x with layersDone := x.layersDone ++ [l], layerReplays := 0 } else x) }

/-- Operations of a tile that are not complete (R302): expert steps, Granary STOREs, Thresher calls, RECV windows, passes, and the
vector and DMA operations that still own banks. Buffers that are armed for later, and the requests that feed them, are not
among them: they may outlast the layer and the step (R303; log entry 116). -/
def opsLive (s : State) (t : Nat) : Bool :=
  let x := getTile s t
  !x.fg.husk.isEmpty || s.grn.reqs.any (fun r => r.tile == t && !r.bg && r.op == 3)
    || s.thr.calls.any (fun c => c.tile == t && c.part == x.fg.part && callLive s c)
    || s.grn.stores.any (fun r => r.tile == t && !r.bg && r.resp.isNone) || !x.fg.windows.isEmpty || !x.passes.isEmpty
    || x.busy.any (fun b => decide (s.clk.aclk ≤ b.2)) || x.huskWait.isSome

/-- COMMIT_COMPLETE (R302, R332): the tile's COMMIT completes once its earlier operations have (one that raised a poison
which is still to halt the partition never does, R333); the restart record is
kept, a layer that is run again is counted once (R336), and the layer commits when every tile has completed it. -/
def execCommitComplete (t : Nat) (s : State) : Out :=
  let x := getTile s t
  let c := x.fg
  match c.committing, stepOf s t with
  | some l, some st =>
    let held := match c.lastLayer with
      | some p => !(st.layersDone.contains p)
      | none => false
    let poisoned := st.phase == .halting && (st.damaged.isEmpty || st.damaged.any (fun d => d.1 == t))
    if opsLive s t || held || poisoned then .next s
    else
      let lp : LayerPart := ⟨l, c.crc, c.crcLen, c.tally, c.huskDone, s.clk.aclk - st.startAclk, st.layerReplays != 0⟩
      let c := advance c c.jump s.clk.aclk
      let c := { c with
        committing := none, lastLayer := some l, parts := if c.parts.any (fun p => p.layer == l) then c.parts else c.parts ++ [lp], crc := 0, crcLen := 0, tally := {},
        huskDone := [], restarts := keepRestart c l c.pc }
      let s := setFg s t c
      .next (if layerDone s c.part l st.tiles ∧ !st.layersDone.contains l then publishLayer s c.part l st else s)
  | _, _ => .next s

/-- END (R303): ends the tile's part of the step. -/
def execEnd (i : Issue) (s : State) : Out :=
  issued s i (syncMask 0) (fun s =>
    let c := (getTile s i.tile).fg
    setFg s i.tile { c with ended := true })

/-- The counter that a tile's sequencer is held at is satisfied for its wait (R21, R22, R299). -/
def waitOk (s : State) (t : Nat) : Bool :=
  let c := (getTile s t).fg
  match c.waiting with
  | none => false
  | some (k, some r) => decide ((getCtr c k).value > iterations c r)
  | some (k, none) => satisfied s c.part t (getCtr c k)

/-- The hold of a tile ends (R22): its ACLK settle under the cause of its counter's unit, and the sequencer goes on. -/
def releaseWait (s : State) (t : Nat) : State :=
  let c := (getTile s t).fg
  match c.waiting with
  | none => s
  | some (k, _) =>
    let x := getCtr c k
    let s' := settleHold s t (if x.kind ≠ 0 then 7 else x.cause)
    setFg s' t { advance (getTile s' t).fg c.jump s.clk.aclk with waiting := none, readyAt := none }

/-- The ACLK in which a held wait's counter was first satisfied is noted. -/
def noteReady (s : State) (t : Nat) : State :=
  let c := (getTile s t).fg
  if c.readyAt.isNone ∧ waitOk s t then setFg s t { c with readyAt := some s.clk.aclk } else s

/-- A satisfied wait is over: 2 ACLK after the satisfying unit completed its write (R22), and no stop holds the tile. -/
def waitOver (s : State) (t : Nat) : Bool :=
  let c := (getTile s t).fg
  match c.readyAt with
  | some a => c.waiting.isSome && decide (a + 2 ≤ s.clk.aclk) && !stopHolds s c.part
  | none => false

/-- WAIT_RELEASE (R22): a held sequencer issues its next bundle 2 ACLK after the satisfying unit completed its write; the ACLK
itself releases it then, at the latest. -/
def execWaitRelease (t : Nat) (s : State) : Out := whenOk (waitOver s t) s (releaseWait s t)

/-- What the ACLK does for a held sequencer (R22). -/
def waitTick (s : State) (t : Nat) : State :=
  let s := noteReady s t
  if waitOver s t then releaseWait s t else s

end Sys2Proof.Machine
end

