-- ==== Sys2Proof/Machine/Arrivals.lean ====
section
/-!
DEFINITION. The boundary between the dynamic blocks and the tiles: the die edge, gate slots and arrivals (R21, R22, R24).
-/

namespace Sys2Proof.Machine

open Sys2Proof Sys2Proof.Config

/-- The handle entry of a unit's buffer in its context. -/
def unitHandle (s : State) (u : Unit) : Nat :=
  u.entry.getD (NMap.get (fun _ => 0) (ctxOf s u.tile u.bg).handles u.handle)

/-- The SRAM address range that a unit writes lies in the buffer of an armed, unsatisfied data counter (R24). -/
def directArmed (c : Ctx) (a n : Nat) : Option Nat :=
  (c.ctrs.find? (fun e =>
    let k := e.2
    let inside := fun (h : Nat) =>
      let x := NMap.get (fun _ => 0) c.handles h
      x != 0 && (List.range n).all (fun i => (List.range (hLines x)).any (fun l =>
        lineAddr x l ≤ a + i && a + i < lineAddr x l + 64))
    k.armed && k.kind == 0 && k.value < k.target && (inside k.handleA || (k.handleB != 0 && inside k.handleB)))).map
    (fun e => e.1)

/-- A unit's buffer is armed and not satisfied (R24). A redelivered unit, and a piece that does not advance its
counter, need only the armed buffer; a unit of the host names its counter (R398). -/
def unitArmed (s : State) (u : Unit) : Bool :=
  let c := ctxOf s u.tile u.bg
  match u.direct with
  | some a => match directArmed c a u.data.length with
    | some k => u.cause != 9 || k == u.ctr
    | none => false
  | none =>
    let k := getCtr c u.ctr
    k.armed && (u.again || k.value < k.target)

/-- The unit's context still belongs to the partition that the unit is for. -/
def unitOwned (s : State) (u : Unit) : Bool :=
  let c := ctxOf s u.tile u.bg
  c.live && c.part == u.part

/-- The page of the die-to-die link a unit arrived on; the Granary's own units arrive on none. -/
def linkPage (u : Unit) : Option Nat := if u.link < 3 then some (pgD2d u.link) else none

/-- A response packet with another status (R243). -/
def withStatus (p : Pkt) (st : Nat) : Pkt :=
  let th := setFld p.th 123 120 st
  if p.data then { p with thdr := th } else { p with body := leBytes 16 th ++ p.body.drop 16 }

/-- The H2T entry in progress that a unit's place belongs to. -/
def isH2t (u : Unit) (e : Entry) : Bool :=
  e.opc == 4 && e.started && byteFld e.body 8 9 == u.tile && u.direct == some (byteFld e.body 10 13)

/-- A discarded H2T unit ends its entry with 0x0D0C (R408). -/
def noteH2t (s : State) (u : Unit) : State :=
  if u.cause ≠ 9 then s
  else
    let mark := fun (e : Entry) => if isH2t u e then { e with bad := 0x0D0C } else e
    { s with
      host := { s.host with
        qps := s.host.qps.map (fun e => (e.1, { e.2 with entries := e.2.entries.map mark })) } }

/-- The die edge discards a unit (R24, R369, R455): a memory store is answered NOT_ARMED, and a host transfer fails. -/
def discardUnit (s : State) (u : Unit) : State :=
  let s := match u.ack with
    | some p => send s (withStatus p 7)
    | none => noteH2t s u
  match linkPage u with
  | some pg => evt (incSat s (pg + 0x64) 1) pg 4
  | none => s

/-- The oldest unit of a list that is for a tile. -/
def oldestFor (us : List Unit) (t : Nat) : Option Unit := us.find? (fun u => u.tile == t)

/-- 64-byte lines of a unit; one that only advances a counter takes one. -/
def unitLines (u : Unit) : Nat := max 1 ((u.data.length + 63) / 64)

/-- The gate slot of a tile in the present ACLK (R17, R474): the GATE entry that the frame schedule of a partition's running step gives
it, unless it has carried its line. -/
def gateSlot (s : State) (t n : Nat) : Option FrameEnt :=
  if s.gateUsed.contains t then none
  else
    match ((getPart s n).steps.filter (fun st => st.phase != .queued)).head? with
    | some st => st.frame.find? (fun e => e.kind == 1 && e.dst == t && e.slot == s.clk.aclk % 64)
    | none => none

/-- A unit's next line enters the mesh in a gate slot; with its last line the unit is whole in the mesh, and is written one ACLK
after that line's last hop (R22, R474). -/
def enterLine (s : State) (u : Unit) (e : FrameEnt) : State :=
  let u' := { u with entered := u.entered + 1, due := s.clk.aclk + (framePath s.boot.map e).length }
  let s := { s with gateUsed := u.tile :: s.gateUsed }
  if unitLines u ≤ u'.entered then edgePump { s with edge := s.edge.erase u, mesh := s.mesh ++ [u'] }
  else { s with edge := s.edge.map (fun x => if x = u then u' else x) }

/-- GATE_SLOT_DELIVERY (R17, R24): the next line of the oldest unit held at the die edge for a tile enters the mesh in the tile's
gate slot; outside one the unit is held. A unit that may not be delivered is discarded there. -/
def execGateSlotDelivery (t : Nat) (s : State) : Out :=
  match oldestFor s.edge t with
  | none => .next s
  | some u =>
    let gone := edgePump { s with edge := s.edge.erase u }
    if !unitOwned s u then
      match linkPage u with
      | some pg => .next (errIn (discardUnit gone u) pg 0x0105 (some u.part) 0)
      | none => .next (discardUnit gone u)
    else if !unitArmed s u then .next (tilePoison (discardUnit gone u) t u.part 0x0215)
    else
      match gateSlot s t u.part with
      | some e => .next (enterLine s u e)
      | none => .next s

/-- A unit's bytes written to its place in tile SRAM (R21). -/
def writeUnit (s : State) (u : Unit) : State :=
  match u.direct with
  | some a => writeSram s u.tile a u.data
  | none => if u.data.isEmpty then s else writeBuf s u.tile (unitHandle s u) u.off u.data

/-- The counter that a unit advances. -/
def unitCtr (s : State) (u : Unit) : Nat :=
  match u.direct with
  | some a => (directArmed (ctxOf s u.tile u.bg) a u.data.length).getD 0
  | none => u.ctr

/-- A unit lands: its bytes are written, and its counter advances once it is fully written (R21). -/
def landUnit (s : State) (u : Unit) : State :=
  let k := unitCtr s u
  let s := writeUnit s u
  let s := if u.counts ∧ !u.again then bumpCtr s u.tile u.bg k u.cause else s
  let s := match u.ack with
    | some p => sendMarked (inc64 s (pgAtom + 0x48) 1) p
    | none => s
  { s with kept := s.kept ++ [{ u with ack := none, entered := 0, due := 0 }] }

/-- A unit that fails parity in the mesh is counted and goes back to the die edge, whose block sends its copy again (R135,
R335). -/
def parityReturn (s : State) (t : Nat) (u : Unit) : State :=
  let s := evt (incSat { s with mesh := s.mesh.erase u } (pgTile t + 0xBC) 1) (pgTile t) 1
  toEdge s { u with entered := 0, due := 0 }

/-- ARRIVAL_UNIT_LANDED (R21, R24, R474): the oldest unit in the mesh for a tile finishes its write into its armed buffer, once its
last line has come. A
unit that fails parity is fetched again where it is of weight class, and poisons the step otherwise; either way the
delivering block sends its copy again (R335). -/
def execArrivalUnitLanded (t : Nat) (parityBad : Bool) (s : State) : Out :=
  match oldestFor s.mesh t with
  | none => .next s
  | some u =>
    let s0 := s
    let s := { s with mesh := s.mesh.erase u }
    if s0.clk.aclk < u.due then .next s0
    else if !unitOwned s u then .next (discardUnit s u)
    else if parityBad then
      let s := parityReturn s0 t u
      if u.weight then .next (incSat (incSat s (pgTile t + 0xC8) 1) (pgGrn (t / 60) + 0xC8) 1) else .next (tilePoison s t u.part 0x0207)
    else if !unitArmed s u then .next (tilePoison (discardUnit s u) t u.part 0x0215)
    else .next (grnPump (landUnit s u))

end Sys2Proof.Machine
end

