-- ==== Sys2Proof/Machine/Lender.lean ====
section
/-!
DEFINITION. T2 service and recovery: a lender's answer to GRAIN requests, the borrower's handling of responses, and the
loss of a lender (R181 to R184).
-/

namespace Sys2Proof.Machine

open Sys2Proof Sys2Proof.Config

/-! ## Recovery -/

/-- The job address of the page whose entry lies at a T1 address, found through the partition's directory (R160). -/
def pageOfEntry (s : State) (n ea : Nat) : Nat :=
  match (List.range 32768).find? (fun i =>
    let d := leNat (t1Raw s (dirBase s 0 n + 8 * i) 8)
    bit d 63 && fld d 40 0 ≤ ea && ea < fld d 40 0 + 4096 * 64) with
  | some i => i * 2 ^ 33 + (ea - fld (leNat (t1Raw s (dirBase s 0 n + 8 * i) 8)) 40 0) / 64 * 0x200000
  | none => 0

/-- A grain starts a recovery copy toward a state (R184). -/
def startCopy (s : State) (ea g mid fin n : Nat) : State :=
  let w := entryW s ea
  let s := setEntry s ea (peSetGrain w g mid)
  { s with
    grn := { s.grn with
      copies := s.grn.copies ++ [{ entry := ea, grain := g, target := fin, part := n, die := peOwner w, page := pageOfEntry s n ea, kind := 2 }] } }

/-- A free lease of the partition on a lender other than `d`. -/
def otherLease (s : State) (n d : Nat) : Option Lease := (freeLeases s n).find? (fun l => l.lender != d)

/-- The mirrors of a page exchanged. -/
def swapMirrors (w : Nat) : Nat :=
  setLenderB (setLenderA w (peLenderB w) (peFrameB w)) (peLenderA w) (peFrameA w)

/-- HALF grains of a page are mirrored again: on the page's own second lease where only lines were lost, on a free lease, in T1
within quota, or they stay HALF with an event (R184). -/
def remirror (s : State) (n ea : Nat) (lines : Bool) (gs : List Nat) : State :=
  let w := entryW s ea
  let o := peOwner w
  let again := fun (s : State) (fin : Nat) => gs.foldl (fun s g => startCopy s ea g 7 fin n) s
  if gs.isEmpty then s
  else if lines then again s 3
  else
    match otherLease s n (peLenderA w) with
    | some l => again (bindLease (setEntry s ea (setLenderB w l.lender l.frame)) l ea) 3
    | none => if quotaRoom s o n then again s 1 else evt s (pgGrn o) 4

/-- Clean grains whose copy is lost are filled again: into lender A's frame where `good`, into a leased frame, or into T1 within
quota; where their home is down too, they are lost with it (R184). -/
def refill (s : State) (n ea : Nat) (good : Bool) (gs : List Nat) : State :=
  let w := entryW s ea
  let o := peOwner w
  let again := fun (s : State) (fin : Nat) => gs.foldl (fun s g => startCopy (dropCopy s ea g) ea g 4 fin n) s
  if gs.isEmpty then s
  else if s.grn.down.contains (peHomeDev w) ∧ peHomeDev w ≠ myDev s then
    gs.foldl (fun s g => homeLost (setEntry (dropCopy s ea g) ea (peSetGrain (entryW s ea) g 0)) o n) s
  else
    let s := incSat s (pgGrn o + 0xC8) gs.length
    let s := { s with grn := { s.grn with lostT2 := gs.map (fun g => (ea, g)) ++ s.grn.lostT2 } }
    if good then again s 2
    else
      match (freeLeases s n).head? with
      | some l => again (bindLease (setEntry s ea (setLenderA w l.lender l.frame)) l ea) 2
      | none => again s 1

/-- The copies of grains `gs` of a page on a lender are lost (R183, R184): a survivor becomes mirror A; `lines` says that the
lender itself stays and only these copies are bad. -/
def loseCopies (s : State) (n ea dev : Nat) (lines : Bool) (gs : List Nat) : State :=
  let w := entryW s ea
  let inA := peLenderA w == dev
  let inB := !inA && peLenderB w == dev
  let dirty := peDirty w
  let st := fun (k : Nat) => gs.filter (fun g => peGrain w g == k)
  if !inA && !inB then s
  else
    let swap := inA && !((st 3).isEmpty && (!dirty || (st 6).isEmpty))
    let half := st 3 ++ (if inB then st 7 else [])
    -- single copies of other grains that a swap leaves behind are filled again too
    let single := if swap then (List.range 32).filter (fun g => peGrain w g == 2) else if inA then st 2 else []
    let filling := (st 4).filter (fun g => s.grn.copies.any (fun c => c.entry == ea && c.grain == g && c.target != 1))
    let clean := single ++ (if inA && !dirty then st 7 ++ st 6 ++ filling else [])
    let gone := if inA && dirty then st 7 else []
    let s := (st 5 ++ half ++ gone).foldl (fun s g => dropCopy s ea g) s
    let w' := (st 3).foldl (fun w g => peSetGrain w g 7) (if swap then swapMirrors w else w)
    let s := setEntry s ea ((st 5).foldl (fun w g => peSetGrain w g 1) w')
    let s := if dirty then s else incSat s (pgGrn (peOwner w) + 0xC8) (st 3).length
    let s := remirror s n ea lines half
    let s := refill s n ea (swap || lines) clean
    gone.foldl (fun s g => loseGrain s n ea g (pageOfEntry s n ea + g * 65536)) s

/-- Home requests whose last mirror acknowledgement has come answer now (R182, R245). -/
def finishStores (s : State) : State :=
  let done := s.grn.stores.filter (fun x => x.resp.isSome && x.acks == 0)
  done.foldl (fun s x =>
    let s := { s with grn := { s.grn with stores := s.grn.stores.erase x } }
    match x.resp with
    | some p => sendMarked s p
    | none => s) s

/-- A die's recovery starts its pace now, where it has none under way (R184). -/
def recoverStart (s : State) (d : Nat) : State :=
  let t := max (NMap.get (fun _ => 0) s.grn.recoverAt d) (now s + recoverTime s d)
  { s with grn := { s.grn with recoverAt := NMap.put s.grn.recoverAt d t } }

/-- A lender is lost to this device (R183): all its leases at once, one loss counted; requests in flight to it are
issued again to the mirror or wait for the refill. -/
def lenderLost (s : State) (dev : Nat) : State :=
  let ls := s.grn.leases.filter (fun l => l.lender == dev && !l.lost)
  let s := { s with grn := { s.grn with down := if s.grn.down.contains dev then s.grn.down else s.grn.down ++ [dev] } }
  if ls.isEmpty then s
  else
    let s := recoverStart (recoverStart (evt (incSat s (pgGrn 0 + 0xD0) 1) (pgGrn 0) 1) 0) 1
    let acks := s.grn.t2.filter (fun q => q.lender == dev && q.kind == 1)
    let left := fun (tag n : Nat) => n - (acks.filter (fun q => q.store == tag)).length
    let s := setLeases s (s.grn.leases.map (fun l => if l.lender = dev then { l with lost := true } else l))
    let s := { s with
      grn := { s.grn with
        t2 := s.grn.t2.filter (fun q => q.lender != dev),
        t2buf := s.grn.t2buf.filter (fun b => b.1 != dev),
        copies := s.grn.copies.map (fun c => { c with acks := left c.tag c.acks }),
        stores := s.grn.stores.map (fun x => { x with acks := left x.tag x.acks }) },
      atom := { s.atom with
        out := s.atom.out.filter (fun r => !(r.proto == 7 && r.dev == dev)),
        held := s.atom.held.filter (fun r => !(r.proto == 7 && r.dev == dev)) } }
    let s := ls.foldl (fun s l =>
      match l.page with
      | some ea => loseCopies s l.part ea dev false (List.range 32)
      | none => s) s
    finishStores (grnPump s)

/-! ## Service -/

/-- The response of a lender (R181, R243). -/
def grainAnswer (s : State) (p : Pkt) (op status : Nat) (bs : List Byte) : State :=
  let q := (mkPkt s 7 p.stamp p.srcArb p.src).withTh
    (grainHeader op status (max 4 bs.length) (p.th % 2 ^ 56) true) bs
  send s { q with msgId := p.msgId }

/-- GRAIN_REQUEST (R181, R247, R248, R428): a lender serves a T2 request for a frame recorded with the request's stamp, and drops
any other. -/
def execGrainRequest (s : State) : Out :=
  match takeEjected s (fun p => p.proto == 7 && !bit p.th 56) with
  | none => .next s
  | some (p, s) =>
    let h := p.th
    let op := fld h 127 124
    let a := fld h 47 0
    let f := a / 0x200000
    let mine := NMap.get (fun _ => 0) s.grn.lent f == p.stamp && (NMap.find s.grn.lent f).isSome
    if !mine then .next (incSat s (pgFab + 0x74) 1)
    else match seen s p.srcArb p.src p.msgId with
    | .old => .next (incSat s (pgAtom + 0x70) 1)
    | .dup hdr bs =>
      let q := (mkPkt s 7 p.stamp p.srcArb p.src).withTh hdr bs
      .next (send (incSat s (pgAtom + 0x68) 1) { q with msgId := p.msgId })
    | .fresh =>
      if op = 1 then
        match t1Read s (a / 256 * 256) 256 with
        | (some bs, s) =>
          .next (inc64 (grainAnswer (noteId s p.srcArb p.src p.msgId none) p op 0 bs) (pgGrn (f % 2) + 0x40) 256)
        | (none, s) => .next (grainAnswer (noteId s p.srcArb p.src p.msgId none) p op 5 [])
      else if op = 2 then
        match t1Write s a p.rest with
        | (true, s) =>
          let hdr := grainHeader op 0 4 (p.th % 2 ^ 56) true
          .next (inc64 (grainAnswer (noteId s p.srcArb p.src p.msgId (some (hdr, []))) p op 0 [])
            (pgGrn (f % 2) + 0x48) p.rest.length)
        | (false, s) => .next (grainAnswer (noteId s p.srcArb p.src p.msgId none) p op 5 [])
      else .next (grainAnswer s p op 6 [])

/-- GRAIN_RESPONSE (R182, R183): a borrower receives a lender's response, which completes a read or one mirror's write
acknowledgement; an uncorrectable line is the loss of that grain's copy on that lender. -/
def execGrainResponse (s : State) : Out :=
  match takeEjected s (fun p => p.proto == 7 && bit p.th 56) with
  | none => .next s
  | some (p, s) =>
    match s.atom.out.find? (fun r => r.proto == 7 && r.arb == p.srcArb && r.dev == p.src && r.id == p.msgId) with
    | none => .next (incSat s (pgAtom + 0x6C) 1)
    | some r =>
      let s := settle s r
      match s.grn.t2.find? (fun q => q.tag == r.reply.group) with
      | none => .next s
      | some q =>
        let s := { s with grn := { s.grn with t2 := s.grn.t2.erase q } }
        if fld p.th 123 120 ≠ 0 then .next (grnPump (loseCopies s q.part q.entry q.lender true [q.grain]))
        else if q.kind = 0 then
          .next (grnPump { s with grn := { s.grn with t2buf := s.grn.t2buf ++ [(q.lender, q.addr, p.rest)] } })
        else
          .next (finishStores { s with
          grn := { s.grn with
          copies := s.grn.copies.map (fun c => if c.sent ∧ c.tag = q.store then { c with acks := c.acks - 1 } else c),
          stores := s.grn.stores.map (fun x => if x.tag = q.store then { x with acks := x.acks - 1 } else x) } })

end Sys2Proof.Machine
end

