-- ==== Sys2Proof/Machine/Atom.lean ====
section
/-!
DEFINITION. Memory requests and messages at their issuer and messages at their receiver: RMEM, MSGS, fences, responses,
retries, combining and the protection tables of the issuer (R240 to R254, R295, R296).
-/

namespace Sys2Proof.Machine

open Sys2Proof Sys2Proof.Config

/-! ## The memory header (R243, R244) -/

/-- A memory header. -/
structure MemHdr where
  op : Nat
  fetch : Bool
  comb : Bool
  ty : Nat
  /-- bytes -/
  size : Nat
  mask : Nat
  merged : Nat
  rsv : Nat
  addr : Nat
  deriving DecidableEq, Repr

/-- The memory header of a 128-bit number. -/
def parseMem (h : Nat) : MemHdr :=
  { op := fld h 127 124, fetch := bit h 123, comb := bit h 122, ty := fld h 121 119, size := 4 * (fld h 118 113 + 1),
    mask := fld h 112 81, merged := fld h 80 73, rsv := fld h 72 56, addr := fld h 55 0 }

/-- The header as a number. -/
def MemHdr.num (m : MemHdr) : Nat :=
  m.op * 2 ^ 124 + b2n m.fetch * 2 ^ 123 + b2n m.comb * 2 ^ 122 + m.ty * 2 ^ 119 + (m.size / 4 - 1) * 2 ^ 113
    + m.mask * 2 ^ 81 + m.merged * 2 ^ 73 + m.rsv * 2 ^ 56 + m.addr

/-- The fields of an Arbour address (R238). -/
def MemHdr.dev (m : MemHdr) : Nat := fld m.addr 55 50
def MemHdr.space (m : MemHdr) : Nat := fld m.addr 49 48
def MemHdr.off (m : MemHdr) : Nat := fld m.addr 47 0

/-- Element size of a type (R243, R244): LOAD and STORE move 4-byte words. -/
def MemHdr.elem (m : MemHdr) : Nat :=
  if m.op ≤ 2 then 4 else match m.ty with
    | 2 => 8 | 3 => 8 | 5 => 2 | _ => 4

/-- A request is well formed (R244). -/
def MemHdr.ok (m : MemHdr) : Bool :=
  1 ≤ m.op && m.op ≤ 6 && m.rsv == 0 && m.space != 3
    && (if m.op ≤ 2 then m.ty == 0 else m.ty ≤ 5)
    && m.addr % 4 == 0 && m.addr % m.elem == 0 && m.addr % 256 + m.size ≤ 256 && m.size % m.elem == 0
    && (!m.fetch || m.size ≤ 16) && (m.op != 6 || (m.ty == 3 && m.size == 8))
    && (m.op != 3 || (m.ty != 1 && m.ty != 3))
    && (m.comb || (m.mask == 0 && m.merged == 0))

/-- Operand bytes that follow a request's header. -/
def MemHdr.dataLen (m : MemHdr) : Nat := match m.op with
  | 1 => 0 | 6 => 16 | _ => m.size

/-- Bytes a request returns (R243, R246): FETCH is for ADD, MIN and MAX. -/
def MemHdr.retLen (m : MemHdr) : Nat :=
  if m.op = 6 then 8 else if m.op = 1 ∨ (3 ≤ m.op ∧ m.fetch) then m.size else 0

/-- A response header (R243). -/
def rspHeader (op status ret addr : Nat) : Nat :=
  op * 2 ^ 124 + status * 2 ^ 120 + (ret / 4 - 1) * 2 ^ 114 + addr % 2 ^ 56

/-! ## Checks at the issuer -/

/-- A request's bytes lie in a VALID entry of its partition that grants the operation (R242). -/
def ortGrants (s : State) (part : Nat) (m : MemHdr) : Bool :=
  (List.range 1024).any (fun i =>
    let e := NMap.get (fun _ => 0) s.atom.ort i
    bit e 127 && fld e 126 125 == part && fld e 43 0 ≤ m.addr / 4096 && (m.addr + m.size - 1) / 4096 ≤ fld e 107 64
      && (match m.op with
          | 1 => bit e 124 | 2 => bit e 123 | _ => bit e 122))

/-- A partition runs sender-trusted (R240). -/
def trusted (s : State) (n : Nat) : Bool := bit (regN s (pgAtom + 0x108)) n

/-- The code with which a request is refused at its issuer; 0 for none (R255). -/
def issueCheck (s : State) (part : Nat) (m : MemHdr) : Nat :=
  if !m.ok ∨ m.comb then 0x0A01 else if trusted s part ∧ !ortGrants s part m then 0x0A02 else 0

/-- The records of an RMEM list: header and operand bytes, with the reply offset (R295). -/
def rmemRecords : Nat → List Byte → Nat → List (MemHdr × List Byte × Nat)
  | 0, _, _ => []
  | n + 1, bs, off =>
    let m := parseMem (leNat (bs.take 16))
    let d := (bs.drop 16).take m.dataLen
    (m, d, off) :: rmemRecords n (bs.drop (16 + roundUp m.dataLen 16)) (off + roundUp m.retLen 16)

/-- Bytes of an RMEM list. -/
def rmemBytes (rs : List (MemHdr × List Byte × Nat)) : Nat := (rs.map (fun r => 16 + roundUp r.1.dataLen 16)).sum

/-! ## Issue and combining -/

/-- A memory request as a packet (R243). -/
def memPkt (s : State) (stamp : Nat) (m : MemHdr) (d : List Byte) : Pkt :=
  (mkPkt s 4 stamp (myArb s) m.dev).withTh m.num d

/-- A memory request leaves for its home. -/
def sendMem (s : State) (i : Issuer) (part stamp : Nat) (m : MemHdr) (d : List Byte) (rep : Reply)
    (members : List (Issuer × Reply)) : State :=
  issueReq s {
    arb := myArb s, dev := m.dev, id := 0, proto := 4, part := part, stamp := stamp, issuer := i,
    counted := m.op != 1, pkts := [memPkt s stamp m d], sentAt := 0, tries := 0, reply := rep, members := members }

/-- A posted ADD in one line is eligible for combining (R254). -/
def combinable (s : State) (m : MemHdr) : Bool :=
  !s.det.active && bit (regN s (pgAtom + 0x104)) 0 && m.op == 3 && !m.fetch && m.addr % 64 + m.size ≤ 64

/-- One element added as R246 says. -/
def addElem (ty : Nat) (a b : Nat) : Nat := match ty with
  | 4 => f32Add a b
  | 5 => encBF16 none false (Val.add (decBF16 a) (decBF16 b))
  | 2 => (a + b) % 2 ^ 64
  | _ => (a + b) % 2 ^ 32

/-- Operands joined with those of a combining entry, element by element (R254). -/
def combAdd (ty w : Nat) : List (Nat × List Byte) → NMap Byte → NMap Byte
  | [], m => m
  | (o, bs) :: r, m =>
    let has := (List.range w).all (fun i => (NMap.find m (o + i)).isSome)
    let old := leNat ((List.range w).map (fun i => NMap.get (fun _ => 0) m (o + i)))
    let v := if has then leBytes w (addElem ty old (leNat bs)) else bs
    combAdd ty w r (((List.range w).zip v).foldl (fun m e => NMap.put m (o + e.1) e.2) m)

/-- Bytes cut into elements with their offsets. -/
def elemsAt (w o : Nat) (bs : List Byte) : List (Nat × List Byte) :=
  let es := chunks w bs
  (List.range es.length).zip es |>.map (fun e => (o + e.1 * w, e.2))

/-- A combining entry leaves as one COMB data packet (R254). -/
def sendComb (s : State) (c : Comb) : State :=
  let line := (List.range 64).map (fun i => NMap.get (fun _ => 0) c.vals i)
  let mask := ((List.range 32).map (fun i => if (NMap.find c.vals (2 * i)).isSome then 2 ^ i else 0)).sum
  let m : MemHdr := { op := 3, fetch := false, comb := true, ty := c.ty, size := 64, mask := mask, merged := c.merged,
                      rsv := 0, addr := c.line * 64 }
  let s := { s with atom := { s.atom with combs := s.atom.combs.erase c } }
  match c.members with
  | [] => s
  | x :: _ =>
    issueReq s {
      arb := myArb s, dev := c.dev, id := 0, proto := 4, part := c.part, stamp := c.stamp, issuer := x.1,
      counted := true, pkts := [{ memPkt s c.stamp m [] with data := true, thdr := m.num, body := line }], sentAt := 0,
      tries := 0, reply := {}, members := c.members }

/-- A request of an issuer: forwarded, or joined to a combining entry (R254). -/
def issueMem (s : State) (i : Issuer) (part stamp : Nat) (m : MemHdr) (d : List Byte) (rep : Reply) : State :=
  if !combinable s m then sendMem s i part stamp m d rep []
  else
    let line := m.addr / 64
    let key := fun (x : Nat × Nat × Nat × Nat × Nat) => x.1 == m.dev && x.2.1 == line && x.2.2.1 == m.ty && x.2.2.2.1 == stamp
    let win := regN s (pgAtom + 0x114)
    match s.atom.combs.find? (fun c => c.dev == m.dev && c.line == line && c.ty == m.ty && c.stamp == stamp) with
    | some c =>
      let c' := { c with
        vals := combAdd m.ty m.elem (elemsAt m.elem (m.addr % 64) d) c.vals,
        members := c.members ++ [(i, rep)], merged := c.merged + 1 }
      let s := inc64 { s with atom := { s.atom with combs := s.atom.combs.map (fun x => if x = c then c' else x) } }
        (pgAtom + 0x58) 1
      if c'.merged ≥ 255 then sendComb s c' else s
    | none =>
      match s.atom.fwd.find? key with
      | some x =>
        if fclk s ≤ x.2.2.2.2 + win then
          { s with
          atom := { s.atom with
          combs := s.atom.combs ++
            [⟨m.dev, line, m.ty, stamp, part, combAdd m.ty m.elem (elemsAt m.elem (m.addr % 64) d) [], [(i, rep)], 1, fclk s⟩] } }
        else again s win key
      | none => again s win key
where
  /-- forwarded at once, and remembered for the window -/
  again (s : State) (win : Nat) (key : Nat × Nat × Nat × Nat × Nat → Bool) : State :=
    let s := { s with
    atom := { s.atom with
    fwd :=
      (m.dev, m.addr / 64, m.ty, stamp, fclk s) ::
        s.atom.fwd.filter (fun x => !key x && fclk s ≤ x.2.2.2.2 + win) } }
    sendMem s i part stamp m d rep []

/-- The operation opened for a tile that waits for `n` answers; with none to come its counter advances at once. -/
def openGroup (s : State) (t part ctr n : Nat) : Nat × State :=
  let g := s.atom.nextGroup
  let s := { s with atom := { s.atom with nextGroup := g + 1, groups := s.atom.groups ++ [⟨g, t, false, part, ctr, n⟩] } }
  if n = 0 then (g, bumpCtr { s with atom := { s.atom with groups := s.atom.groups.filter (fun x => x.id != g) } } t false ctr 5)
  else (g, s)

/-- A check failure at the issuer (R255). -/
def checkFail (s : State) (t code : Nat) : State :=
  callFault (err (evt (incSat s (pgAtom + 0x74) 1) pgAtom 1) pgAtom code) t code 0

/-- RMEM (R295): sends a list of memory requests and writes their replies. -/
def execRmem (i : Issue) (s : State) : Out :=
  issued s i 0xFF00FFFFFFFF001F (fun s => dynamic s i.tile (fun s =>
    let c := (getTile s i.tile).fg
    let hl := resolve c (fld i.w 47 40)
    let hr := resolve c (fld i.w 39 32)
    let n := fld i.w 31 16
    let rs := rmemRecords n (readBuf s i.tile hl 0 (hLines hl * 64)) 0
    let ret := (rs.map (fun r => roundUp r.1.retLen 16)).sum
    if !bufOk s i hl 0 (rmemBytes rs) || (ret != 0 && !bufIn hr 0 ret) then callFault s i.tile 0x0201 0
    else
      match badByte s i.tile hl 0 (rmemBytes rs) with
      | some a => parityPoison s i.tile a
      | none =>
        match rs.find? (fun r => issueCheck s c.part r.1 != 0) with
        | some r => checkFail s i.tile (issueCheck s c.part r.1)
        | none =>
          let stamp := (getPart s c.part).stamp
          let g := openGroup s i.tile c.part (fld i.w 4 0) n
          rs.foldl (fun s r => issueMem s (.tile i.tile false) c.part stamp r.1 r.2.1 ⟨g.1, hr, r.2.2⟩) g.2))

/-! ## Messages out -/

/-- A message header (R251). -/
def msgHeader (channel idx len off kind status : Nat) : Nat :=
  channel % 256 * 2 ^ 120 + idx % 4096 * 2 ^ 108 + len % 2 ^ 32 * 2 ^ 64 + off % 2 ^ 32 * 2 ^ 32 + kind * 2 ^ 28
    + status * 2 ^ 24

/-- The packets of a message toward a destination (R251): one control packet where it fits, data packets otherwise. -/
def msgPkts (base : Pkt) (channel : Nat) (bs : List Byte) : List Pkt :=
  let room := if base.mcast then 24 else 32
  let ps := if bs.length ≤ room then [bs] else chunks 2048 bs
  ((List.range ps.length).zip ps).map (fun e =>
    let h := msgHeader channel e.1 bs.length (2048 * e.1) 0 0
    let d := padTo (roundUp e.2.length 4) e.2
    let p := if bs.length ≤ room then { base with data := false, body := leBytes 16 h ++ d }
      else { base with data := true, thdr := h, body := d }
    { p with count := ps.length, last := e.1 + 1 == ps.length })

/-- MSGS (R296): sends a message to a channel or a multicast mask. -/
def execMsgs (i : Issue) (s : State) : Out :=
  issued s i 0xFFC0FFFFFFFF001F (fun s => dynamic s i.tile (fun s =>
    let c := (getTile s i.tile).fg
    let d := leNat (descOf s i i.doff 16)
    let h := resolve c (fld i.w 47 40)
    let n := fld i.w 39 16
    let mc := bit d 32
    if fld d 39 33 ≠ 0 ∨ fld d 63 40 ≠ 0 ∨ (!mc && fld d 127 64 != 0) ∨ fld d 23 22 ≠ 0 ∨ fld i.w 15 5 ≠ 0 then
      callFault s i.tile 0x0206 0
    else if !bufOk s i h 0 n then callFault s i.tile 0x0201 0
    else
      match badByte s i.tile h 0 n with
      | some a => parityPoison s i.tile a
      | none =>
        let bs := readBuf s i.tile h 0 n
        let stamp := (getPart s c.part).stamp
        let g := openGroup s i.tile c.part (fld i.w 4 0) (if mc then popcount 64 (fld d 127 64) else 1)
        if mc then
          issueReq g.2 {
            arb := myArb s, dev := 0, id := 0, proto := 6, part := c.part, stamp := stamp, issuer := .tile i.tile false,
            counted := true, pkts := msgPkts (mkMcast g.2 6 stamp (fld d 127 64)) (fld d 31 24) bs, sentAt := 0, tries := 0,
            reply := { group := g.1 }, members := [], mask := fld d 127 64 }
        else
          let p := mkPkt g.2 6 stamp (fld d 15 0) (fld d 21 16)
          issueReq g.2 {
            arb := fld d 15 0, dev := fld d 21 16, id := 0, proto := 6, part := c.part, stamp := stamp,
            issuer := .tile i.tile false, counted := true, pkts := msgPkts p (fld d 31 24) bs, sentAt := 0, tries := 0,
            reply := { group := g.1 }, members := [] }))

/-! ## Answers -/

/-- A packet comes from another device. -/
def fromAway (s : State) (p : Pkt) : Bool := p.srcArb != myArb s || p.src != myDev s

/-- The step of an issuing tile awaits an answer of another device, and is not clean (R315). -/
def soilIssuer (s : State) (p : Pkt) (i : Issuer) : State :=
  match i with
  | .tile t bg => if fromAway s p then soilCtx s t bg else s
  | _ => s

/-- One answer of an operation. Load data go to the die edge as units for the buffer that the program has armed (R21), and the
counter advances by one unit with the last of them (R295); an operation that returns no data advances it as its last answer
comes (R296). -/
def answer (s : State) (i : Issuer) (r : Reply) (bs : List Byte) (cause : Nat) : State :=
  match s.atom.groups.find? (fun g => g.id == r.group) with
  | none => s
  | some g =>
    let last := decide (g.left ≤ 1)
    let s := { s with
      atom := { s.atom with
        groups := if last then s.atom.groups.erase g else s.atom.groups.map (fun x => if x = g then { g with left := g.left - 1 } else x) } }
    if r.handle = 0 then (if last then bumpCtr s g.tile g.bg g.ctr cause else s)
    else if bs.isEmpty && !last then s
    else toEdge s {
      tile := g.tile, bg := g.bg, part := g.part, handle := 0, ctr := g.ctr, off := r.off, data := bs, weight := false,
      cause := cause, again := false, link := g.tile / 60, counts := last, entry := some r.handle }

/-- An issuer learns that its request was refused, or has failed end to end (R250, R253, R255): the step of a tile ends, and
the partition of a combined request is that of its members, who share its stamp (R254). -/
def issuerError (s : State) (r : Req) (code : Nat) : State :=
  match r.issuer with
  | .tile _ _ => endHead (errIn s pgAtom code (some r.part) 0) r.part code
  | .granary _ => lenderLost (err s pgAtom code) r.dev
  | .lodge => err s pgAtom code

/-- ATOM_FAULT_INFO holds the first refusal or non-OK response (R256). -/
def faultInfo (s : State) (dev status : Nat) : State :=
  if regN s (pgAtom + 0x140) = 0 then setRegN s (pgAtom + 0x140) (dev % 64 * 2 ^ 26 + status % 16 * 2 ^ 22) else s

/-- MEM_RSP (R243, R253): an issuer receives a response: load data are written, its outstanding counter falls. -/
def execMemRsp (s : State) : Out :=
  match takeEjected s (fun p => p.proto == 5) with
  | none => .next s
  | some (p, s) =>
    match s.atom.out.find? (fun r => r.proto == 4 && r.arb == p.srcArb && r.dev == p.src && r.id == p.msgId) with
    | none => .next (incSat s (pgAtom + 0x6C) 1)
    | some r =>
      let s := ((r.issuer, r.reply) :: r.members).foldl (fun s m => soilIssuer s p m.1) (settle s r)
      let st := fld p.th 123 120
      if st ≠ 0 then .next (issuerError (faultInfo s p.src st) r 0x0A04)
      else if r.members.isEmpty then .next (answer s r.issuer r.reply (p.rest.take (4 * (fld p.th 119 114 + 1))) 5)
      else .next (r.members.foldl (fun s m => answer s m.1 m.2 [] 5) s)

/-- E2E_TIMEOUT (R250): the oldest request unanswered for ATOM_E2E_TIMEOUT is sent again, or fails end to end after the
last retry; with a closing stamp nothing is sent again (R419). -/
def execE2eTimeout (s : State) : Out :=
  match s.atom.out.find? (fun r => now s ≥ r.sentAt + 1000 * regN s (pgAtom + 0x10C)) with
  | none => .next s
  | some r =>
    if r.tries < regN s (pgAtom + 0x110) ∧ !stampClosing s r.stamp then
      let s := soilSteps (incSat (r.pkts.foldl send s) (pgAtom + 0x60) 1)
      .next { s with
      atom := { s.atom with
      out := s.atom.out.map (fun x =>
        if x = r then { r with tries := r.tries + 1, sentAt := now s } else x) } }
    else
      .next (issuerError (evt (incSat (settle s r) (pgAtom + 0x64) 1) pgAtom 0) r 0x0A03)

/-- COMBINE_WINDOW_EXPIRY (R254): the oldest entry whose window has ended leaves. -/
def execCombineWindowExpiry (s : State) : Out :=
  match s.atom.combs.find? (fun c => fclk s ≥ c.since + regN s (pgAtom + 0x114)) with
  | none => .next s
  | some c => .next (sendComb s c)

/-- FENCE_COMPLETE (R253): an issuer's pending fences complete together once its outstanding counter is zero. -/
def execFenceComplete (t : Nat) (bg : Bool) (s : State) : Out :=
  let mine := s.atom.fences.filter (fun f => f.tile == t && f.bg == bg)
  if mine.isEmpty ∨ outstandingOf s (.tile t bg) ≠ 0 then .next s
  else
    let s := { s with atom := { s.atom with fences := s.atom.fences.filter (fun f => !(f.tile == t && f.bg == bg)) } }
    .next (mine.foldl (fun s f => bumpCtr s f.tile f.bg f.ctr 5) s)

/-! ## Messages in -/

/-- An acknowledgement or refusal of a message (R251, R252). -/
def msgAnswer (s : State) (p : Pkt) (kind status : Nat) : State :=
  let q := mkPkt s 6 p.stamp p.srcArb p.src
  send s { q with msgId := p.msgId, body := leBytes 16 (msgHeader (fld p.th 127 120) 0 0 0 kind status) }

/-- The bytes of a completed message's slot: its header of 16 bytes and its payload (R252). -/
def slotBytes (m : InMsg) : List Byte :=
  leBytes 2 m.arb ++ [BitVec.ofNat 8 m.dev, 0] ++ leBytes 2 m.id ++ leBytes 2 0 ++ leBytes 4 m.len ++ leBytes 4 0
    ++ (m.data.foldl (fun (b : List Byte) d => b.take d.1 ++ d.2 ++ b.drop (d.1 + d.2.length)) (List.replicate m.len 0)).take m.len

/-- A message completes: its slot is written, its channel's counter advances, its window is marked, ACK returns. -/
def msgComplete (s : State) (b : Bind) (m : InMsg) (p : Pkt) : State :=
  let s := { s with
  atom := { s.atom with
  inMsgs := s.atom.inMsgs.filter (fun x =>
    !(x.arb == m.arb && x.dev == m.dev && x.id == m.id)) } }
  let s := msgAnswer (noteId s p.srcArb p.src p.msgId (some (1, []))) p 1 0
  if b.host then
    complete (writeHost s (b.addr + m.slot * b.slotBytes) (slotBytes m)) b.qp ⟨0xFFFF, 0, m.slot, m.len, false, (getQp s b.qp).sqHead⟩
  else
    let u : Sys2Proof.Machine.Unit := {
      tile := b.tile, bg := b.bg, part := b.part, handle := b.handle, ctr := b.ctr,
      off := m.slot * b.slotBytes, data := slotBytes m, weight := false, cause := 6, again := false, link := b.tile / 60,
      counts := true }
    toEdge (soilUnit s (fromAway s p) u) u

/-- The binding of a channel for the partition of a stamp. -/
def bindOf (s : State) (p : Pkt) : Option Bind :=
  let part := fld (stampEntry s (p.stamp / 16)) 7 6
  s.host.binds.find? (fun b => b.channel == fld p.th 127 120 && b.part == part)

/-- A packet of a message in progress is taken (R252). -/
def msgTake (s : State) (b : Bind) (m : InMsg) (p : Pkt) : State :=
  let idx := fld p.th 119 108
  if m.got.contains idx then s
  else
    let m' := { m with got := m.got ++ [idx], data := m.data ++ [(fld p.th 63 32, p.rest)] }
    let s := if p.last ∧ m'.got.length < m.count then incSat s (pgAtom + 0x84) 1 else s
    if m'.got.length ≥ m.count then msgComplete s b m' p
    else { s with
    atom := { s.atom with
    inMsgs := s.atom.inMsgs.map (fun x =>
      if x.arb = m.arb ∧ x.dev = m.dev ∧ x.id = m.id then m' else x) } }

/-- A message is refused (R255); the manual names no status for it: any but OK. -/
def msgRefuse (s : State) (p : Pkt) : State :=
  let f := freshFree s
  msgAnswer (evt (incSat f.2 (pgAtom + 0x78) 1) pgAtom 2) p 2 (1 + f.1.toNat % 7)

/-- MSG_PACKET (R252): a receiver writes a message packet into its slot. -/
def execMsgPacket (s : State) : Out :=
  match takeEjected s (fun p => p.proto == 6 && fld p.th 31 28 == 0) with
  | none => .next s
  | some (p, s) =>
    match seen s p.srcArb p.src p.msgId with
    | .old => .next (incSat s (pgAtom + 0x70) 1)
    | .dup _ _ => .next (msgAnswer (incSat s (pgAtom + 0x68) 1) p 1 0)
    | .fresh =>
      match bindOf s p with
      | none => .next (msgRefuse s p)
      | some b =>
        let len := fld p.th 95 64
        if len + 16 > b.slotBytes then .next (msgRefuse s p)
        else
          match s.atom.inMsgs.find? (fun m => m.arb == p.srcArb && m.dev == p.src && m.id == p.msgId) with
          | some m => .next (msgTake s b m p)
          | none =>
            if b.unbinding then .next (msgRefuse s p)
            else
            let slot := b.freed.headD (b.next % max 1 b.slots)
            let b' := if b.freed.isEmpty then { b with next := (b.next + 1) % max 1 b.slots }
              else { b with freed := b.freed.drop 1 }
            let m : InMsg := ⟨p.srcArb, p.src, p.msgId, b.part, b.channel, slot, len, p.count, [], [], now s⟩
            let s := { s with
              host := { s.host with binds := s.host.binds.map (fun x => if x = b then b' else x) },
              atom := { s.atom with inMsgs := s.atom.inMsgs ++ [m] } }
            .next (msgTake s b' m p)

/-- The outstanding message that an acknowledgement names. -/
def msgReq (s : State) (p : Pkt) : Option Req :=
  s.atom.out.find? (fun r => r.proto == 6 && r.arb == p.srcArb && r.dev == p.src && r.id == p.msgId)

/-- MSG_ACK (R252). -/
def execMsgAck (s : State) : Out :=
  match takeEjected s (fun p => p.proto == 6 && fld p.th 31 28 == 1) with
  | none => .next s
  | some (p, s) =>
    match msgReq s p with
    | none => .next (incSat s (pgAtom + 0x6C) 1)
    | some r => .next (answer (soilIssuer (settle s r) p r.issuer) r.issuer r.reply [] 6)

/-- MSG_NACK (R255). -/
def execMsgNack (s : State) : Out :=
  match takeEjected s (fun p => p.proto == 6 && fld p.th 31 28 == 2) with
  | none => .next s
  | some (p, s) =>
    match msgReq s p with
    | none => .next (incSat s (pgAtom + 0x6C) 1)
    | some r => .next (issuerError (faultInfo (settle s r) p.src (fld p.th 27 24)) r 0x0A06)

/-- MSG_TIMEOUT (R252): the oldest message incomplete for ATOM_MSG_TIMEOUT is discarded and its slot freed. -/
def execMsgTimeout (s : State) : Out :=
  match s.atom.inMsgs.find? (fun m => now s ≥ m.since + 1000 * regN s (pgAtom + 0x118)) with
  | none => .next s
  | some m =>
    let s := { s with
      atom := { s.atom with inMsgs := s.atom.inMsgs.erase m },
      host := { s.host with
      binds := s.host.binds.map (fun b =>
        if b.channel = m.channel ∧ b.part = m.part then { b with freed := b.freed ++ [m.slot] } else b) } }
    .next (evt (incSat s (pgAtom + 0x80) 1) pgAtom 3)

/-! ## Tables -/

/-- ORT_ENTRY_WRITE (R242): the write of ATOM_ORT_DATA3 stores an entry and advances the index. -/
def execOrtEntryWrite (v : Nat) (s : State) : Out :=
  guardWrite s (pgAtom) (let i := regN s (pgAtom + 0x124) % 1024
  let e := regN s (pgAtom + 0x128) + regN s (pgAtom + 0x12C) * 2 ^ 32 + regN s (pgAtom + 0x130) * 2 ^ 64 + v % 2 ^ 32 * 2 ^ 96
  .next (setRegN { s with atom := { s.atom with ort := NMap.set (fun _ => 0) s.atom.ort i e } } (pgAtom + 0x124)
    ((i + 1) % 1024)))

/-- A step of a partition is admitted. -/
def admittedStep (s : State) (n : Nat) : Bool := (getPart s n).steps.any (fun st => st.phase != .queued)

/-- PART_MODE_WRITE (R240, R255): ignored with 0x0A07 while a step is admitted. -/
def execPartModeWrite (v : Nat) (s : State) : Out :=
  guardWrite s (pgAtom) (let old := regN s (pgAtom + 0x108)
  if (List.range 4).any (fun n => bit old n != bit v n && admittedStep s n) then .next (err s pgAtom 0x0A07)
  else .next (setRegN s (pgAtom + 0x108) (v % 16)))

end Sys2Proof.Machine
end

