-- ==== Sys2Proof/Machine/Husk.lean ====
section
/-!
DEFINITION. Sparse execution on a tile: the Husk predictor and its state record (R138 to R147), and CHAFF stores
(R148, R149).
-/

namespace Sys2Proof.Machine

open Sys2Proof Sys2Proof.Config

/-- The Husk descriptor (R138). -/
structure HuskDesc where
  policy : Nat
  shadow : Bool
  sampleLog2 : Nat
  hidden : Nat
  denseAt : Nat
  missLimit : Nat
  tau : Nat
  theta : Nat
  minSamples : Nat
  window : Nat
  denseSteps : Nat
  base : Nat
  bad : Bool
  deriving DecidableEq, Repr

/-- The Husk descriptor of 32 bytes, with the checks of R157. -/
def parseHusk (d : List Byte) : HuskDesc :=
  let w := leNat d
  let h := fld w 31 16
  let da := fld w 47 32
  { policy := fld w 1 0, shadow := bit w 2, sampleLog2 := fld w 11 8, hidden := h, denseAt := da,
    missLimit := fld w 63 48, tau := fld w 95 64, theta := fld w 127 96, minSamples := fld w 143 128,
    window := fld w 159 144, denseSteps := fld w 175 160, base := fld w 255 192,
    bad := d.length != 32 || fld w 1 0 == 3 || fld w 7 3 != 0 || fld w 15 12 != 0 || h % 64 != 0 || h == 0
      || h > 8192 || da % 64 != 0 || da > h || decFP32 (fld w 95 64) == .nan || decFP32 (fld w 127 96) == .nan
      || fld w 159 144 == 0 || fld w 191 176 != 0 || fld w 255 192 % 64 != 0 }

/-- A Husk state record is fresh: 64 zero bytes (R145). -/
def huskFresh (r : List Byte) : Bool := r.all (fun b => b == 0)

/-- A Husk state record is valid: fresh, or CHECK matches (R145). -/
def huskValid (r : List Byte) : Bool := huskFresh r || byteFld r 60 63 == crc32c (r.take 60)

/-- The registration of an expert slot whose rows a handle of a tile holds (R91). -/
def slotOfHandle (s : State) (part t h : Nat) : Option SlotReg :=
  s.sheaf.slots.find? (fun r => r.part == part && r.tile == t && r.handle == h)

/-- One column of a predictor product: 64-row passes in BS4 × E4M3 whose results are added in FP32 in order
(R45, R119, R139). -/
def predictorDot (x w : List Val) : Nat :=
  let parts := (List.zip (chunks 64 x) (chunks 64 w)).map (fun p => colBlocks 16 (List.zip p.2 p.1))
  (parts.drop 1).foldl f32Add (parts.headD 0)

/-- The 64 hidden scores z := x · P1 of one row in FP32 (R139): P1 holds its columns one after another (R137). -/
def hiddenScores (p1 : List Val) (d : Nat) (x : List Val) : List Nat :=
  (List.range 64).map (fun j => predictorDot x ((p1.drop (j * d)).take d))

/-- The neuron scores p := z · P2 of one row, z converted to E4M3 (R139). -/
def predictorScores (p2 : List Val) (h : Nat) (z : List Nat) : List Nat :=
  let z := z.map (fun c => decE4M3 (encE4M3 none (decFP32 c)))
  (List.range h).map (fun j => predictorDot z ((p2.drop (j * 64)).take 64))

/-- A score marks its neuron predicted active: above TAU, or NaN (R139). -/
def predicted (tau p : Nat) : Bool :=
  match decFP32 p with
  | .nan => true
  | v => Val.lt (decFP32 tau) v && !(Val.isZero v && Val.isZero (decFP32 tau))

/-- A fetch list of 16-bit entries, padded to a multiple of 64 (R140). -/
def fetchList (es : List (Nat × Bool)) : List Nat :=
  let codes := es.map (fun e => e.1 + 8192 * b2n e.2)
  let last := match es.getLast? with | some e => e.1 | none => 0
  codes ++ List.replicate (roundUp codes.length 64 - codes.length) (last + 16384)

/-- What HUSK finds in its rows: the expert and replica of the manifest, the neurons predicted active, and the shadow sample
candidates (R139, R143). -/
structure HuskPick where
  expert : Nat
  rep : Nat
  /-- conversions of the hidden scores to E4M3 that saturated (R59) -/
  sat : Nat
  active : List Nat
  cand : List Nat
  deriving DecidableEq, Repr

/-- The kept rows of a registered slot, by its manifest (R102). -/
def keptRows (s : State) (t hr : Nat) (reg : SlotReg) : List Nat :=
  let man := readBuf s t hr (reg.cap * reg.stride) (16 + 8 * reg.cap)
  (List.range reg.cap).filter (fun n => bit (byteFld man (16 + 8 * n) (23 + 8 * n)) 57)

/-- The length of a row as the predictor handle gives it (log entry 17). -/
def huskDim (hp hidden : Nat) : Nat := (hLines hp * 64 / 36 - hidden) / 16 * 16

/-- The prediction over the kept rows of a slot; none where a record is malformed. -/
def huskPick (s : State) (i : Issue) (d : HuskDesc) (reg : SlotReg) : Option HuskPick :=
  let c := (getTile s i.tile).fg
  let hr := resolve c (fld i.w 47 40)
  let hp := resolve c (fld i.w 39 32)
  let man := readBuf s i.tile hr (reg.cap * reg.stride) (16 + 8 * reg.cap)
  let expert := byteFld man 4 5
  let dim := huskDim hp d.hidden
  let rows := (keptRows s i.tile hr reg).map (fun n =>
    parseCbs (some .e4m3) dim (readBuf s i.tile hr (n * reg.stride) reg.stride))
  if rows.any (fun r => r.isNone) then none
  else
    let pb := readBuf s i.tile hp 0 (hLines hp * 64)
    let p1 := decodeTensor .bs4 (dim * 64) pb
    let p2 := decodeTensor .bs4 (64 * d.hidden) (pb.drop (tensorBytes .bs4 (dim * 64)))
    let zs := rows.map (fun r => hiddenScores p1 dim (cbsVals dim (r.getD [])))
    let scores := zs.map (predictorScores p2 d.hidden)
    let act := fun j => scores.any (fun p => predicted d.tau (p.getD j 0))
    some { expert := expert, rep := byteFld man 6 6 % 4, active := (List.range d.hidden).filter act,
           sat := (zs.map (fun z => (z.filter (fun c => convCounts .e4m3 none (decFP32 c))).length)).sum,
           cand := if !d.shadow then [] else (List.range d.hidden).filter
             (fun j => !act j && h64 c.seed c.step expert j % 2 ^ d.sampleLog2 == 0) }

/-- The expert step runs dense: POLICY 2, dense steps left, a state record that fails its CHECK, or too many neurons (R141,
R146). -/
def huskDense (d : HuskDesc) (k : HuskPick) (rec0 : List Byte) : Bool :=
  d.policy == 2 || (huskValid rec0 && decide (0 < byteFld rec0 12 15)) || !huskValid rec0
    || decide (d.denseAt ≤ k.active.length + k.cand.length)

/-- The neurons to fetch in rising order, samples marked (R140, R143). -/
def huskEntries (d : HuskDesc) (k : HuskPick) (dense : Bool) : List (Nat × Bool) :=
  if dense then (List.range d.hidden).map (fun j => (j, false))
  else (List.range d.hidden).filterMap (fun j =>
    if k.active.contains j then some (j, false) else if k.cand.contains j then some (j, true) else none)

/-- Blocks of the predictor, each one BS4 pass over the rows (R139). -/
def huskBlocks (dim hidden : Nat) : Nat := (dim + 63) / 64 + hidden / 64

/-- ACLK of a Husk pass over `cap` rows: each block takes its slots, two rows a slot, or its 18-ACLK load (R124, R139). -/
def huskAclk (dim hidden cap : Nat) : Nat := huskBlocks dim hidden * max ((cap + 1) / 2) 18

/-- What the array counts in a Husk pass (R122, R139): the kept rows are valid vectors; a slot of two rows that hold none is a
bubble. -/
def countHusk (s : State) (t blocks cap : Nat) (kept : List Nat) : State :=
  let empty := ((List.range ((cap + 1) / 2)).filter (fun k => !kept.contains (2 * k) && !kept.contains (2 * k + 1))).length
  inc64 (inc64 s (pgTile t + 0x48) (blocks * kept.length)) (pgTile t + 0x50) (blocks * empty)

/-- A Husk pass owns its buffers until it ends, and its chunk count reaches the loop register then (R114, R142, R290). -/
def huskHolds (s : State) (t : Nat) (banks reg count dur : Nat) : State :=
  let x := getTile s t
  setTile s t { x with
    busy := x.busy ++ [(banks, s.clk.aclk + dur)], fg := lcSet x.fg reg count (s.clk.aclk + dur) }

/-- The expert step begins: the fetch list is written, its chunk count goes to the loop register, the tally counts, and the
step is held until its last chunk (R140 to R142, R156). -/
def huskIssue (s : State) (i : Issue) (d : HuskDesc) (reg : SlotReg) (k : HuskPick) : State :=
  let t := i.tile
  let c := (getTile s t).fg
  let h := fun lo => resolve c (fld i.w (lo + 7) lo)
  let rec0 := readBuf s t (h 16) 0 64
  let ok := huskValid rec0
  let dense := huskDense d k rec0
  let es := huskEntries d k dense
  let l := fetchList es
  let samples := if dense then 0 else k.cand.length
  let dim := huskDim (h 32) d.hidden
  let s := if ok then s else errIn s (pgTile t) 0x020C (some c.part) c.step
  let s := countHusk (convSat s t k.sat) t (huskBlocks dim d.hidden) reg.cap (keptRows s t (h 40) reg)
  let s := writeBuf s t (h 24) 0 (l.flatMap (leBytes 2))
  let banks := [40, 32, 24, 16].foldl (fun m lo => Nat.lor m (hMask (h lo))) 0
  let s := huskHolds s t banks (fld i.w 10 8) (l.length / 64) (huskAclk dim d.hidden reg.cap)
  let c := (getTile s t).fg
  let y := c.tally
  setFg s t { c with
    tally := { y with
      used := true, predicted := y.predicted + k.active.length, sampled := y.sampled + samples,
      fetched := y.fetched + es.length, dense := y.dense + b2n dense },
    listLens := NMap.put c.listLens (fld i.w 31 24) l.length,
    husk := c.husk ++ [{
      handle := h 16, addr := d.base + 64 * (4 * k.expert + k.rep),
      policy := d.policy, missLimit := d.missLimit, minSamples := d.minSamples, window := d.window,
      denseSteps := d.denseSteps, theta := d.theta, samples := samples, entries := es.length, dense := dense,
      byPolicy := d.policy == 2, fresh := !ok, hidden := d.hidden, listH := fld i.w 31 24,
      lcReg := fld i.w 10 8, recompute := none }] }

/-- A HUSK whose slot holds no kept row (R157): no pass and no fetch, C = 0, the record untouched; the tile has run a HUSK
(R156). -/
def huskEmpty (s : State) (i : Issue) : State :=
  let c := lcSet (getTile s i.tile).fg (fld i.w 10 8) 0 s.clk.aclk
  setFg s i.tile { c with
    listLens := NMap.put c.listLens (fld i.w 31 24) 0, tally := { c.tally with used := true } }

/-- The four buffers of a HUSK are good (R114, R294). -/
def huskBufsOk (s : State) (i : Issue) (d : HuskDesc) : Bool :=
  let h := fun lo => resolve (getTile s i.tile).fg (fld i.w (lo + 7) lo)
  bufOk s i (h 40) 0 64 && bufOk s i (h 32) 0 64 && bufOk s i (h 24) 0 (roundUp d.hidden 64 * 2) && bufOk s i (h 16) 0 64

/-- HUSK's effect once its operands are good: a parity error in the rows or the state record poisons the step, one in the
predictor stops the partition for a refetch, after which the prediction runs (R157). -/
def huskRun (s : State) (i : Issue) : State :=
  let c := (getTile s i.tile).fg
  let t := i.tile
  let d := parseHusk (descOf s i i.doff 32)
  let h := fun lo => resolve c (fld i.w (lo + 7) lo)
  match (badByte s t (h 40) 0 (hLines (h 40) * 64)).or (badByte s t (h 16) 0 64) with
  | some a => parityPoison s t a
  | none =>
    match slotOfHandle s c.part t (fld i.w 47 40) with
    | none => huskEmpty s i
    | some reg =>
      if (keptRows s t (h 40) reg).isEmpty then huskEmpty s i
      else
        let bad := badLines s t (h 32) 0 (hLines (h 32) * 64)
        if !bad.isEmpty then
          let s := parityStop s t (h 32) bad
          setTile s t { getTile s t with huskWait := some i }
        else
          match huskPick s i d reg with
          | none => tilePoison s t c.part 0x0216
          | some k => huskIssue s i d reg k

/-- HUSK (R139 to R143): predicts the active neurons, chooses the shadow samples, decides whether the expert step
runs dense, writes the fetch list and the chunk count. -/
def execHusk (i : Issue) (s : State) : Out :=
  issued s i 0xFF80FFFFFFFF0700 (fun s =>
    let d := parseHusk (descOf s i i.doff 32)
    if d.bad then callFault s i.tile 0x020A 0
    else if !huskBufsOk s i d then callFault s i.tile 0x0201 0
    else huskRun s i)

/-- The updated Husk state record (R146, R147). -/
def huskUpdate (rec0 : List Byte) (r : HuskRun) (step misses recomputes : Nat) : List Byte :=
  let rec' := if r.fresh then List.replicate 64 0 else rec0
  let ws := byteFld rec' 0 3
  let wsa := byteFld rec' 4 7
  let wm := byteFld rec' 8 11
  let left := byteFld rec' 12 15
  let ran := left > 0 ∧ !r.byPolicy
  let left' := if ran then left - 1 else left
  let ws := if ran then ws else ws + 1
  let wsa := if ran then wsa else wsa + r.samples
  let wm := if ran then wm else wm + misses
  let trig := r.policy ≠ 2 ∧ wsa ≥ r.minSamples ∧ wm * 65536 > r.missLimit * wsa
  let reset := trig ∨ ws ≥ r.window
  let z := fun x => if reset then 0 else x
  let b := leBytes 4 (z ws) ++ leBytes 4 (z wsa) ++ leBytes 4 (z wm)
    ++ leBytes 4 (if trig then r.denseSteps else left')
    ++ leBytes 8 (byteFld rec' 16 23 + r.samples) ++ leBytes 8 (byteFld rec' 24 31 + misses)
    ++ leBytes 4 (byteFld rec' 32 35 + b2n trig) ++ leBytes 4 step ++ leBytes 4 r.entries
    ++ leBytes 4 (byteFld rec' 44 47 + recomputes) ++ List.replicate 12 0
  b ++ leBytes 4 (crc32c b)

/-- A hidden activation exceeds THETA in magnitude; a NaN does (R144). -/
def exceeds (theta h : Nat) : Bool :=
  match decFP32 h with
  | .nan => true
  | .inf _ => true
  | .fin _ m e => Val.lt (decFP32 theta) (.fin false m e) && !(m == 0 && Val.isZero (decFP32 theta))

/-- The misses among an expert step's shadow samples: `hidden` gives, for each sample in ascending neuron order, its hidden
activations in FP32 over the valid rows (R144). -/
def missCount (r : HuskRun) (hidden : List (List Nat)) : Nat :=
  ((hidden.take r.samples).filter (fun hs => hs.any (exceeds r.theta))).length

/-- The LIST of an expert step is asked for again with a dense list, into the buffer whose counter starts again with the
dense chunk count; the sequencer goes back to the bundle after the LIST (R147; log entry 17). -/
def relist (s : State) (t : Nat) (q : GReq) (pc ctr : Nat) (l : List Nat) : State :=
  let c := (getTile s t).fg
  let k := getCtr c ctr
  let c := setCtr c ctr { k with value := 0, released := 0, target := l.length / 64 }
  let s := { s with grn := { s.grn with reqs := s.grn.reqs ++ [{ q with list := l, sent := 0 }] } }
  setFg s t { c with
    pc := pc + 1, jump := none, waiting := none, readyAt := none, committing := none,
    loops := c.loops.filter (fun l => l.first ≤ pc + 1 && pc + 1 ≤ l.last) }

/-- A strict expert step with `m` misses discards its outputs and recomputes dense (R147). -/
def expertRecompute (s : State) (t : Nat) (r : HuskRun) (rest : List HuskRun) (m : Nat) : State :=
  let c := (getTile s t).fg
  let l := fetchList ((List.range r.hidden).map (fun j => (j, false)))
  let s := writeBuf s t (resolve c r.listH) 0 (l.flatMap (leBytes 2))
  let y := c.tally
  let s := setFg s t (lcSet { (getTile s t).fg with
    husk := { r with recompute := some m, entries := r.hidden } :: rest,
    listLens := NMap.put c.listLens r.listH l.length,
    tally := { y with misses := y.misses + m, recomputes := y.recomputes + 1, fetched := y.fetched + r.hidden } }
    r.lcReg (r.hidden / 64) s.clk.aclk)
  match r.list with
  | some (q, pc, ctr) => relist s t q pc ctr l
  | none => s

/-- An expert step with `m` misses updates its state record, which the layer's commit writes back (R146). -/
def expertUpdate (s : State) (t : Nat) (r : HuskRun) (rest : List HuskRun) (m : Nat) : State :=
  let old := readBuf s t r.handle 0 64
  let b := huskUpdate old r (getTile s t).fg.step m (b2n r.recompute.isSome)
  let s := writeBuf s t r.handle 0 b
  let c := (getTile s t).fg
  let y := c.tally
  setFg s t { c with
    husk := rest, huskDone := c.huskDone ++ [⟨r.addr, r.handle, b, old⟩],
    tally := if r.recompute.isSome then y else { y with misses := y.misses + m } }

/-- EXPERT_LAST_CHUNK_DONE (R146, R147): the oldest expert step of the tile updates its state record, or, in the strict policy
with a miss, discards its outputs and recomputes dense. `hidden` are the samples' hidden activations (R144); a state record with
a parity error poisons the step (R157). -/
def execExpertLastChunkDone (t : Nat) (hidden : List (List Nat)) (s : State) : Out :=
  match (getTile s t).fg.husk with
  | [] => .next s
  | r :: rest =>
    let m := r.recompute.getD (missCount r hidden)
    if r.policy = 1 ∧ !r.dense ∧ r.recompute.isNone ∧ m > 0 then .next (expertRecompute s t r rest m)
    else
      match badByte s t r.handle 0 64 with
      | some a => .next (parityPoison s t a)
      | none => .next (expertUpdate s t r rest m)

/-- The state records that expert steps have updated since a restart point, named by the layer of its record, stand in SRAM as
before, the latest first (R146). -/
def restoreHusk (s : State) (t : Nat) (from' : Option Nat) : State :=
  let c := (getTile s t).fg
  let later := fun (l : Nat) => match from' with
    | some k => decide (k < l)
    | none => true
  let recs := (c.parts.filter (fun p => later p.layer)).flatMap (fun p => p.husk) ++ c.huskDone
  recs.reverse.foldl (fun s r => writeBuf s t r.handle 0 r.old) s

/-- A threshold of CHAFF is negative, NaN or infinite (R157). -/
def thresholdBad (th : Nat) : Bool :=
  match decFP32 th with
  | .fin neg _ _ => neg
  | _ => true

/-- CHAFF zeroes a value: it is not a zero, finite, and its magnitude lies below the threshold (R148). -/
def chaffZeroes (th : Nat) (v : Val) : Bool :=
  match v with
  | .fin _ m e => m != 0 && Val.lt (.fin false m e) (decFP32 th)
  | _ => false

/-- A value after CHAFF's threshold: a finite magnitude below it becomes +0, and so does a zero unless the threshold is 0;
a NaN or an infinity is kept (R148). -/
def chaffVal (th : Nat) (v : Val) : Val :=
  if chaffZeroes th v then .fin false 0 0
  else match v with
    | .fin _ 0 _ => if decFP32 th != .fin false 0 (-149) then .fin false 0 0 else v
    | _ => v

/-- CHAFF's store (R148, R149): CBS records of the thresholded values, their length, saturations counted; a store flagged for
the digest enters the running digest of the layer (R317, R318). `fl`: bit 0 the digest, bit 1 stochastic, bit 2 SAT. -/
def chaffDone (s : State) (i : Issue) (f : Fmt) (fl th n : Nat) : State :=
  let t := i.tile
  let c := (getTile s t).fg
  let vs := vecElems s t (resolve c (fld i.w 39 32)) n .fp32
  let ws := vs.map (chaffVal th)
  let sr := srBits c t (bit fl 1)
  let o := encodeCbs f sr (bit fl 2) ws
  let s := writeBuf s t (resolve c (fld i.w 47 40)) 0 o.bytes
  let s := writeBuf s t (resolve c (fld i.w 31 24)) 0 (leBytes 4 o.bytes.length)
  let s := convSat s t ((List.zip (List.range n) ws).filter (fun p => convCounts f (sr p.1) p.2)).length
  let c := (getTile s t).fg
  let y := c.tally
  let dig := bit fl 0 && c.digestEn
  setFg s t { c with
    crc := if dig then crc64From c.crc o.bytes else c.crc,
    crcLen := if dig then c.crcLen + o.bytes.length else c.crcLen,
    tally := { y with
      used := true, chaffIn := y.chaffIn + n, chaffZeroed := y.chaffZeroed + (vs.filter (chaffZeroes th)).length,
      present := y.present + o.present, absent := y.absent + o.absent } }

/-- The destination range that a CHAFF store of `n` values owns: the dense case of every group (R149). -/
def chaffBytes (f : Fmt) (n : Nat) : Nat := (n + 511) / 512 * (4 + 16 * (cbsBlockBytes f + cbsScaleBytes f))

/-- CHAFF (R148, R149): thresholds FP32 values, converts them and writes CBS records and the output length; a store
flagged for the digest enters the running digest of the layer (R317, R318). -/
def execChaff (i : Issue) (s : State) : Out :=
  issued s i 0xFFC0FFFFFF000000 (fun s =>
    let c := (getTile s i.tile).fg
    let t := i.tile
    let w := leNat (descOf s i i.doff 16)
    let th := fld w 31 0
    let n := fld w 95 64
    let fl := fld w 47 40
    let hd := resolve c (fld i.w 47 40)
    let hs := resolve c (fld i.w 39 32)
    let hn := resolve c (fld i.w 31 24)
    let fm := if fld w 39 32 ≤ 6 then fmtOfCode (fld w 39 32) else none
    match fm with
    | none => callFault s t 0x020B 0
    | some f =>
      if thresholdBad th || n % 32 ≠ 0 || fl / 8 ≠ 0 || fld w 63 48 ≠ 0 || fld w 127 96 ≠ 0 then callFault s t 0x020B 0
      else if !bufOk s i hd 0 (chaffBytes f n) || !bufOk s i hs 0 (4 * n) || !bufOk s i hn 0 4 then callFault s t 0x0201 0
      else
        match badByte s t hs 0 (4 * n) with
        | some a => parityPoison s t a
        | none =>
          chaffDone s i f fl th n)

end Sys2Proof.Machine
end

