-- ==== Sys2Proof/Machine/StepCtl.lean ====
section
/-!
DEFINITION. Stops and resumes of a partition (R131 to R135), poison and replay (R332 to R336), step admission and start
(R177, R301, R314) and contexts (R304, R305).
-/

namespace Sys2Proof.Machine

open Sys2Proof Sys2Proof.Config

/-- The partition's head step changed. -/
def mapHead (s : State) (n : Nat) (f : Step → Step) : State :=
  let p := getPart s n
  match p.steps with
  | [] => s
  | st :: r => setPart s n { p with steps := f st :: r }

/-! ## Stops -/

/-- A cause of a stop is in force. -/
def stopWanted (p : Part) : Bool := p.stopCmd || p.stopHold || p.stopFreeze || p.stopParity

/-- A stop is asked for; requests during a stop merge into one (R135). -/
def requestStop (s : State) (n : Nat) : State :=
  let p := getPart s n
  setPart s n { p with stop := if p.stop = .none then .requested else p.stop }

/-- Once no cause is in force the resume is asked for (R133, R135). -/
def maybeResume (s : State) (n : Nat) : State :=
  let p := getPart s n
  if stopWanted p ∨ p.stop = .none ∨ p.resumeReq.isSome then s
  else setPart s n { p with resumeReq := some s.clk.aclk }

/-- Poison handling is under way in a partition; it goes before a stop (R340). -/
def poisonBusy (p : Part) : Bool :=
  match p.steps.head? with
  | some st => st.phase == .halting || st.phase == .replayWait || st.phase == .restarting
  | none => false

/-- The partition's oldest step has been admitted, so a stop halts its tiles. -/
def stepActive (p : Part) : Bool :=
  match p.steps.head? with
  | some st => st.phase != .queued
  | none => false

/-- The stop in progress halted the oldest step: it was admitted when the stop took effect. -/
def headStopped (p : Part) : Bool :=
  match p.steps.head? with
  | some st => stepActive p && st.stops != 0
  | none => false

/-- STOP_TAKE_EFFECT (R131): the request has reached every tile of the partition; the stop takes effect at the next frame
boundary F. -/
def execStopTakeEffect (n : Nat) (s : State) : Out :=
  let p := getPart s n
  let s' := mapHead (setPart s n { p with stop := .stopping, stopAt := frameAfter s.clk.aclk, resumeReq := none }) n
    (fun st => if stepActive p then { st with stops := st.stops + 1 } else st)
  let s' := soilSteps s'
  whenOk (p.stop == .requested && !poisonBusy p) s (if stopWanted p then s' else maybeResume s' n)

/-- The tiles of a partition. -/
def partTiles (s : State) (n : Nat) : List Nat := tilesOf (getPart s n).tiles

/-- The tiles whose foreground is the partition's. -/
def fgTiles (s : State) (n : Nat) : List Nat :=
  (partTiles s n).filter (fun t => (getTile s t).fg.live && (getTile s t).fg.part == n)

/-- The SRAM address of a block: its handle entry and offset (R132). -/
def blockAddr (h off : Nat) : Nat := if h = 0 then 0 else bufAddr h off

/-- The SRAM address of a context's resume area: the end of its program bank, one descriptor a bed (log entry 66). -/
def resumeArea (c : Ctx) : Nat := (c.progBank + 1) * 0x90000 - 1024

/-- The SRAM address at which a bed saves its accumulators: 9 bytes a cell, the beds in order, before the resume area (R132; log
entry 66). -/
def accSave (x : Tile) (bed : Nat) : Nat := resumeArea x.fg - 36864 + 9 * bed * (bedSize x.bedMode * bedSize x.bedMode)

/-- The pass that a stop finds in a bed: the first that has vectors left to inject. -/
def bedPass (x : Tile) (bed : Nat) : Option LivePass := x.passes.find? (fun p => p.desc.bed == bed && p.next != p.vecs.length)

/-- SHADOW of a register that is not the active one: nothing, a load started, or a load latched (R132). -/
def shadowOf (x : Tile) (r : StatReg) (aclk : Nat) : Nat :=
  if r.sfmt = 0 ∨ r.used then 0 else if aclk ≤ latchEnd r (bedSize x.bedMode) then 1 else 2

/-- The resume descriptor of a bed for a stop at frame boundary `f` (R132). -/
def resumeDesc (x : Tile) (f bed : Nat) : List Byte :=
  let p := bedPass x bed
  let tag := (p.map (fun p => p.desc.tag)).getD (NMap.get (fun _ => 0) x.tags bed % 2)
  let act := NMap.get (fun _ => ({} : StatReg)) x.stat (2 * bed + tag)
  let sh := NMap.get (fun _ => ({} : StatReg)) x.stat (2 * bed + (1 - tag))
  let shadow := shadowOf x sh f
  let os := (p.map (fun p => p.os)).getD x.os
  let fmt := (p.map (fun p => p.desc.sfmt)).getD act.sfmt
  let src := match p with
    | some p => blockAddr p.src p.off
    | none => if act.sfmt = 0 then 0 else blockAddr act.src act.off
  let b := [1, BitVec.ofNat 8 (fmt % 16 + 16 * b2n os + 32 * x.bedMode + 128 * tag), BitVec.ofNat 8 bed, BitVec.ofNat 8 shadow]
    ++ leBytes 4 ((p.map (fun p => p.next)).getD 0) ++ leBytes 4 ((p.map (fun p => p.done)).getD 0)
    ++ leBytes 4 ((p.map (fun p => p.descAddr)).getD 0) ++ leBytes 4 src
    ++ leBytes 4 (if shadow = 0 then 0 else blockAddr sh.src sh.off)
    ++ leBytes 4 (if p.isSome ∧ os then accSave x bed else 0) ++ leBytes 4 ((p.map (fun p => f - p.t0)).getD 0)
    ++ List.replicate 28 0
  b ++ leBytes 4 (crc32c b)

/-- The bed's accumulators as they are saved, 9 bytes a cell (R132). -/
def accBytes (p : LivePass) : List Byte := p.cells.flatMap (fun c => leBytes 9 (ofSigned 72 c.sum))

/-- ACLK of the last vector that a pass has injected; 0 with none. -/
def lastIn (p : LivePass) : Nat := if p.next = 0 then 0 else p.t0 + slotOff p.desc p.slow (p.next - 1)

/-- The output-stationary passes whose accumulators a stop saves. -/
def savedPasses (x : Tile) : List LivePass := x.passes.filter (fun p => p.os && p.next != p.vecs.length)

/-- A tile's array has halted and its descriptors are written (R132): every vector injected before F has drained, and the
accumulators are saved at 256 B per ACLK. -/
def tileHalted (x : Tile) (f aclk : Nat) : Bool :=
  let save := ((savedPasses x).map (fun p => 9 * p.size * p.size)).sum
  x.passes.all (fun p => p.next != p.vecs.length
    && decide ((if p.next = 0 then f else lastIn p + drainTail p.desc.sfmt p.size + (if p.os then 0 else 2)) + (save + 255) / 256 ≤ aclk))

/-- A tile writes its accumulators and resume descriptors, its register contents are discarded, and it shows STOPPED (R132). -/
def stopTile (f : Nat) (s : State) (t : Nat) : State :=
  let x := getTile s t
  let s := (savedPasses x).foldl (fun s p => writeSram s t (accSave x p.desc.bed) (accBytes p)) s
  let s := writeSram s t (resumeArea x.fg) ((List.range (bedCount x.bedMode)).flatMap (resumeDesc x f))
  let x := getTile s t
  let s := setTile s t { x with
    fg := { x.fg with resume := resumeArea x.fg },
    stat := x.stat.map (fun e => (e.1, { e.2 with bytes := [] })),
    passes := x.passes.map (fun p => { p with blk := [], cells := p.cells.map (fun c => { c with sum := 0 }) }) }
  evt (incSat s (pgTile t + 0xC4) 1) (pgTile t) 3

/-- STOP_COMPLETE (R132): every bed has written its resume descriptor. A resume asked for before now counts from here (R135). -/
def execStopComplete (n : Nat) (s : State) : Out :=
  let p := getPart s n
  let ts := if headStopped p then fgTiles s n else []
  if p.stop ≠ .stopping ∨ s.clk.aclk < p.stopAt ∨ !ts.all (fun t => tileHalted (getTile s t) p.stopAt s.clk.aclk) then .next s
  else
    let s := ts.foldl (stopTile p.stopAt) s
    .next (setPart s n { getPart s n with stop := .stopped, resumeReq := p.resumeReq.map (fun _ => s.clk.aclk) })

/-- A resume descriptor read back for bed `b` of a bed mode is good: its CHECK holds and no field has a reserved value (R132,
R135). -/
def descGood (mode b : Nat) (bs : List Byte) : Bool :=
  let m := byteFld bs 1 1
  byteFld bs 60 63 == crc32c (bs.take 60) && byteFld bs 0 0 == 1 && (m % 16 == 0 || (statFmt (m % 16)).isSome)
    && fld m 6 5 == mode && byteFld bs 2 2 == b && byteFld bs 3 3 ≤ 2 && (bs.drop 32).take 28 == List.replicate 28 0

/-- The accumulators of a stopped pass read back (R133). -/
def accReload (s : State) (t : Nat) (p : LivePass) : List Cell :=
  let a := accSave (getTile s t) p.desc.bed
  (List.zip (List.range p.cells.length) p.cells).map (fun c =>
    { c.2 with sum := toSigned 72 (leNat (readSram s t (a + 9 * c.1) 9)) })

/-- Every operation of a tile continues as if the stop had lasted exactly `d` ACLK (R133): the remaining slots, loads, owned
banks and written loop registers move by it, and a wait whose counter was satisfied before F. -/
def shiftTile (x : Tile) (f d : Nat) : Tile :=
  { x with
    stat := x.stat.map (fun e => (e.1, { e.2 with loadAt := e.2.loadAt + d, lastSlot := e.2.lastSlot + d })),
    passes := x.passes.map (fun p => { p with t0 := p.t0 + d, last := p.last + d, endAt := p.endAt + d }),
    busy := x.busy.map (fun b => (b.1, if f ≤ b.2 then b.2 + d else b.2)),
    fg := { x.fg with
      lcAt := x.fg.lcAt.map (fun a => a + d),
      readyAt := x.fg.readyAt.map (fun a => if a < f then a + d else a) } }

/-- A tile reloads its blocks and accumulators from their recorded places and its timing shifts by the stop's length (R133). -/
def resumeTile (f d : Nat) (s : State) (t : Nat) : State :=
  let s := reloadBlocks s t
  let x := getTile s t
  let x := { x with passes := x.passes.map (fun p => if p.os && p.next != p.vecs.length then { p with cells := accReload s t p } else p) }
  evt (setTile s t (shiftTile x f d)) (pgTile t) 4

/-- The earliest frame boundary F' of a resume: at least 640 ACLK after its request (R133). -/
def resumeAt (p : Part) : Nat := frameAfter (p.resumeReq.getD 0 + 640)

/-- RESUME_TAKE_EFFECT (R133, R135): at F' every unit of the partition goes on; a bad resume descriptor ends the step. -/
def execResumeTakeEffect (n : Nat) (s : State) : Out :=
  let p := getPart s n
  if p.stop ≠ .stopped ∨ p.resumeReq.isNone ∨ stopWanted p ∨ s.clk.aclk < resumeAt p ∨ s.clk.aclk % 64 ≠ 0 then .next s
  else
    let ts := if headStopped p then fgTiles s n else []
    let bad := ts.find? (fun t => (List.range (bedCount (getTile s t).bedMode)).any (fun b =>
      !descGood (getTile s t).bedMode b (readSram s t ((getTile s t).fg.resume + 64 * b) 64)))
    let s := setPart s n { p with stop := .none, resumeReq := none, stopCause := 0 }
    match bad with
    | some t => .next (callFault s t 0x0205 0)
    | none => .next (ts.foldl (resumeTile p.stopAt (s.clk.aclk - p.stopAt)) s)

/-- FREEZE_SET (R135): BLK_CTRL.FREEZE of a logical tile stops the tile's partition. -/
def execFreezeSet (t : Nat) (s : State) : Out :=
  guardWrite s (pgTile t) (if t ≥ 120 then .next s
  else
    let x := getTile s t
    let s := setRegN s (pgTile t + 8) (setFld (regN s (pgTile t + 8)) 2 2 1)
    let s := setTile s t { x with freeze := true }
    if !x.fg.live then .next s
    else .next (requestStop (setPart s x.fg.part { getPart s x.fg.part with stopFreeze := true }) x.fg.part))

/-- FREEZE_CLEAR (R135): clearing it resumes the partition once no tile of it is frozen. -/
def execFreezeClear (t : Nat) (s : State) : Out :=
  guardWrite s (pgTile t) (if t ≥ 120 then .next s
  else
    let x := getTile s t
    let n := x.fg.part
    let s := setRegN s (pgTile t + 8) (setFld (regN s (pgTile t + 8)) 2 2 0)
    let s := setTile s t { x with freeze := false }
    let still := (partTiles s n).any (fun k => (getTile s k).freeze)
    .next (if x.fg.live ∧ !still then maybeResume (setPart s n { getPart s n with stopFreeze := false }) n else s))

/-- STATIONARY_REFETCH_DONE (R135): the Granary has refetched the damaged stationary lines of a tile from the clean copy,
whose bytes the event brings in the order in which the lines were found bad; a HUSK that awaited its predictor runs. -/
def execStationaryRefetchDone (t : Nat) (data : List Byte) (s : State) : Out :=
  let x := getTile s t
  if x.refetch.isEmpty then .next s
  else
    let n := x.fg.part
    let ls := (List.range x.refetch.length).zip x.refetch
    let s := ls.foldl (fun s l => writeSram s t l.2 (padTo 64 ((data.drop (64 * l.1)).take 64))) s
    let s := incSat (incSat s (pgTile t + 0xC8) x.refetch.length) (pgGrn (t / 60) + 0xC8) x.refetch.length
    let wait := x.huskWait
    let s := reloadBlocks (setTile s t { getTile s t with refetch := [], huskWait := none }) t
    let s := match wait with
      | some i => huskRun s i
      | none => s
    let still := (partTiles s n).any (fun k => !(getTile s k).refetch.isEmpty)
    .next (if still then s else maybeResume (setPart s n { getPart s n with stopParity := false }) n)

/-! ## Admission -/

/-- The context that a step of a partition would run in on a tile (R116): the partition's own where it is resident, else
a free one; `none` where both hold other partitions, or the bank sets meet. -/
def targetRole (s : State) (n : Nat) (q : TileProg) : Option Bool :=
  let x := getTile s q.tile
  if x.switchTo.isSome then none
  else if x.fg.live ∧ x.fg.part = n then (if x.bg.live ∧ Nat.land q.bankSet x.bg.bankSet ≠ 0 then none else some false)
  else if x.bg.live ∧ x.bg.part = n then (if x.fg.live ∧ Nat.land q.bankSet x.fg.bankSet ≠ 0 then none else some true)
  else if !x.fg.live then (if x.bg.live ∧ Nat.land q.bankSet x.bg.bankSet ≠ 0 then none else some false)
  else if !x.bg.live ∧ Nat.land q.bankSet x.fg.bankSet = 0 then some true
  else none

/-- A step of the partition may be prepared: it is the head, not running. -/
def headQueued (p : Part) : Option Step :=
  match p.steps with
  | st :: _ => if st.phase = .queued ∨ st.phase = .replayWait then some st else none
  | [] => none

/-- A step is refused before admission (R307): its error completion, counters and record. -/
def refuseStep (s : State) (n code : Nat) : State :=
  let p := getPart s n
  match p.steps with
  | [] => s
  | st :: r =>
    let t := (tilesOf p.tiles).headD 0
    let s := incSat (errIn s (pgTile t) code (some n) st.num) (pgTile t + 0xCC) 1
    setPart (endStep s n st code true) n { getPart (endStep s n st code true) n with steps := r }

/-- A T0 fill's bytes: job memory through the Granary of the tile's die, or host memory (R177, R399). -/
def t0Data (s : State) (n : Nat) (f : T0Fill) : JobRes × State :=
  if f.host then (.data (readHost s f.addr f.len), inc64 s (pgHost + 0x50) f.len)
  else jobFetch s (f.tile / 60) n f.addr f.len

/-- What a step meets in job memory before admission: an unmapped page refuses it, a LOST grain faults the partition
(R177, R190, R331). -/
def admitObstacle (s : State) (n a : Nat) : JobRes → State
  | .unmapped => refuseStep (grnFault s 0 n 0x0402) n 0x0402
  | .lost x => lostAccess s n x
  | .badTmap => partFault (grnFault s 0 n 0x0405) n 0x0405
  | .uncorr ea g => uncorrGrain s n ea g a
  | _ => s

/-- The banks of a tile that a running step has handed over to the next (R285). -/
def handedOver (c : Ctx) : Nat :=
  match (c.parts.getLast?).map (fun p => p.layer) with
  | some l => c.handover.foldl (fun m h => if l ≥ h.2 then Nat.lor m h.1 else m) 0
  | none => 0

/-- The next T0 fill of a step that is not running and whose tile's context can take it. -/
def openFill (s : State) (n : Nat) (st : Step) : Option (Step × TileProg × T0Fill) :=
  (st.t0.find? (fun f => !f.done)).bind (fun f =>
    (st.progs.find? (fun q => q.tile == f.tile)).bind (fun q => if (targetRole s n q).isNone then none else some (st, q, f)))

/-- The next T0 fill of the step behind a running one, into banks that the running step has handed over (R177, R285). -/
def earlyFill (s : State) (n : Nat) (st : Step) : Option (Step × TileProg × T0Fill) :=
  (st.t0.filter (fun f => !f.done)).findSome? (fun f =>
    (st.progs.find? (fun q => q.tile == f.tile)).bind (fun q =>
      let x := getTile s f.tile
      let c := if x.bg.live && x.bg.part == n then x.bg else x.fg
      let m := hMask (NMap.get (fun _ => 0) q.handles f.handle)
      if c.live ∧ c.part = n ∧ m ≠ 0 ∧ Nat.land m (handedOver c) = m then some (st, q, f) else none))

/-- The T0 fill that the Granaries carry out next for a partition (R177). -/
def nextFill (s : State) (n : Nat) : Option (Step × TileProg × T0Fill) :=
  match headQueued (getPart s n), (getPart s n).steps with
  | some st, _ => openFill s n st
  | none, _ :: st :: _ => if st.phase = .queued then earlyFill s n st else none
  | _, _ => none

/-- T0_FILL_COMPLETE (R177): the oldest T0 fill of a partition's next step is written to tile SRAM, once the previous step
of its context has committed or has handed its banks over (R285). A transposed fill exchanges 64 × 64 squares of rows as
long as the destination's rows. -/
def execT0FillComplete (n : Nat) (s : State) : Out :=
  match nextFill s n with
  | none => .next s
  | some (st, q, f) =>
    match t0Data s n f with
    | (.data d, s) =>
      let h := NMap.get (fun _ => 0) q.handles f.handle
      let d := if f.transpose then transposeSquares f.esize (max 1 (hRow h) * 64) d else d
      let s := writeBuf s f.tile h (64 * f.line) d
      let p := getPart s n
      .next (setPart s n { p with
        steps := p.steps.map (fun x =>
          if x.num = st.num then { x with t0 := x.t0.map (fun y => if y = f then { f with done := true } else y) } else x) })
    | (o, s) => .next (if headQueued (getPart s n) = some st then admitObstacle s n f.addr o else s)

/-- The states of the grains of a step's stream entries (R177). -/
def streamStates (s : State) (n : Nat) (st : Step) : List JobRes := st.streams.flatMap (fun e => rangeState s n e.1 e.2)

/-- A grain that is NONE is filled (R176): into T1 within quota, else into a leased frame. -/
def demandGrain (s : State) (n a : Nat) : State :=
  match walk s 0 n a with
  | .page ea w =>
    if peGrain w (grainOf a) ≠ 0 ∨ migrating s ea (grainOf a) then s
    else startMigration s n (a / 65536 * 65536) (if frameOwned s n w || quotaRoom s (peOwner w) n then 1 else if peDirty w then 3 else 2)
  | _ => s

/-- The NONE grains of a byte range are filled. -/
def demandRange (s : State) (n a len : Nat) : State :=
  (grainPieces (len / 65536 + 2) a len).foldl (fun s p => demandGrain s n p.1) s

/-- NONE grains of a queued step's stream set are filled (R176). -/
def demandFill (s : State) (n : Nat) (st : Step) : State :=
  st.streams.foldl (fun s e => demandRange s n e.1 e.2) s

/-- Conditions 1 to 3 of R177 hold for the head step. -/
def firstThree (s : State) (n : Nat) (st : Step) : Bool :=
  st.t0.all (fun f => f.done) && (streamStates s n st).all (fun r => r == .data [])

/-- Every tile of the step's program is powered (condition 4 of R348). -/
def tilesPowered (s : State) (st : Step) : Bool := st.progs.all (fun q => (getTile s q.tile).powered)

/-- The context already holds the same program (R286). -/
def sameProg (s : State) (n : Nat) (st : Step) (q : TileProg) (bg : Bool) : Bool :=
  let c := ctxOf s q.tile bg
  c.live && c.part == n && c.progId == st.progId && c.check == st.check && c.progBank == q.bank

/-- The pieces of a tile's program in the image. -/
def progPieces (st : Step) (q : TileProg) : List (Nat × Nat) := cutGrains [(st.image + q.off, q.len)]

/-- The programs that a step's contexts do not hold yet: what stands in the way of reading them from the image, if anything does
(R286). -/
def progsReady (s : State) (n : Nat) (st : Step) : Option JobRes × State :=
  let qs := st.progs.filter (fun q => !sameProg s n st q ((targetRole s n q).getD false))
  askPieces (qs.flatMap (progPieces st)) s 0 n

/-- The program is loaded into its context (R286, R287); the load of the bank is skipped where it already holds the same
program. -/
def loadProg (s : State) (n : Nat) (st : Step) (q : TileProg) (bg : Bool) : State :=
  let c := ctxOf s q.tile bg
  let s := if sameProg s n st q bg then s
    else
      match readPieces (progPieces st q) s 0 n with
      | (.data d, s) => writeSram (touchAll s n (progPieces st q)) q.tile (q.bank * 0x90000) d
      | (_, s) => s
  let hand := st.plan.filterMap (fun e => match e with
    | .handover k t m l => if k = st.num ∧ t = q.tile then some (m, l) else none
    | _ => none)
  let c' : Ctx := {
    live := true, part := n, progId := st.progId, check := st.check, step := st.num, seed := st.seed,
    digestEn := bit st.flags 0, bankSet := q.bankSet, progBank := q.bank, codeBundles := q.code, entry := q.entry,
    handles := q.handles, retain := q.retain, pc := q.entry, ctrs := if c.live ∧ c.part = n then c.ctrs else [],
    handover := hand, resume := (q.bank + 1) * 0x90000 - 1024 }
  let x := getTile (setCtx s q.tile bg c') q.tile
  setTile s q.tile { x with
    fgSince := if !bg ∧ !(c.live ∧ c.part = n) then now s else x.fgSince,
    quantumUp := if !bg ∧ !(c.live ∧ c.part = n) then false else x.quantumUp }

/-- The plan table's migrations for the step's admission boundary start (R285, R176). -/
def planMigrate (s : State) (n : Nat) (st : Step) : State :=
  st.plan.foldl (fun s e => match e with
    | .migrate k target grains a =>
      if k ≠ st.num then s
      else (List.range grains).foldl (fun s g => startMigration s n (a + 65536 * g) target) s
    | .handover _ _ _ _ => s) s

/-- Expert slots, message channels and Thresher tables of an admitted step: the table entries whose slots lie in the
partition's FRAME mask of the die (R62, R91, R251). -/
def registerStep (s : State) (n : Nat) (st : Step) : State :=
  let slots := (st.binds.filter (fun b => b.isSlot)).map (fun b => SlotReg.mk n b.tile b.slot b.handle b.stride b.cap b.ctr)
  let chans := (st.binds.filter (fun b => !b.isSlot)).map (fun b =>
    Bind.mk b.slot n false 0 0 b.stride b.cap 0 b.tile b.handle b.ctr (roleOf s b.tile n) false [])
  let s := { s with
    sheaf := { s.sheaf with slots := s.sheaf.slots.filter (fun r => r.part != n) ++ slots },
    host := { s.host with binds := s.host.binds.filter (fun b => b.host || b.part != n) ++ chans } }
  let p := getPart s n
  st.slots.foldl (fun s u =>
    let frame := if u.1 < 4 then p.frame0 else p.frame1
    let put := fun (m : NMap Nat) (es : List Nat) => (List.range 64).foldl (fun m i =>
      if bit frame i then NMap.set (fun _ => 15) m (u.1 * 64 + i) (es.getD i 15) else m) m
    { s with thr := { s.thr with ingress := put s.thr.ingress u.2.1, return' := put s.thr.return' u.2.2 } }) s

/-- ACLK offset between counted edges and delivered edges. -/
def withheld (s : State) : Nat := s.clk.edge - s.clk.aclk

/-- The ACLK in which a step admitted now starts: the first frame boundary at least 64 ACLK later (R301), and with
DET_MODE set an epoch boundary too, or the first frame boundary after one under stretch (R314, R353). -/
def startDue (s : State) : Nat :=
  let d := frameAfter (s.clk.aclk + 64)
  if !detMode s then d
  else
    let e := s.fuse.grade.epoch / s.fuse.grade.aclkDiv
    frameAfter (roundUp (d + withheld s) e - withheld s)

/-- A step's admission set names a grain in T2 or of a page with a remote home (R315). -/
def namesAway (s : State) (n : Nat) (st : Step) : Bool :=
  (st.streams.flatMap (fun e => grainsOf (grainPieces (e.2 / 65536 + 2) e.1 e.2))).any (fun a =>
    match walk s 0 n a with
    | .page _ w => peHomeDev w != myDev s || (match locate w a with
      | .inl _ => true
      | .inr _ => false)
    | _ => false)

/-- STEP_ADMIT (R177): a queued step is admitted once its T0 fills, its stream grains and energy admission are satisfied;
an unmapped or LOST grain ends it at once. -/
def execStepAdmit (n : Nat) (s : State) : Out :=
  let p := getPart s n
  match p.steps with
  | [] => .next s
  | st :: _ =>
    if st.phase ≠ .queued ∨ p.state ≠ .opened then .next s
    else
      let s := st.streams.foldl (fun s e => noteRange s 0 n e.1 e.2) s
      match (streamStates s n st).find? (fun r => match r with
        | .unmapped | .badTmap | .lost _ => true
        | _ => false) with
      | some r => .next (admitObstacle s n 0 r)
      | none =>
        if !firstThree s n st ∨ !st.energyOk ∨ !st.progs.all (fun q => (targetRole s n q).isSome) then
          .next (demandFill s n st)
        else
          match progsReady s n st with
          | (none, s) =>
            let s := st.progs.foldl (fun s q => loadProg s n st q ((targetRole s n q).getD false)) s
            let s := dropT2 s 0 n (st.progs.flatMap (progPieces st))
            let s := registerStep (planMigrate s n st) n st
            .next (mapHead s n (fun x => { x with
              phase := .admitted, admittedAt := now s, admitAclk := s.clk.aclk, startAt := some (startDue s),
              unclean := x.unclean || namesAway s n st }))
          | (some (.wait _ _), s) => .next (demandRange s n st.image st.imageBytes)
          | (some o, s) => .next (admitObstacle s n st.image o)

/-- The restart record of ENTRY (R332). -/
def entryRecord (c : Ctx) : Restart :=
  { layer := none, pc := c.entry, lc := [0, 0, 0, 0, 0, 0, 0, 0], ctrs := c.ctrs, effects := 0, syncs := 0 }

/-- The step's program is the foreground of each of its tiles. -/
def inForeground (s : State) (n : Nat) (st : Step) : Bool :=
  st.progs.all (fun q => let c := (getTile s q.tile).fg; c.live && c.part == n && c.step == st.num)

/-- STEP_START (R301, R314): the step starts on every tile of its partition in the same ACLK. -/
def execStepStart (n : Nat) (s : State) : Out :=
  let p := getPart s n
  match p.steps.head? with
  | none => .next s
  | some st =>
    match st.startAt with
    | none => .next s
    | some a =>
      if st.phase ≠ .admitted ∨ s.clk.aclk < a ∨ p.stop ≠ .none ∨ !inForeground s n st then .next s
      else
        let s := st.progs.foldl (fun s q =>
          let c := (getTile s q.tile).fg
          setFg s q.tile { c with
            pc := c.entry, lc := [0, 0, 0, 0, 0, 0, 0, 0], lcAt := [0, 0, 0, 0, 0, 0, 0, 0],
            restarts := [entryRecord c] }) s
        .next (mapHead s n (fun x => { x with phase := .running, startAclk := a, startAt := none, unclean := x.unclean || s.clk.stretch != 0 }))

/-! ## Poison and replay -/

/-- The restart record of a context: that of the last layer that committed, or ENTRY (R333). -/
def restartOf (c : Ctx) (done : List Nat) : Restart :=
  ((c.restarts.filter (fun r => match r.layer with
    | some l => done.contains l
    | none => true)).head?).getD (entryRecord c)

/-- A tile abandons its static work and its unpublished records (R333): what its restart matches is counted (R334). -/
def haltCtx (c : Ctx) (done : List Nat) : Ctx :=
  let r := restartOf c done
  { c with
    matched := c.effects - r.effects, syncMatched := c.syncs - r.syncs, loops := [], jump := none, windows := [],
    waiting := none, readyAt := none, committing := none, husk := [], listLens := [], huskDone := [], tally := {}, crc := 0, crcLen := 0, ended := false,
    parts := c.parts.filter (fun p => done.contains p.layer), lastLayer := r.layer }

/-- Restart records of committed layers whose parity fails, the newest `k`, are given up: counted (R340). -/
def dropRecords (s : State) (t k : Nat) (done : List Nat) : State :=
  let c := (getTile s t).fg
  let bad := (c.restarts.filter (fun r => r.layer.any (fun l => done.contains l))).take k
  bad.foldl (fun s _ => evt (incSat s (pgTile t + 0xBC) 1) (pgTile t) 1)
    (setFg s t { c with restarts := c.restarts.filter (fun r => !bad.contains r) })

/-- Some tile of a partition restarts from ENTRY (R333). -/
def fromEntry (s : State) (n : Nat) (done : List Nat) : Bool :=
  (fgTiles s n).any (fun t => (restartOf (getTile s t).fg done).layer.isNone)

/-- POISON_HALT (R333, R336): every tile of the partition halts at the frame boundary; the fourth poison of a layer ends the
step. `h.bad` names tiles with how many of their restart records fail parity, the newest first (R340). -/
def execPoisonHalt (h : PoisonedPart) (s : State) : Out :=
  let n := h.part
  let p := getPart s n
  match p.steps.head? with
  | none => .next s
  | some st =>
    if st.phase ≠ .halting ∨ s.clk.aclk < poisonHaltAt st then .next s
    else if st.layerReplays ≥ 3 then
      let t := (fgTiles s n).headD 0
      .next (endHead (errIn s (pgTile t) 0x0214 (some n) st.num) n 0x0214)
    else
      let s := settleHolds s n
      let st := ((getPart s n).steps.head?).getD st
      let s := (h.bad.filter (fun b => (fgTiles s n).contains b.1)).foldl (fun s b => dropRecords s b.1 b.2 st.layersDone) s
      let entry := fromEntry s n st.layersDone
      let s := (fgTiles s n).foldl (fun s t =>
        let s := restoreHusk s t (restartOf (getTile s t).fg st.layersDone).layer
        let x := getTile s t
        setTile s t { x with
          fg := haltCtx x.fg st.layersDone, stat := [], tags := [], passes := [], busy := [], huskWait := none }) s
      .next (mapHead s n (fun x => { x with
        phase := .replayWait, haltAt := poisonHaltAt st, redelivered := x.damaged.isEmpty,
        t0 := if entry then x.t0.map (fun f => { f with done := false }) else x.t0 }))

/-- A buffer of a handle entry holds an SRAM address. -/
def holdsAddr (h a : Nat) : Bool := h != 0 && (List.range (hLines h)).any (fun l => lineAddr h l ≤ a && a < lineAddr h l + 64)

/-- The arrival buffers of a tile that hold an address: those named by the arm records of its restart record and of the uncommitted
layer (R298, R335). -/
def armedAt (s : State) (t a : Nat) (done : List Nat) : List Nat :=
  let c := (getTile s t).fg
  ((c.ctrs ++ (restartOf c done).ctrs).flatMap (fun e => if e.2.kind = 0 then [e.2.handleA, e.2.handleB] else [])).filterMap (fun k =>
    let h := NMap.get (fun _ => 0) c.handles k
    if holdsAddr h a then some h else none)

/-- The landed units of the buffers that hold a damaged address (R335). -/
def unitsAt (s : State) (t a : Nat) (done : List Nat) : List Unit :=
  let hs := armedAt s t a done
  s.kept.filter (fun u => u.tile == t && (match u.direct with
    | some d => hs.any (fun h => holdsAddr h d)
    | none => hs.contains (unitHandle s u)))

/-- A damaged line of a program bank is loaded again from the image's PBANK section (R335). -/
def reloadProgram (s : State) (n : Nat) (st : Step) (t a : Nat) : State :=
  match st.progs.find? (fun q => q.tile == t && q.bank * 0x90000 ≤ a && a < q.bank * 0x90000 + q.len) with
  | none => s
  | some q =>
    let l := a / 64 * 64
    let off := l - q.bank * 0x90000
    match readPieces (cutGrains [(st.image + q.off + off, min 64 (q.len - off))]) s 0 n with
    | (.data d, s) => writeSram s t l d
    | (_, s) => s

/-- REDELIVERY_COMPLETE (R335): the delivering blocks' copies of the damaged units are written to the same places again, and
damaged lines of program banks are loaded again; counters keep their values. -/
def execRedeliveryComplete (n : Nat) (s : State) : Out :=
  match (getPart s n).steps.head? with
  | none => .next s
  | some st =>
    if st.phase ≠ .replayWait ∨ st.redelivered then .next s
    else
      let s := st.damaged.foldl (fun s d => (unitsAt s d.1 d.2 st.layersDone).foldl writeUnit (reloadProgram s n st d.1 d.2)) s
      .next (mapHead s n (fun x => { x with redelivered := true, damaged := [] }))

/-- Energy admission of a replay (R333, R348, R349): tested with its whole ENERGY beside the other admitted steps; alone on the
device it passes conditions 2 and 3 anyway. -/
def replayEnergy (s : State) (n : Nat) (st : Step) : Bool :=
  let others := (energySteps s).filter (fun x => x.1 != n || x.2.num != st.num)
  !s.gate.hold && tilesPowered s st && (others.isEmpty || fits s others st.rate st.peak)

/-- REPLAY_ADMIT (R333): the replay is admitted on conditions 2 to 4 of R177, with its T0 fills where it restarts at ENTRY;
the wait counts under POISON_REPLAY. -/
def execReplayAdmit (n : Nat) (s : State) : Out :=
  match (getPart s n).steps.head? with
  | none => .next s
  | some st =>
    if st.phase ≠ .replayWait ∨ !st.redelivered ∨ !firstThree s n st ∨ !replayEnergy s n st then
      .next (if st.phase = .replayWait then demandFill s n st else s)
    else
      let w := s.clk.aclk - st.poisonAclk
      let s := incSat s (pgDev + 0x60) 1
      let s := [0, 1].foldl (fun s d => inc64 (inc64 s (pgGrn d + 0x60) w) (pgGrn d + 0xB8) w) s
      let p := getPart s n
      let s := setPart s n { p with hsrAdmit := p.hsrAdmit + w, hsrCause := p.hsrCause.set 10 (p.hsrCause.getD 10 0 + w) }
      .next (mapHead s n (fun x => { x with
        phase := .restarting, startAt := some (startDue s), replays := x.replays + 1, layerReplays := x.layerReplays + 1,
        admitWait := x.admitWait.set 10 (x.admitWait.getD 10 0 + w) }))

/-- REPLAY_RESTART (R333, R334): every tile restarts from the restart record of the last layer that committed, or from
ENTRY; counters keep what has landed in them. -/
def execReplayRestart (n : Nat) (s : State) : Out :=
  let p := getPart s n
  match p.steps.head? with
  | none => .next s
  | some st =>
    match st.startAt with
    | none => .next s
    | some a =>
      if st.phase ≠ .restarting ∨ s.clk.aclk < a then .next s
      else
        let s := (fgTiles s n).foldl (fun s t =>
          let c := (getTile s t).fg
          let r := restartOf c st.layersDone
          setFg s t { c with
            pc := r.pc, lc := r.lc, lcAt := [0, 0, 0, 0, 0, 0, 0, 0], effects := r.effects, syncs := r.syncs }) s
        .next (mapHead s n (fun x => { x with phase := .running, startAt := none }))

/-! ## Contexts -/

/-- QUANTUM_EXPIRY (R304): the quantum of the foreground program of a tile has ended. -/
def execQuantumExpiry (t : Nat) (s : State) : Out :=
  let x := getTile s t
  let q := max 1 (getPart s x.fg.part).quantum
  whenOk (x.fg.live && now s ≥ x.fgSince + 1000000 * q) s (setTile s t { x with quantumUp := true })

/-- The partitions with a step waiting for a tile, by rank and index (R304, R422), other than `n`. -/
def waitingFor (s : State) (t n : Nat) : List Nat :=
  sortBy (fun m => (getPart s m).rank * 4 + m) ((List.range 4).filter (fun m => m != n &&
    (match (getPart s m).steps.head? with
      | some st => (st.phase == .queued || st.phase == .admitted) && bit st.tiles t
      | none => false)))

/-- At a step boundary of its foreground a tile goes over to another partition's program where one waits and the quantum
has ended, or the partition has no step (R304, R305): to the resident background context at no cost, or by a save. -/
def switchTile (s : State) (t n : Nat) : State :=
  let x := getTile s t
  if !(x.fg.live && x.fg.part == n) ∨ x.switchTo.isSome then s
  else if !(getPart s n).steps.isEmpty ∧ !x.quantumUp then s
  else
    match waitingFor s t n with
    | [] => s
    | m :: _ =>
      if x.bg.live ∧ x.bg.part = m then
        let s := swapRoles s t
        setTile s t { getTile s t with stat := [], tags := [], passes := [], busy := [], fgSince := now s, quantumUp := false }
      else setTile s t { x with switchTo := some m }

/-- The stall cause of a delivery to a tile's foreground that is in progress at its source, which holds a save back (R305). -/
def pendingCause (s : State) (t : Nat) : Option Nat :=
  match (inFlight s).find? (fun u => u.tile == t && !u.bg) with
  | some u => some u.cause
  | none =>
    let c := (getTile s t).fg
    let armed := fun (h : Nat) => c.ctrs.any (fun e => ctrOwns c e.2 != 0 && (e.2.handleA == h || e.2.handleB == h))
    match s.grn.reqs.find? (fun r => r.tile == t && !r.bg && armed r.handle) with
    | some r => some (max 1 r.cause)
    | none => (s.grn.stores.find? (fun r => r.tile == t && !r.bg && r.resp.isNone)).map (fun r => max 1 r.cause)

/-- Bytes of a tile's save area (R305). -/
def saveAreaBytes : Nat := 9502720

/-- The 1,024 bytes of the counters in a save area: value, target and arm record of each (R305). -/
def saveCtrs (c : Ctx) : List Byte :=
  (List.range 32).flatMap (fun k =>
    let x := getCtr c k
    leBytes 4 x.value ++ leBytes 4 x.target
      ++ leBytes 16 (x.handleA + x.handleB * 256 + x.kind * 65536 + x.target * 2 ^ 32) ++ leBytes 8 x.released)

/-- Banks of a context other than its program bank, ascending (R305). -/
def saveBanks (c : Ctx) : List Nat := (List.range 16).filter (fun b => bit c.bankSet b && b != c.progBank)

/-- The stream contexts of a tile's Thresher that a partition opened from the tile, by context (R81, R116). -/
def tileStreams (s : State) (t n : Nat) : List (Nat × Stream) :=
  (List.range 4).filterMap (fun c =>
    match NMap.find s.thr.streams (t / 15 * 4 + c) with
    | some x => if x.part = n ∧ x.tile = t then some (c, x) else none
    | none => none)

/-- A stream context in a save area: 16 bytes of context (bit 7 set), entries held, K and next id, then 1,024 entries of 12 bytes
(log entry 66). -/
def streamBytes (c : Nat) (x : Stream) : List Byte :=
  padTo 12304 ([BitVec.ofNat 8 (128 + c), 0] ++ leBytes 2 x.ents.length ++ leBytes 4 x.k ++ leBytes 8 x.nextId
    ++ x.ents.flatMap (fun e => leBytes 8 e.1 ++ leBytes 4 e.2))

/-- A tile's save area (R305): the CRC-32C is taken with its own four bytes as zero (log entry 66). -/
def saveArea (s : State) (t : Nat) : List Byte :=
  let c := (getTile s t).fg
  let banks := (saveBanks c).flatMap (fun b => readSram s t (b * 0x90000) 0x90000)
  let streams := padTo (65536 - 64 - 1024) ((tileStreams s t c.part).flatMap (fun x => streamBytes x.1 x.2))
  let mk := fun (crc : Nat) => padTo 64 (leBytes 4 c.progId ++ leBytes 4 c.check ++ leBytes 4 c.bankSet ++ leBytes 4 c.step
    ++ leBytes 4 crc) ++ saveCtrs c ++ streams ++ banks
  mk (crc32c (mk 0))

/-- The stream contexts leave the Thresher with the context that is saved. -/
def dropStreams (s : State) (t n : Nat) : State :=
  { s with thr := { s.thr with streams := (tileStreams s t n).foldl (fun m x => NMap.del m (t / 15 * 4 + x.1)) s.thr.streams } }

/-- The stream contexts of a save area return to the Thresher (R81). -/
def restoreStreams (s : State) (t n : Nat) (bs : List Byte) : State :=
  (List.range 4).foldl (fun s i =>
    let b := (bs.drop (1088 + 12304 * i)).take 12304
    let c := byteFld b 0 0
    if c < 128 then s
    else
      let es := (List.range (byteFld b 2 3)).map (fun k => (byteFld b (16 + 12 * k) (23 + 12 * k), byteFld b (24 + 12 * k) (27 + 12 * k)))
      let x : Stream := ⟨n, t, byteFld b 4 7, byteFld b 8 15, es⟩
      { s with thr := { s.thr with streams := NMap.put s.thr.streams (t / 15 * 4 + c % 4) x } }) s

/-- A save area read back holds its CRC-32C. -/
def areaGood (bs : List Byte) : Bool := byteFld bs 16 19 == crc32c (bs.take 16 ++ [0, 0, 0, 0] ++ bs.drop 20)

/-- The T1 place of a tile's save area in the job memory of a partition (R305). -/
def areaAddr (s : State) (t m : Nat) : Nat := (getPart s m).saveBase + t * saveAreaBytes

/-- The save area of the context that comes in, read through the Granary; nothing where the partition has none. -/
def incoming (s : State) (t m : Nat) : JobRes × State :=
  match NMap.find (getTile s t).saved m with
  | none => (.data [], s)
  | some c => jobFetch s (t / 60) m (areaAddr s t m) (65536 + 0x90000 * (saveBanks c).length)

/-- The restored context's banks are written from its save area, or its next step ends with 0x0208 (R305, R307). -/
def restoreTile (s : State) (t m : Nat) (r : JobRes) : State :=
  match NMap.find (getTile s t).saved m with
  | none => setTile s t { getTile s t with fg := { part := m }, stat := [], tags := [], passes := [], busy := [], fgSince := now s, quantumUp := false }
  | some c =>
    let x := getTile s t
    let s := setTile s t { x with
      fg := c, stat := [], tags := [], passes := [], busy := [], saved := NMap.del x.saved m, fgSince := now s, quantumUp := false }
    match r with
    | .data bs =>
      if !areaGood bs then refuseStep (setFg s t {}) m 0x0208
      else
        let s := restoreStreams s t m bs
        ((List.range (saveBanks c).length).zip (saveBanks c)).foldl (fun s b =>
          writeSram s t (b.2 * 0x90000) ((bs.drop (65536 + 0x90000 * b.1)).take 0x90000)) s
    | o => admitObstacle s m (areaAddr s t m) o

/-- CONTEXT_SAVE_COMPLETE (R305): the foreground of a tile is saved, once no delivery for it is in progress, and the
incoming context is restored into the banks. A grain of either area that is in no tier is filled first (R176). -/
def execContextSaveComplete (t : Nat) (s : State) : Out :=
  let x := getTile s t
  match x.switchTo with
  | none => .next s
  | some m =>
    if (pendingCause s t).isSome then .next s
    else
      let n := x.fg.part
      match incoming s t m with
      | (.wait _ _, s) => .next (demandRange s m (areaAddr s t m) saveAreaBytes)
      | (r, s) =>
        match jobPut s (t / 60) n (areaAddr s t n) (saveArea s t) with
        | (.data _, s) =>
          let s := dropStreams s t n
          let x := getTile s t
          .next (restoreTile (setTile s t { x with switchTo := none, saved := NMap.put x.saved n x.fg }) t m r)
        | (.wait _ _, s) => .next (demandRange s n (areaAddr s t n) saveAreaBytes)
        | (o, s) => .next (admitObstacle s n (areaAddr s t n) o)

end Sys2Proof.Machine
end

