-- ==== Sys2Proof/Machine/Comm.lean ====
section
/-!
DEFINITION. Communicators (R257, R258) and reads of job memory that leave no trace.
-/

namespace Sys2Proof.Machine

open Sys2Proof Sys2Proof.Config

/-- Bytes of job memory as they stand in this device's T1, without an access being counted; 0 where none is readable. -/
def jobPeek (s : State) (n a len : Nat) : List Byte :=
  (grainPieces (len / 65536 + 2) a len).flatMap (fun p =>
    match walk s 0 n p.1 with
    | .page _ w =>
      match locate w p.1 with
      | .inr t => t1Raw s t p.2
      | _ => List.replicate p.2 0
    | _ => List.replicate p.2 0)

/-- A communicator's entry (R257). -/
def commEntry (s : State) (c : Nat) : Nat := if c < 4096 then NMap.get (fun _ => 0) s.pav.comms c else 0

/-! The fields of an entry (R257). -/

def ceMask (e : Nat) : Nat := fld e 63 0
def ceStamp (e : Nat) : Nat := fld e 79 64

/-- The entry is VALID; one with a reserved field that is not 0 defines no communicator (R5, R257). -/
def ceValid (e : Nat) : Bool :=
  bit e 80 && fld e 95 83 == 0 && fld e 127 112 == 0 && fld e 191 176 == 0 && fld e 511 192 == 0

def cePart (e : Nat) : Nat := fld e 82 81
def ceArbs (e : Nat) : Nat := fld e 111 96
def ceList (e : Nat) : Nat := fld e 175 128

/-- The local members of an entry, ascending. -/
def ceDevs (e : Nat) : List Nat := (List.range 64).filter (fun d => bit (ceMask e) d)

/-- The Arbours that a communicator spans, ascending (R257): its own alone where N_ARB is 1. -/
def commArbs (s : State) (e : Nat) : List Nat :=
  if ceArbs e ≤ 1 then [myArb s]
  else (chunks 2 (jobPeek s (cePart e) (ceList e) (2 * min 1024 (ceArbs e)))).map leNat

/-- The members as Arbour and device, by rank (R258). Devices of another Arbour are taken to sit at the indices of this
Arbour's members (log entry 53). -/
def commMembers (s : State) (e : Nat) : List (Nat × Nat) :=
  (commArbs s e).flatMap (fun a => (ceDevs e).map (fun d => (a, d)))

/-- The entry is VALID, is the partition's and holds this device in its mask (R110, R279). -/
def commGood (s : State) (c part : Nat) : Bool :=
  let e := commEntry s c
  ceValid e && cePart e == part && bit (ceMask e) (myDev s)

end Sys2Proof.Machine
end

