-- ==== Sys2Proof/Machine/SheafCore.lean ====
section
/-!
DEFINITION. What the commands of the Sheaf engine share: instances, control payloads, faults, the Expert Placement Table,
flow contexts, staging, spilling and grants (R84 to R111).
-/

namespace Sys2Proof.Machine

open Sys2Proof Sys2Proof.Config

/-! ## Instances -/

/-- The instance of a name (R84). -/
def shFind (s : State) (c q : Nat) : Option ShInst := s.sheaf.insts.find? (fun i => i.comm == c && i.seq == q)

/-- An instance replaced, by its name. -/
def shSet (s : State) (i : ShInst) : State :=
  { s with sheaf := { s.sheaf with insts := s.sheaf.insts.map (fun x => if x.comm = i.comm ∧ x.seq = i.seq then i else x) } }

/-- An instance's name leaves, with its contexts, fetches and held transfers (R93, R110). -/
def shDrop (s : State) (c q : Nat) : State := dropInsts s (fun x => x.comm == c && x.seq == q)

/-- The protocol of an instance's packets (R217): SHEAF for a dispatch, POOL for EMBAG and ROWUPD. -/
def shProto (i : ShInst) : Nat := if i.kind = 0 then 1 else 2

/-- The stamp of an instance's packets: that of its communicator. -/
def shStamp (s : State) (i : ShInst) : Nat := ceStamp (commEntry s i.comm)

/-- A Sheaf header (R95). -/
def shHeader (seq comm : Nat) (final : Bool) (nrec kind : Nat) : Nat :=
  seq % 2 ^ 32 * 2 ^ 32 + comm % 65536 * 65536 + b2n final * 2048 + nrec % 8 * 256 + kind % 256

/-- The other end's record in an instance. -/
def shPeer (i : ShInst) (a d : Nat) : Option ShPeer := i.peers.find? (fun p => p.arb == a && p.dev == d)

/-- The record of another member changed. -/
def mapPeer (i : ShInst) (a d : Nat) (f : ShPeer → ShPeer) : ShInst :=
  { i with peers := i.peers.map (fun p => if p.arb = a ∧ p.dev = d then f p else p) }

/-- A control payload leaves for a member with its number (R95): 48 bytes, up to five records. -/
def shSendCtl (s : State) (i : ShInst) (a d kind : Nat) (final : Bool) (recs : List Nat) : ShInst × State :=
  let n := ((shPeer i a d).map (fun p => p.sentNo)).getD 0
  let body := padTo 48 (leBytes 8 (shHeader i.seq i.comm final recs.length kind) ++ recs.flatMap (leBytes 8))
  let s := send s { mkPkt s (shProto i) (shStamp s i) a d with msgId := n, body := body }
  (mapPeer i a d (fun p => { p with sentNo := (n + 1) % 65536 }), s)

/-- Records for a member in payloads of at most five; the last carries FINAL where asked. -/
def shSendRecs : Nat → State → ShInst → Nat → Nat → Nat → Bool → List Nat → ShInst × State
  | 0, s, i, _, _, _, _, _ => (i, s)
  | f + 1, s, i, a, d, kind, final, recs =>
    if recs.length ≤ 5 then
      if recs.isEmpty ∧ !final then (i, s) else shSendCtl s i a d kind final recs
    else
      let r := shSendCtl s i a d kind false (recs.take 5)
      shSendRecs f r.2 r.1 a d kind final (recs.drop 5)

/-- Records for a member. -/
def shRecs (s : State) (i : ShInst) (a d kind : Nat) (final : Bool) (recs : List Nat) : ShInst × State :=
  shSendRecs (recs.length + 1) s i a d kind final recs

/-- Progress of an instance is noted (R277). -/
def shTouch (s : State) (i : ShInst) : ShInst := { i with prog := now s }

/-! ## Faults (R110) -/

/-- A dispatch or instance fault's record: counted, the first one captured, with its event (R110, R111). -/
def shCount (s : State) (c q part code : Nat) : State :=
  let s := if ctr32 s (pgShf + 0x90) = 0 then setRegN s (pgShf + 0x16C) (c % 65536 * 65536 + q % 65536) else s
  let s := incSat s (pgShf + 0x90) 1
  errIn (evt s pgShf 0) pgShf code (some part) ((((getPart s part).steps.head?).map (fun x => x.num)).getD 0)

/-- A fault at issue ends the issuing step alone; instances in progress stay (R110). -/
def shIssueFault (s : State) (c q part code : Nat) : State := endHeadWith false (shCount s c q part code) part code

/-- ABORT to every other member, by unicast (R110). -/
def shAbortAll (s : State) (i : ShInst) (code : Nat) : State :=
  (i.peers.foldl (fun (r : ShInst × State) p =>
    if p.arb = myArb s ∧ p.dev = myDev s then r else shSendCtl r.2 r.1 p.arb p.dev 7 true [code]) (i, s)).2

/-- An instance ends here with a code, and the step that issued it where it is still under way (R110). -/
def shEnd (s : State) (i : ShInst) (code : Nat) : State :=
  endStepOf (shDrop (shCount s i.comm i.seq i.part code) i.comm i.seq) i.part i.step code

/-- An instance fault: ABORT to the other members, and the issuing step ends with the code (R110). -/
def shFault (s : State) (i : ShInst) (code : Nat) : State := shEnd (shAbortAll s i code) i code

/-- A fault of a decision, DSEND or RETURN that names no instance in progress falls on the partition's latest dispatch instance; with
none, on the step alone (R110; log entry 47). -/
def shStray (s : State) (part code : Nat) : State :=
  match (s.sheaf.insts.filter (fun i => i.kind == 0 && i.part == part)).getLast? with
  | some i => shFault s i code
  | none => shIssueFault s 0 0 part code

/-- A payload is discarded and counted (R110). -/
def shOrphan (s : State) : State := incSat s (pgShf + 0x88) 1

/-- A malformed payload or record is discarded with 0x0611 (R110). -/
def shMalformed (s : State) : State := err (shOrphan s) pgShf 0x0611

/-- A parity error in a Sheaf word poisons the step (R110, R333). -/
def shParity (s : State) (part code : Nat) : State :=
  poison (errIn (evt (incSat s (pgShf + 0x94) 1) pgShf 3) pgShf code (some part) 0) part code

/-! ## Expert Placement Table (R87 to R90) -/

/-- The bank that is active for a partition's range. -/
def eptActive (s : State) (part : Nat) : Nat := b2n (bit (regN s (pgShf + 0x104)) part)

/-- An EPT entry as a partition's decisions see it; one that failed parity reads invalid. -/
def eptRead (s : State) (part idx : Nat) : Nat :=
  let k := eptActive s part * 65536 + idx
  if NMap.get (fun _ => false) s.sheaf.eptBad k then 0 else NMap.get (fun _ => 0) s.sheaf.ept k

def eptValid (e : Nat) : Bool := bit e 127
def eptNrep (e : Nat) : Nat := fld e 126 125
def eptCap (e : Nat) : Nat := fld e 123 112
def repField (e r : Nat) : Nat := fld e (24 * r + 23) (24 * r)
def repDev (x : Nat) : Nat := fld x 23 18
def repTile (x : Nat) : Nat := fld x 17 11
def repSlot (x : Nat) : Nat := fld x 10 7

/-- A reserved bit of an entry is set (R87). -/
def eptMalformed (e : Nat) : Bool :=
  bit e 124 || fld e 111 96 != 0
    || (List.range 4).any (fun r => if r ≤ eptNrep e then fld (repField e r) 6 0 != 0 else repField e r != 0)

/-- An index lies in a partition's range (R89). -/
def inRange (s : State) (part idx : Nat) : Bool :=
  let r := regN s (pgShf + 0x138 + 4 * part)
  fld r 7 0 * 256 ≤ idx && idx < (fld r 7 0 + fld r 24 16) * 256

/-- The code with which a lookup faults; 0 for none (R89, R92, R100). -/
def eptFault (s : State) (part idx : Nat) : Nat :=
  if !inRange s part idx then 0x0603
  else if !eptValid (eptRead s part idx) || eptMalformed (eptRead s part idx) then 0x0602 else 0

/-- The replica of a pair (R88). -/
def pickRep (seed token expert nrep : Nat) : Nat := h64 seed token expert 0 % (nrep + 1)

/-- A partition's step boundary at or after the swap step exchanges an armed range's banks, or defers it while a copy or an indexed
write into the range is in progress (R90). -/
def eptSwap (s : State) (n step : Nat) : State :=
  let c := regN s (pgShf + 0x104)
  if !bit c (4 + n) ∨ step < regN s (pgShf + 0x128 + 4 * n) then s
  else if (s.sheaf.load.map (fun l => l.1)) = some n ∨ s.sheaf.eptPart = some n then incSat s (pgShf + 0x8C) 1
  else evt (setRegN s (pgShf + 0x104) (setFld (setFld c n n (1 - b2n (bit c n))) (4 + n) (4 + n) 0)) pgShf 5

/-! ## Flow contexts (R93, R94) -/

/-- What an access to a flow context meets. -/
inductive CtxRes where
  | here | fetch | full
  deriving DecidableEq, Repr

/-- Contexts that the spill region's table holds beyond the hardware's (R94). The spill region's room for the context table and that
for spilled blocks are each taken as the whole region, and resident contexts take no room of the table. DESIGN CHOICE (log entry 108). -/
def ctxTable (s : State) : Nat := regN s (pgShf + 0x160) * 16384

/-- A context becomes the most recently used resident one; the oldest of a full cache is evicted. -/
def ctxUse (s : State) (x : CtxId) : State :=
  let lim := min 16384 (getPart s x.part).contexts
  let others := s.sheaf.resident.filter (fun y => y != x)
  let mine := (others.filter (fun y => y.part == x.part)).take (lim - 1)
  let rest := others.filter (fun y => y.part != x.part || mine.contains y)
  { s with sheaf := { s.sheaf with resident := if lim = 0 then rest else x :: rest.take 16383 } }

/-- Reads of contexts outstanding. -/
def fetchesOut (s : State) : Nat := ((s.sheaf.fetches.filter (fun f => f.since.isSome)).map (fun f => f.ctx)).eraseDups.length

/-- Reads of contexts leave while fewer than 64 are outstanding, each counted (R94). -/
def fetchPump (s : State) : State :=
  s.sheaf.fetches.foldl (fun s f =>
    let mark := fun (s : State) (a : Nat) => { s with
      sheaf := { s.sheaf with fetches := s.sheaf.fetches.map (fun g => if g.ctx = f.ctx then { g with since := some a } else g) } }
    if f.since.isSome then s
    else
      match (s.sheaf.fetches.find? (fun g => g.ctx == f.ctx && g.since.isSome)).bind (fun g => g.since) with
      | some a => mark s a
      | none => if fetchesOut s < 64 then mark (incSat s (pgShf + 0x80) 1) s.clk.aclk else s) s

/-- An access to a context: resident, allocated, to be fetched with the record waiting, or with no room (R94, R110). -/
def ctxAccess (s : State) (x : CtxId) (w : CtxWork) : CtxRes × State :=
  if s.sheaf.resident.contains x then (.here, ctxUse s x)
  else if s.sheaf.ctxs.contains x then
    (.fetch, fetchPump { s with sheaf := { s.sheaf with fetches := s.sheaf.fetches ++ [⟨x, w, none⟩] } })
  else
    let t := ctxUse { s with sheaf := { s.sheaf with ctxs := x :: s.sheaf.ctxs } } x
    if t.sheaf.ctxs.length > t.sheaf.resident.length + ctxTable s then (.full, soilSteps s) else (.here, t)

/-- An access to a context that need not exist: true where the record can be handled now; else it waits for the fetch. -/
def ctxTouch (s : State) (x : CtxId) (w : CtxWork) : Bool × State :=
  if !s.sheaf.ctxs.contains x then (true, s)
  else
    match ctxAccess s x w with
    | (.fetch, s) => (false, s)
    | (_, s) => (true, s)

/-- A record of an instance of a kind waits for its context. -/
def waitsCtx (s : State) (i : ShInst) (k : CtxFetch → Bool) : Bool :=
  s.sheaf.fetches.any (fun f => f.ctx.comm == i.comm && f.ctx.seq == i.seq && k f)

/-- The work is a pair, a count record, a grant record. -/
def isPairWork (f : CtxFetch) : Bool := match f.work with
  | .pair _ => true
  | _ => false
def isCountWork (f : CtxFetch) : Bool := match f.work with
  | .count _ => true
  | _ => false
def isGrantWork (f : CtxFetch) : Bool := match f.work with
  | .grant _ _ _ => true
  | _ => false

/-! ## Buffers and spill (R107, R108) -/

/-- Bytes of a token's accumulator and held returns. -/
def accumBytes (a : Accum) : Nat := 4 * a.vals.length + (a.held.map (fun h => 4 * h.2.length)).sum

/-- Bytes that an instance holds in the Sheaf buffers: staged tokens, combine accumulators, held returns, segments in transit,
decisions (R86, R107). -/
def shBytes (i : ShInst) : Nat :=
  (i.staged.map (fun t => t.kib * 1024)).sum + (i.accums.map accumBytes).sum
    + (i.pairs.map (fun p => (p.got.map (fun g => g.2.length)).sum)).sum + 16 * i.decisions.length

/-- Bytes in use in the Sheaf buffers: what instances and held payloads take, without what is spilled. -/
def shUsed (s : State) : Nat :=
  (s.sheaf.insts.map shBytes).sum + (s.sheaf.held.map (fun h => h.pkt.body.length)).sum - (s.sheaf.spills.map (fun g => g.bytes)).sum

/-- The free blocks of the spill region. -/
def spillFree (s : State) : List Nat :=
  let used := s.sheaf.spills.flatMap (fun g => g.blocks)
  (List.range (regN s (pgShf + 0x160) * 16)).filter (fun b => !used.contains b)

/-- Up to `k` blocks of the spill region for a partition, whose T1 frames it holds or may take within quota (R108, R185). -/
def spillTake (n : Nat) : List Nat → Nat → State → List Nat × State
  | [], _, s => ([], s)
  | _ :: _, 0, s => ([], s)
  | b :: bs, k + 1, s =>
    let f := (pairN s (pgShf + 0x158) + 65536 * b) / 0x200000
    if NMap.get (fun _ => 0) s.grn.owner f = 4 * n + 3 ∧ (NMap.find s.grn.ownerPage f).isNone then
      let r := spillTake n bs k s
      (b :: r.1, r.2)
    else if frameFree s (f % 2) f ∧ quotaRoom s (f % 2) n then
      let r := spillTake n bs k (ownFrame s n f)
      (b :: r.1, r.2)
    else spillTake n bs (k + 1) s

/-- Frames of the spill region that no spilled block lies in any more are free again (R185). -/
def spillReturn (s : State) : State :=
  let base := pairN s (pgShf + 0x158)
  let used := s.sheaf.spills.flatMap (fun g => g.blocks.map (fun b => (base + 65536 * b) / 0x200000))
  s.grn.owner.foldl (fun (s : State) (e : Nat × Nat) =>
    if e.2 % 4 = 3 ∧ (NMap.find s.grn.ownerPage e.1).isNone ∧ !used.contains e.1 then dropFrame s (e.2 / 4) e.1 else s) s

/-- The spill group of an instance that holds a token's staged copy, or its accumulator. -/
def spillOf (s : State) (i : ShInst) (acc : Bool) (token : Nat) : Option SpillGroup :=
  s.sheaf.spills.find? (fun g => g.comm == i.comm && g.seq == i.seq && (if acc then g.accums.contains token else g.staged.contains (token % 65536)))

/-- The items of an instance that can be spilled, oldest first: whether an accumulator, token, bytes. -/
def spillItems (s : State) (i : ShInst) : List (Bool × Nat × Nat) :=
  ((i.staged.map (fun (t : Staged) => (false, t.tok, t.kib * 1024)))
    ++ (i.accums.reverse.map (fun (a : Accum) => (true, a.token, accumBytes a)))).filter
    (fun x => (spillOf s i x.1 x.2.1).isNone)

/-- Items that together take at least one block. -/
def fillBlock : List (Bool × Nat × Nat) → Nat → List (Bool × Nat × Nat)
  | [], _ => []
  | x :: xs, n => if n ≥ 65536 then [] else x :: fillBlock xs (n + x.2.2)

/-- What the buffers spill next (R108): the oldest spillable items of the first instance whose partition has room in the spill
region, their bytes, their blocks, and the state with the blocks' frames taken. -/
def spillPlan (s : State) : Option (ShInst × List (Bool × Nat × Nat) × Nat × List Nat × State) :=
  s.sheaf.insts.findSome? (fun i =>
    let xs := fillBlock (spillItems s i) 0
    let bytes := (xs.map (fun x => x.2.2)).sum
    let k := (bytes + 65535) / 65536
    let r := spillTake i.part (spillFree s) k s
    if xs.isEmpty || r.1.length < k then none else some (i, xs, bytes, r.1, r.2))

/-- The buffers are exceeded and the spill region has no room (R108). -/
def shFull (s : State) : Bool := decide (67108864 < shUsed s) && (spillPlan s).isNone

/-- The oldest spillable items of the buffers leave for free blocks of the spill region (R108): the bytes are counted and written to
T1. -/
def spillOne (s : State) : State :=
  match spillPlan s with
  | none => s
  | some (i, xs, bytes, bs, s) =>
    let g : SpillGroup := ⟨i.comm, i.seq, (xs.filter (fun x => !x.1)).map (fun x => x.2.1), (xs.filter (fun x => x.1)).map (fun x => x.2.1),
      bytes, bs, false⟩
    let first := s.sheaf.spills.isEmpty
    let n := (ctr64 s (pgShf + 0x70)).toNat
    let base := pairN s (pgShf + 0x158)
    let s := bs.foldl (fun s b => (t1Write s (base + 65536 * b) ((List.range 65536).map (fun k => spillByte (n + b) k))).2) s
    let s := inc64 { s with sheaf := { s.sheaf with spills := s.sheaf.spills ++ [g] } } (pgShf + 0x70) (65536 * bs.length)
    if first then evt s pgShf 4 else s

/-- Whole blocks are spilled until the rest fits the 64 MiB of buffers, or the region is full (R108). -/
def shSpillN : Nat → State → State
  | 0, s => s
  | f + 1, s => if shUsed s ≤ 67108864 then s else shSpillN f (spillOne s)

/-- Blocks beyond the buffers are spilled. -/
def shSpill (s : State) : State := shSpillN ((shUsed s - 67108864 + 65535) / 65536) s

/-- A spilled token is needed: its block's read-back is asked for (R108). -/
def wantBack (s : State) (g : SpillGroup) : State :=
  { s with sheaf := { s.sheaf with spills := s.sheaf.spills.map (fun x => if x = g then { x with wanted := true } else x) } }

/-- A unit of an instance goes to the die edge; with a member on another device its step is not clean (R315). -/
def shUnit (s : State) (i : ShInst) (u : Unit) : State :=
  toEdge (soilUnit s (i.peers.any (fun p => p.arb != myArb s || p.dev != myDev s)) u) u

/-- Free KiB of a partition's staging share (R107). -/
def stagingFree (s : State) (part : Nat) : Nat := (getPart s part).staging * 256 - stagingUsed s part

/-- A token enters its instance's staging (R107, R297). -/
def stageToken (i : ShInst) (t tok : Nat) (bytes : List Byte) : ShInst :=
  let row := ((i.tiles.find? (fun x => x.tile == t)).map (fun x => x.staged)).getD 0
  { i with
    staged := i.staged ++ [⟨tok, t, row, bytes, (bytes.length + 1023) / 1024, false, false, false⟩],
    tiles := i.tiles.map (fun x => if x.tile = t then { x with staged := x.staged + 1 } else x) }

/-- A token's staging room returns; while the spill region is full it is only due (R107, R108). -/
def freeRoom (s : State) (t : Staged) : Staged := if t.freed then t else if shFull s then { t with due := true } else { t with freed := true }

/-- Room that was due returns once the spill region is no longer full. -/
def returnDue (s : State) : State :=
  if shFull s then s
  else { s with sheaf := { s.sheaf with
    insts := s.sheaf.insts.map (fun i => { i with staged := i.staged.map (fun t => if t.due then { t with freed := true, due := false } else t) }) } }

/-- A partition's held transfers enter staging in order while its share has room (R107). -/
def stagePumpPart : Nat → State → Nat → State
  | 0, s, _ => s
  | f + 1, s, n =>
    let part := fun (h : HeldStage) => ((shFind s h.comm h.seq).map (fun i => i.part)).getD 4
    match s.sheaf.stageQ.find? (fun h => part h == n) with
    | none => s
    | some h =>
      match shFind s h.comm h.seq with
      | none => s
      | some i =>
        if stagingFree s n < (h.bytes.length + 1023) / 1024 ∨ shFull s then s
        else stagePumpPart f
          (shSpill (shSet { s with sheaf := { s.sheaf with stageQ := s.sheaf.stageQ.erase h } } (stageToken i h.tile h.tok h.bytes))) n

/-- Held transfers enter staging, each partition's in its own share (R107). -/
def stagePump (s : State) : State :=
  (List.range 4).foldl (fun s n => stagePumpPart (s.sheaf.stageQ.length + 1) s n) (returnDue (spillReturn s))

/-! ## Grants at a destination (R97 to R99) -/

/-- The registration of a tile slot of a partition (R91). -/
def slotOf (s : State) (part t k : Nat) : Option SlotReg :=
  s.sheaf.slots.find? (fun r => r.part == part && r.tile == t && r.slot == k)

/-- The slot registration that hosts a replica on this device, by its EPT entry (R91, R97). -/
def hostSlot (s : State) (part expert rep : Nat) : Option (SlotReg × Nat) :=
  let e := eptRead s part expert
  let x := repField e rep
  if !eptValid e || rep > eptNrep e || repDev x != myDev s then none
  else (slotOf s part (repTile x) (repSlot x)).map (fun r => (r, min (eptCap e) r.cap))

/-- The replica's record in an instance, opened with its first count record; none where it is not hosted, and a fault
where its slot holds another (R91). -/
def hostedOf (s : State) (i : ShInst) (expert rep : Nat) : Option (ShInst × Hosted) ⊕ Nat :=
  match i.hosted.find? (fun h => h.expert == expert && h.rep == rep) with
  | some h => .inl (some (i, h))
  | none =>
    match hostSlot s i.part expert rep with
    | none => .inl none
    | some (r, cap) =>
      if i.hosted.any (fun h => h.tile == r.tile && h.slot == r.slot) then .inr 0x0612
      else
        let h : Hosted := ⟨expert, rep, r.tile, r.slot, r.handle, r.stride, cap, r.ctr, 0, 0, 0, [], [], false, false⟩
        .inl (some ({ i with hosted := i.hosted ++ [h] }, h))

/-- A hosted replica's record replaced. -/
def setHosted (i : ShInst) (h : Hosted) : ShInst :=
  { i with hosted := i.hosted.map (fun x => if x.expert = h.expert ∧ x.rep = h.rep then h else x) }

/-- A grant record (R95). -/
def grantRec (base n : Nat) (notHosted : Bool) (rep expert : Nat) : Nat :=
  base % 4096 * 2 ^ 44 + n % 4096 * 2 ^ 32 + b2n notHosted * 2 ^ 18 + rep % 4 * 2 ^ 16 + expert % 65536

/-- One count record is granted within CAP and the row capacity (R97): the grant record, or a fault. -/
def grantOne (s : State) (i : ShInst) (c : CountRec) : (Nat × ShInst) ⊕ Nat :=
  match hostedOf s i c.expert c.rep with
  | .inr f => .inr f
  | .inl none => .inl (grantRec 0 0 true c.rep c.expert, i)
  | .inl (some (i, h)) =>
    let g := min c.n (h.cap - h.used)
    let h' := { h with
      used := h.used + g, asked := h.asked + c.n, rerouted := h.rerouted + (if c.round = 1 then c.n else 0),
      grants := if g = 0 then h.grants else h.grants ++ [⟨c.arb, c.dev, h.used, g⟩] }
    .inl (grantRec h.used g false c.rep c.expert, setHosted i h')

/-- Count records granted one after another: the grant records in order, or a fault. -/
def grantAll (s : State) : ShInst → List CountRec → (List Nat × ShInst) ⊕ Nat
  | i, [] => .inl ([], i)
  | i, c :: cs =>
    match grantOne s i c with
    | .inr f => .inr f
    | .inl (r, i) =>
      match grantAll s i cs with
      | .inr f => .inr f
      | .inl (rs, i) => .inl (r :: rs, i)

/-- Every member has sent FINAL of a round. -/
def allFinal (i : ShInst) (b : Bool) : Bool := i.peers.all (fun p => if b then p.finB else p.finA)

/-- No count record of an origin waits for its context (R94). -/
def noFetchFrom (s : State) (i : ShInst) (a d : Nat) : Bool :=
  !waitsCtx s i (fun f => isCountWork f && f.ctx.inbound && f.ctx.arb == a && f.ctx.dev == d)

/-- The counts of one origin in DET_MODE, one total for each replica, ascending. -/
def totalsOf (i : ShInst) (a d round : Nat) : List CountRec :=
  let cs := i.counts.filter (fun c => c.arb == a && c.dev == d && c.round == round)
  let keys := (cs.map (fun c => (c.expert, c.rep))).eraseDups
  (sortBy (fun k => k.1 * 4 + k.2) keys).map (fun k =>
    ⟨a, d, k.1, k.2, ((cs.filter (fun c => c.expert == k.1 && c.rep == k.2)).map (fun c => c.n)).sum, round⟩)

/-- A round's grants of DET_MODE: origins in ascending order, each origin's totals at once (R97). -/
def grantDet (s : State) (i : ShInst) (round : Nat) : (ShInst × State) ⊕ Nat :=
  (sortBy (fun p => p.arb * 64 + p.dev) i.peers).foldl (fun (r : (ShInst × State) ⊕ Nat) p =>
    match r with
    | .inr f => .inr f
    | .inl (i, s) =>
      match grantAll s i (totalsOf i p.arb p.dev round) with
      | .inr f => .inr f
      | .inl (rs, i) =>
        let q := shRecs s i p.arb p.dev (3 + round) true rs
        .inl (mapPeer q.1 p.arb p.dev (fun p => if round = 0 then { p with gsA := true } else { p with gsB := true }), q.2))
    (.inl (i, s))

/-- The manifest of a slot (R102): its header and one entry per row of the capacity. -/
def manifestBytes (h : Hosted) (rows : Nat) : List Byte :=
  leBytes 4 h.used ++ leBytes 2 h.expert ++ [BitVec.ofNat 8 h.rep, 0] ++ leBytes 8 0
    ++ (List.range rows).flatMap (fun r =>
      match h.rows.find? (fun x => x.row == r) with
      | some x =>
        let g := h.grants.find? (fun g => g.base ≤ r && r < g.base + g.n)
        leBytes 8 (((g.map (fun g => g.dev)).getD 0) * 2 ^ 58 + 2 ^ 57 + x.token % 2 ^ 32)
      | none => leBytes 8 0)

/-- A unit of an expert slot: rows, or the manifest with which its counter advances (R102). -/
def slotUnit (i : ShInst) (h : Hosted) (off : Nat) (data : List Byte) (counts : Bool) : Unit :=
  { tile := h.tile, bg := false, part := i.part, handle := h.handle, ctr := h.ctr, off := off, data := data,
    weight := false, cause := 6, again := false, link := h.tile / 60, counts := counts }

/-- Rounds A and B are closed at this destination. -/
def roundsClosed (i : ShInst) : Bool := i.roundADone && (!i.reroute || i.roundBDone)

/-- Registered slots of the partition that no count record named hold a manifest too: their expert is the one that the
plan places there (log entry 47). -/
def emptySlots (s : State) (i : ShInst) : List Hosted :=
  (s.sheaf.slots.filter (fun r => r.part == i.part && !i.hosted.any (fun h => h.tile == r.tile && h.slot == r.slot))).map (fun r =>
    let placed := s.sheaf.ept.findSome? (fun e =>
      if e.1 / 65536 = eptActive s i.part ∧ eptValid e.2 then
        ((List.range 4).find? (fun k => k ≤ eptNrep e.2 && repDev (repField e.2 k) == myDev s
          && repTile (repField e.2 k) == r.tile && repSlot (repField e.2 k) == r.slot)).map (fun k => (e.1 % 65536, k))
      else none)
    let x := placed.getD (0, 0)
    ⟨x.1, x.2, r.tile, r.slot, r.handle, r.stride, r.cap, r.ctr, 0, 0, 0, [], [], false, false⟩)

/-- Slots whose granted rows are complete get their manifests once the rounds are closed (R102); rows beyond the kept count
hold +0. -/
def writeManifests (s : State) (i : ShInst) : ShInst × State :=
  if !roundsClosed i then (i, s)
  else
    let i := { i with hosted := i.hosted ++ emptySlots s i }
    i.hosted.foldl (fun (r : ShInst × State) h =>
      if h.manifest ∨ (h.rows.filter (fun x => x.full)).length < h.used then r
      else
        let cap := ((slotOf s i.part h.tile h.slot).map (fun r => r.cap)).getD h.cap
        let blank := List.replicate ((cap - h.used) * h.stride) 0
        let s := r.2
        let s := if blank.isEmpty then s else shUnit s i (slotUnit i h (h.used * h.stride) blank false)
        (setHosted r.1 { h with manifest := true }, shUnit s i (slotUnit i h (cap * h.stride) (manifestBytes h cap) true))) (i, s)

/-! ## Closing at an origin -/

/-- The pairs of a token that are granted. -/
def grantedPairs (i : ShInst) (token : Nat) : List Pair := i.pairs.filter (fun p => p.token == token && p.st == 1)

/-- Gates of a token summed in rank order (R105). -/
def gateSum (gs : List Nat) : Nat := gs.tail.foldl f32Add (gs.headD 0)

/-- S_kept of a token (R105). -/
def sKept (i : ShInst) (token : Nat) : Nat := gateSum ((sortBy (fun x => x.rank) (grantedPairs i token)).map (fun x => x.gate))

/-- The pairs that a token keeps: under RENORM, none where S_kept is +0 (R104, R105). -/
def keptPairs (i : ShInst) (token : Nat) : List Pair := if i.renorm ∧ sKept i token = 0 then [] else grantedPairs i token

/-- The tokens of an instance, in the order of their first decision. -/
def tokensOf (i : ShInst) : List Nat := (i.decisions.map (fun d => fld d 31 0)).eraseDups

/-- The staged token of a TOKEN index. -/
def stagedOf (i : ShInst) (token : Nat) : Option Staged := i.staged.find? (fun t => t.tok == token % 65536)

/-- A staged token changed. -/
def mapStaged (i : ShInst) (tok : Nat) (f : Staged → Staged) : ShInst :=
  { i with staged := i.staged.map (fun t => if t.tok = tok % 65536 then f t else t) }

/-- A token's vector is written to the combine buffer of the tile that staged it (R104, R297). -/
def writeCombined (s : State) (i : ShInst) (token : Nat) (vs : List Nat) : ShInst × State :=
  match stagedOf i token with
  | none => (i, s)
  | some t =>
    match i.tiles.find? (fun x => x.tile == t.tile) with
    | none => (i, s)
    | some x =>
      let h := NMap.get (fun _ => 0) (getTile s t.tile).fg.handles x.handle
      let u : Unit := { tile := t.tile, bg := false, part := i.part, handle := x.handle, ctr := x.ctr,
                        off := t.row * hRow h * 64, data := vs.flatMap (leBytes 4), weight := false, cause := 6,
                        again := false, link := t.tile / 60, counts := true }
      (mapStaged { i with accums := i.accums.filter (fun a => a.token != token) } token (fun t =>
          if (grantedPairs i token).all (fun p => p.sent) then freeRoom s { t with done := true } else { t with done := true }),
        shUnit s i u)

/-- Tokens with no kept pair yield +0 and are counted; each is written once it is staged (R104). -/
def zeroTokens (s : State) (i : ShInst) : ShInst × State :=
  (tokensOf i).foldl (fun (r : ShInst × State) k =>
    if !r.1.closed ∨ !(keptPairs r.1 k).isEmpty ∨ r.1.zeroed.contains k ∨ (stagedOf r.1 k).isNone then r
    else
      let s := incSat r.2 (pgShf + 0x84) 1
      writeCombined s { r.1 with zeroed := k :: r.1.zeroed } k (List.replicate i.width 0)) (i, s)

/-- An origin's grants are complete (R98, R99): dropped pairs are counted, and tokens with nothing kept are finished. -/
def closeOrigin (s : State) (i : ShInst) : ShInst × State :=
  let lost := (i.pairs.filter (fun p => p.st != 1 && (p.round == 1 || !i.reroute))).length
  let n := i.dropped + lost
  let s := if n = 0 then s else evt (inc64 s (pgShf + 0x68) n) pgShf 1
  zeroTokens s { i with dropped := n, closed := true }

end Sys2Proof.Machine
end

