-- ==== Sys2Proof/Machine/Sheaf.lean ====
section
/-!
DEFINITION. The commands of the Sheaf engine: dispatch, counts and grants, data and returns, combine, completion, and the
Expert Placement Table's writes (R84 to R111, R297, R475).
-/

namespace Sys2Proof.Machine

open Sys2Proof Sys2Proof.Config

/-! ## Receiving control payloads -/

/-- A control payload is malformed (R110): its length, its header's reserved bits, or NREC. -/
def ctlBad (p : Pkt) : Bool :=
  let h := leNat (p.body.take 8)
  p.body.length != 48 || p.data || fld h 15 12 != 0 || fld h 10 8 > 5

/-- The records of a control payload. -/
def ctlRecs (p : Pkt) : List Nat :=
  (List.range (fld (leNat (p.body.take 8)) 10 8)).map (fun k => leNat ((p.body.drop (8 + 8 * k)).take 8))

/-- The sequence number and communicator of a Sheaf or pool payload. -/
def shName (p : Pkt) : Nat × Nat := (fld (leNat (p.body.take 8)) 31 16, fld (leNat (p.body.take 8)) 63 32)

/-- KIND of a Sheaf or pool payload. -/
def shKind (p : Pkt) : Nat := fld (leNat (p.body.take 8)) 7 0

/-- FINAL of a payload. -/
def shFinal (p : Pkt) : Bool := bit (leNat (p.body.take 8)) 11

/-- A control number against its sender's window, the 32,768 numbers up to the highest received (R95): true where it is to be
processed. -/
def ctlFresh (q : ShPeer) (n : Nat) : Bool :=
  let ahead := (n + 65536 - q.high) % 65536
  q.marks.isEmpty || (0 < ahead && ahead < 32768) || ((q.high + 65536 - n) % 65536 < 32768 && !q.marks.contains n)

/-- The window with a number marked. -/
def ctlMark (q : ShPeer) (n : Nat) : ShPeer :=
  let ahead := (n + 65536 - q.high) % 65536
  let high := if q.marks.isEmpty ∨ ahead < 32768 then n else q.high
  { q with high := high, marks := n :: q.marks.filter (fun m => (high + 65536 - m) % 65536 < 32768) }

/-- SHEAF and POOL payloads of a reserved KIND are discarded (R110; log entry 42). -/
def dropReserved (s : State) : State :=
  let bad := fun (p : Pkt) =>
    (p.proto == 1 && (shKind p == 0 || 7 < shKind p)) || (p.proto == 2 && !([7, 0x11, 0x12, 0x13, 0x14, 0x15, 0x16].contains (shKind p)))
      || ((p.proto == 1 || p.proto == 2) && p.data && p.thdr != 0)
  let n := (s.fab.ejected.filter bad).length
  (List.range n).foldl (fun s _ => shMalformed s) { s with fab := { s.fab with ejected := s.fab.ejected.filter (fun p => !bad p) } }

/-- A payload is held for an instance that is not issued yet, in the Sheaf buffers (R475). -/
def holdPayload (s : State) (p : Pkt) : State := shSpill { s with sheaf := { s.sheaf with held := s.sheaf.held ++ [⟨p, now s⟩] } }

/-- The oldest control payload of a kind and protocol goes to its instance: held for one not issued (R475) where `hold`,
checked for its form, its DOR bit (R312), its sender and its number. -/
def withCtl (s : State) (take bad : Pkt → Bool) (hold : Bool) (f : State → ShInst → Pkt → State) : Out :=
  match takeEjected (dropReserved s) take with
  | none => .next (dropReserved s)
  | some (p, s) =>
    if ctlBad p || bad p then .next (shMalformed s)
    else
      match shFind s (shName p).1 (shName p).2 with
      | none => if hold then .next (holdPayload s p) else .next (shOrphan s)
      | some i =>
        if p.dor ≠ detMode s then .next (shFault s i 0x060D)
        else
          match shPeer i p.srcArb p.src with
          | none => .next (shOrphan s)
          | some q =>
            if !ctlFresh q p.msgId then .next s
            else .next (f s (shTouch s (mapPeer i p.srcArb p.src (fun q => ctlMark q p.msgId))) p)

/-- A control payload of the SHEAF protocol of a kind. -/
def ctlOf (kind : Nat) (p : Pkt) : Bool := p.proto == 1 && shKind p == kind

/-- An instance's new record is put back, or the instance ends with the fault that its handling met. -/
def shPut (s : State) (i : ShInst) : (ShInst × State) ⊕ Nat → State
  | .inl (j, t) => shSet t j
  | .inr code => shFault s i code

/-! ## Issue -/

/-- A dispatch descriptor (R84) as the instance that it opens; none where a field is reserved or out of range. -/
def parseDispatch (s : State) (part step : Nat) (d : List Byte) : Option ShInst :=
  let w := leNat d
  let k := fld w 20 16
  let ks := fld w 28 24
  let wd := fld w 63 48
  let n := fld w 127 96
  if d.length ≠ 32 ∨ bit w 23 ∨ fld w 31 29 ≠ 0 ∨ fld w 255 192 ≠ 0 ∨ k = 0 ∨ k > 16 ∨ ks < k ∨ ks > 16
      ∨ (fmtOfCode (fld w 39 32)).isNone ∨ !([1, 5, 6].contains (fld w 47 40)) ∨ wd = 0 ∨ wd % 32 ≠ 0 ∨ wd > 16384
      ∨ n = 0 ∨ n > 65536 then none
  else some {
    kind := 0, comm := fld w 15 0, seq := fld w 95 64, part := part, step := step, kUse := k, kSel := ks,
    reroute := bit w 21, renorm := bit w 22, tokenFmt := fld w 39 32, retFmt := fld w 47 40, width := wd, nTokens := n,
    seed := fld w 191 128, accepting := true, prog := now s }

/-- The members of an instance as its peers. -/
def peersOf (s : State) (c : Nat) : List ShPeer :=
  (commMembers s (commEntry s c)).map (fun m => ⟨m.1, m.2, 0, 0, [], false, false, false, false, false, false⟩)

/-- An instance is opened; the payloads held for it are processed before any that come later, and a held ABORT ends it at
once (R475, R110). -/
def shOpen (s : State) (i : ShInst) : State :=
  let mine := s.sheaf.held.filter (fun h => shName h.pkt == (i.comm, i.seq) && h.pkt.proto == shProto i)
  let s := { s with
    sheaf := { s.sheaf with
      insts := s.sheaf.insts ++ [{ i with peers := peersOf s i.comm }],
      held := s.sheaf.held.filter (fun h => !mine.contains h) } }
  match mine.find? (fun h => shKind h.pkt == 7) with
  | some h =>
    shEnd s i (((ctlRecs h.pkt).headD 0) % 65536)
  | none => { s with fab := { s.fab with ejected := mine.map (fun h => h.pkt) ++ s.fab.ejected } }

/-- A result counter is armed with its target (R297); a counter armed and unsatisfied is a call fault (R298). -/
def armResult (s : State) (t k handle target : Nat) : State :=
  let c := (getTile s t).fg
  setFg s t (setCtr c k
    { armed := true, kind := 0, value := 0, target := target, handleA := handle, handleB := 0, released := 0, cause := 6 })

/-- A counter that a fused instruction may arm: a data counter, not armed or satisfied (R298). -/
def armFree (s : State) (part t k : Nat) : Bool :=
  let x := getCtr (getTile s t).fg k
  k < 30 && (!x.armed || satisfied s part t x)

/-- DISPATCH (R84, R85, R297): opens a dispatch instance, or joins the one that another tile of the partition opened, and
arms the combine buffer. The counter's target grows with each token that the tile stages. -/
def execDispatch (i : Issue) (s : State) : Out :=
  issued s i 0xFF8000FF0000001F (fun s => dynamic s i.tile (fun s =>
    let c := (getTile s i.tile).fg
    let d := descOf s i i.doff 32
    let cq := (fld (leNat d) 15 0, fld (leNat d) 95 64)
    let h := fld i.w 39 32
    let k := fld i.w 4 0
    let arm := fun (s : State) =>
      let s := armResult s i.tile k h 0
      setFg s i.tile { (getTile s i.tile).fg with dispatch := some cq, staged := 0 }
    match parseDispatch s c.part c.step d with
    | none => shIssueFault s cq.1 cq.2 c.part 0x0601
    | some n =>
      if !commGood s n.comm c.part then shIssueFault s cq.1 cq.2 c.part 0x0604
      else if NMap.get (fun _ => 0) c.handles h = 0 then callFault s i.tile 0x0201 0
      else if !armFree s c.part i.tile k then callFault s i.tile 0x0211 0
      else
        match shFind s n.comm n.seq with
        | some x =>
          if x.kind ≠ 0 ∨ x.part ≠ c.part ∨ x.tiles.any (fun y => y.tile == i.tile) then
            shIssueFault s cq.1 cq.2 c.part 0x0607
          else arm (shSet s { x with tiles := x.tiles ++ [⟨i.tile, h, k, 0⟩] })
        | none =>
          let mine := s.sheaf.insts.filter (fun x => x.kind == 0 && x.part == c.part)
          if mine.length ≥ 4 ∨ mine.any (fun x => x.accepting) then shIssueFault s cq.1 cq.2 c.part 0x0601
          else shOpen (arm s) { n with tiles := [⟨i.tile, h, k, 0⟩] }))

/-- Tokens of a DSEND: their low index bits and CBS streams; none where a stream is malformed. -/
def dsendRows (s : State) (t h first n fmt width : Nat) : Option (List (Nat × List Byte)) :=
  (List.range n).foldr (fun j (r : Option (List (Nat × List Byte))) =>
    let row := readBuf s t h (j * hRow h * 64) (hRow h * 64)
    match r, parseCbs (fmtOfCode fmt) width row with
    | some l, some rs => some (((first + j) % 65536, row.take (cbsLen rs)) :: l)
    | _, _ => none) (some [])

/-- The tokens of a DSEND wait for their partition's staging share, and the combine counter's target grows by them; what finds room
is staged, and a staged token of no expert is done at once (R107, R297). -/
def stageTokens (s : State) (t : Nat) (x : ShInst) (n : Nat) (rows : List (Nat × List Byte)) : State :=
  let s := match (x.tiles.find? (fun y => y.tile == t)).map (fun y => y.ctr) with
    | some k =>
      let c := (getTile s t).fg
      setFg s t (setCtr c k { getCtr c k with target := (getCtr c k).target + n })
    | none => s
  let s := { s with
    sheaf := { s.sheaf with stageQ := s.sheaf.stageQ ++ rows.map (fun r => ⟨x.comm, x.seq, t, r.1, r.2⟩) } }
  let s := shSet s (shTouch s x)
  let s := stagePump s
  match shFind s x.comm x.seq with
  | some x => let r := zeroTokens s x; shSet r.2 r.1
  | none => s

/-- DSEND (R107, R297): stages tokens for the dispatch instance of the tile's latest DISPATCH; a transfer that finds its
share full is held. A malformed token found here is recorded with the Sheaf engine's code 0x060F and not the tile's 0x0216: R59
gives both and does not say which. DESIGN CHOICE (log entry 108). -/
def execDsend (i : Issue) (s : State) : Out :=
  issued s i 0xFF00FFFFFFFFFF00 (fun s => overEdge s i.tile (fun s =>
    let c := (getTile s i.tile).fg
    let h := resolve c (fld i.w 47 40)
    let n := fld i.w 23 8
    match c.dispatch with
    | none => shStray s c.part 0x0605
    | some cq =>
      match shFind s cq.1 cq.2 with
      | none => shIssueFault s cq.1 cq.2 c.part 0x0605
      | some x =>
        if !bufOk s i h 0 (n * hRow h * 64) then callFault s i.tile 0x0201 0
        else
          match badByte s i.tile h 0 (n * hRow h * 64) with
          | some a => parityPoison s i.tile a
          | none =>
            match dsendRows s i.tile h (fld i.w 39 24) n x.tokenFmt x.width with
            | none => poison (errIn s pgShf 0x060F (some c.part) c.step) c.part 0x060F
            | some rows => stageTokens s i.tile x n rows))

/-! ## Binning (R92, R96) -/

/-- The outbound context of a pair. -/
def outCtx (s : State) (i : ShInst) (p : Pair) : CtxId := ⟨i.part, i.comm, i.seq, false, myArb s, p.dev, p.expert, p.rep⟩

/-- A pair joins its sheaf, and its destination's coalescing record (R92, R96). -/
def addPair (s : State) (i : ShInst) (p : Pair) : ShInst :=
  let put := fun (rs : List (Nat × Nat × Nat)) =>
    if rs.any (fun r => r.1 == p.expert && r.2.1 == p.rep) then
      rs.map (fun r => if r.1 = p.expert ∧ r.2.1 = p.rep then (r.1, r.2.1, r.2.2 + 1) else r)
    else rs ++ [(p.expert, p.rep, 1)]
  let co :=
    if i.coalesce.any (fun c => c.1 == p.dev) then
      i.coalesce.map (fun c => if c.1 = p.dev then (c.1, c.2.1, put c.2.2) else c)
    else i.coalesce ++ [(p.dev, s.clk.aclk, [(p.expert, p.rep, 1)])]
  { i with pairs := i.pairs ++ [p], coalesce := co }

/-- A count record (R95). -/
def countRec (r : Nat × Nat × Nat) : Nat := r.2.2 % 65536 * 2 ^ 32 + r.2.1 % 4 * 2 ^ 16 + r.1 % 65536

/-- Once an instance has stopped accepting and no pair waits for its context, COUNT_A FINAL goes to every member (R96). -/
def finishA (s : State) (i : ShInst) : ShInst × State :=
  if i.accepting ∨ i.finASent ∨ waitsCtx s i isPairWork then (i, s)
  else
    let recs := fun (d : Nat) => (((i.coalesce.find? (fun c => c.1 == d)).map (fun c => c.2.2)).getD []).map countRec
    i.peers.foldl (fun (r : ShInst × State) p =>
      shRecs r.2 r.1 p.arb p.dev 1 true (if p.arb = myArb s then recs p.dev else []))
      ({ i with coalesce := [], finASent := true }, s)

/-- A decision record is entered and, where its rank is active, binned (R85, R86, R92): the instance, or a fault. -/
def binDecision (s : State) (i : ShInst) (d : Nat) : (ShInst × State) ⊕ Nat :=
  let i := shTouch s { i with decisions := i.decisions ++ [d], lasts := i.lasts + b2n (bit d 85) }
  let i := { i with accepting := i.lasts < i.nTokens }
  let x := fld d 79 64
  if fld d 83 80 ≥ i.kUse then .inl (finishA s i)
  else if eptFault s i.part x ≠ 0 then .inr (eptFault s i.part x)
  else
    let e := eptRead s i.part x
    let rep := pickRep i.seed (fld d 31 0) x (eptNrep e)
    let p : Pair := ⟨fld d 31 0, x, fld d 83 80, fld d 63 32, rep, repDev (repField e rep), 0, 0, 0, false, [], false⟩
    match ctxAccess s (outCtx s i p) (.pair p) with
    | (.full, _) => .inr 0x0608
    | (.fetch, s) => .inl (i, s)
    | (.here, s) => .inl (finishA s (addPair s i p))

/-- DECISION_DRAIN (R85, R92): the oldest decision record in a die's egress buffer. `parity` is 1 where the record's word
fails parity, 2 where its EPT entry does. -/
def execDecisionDrain (die parity : Nat) (s : State) : Out :=
  match s.thr.egress.find? (fun e => e.die == die) with
  | none => .next s
  | some e =>
    if parity = 1 then .next (shParity s e.part 0x060E)
    else
      let s := { s with thr := { s.thr with egress := s.thr.egress.erase e } }
      match s.sheaf.insts.find? (fun i => i.kind == 0 && i.part == e.part && i.accepting) with
      | none => .next (shStray s e.part 0x0605)
      | some i =>
        if parity = 2 ∧ fld e.record 83 80 < i.kUse then
          let k := eptActive s i.part * 65536 + fld e.record 79 64
          let s := { s with sheaf := { s.sheaf with eptBad := NMap.set (fun _ => false) s.sheaf.eptBad k true } }
          .next (shFault (evt (incSat s (pgShf + 0x94) 1) pgShf 3) i 0x0609)
        else .next (shPut s i (binDecision s i e.record))

/-- COUNT_COALESCE_EXPIRY (R96): the oldest destination whose 8 ACLK have passed gets its COUNT_A records. -/
def execCountCoalesceExpiry (s : State) : Out :=
  match s.sheaf.insts.find? (fun i => i.coalesce.any (fun c => decide (s.clk.aclk ≥ c.2.1 + 8))) with
  | none => .next s
  | some i =>
    match i.coalesce.find? (fun c => decide (s.clk.aclk ≥ c.2.1 + 8)) with
    | none => .next s
    | some c =>
      let r := shRecs s { i with coalesce := i.coalesce.erase c } (myArb s) c.1 1 false (c.2.2.map countRec)
      .next (shSet r.2 r.1)

/-! ## Counts at a destination -/

/-- GRANT FINAL to an origin whose records of a round are all answered (R97). -/
def grantFinalDue (s : State) (i : ShInst) (a d round : Nat) : Bool :=
  match shPeer i a d with
  | none => false
  | some p => (if round = 0 then p.finA && !p.gsA else p.finB && !p.gsB) && noFetchFrom s i a d && !detMode s

/-- Grant records go to an origin, with FINAL where it is due. -/
def sendGrants (s : State) (i : ShInst) (a d round : Nat) (recs : List Nat) : ShInst × State :=
  let fin := grantFinalDue s i a d round
  let r := shRecs s i a d (3 + round) fin recs
  if fin then
    (mapPeer r.1 a d (fun p => if round = 0 then { p with gsA := true } else { p with gsB := true }), r.2)
  else r

/-- The inbound context of a sheaf. -/
def inCtx (i : ShInst) (a d expert rep : Nat) : CtxId := ⟨i.part, i.comm, i.seq, true, a, d, expert, rep⟩

/-- One count record meets its flow context and is granted, held for DET_MODE, or waits for its context. -/
def countOne (s : State) (i : ShInst) (c : CountRec) (recs : List Nat) : (List Nat × ShInst × State) ⊕ Nat :=
  match ctxAccess s (inCtx i c.arb c.dev c.expert c.rep) (.count c) with
  | (.full, _) => .inr 0x0608
  | (.fetch, s) => .inl (recs, i, s)
  | (.here, s) =>
    if detMode s then .inl (recs, { i with counts := i.counts ++ [c] }, s)
    else
      match grantOne s i c with
      | .inr f => .inr f
      | .inl (r, i) => .inl (recs ++ [r], i, s)

/-- The records of a COUNT payload, one after another. -/
def countEach : List CountRec → State → ShInst → List Nat → (List Nat × ShInst × State) ⊕ Nat
  | [], s, i, recs => .inl (recs, i, s)
  | c :: cs, s, i, recs =>
    match countOne s i c recs with
    | .inr f => .inr f
    | .inl (recs, i, s) => countEach cs s i recs

/-- A COUNT payload of a round (R97, R99): records after FINAL are discarded with 0x0611, and a payload with a record's reserved bit
set whole. -/
def countProc (s : State) (i : ShInst) (p : Pkt) (round : Nat) : (ShInst × State) ⊕ Nat :=
  let done : Bool := match shPeer i p.srcArb p.src with
    | some q => if round = 0 then q.finA else q.finB
    | none => true
  let bad := fun (r : Nat) => fld r 63 48 != 0 || fld r 31 18 != 0
  let rs := ctlRecs p
  if rs.any bad then .inl (i, shMalformed s)
  else if done ∨ (round = 1 ∧ !i.reroute) then .inl (i, rs.foldl (fun s _ => shMalformed s) s)
  else
    let cs := rs.map (fun r => CountRec.mk p.srcArb p.src (fld r 15 0) (fld r 17 16) (fld r 47 32) round)
    match countEach cs s i [] with
    | .inr f => .inr f
    | .inl (recs, i, s) =>
      let i := mapPeer i p.srcArb p.src (fun q =>
        if !shFinal p then q else if round = 0 then { q with finA := true } else { q with finB := true })
      .inl (sendGrants s i p.srcArb p.src round recs)

/-- No inbound record of an instance waits for its context. -/
def noInbound (s : State) (i : ShInst) : Bool := !waitsCtx s i isCountWork

/-- Held COUNT_B payloads are processed once round A is complete (R99). -/
def runHeldB : List Pkt → State → ShInst → (ShInst × State) ⊕ Nat
  | [], s, i => .inl (i, s)
  | p :: ps, s, i =>
    match countProc s i p 1 with
    | .inr f => .inr f
    | .inl (i, s) => runHeldB ps s i

/-- Round A completes with FINAL from every member (R96); DET_MODE then grants in order (R97). -/
def endRoundA (s : State) (i : ShInst) : (ShInst × State) ⊕ Nat :=
  if i.roundADone ∨ !allFinal i false ∨ !noInbound s i then .inl (i, s)
  else
    let i := { i with roundADone := true }
    match (if detMode s then grantDet s i 0 else .inl (i, s)) with
    | .inr f => .inr f
    | .inl (i, s) => runHeldB i.heldB s { i with heldB := [] }

/-- Round B completes likewise (R99). -/
def endRoundB (s : State) (i : ShInst) : (ShInst × State) ⊕ Nat :=
  if !i.roundADone ∨ !i.reroute ∨ i.roundBDone ∨ !allFinal i true ∨ !noInbound s i then .inl (i, s)
  else
    let i := { i with roundBDone := true }
    if detMode s then grantDet s i 1 else .inl (i, s)

/-- The rounds' ends at a destination, and the manifests that they allow. -/
def settleRounds (s : State) (i : ShInst) : (ShInst × State) ⊕ Nat :=
  match endRoundA s i with
  | .inr f => .inr f
  | .inl (i, s) =>
    match endRoundB s i with
    | .inr f => .inr f
    | .inl (i, s) => .inl (writeManifests s i)

/-- A round's payload, and what it completes. -/
def countAndSettle (s : State) (i : ShInst) (p : Pkt) (round : Nat) : (ShInst × State) ⊕ Nat :=
  match countProc s i p round with
  | .inr f => .inr f
  | .inl (i, s) => settleRounds s i

/-- COUNT_A (R97): a destination receives round-A count records and grants within CAP and the row capacity. -/
def execCountA (s : State) : Out :=
  withCtl s (ctlOf 1) (fun _ => false) true (fun s i p => shPut s i (countAndSettle s i p 0))

/-- COUNT_B (R99): processed once round A is complete here, held before. -/
def execCountB (s : State) : Out :=
  withCtl s (ctlOf 2) (fun _ => false) true (fun s i p =>
    if i.roundADone ∨ !i.reroute then shPut s i (countAndSettle s i p 1)
    else shSet s { i with heldB := i.heldB ++ [p] })

/-! ## Grants at an origin -/

/-- The indices of the pairs that a grant record names, in the order that takes the grant (R97). -/
def grantOrder (s : State) (i : ShInst) (dev expert rep round : Nat) : List Pair :=
  let ps := i.pairs.filter (fun p => p.dev == dev && p.expert == expert && p.rep == rep && p.round == round && p.st == 0)
  if detMode s then sortBy (fun p => p.token) ps else ps

/-- A GRANT payload has a record with a reserved bit set (R110). -/
def grantBad (p : Pkt) : Bool := (ctlRecs p).any (fun r => fld r 63 56 != 0 || fld r 31 19 != 0)

/-- One grant record of a device at its origin (R97). -/
def applyGrant (s : State) (i : ShInst) (dev round r : Nat) : ShInst × State :=
  let ps := grantOrder s i dev (fld r 15 0) (fld r 17 16) round
  if bit r 18 then
    let i := { i with pairs := i.pairs.map (fun x => if ps.contains x then { x with st := 3 } else x) }
    (i, evt (incSat s (pgShf + 0x7C) ps.length) pgShf 2)
  else
    let take := ps.take (fld r 43 32)
    let row := fun (x : Pair) => fld r 55 44 + take.idxOf x
    ({ i with pairs := i.pairs.map (fun x => if take.contains x then { x with st := 1, row := row x } else x) }, s)

/-- A grant record at its origin, once its flow context is there (R94). -/
def grantRecord (s : State) (i : ShInst) (dev round r : Nat) : ShInst × State :=
  match ctxTouch s ⟨i.part, i.comm, i.seq, false, myArb s, dev, fld r 15 0, fld r 17 16⟩ (.grant dev round r) with
  | (true, s) => applyGrant s i dev round r
  | (false, s) => (i, s)

/-- The reserve pairs that a token's overflowing active ranks take, and how many ranks find none (R100). -/
def reserves (s : State) (i : ShInst) (token : Nat) : (List Pair × Nat) ⊕ Nat :=
  let n := (i.pairs.filter (fun p => p.token == token && p.round == 0 && p.st != 1)).length
  let rs := sortBy (fun d => fld d 83 80) (i.decisions.filter (fun d =>
    fld d 31 0 == token && fld d 83 80 ≥ i.kUse && fld d 83 80 < i.kSel))
  let use := rs.take n
  match use.find? (fun d => eptFault s i.part (fld d 79 64) != 0) with
  | some d => .inr (eptFault s i.part (fld d 79 64))
  | none =>
    .inl (use.map (fun d =>
      let e := eptRead s i.part (fld d 79 64)
      let rep := pickRep i.seed token (fld d 79 64) (eptNrep e)
      ⟨token, fld d 79 64, fld d 83 80, fld d 63 32, rep, repDev (repField e rep), 1, 0, 0, false, [], false⟩), n - use.length)

/-- The reserves of every token, in order. -/
def allReserves (s : State) (i : ShInst) : List Nat → (List Pair × Nat) ⊕ Nat
  | [] => .inl ([], 0)
  | t :: ts =>
    match reserves s i t, allReserves s i ts with
    | .inl a, .inl b => .inl (a.1 ++ b.1, a.2 + b.2)
    | .inr f, _ => .inr f
    | _, .inr f => .inr f

/-- The pairs of round B join their sheaves, or wait for their contexts (R93, R94). -/
def addPairsB : List Pair → State → ShInst → (ShInst × State) ⊕ Nat
  | [], s, i => .inl (i, s)
  | p :: ps, s, i =>
    match ctxAccess s (outCtx s i p) (.pair p) with
    | (.full, _) => .inr 0x0608
    | (.fetch, s) => addPairsB ps s i
    | (.here, s) => addPairsB ps s { i with pairs := i.pairs ++ [p] }

/-- Once every pair of round B is in its sheaf, COUNT_B records and FINAL go to every member (R99). -/
def finishB (s : State) (i : ShInst) : ShInst × State :=
  if !i.bBegun ∨ i.finBSent ∨ waitsCtx s i isPairWork then (i, s)
  else
    let recs := fun (d : Nat) =>
      let mine := i.pairs.filter (fun p => p.dev == d && p.round == 1)
      ((mine.map (fun p => (p.expert, p.rep))).eraseDups).map (fun k =>
        countRec (k.1, k.2, (mine.filter (fun p => p.expert == k.1 && p.rep == k.2)).length))
    i.peers.foldl (fun (r : ShInst × State) (p : ShPeer) =>
      shRecs r.2 r.1 p.arb p.dev 2 true (if p.arb = myArb s then recs p.dev else [])) ({ i with finBSent := true }, s)

/-- Round B starts at an origin (R99, R100): overflowing pairs take reserves. -/
def startB (s : State) (i : ShInst) : (ShInst × State) ⊕ Nat :=
  match allReserves s i (tokensOf i) with
  | .inr f => .inr f
  | .inl (ps, lost) =>
    let i := { i with
      pairs := i.pairs.map (fun (p : Pair) => if p.round = 0 ∧ p.st ≠ 1 then { p with st := 2 } else p),
      dropped := i.dropped + lost, bBegun := true }
    match addPairsB ps (incSat s (pgShf + 0x78) ps.length) i with
    | .inr f => .inr f
    | .inl (i, s) => .inl (finishB s i)

/-- What GRANT FINAL from every member leads to at an origin (R98, R99). -/
def afterGrants (s : State) (i : ShInst) : (ShInst × State) ⊕ Nat :=
  if i.closed ∨ !i.finASent ∨ !i.peers.all (fun p => p.gfinA) ∨ waitsCtx s i isGrantWork then .inl (i, s)
  else if !i.bBegun then
    let n := (i.pairs.filter (fun p => p.round == 0 && p.st != 1)).length
    let s := if n = 0 then s else inc64 s (pgShf + 0x60) n
    if i.reroute then startB s i else .inl (closeOrigin s i)
  else if i.finBSent ∧ i.peers.all (fun p => p.gfinB) then .inl (closeOrigin s i)
  else .inl (i, s)

/-- A GRANT payload of a round at its origin. -/
def grantProc (s : State) (i : ShInst) (p : Pkt) (round : Nat) : (ShInst × State) ⊕ Nat :=
  let r := (ctlRecs p).foldl (fun (r : ShInst × State) g => grantRecord r.2 r.1 p.src round g) (i, s)
  let i := mapPeer r.1 p.srcArb p.src (fun q =>
    if !shFinal p then q else if round = 0 then { q with gfinA := true } else { q with gfinB := true })
  afterGrants r.2 i

/-- GRANT_A (R97): an origin receives round-A grants. -/
def execGrantA (s : State) : Out := withCtl s (ctlOf 3) grantBad false (fun s i p => shPut s i (grantProc s i p 0))

/-- GRANT_B (R99): an origin receives round-B grants. -/
def execGrantB (s : State) : Out := withCtl s (ctlOf 4) grantBad false (fun s i p => shPut s i (grantProc s i p 1))

/-! ## Data and returns -/

/-- A segment header (R101). -/
def segHeader (tlen len off rank token row rep expert : Nat) : Nat :=
  tlen % 2 ^ 20 * 2 ^ 108 + len % 4096 * 2 ^ 96 + off % 2 ^ 20 * 2 ^ 76 + rank % 16 * 2 ^ 64 + token % 2 ^ 32 * 2 ^ 32
    + row % 4096 * 2 ^ 18 + rep % 4 * 2 ^ 16 + expert % 65536

/-- A byte stream for a device in segments of at most 2,024 bytes, one to a packet (R101); the last carries FINAL where
it is the last of its kind for that device (R95). -/
def segPackets (s : State) (i : ShInst) (a d kind : Nat) (final : Bool) (hdr : Nat → Nat → Nat) (bytes : List Byte) : List Pkt :=
  let ps := if bytes.isEmpty then [[]] else chunks 2024 bytes
  ((List.range ps.length).zip ps).map (fun e =>
    let body := leBytes 8 (shHeader i.seq i.comm (final && e.1 + 1 == ps.length) 1 kind) ++ leBytes 16 (hdr e.2.length (2024 * e.1)) ++ e.2
    { mkPkt s (shProto i) (shStamp s i) a d with data := true, body := padTo (roundUp body.length 4) body })

/-- DATA and RETURN payloads leave and are counted (R111). -/
def sendPayloads (s : State) (ps : List Pkt) : State :=
  ps.foldl (fun s p => inc64 (send s p) (pgShf + 0x50) p.body.length) s

/-- A byte stream goes to a device in segments. -/
def sendSegs (s : State) (i : ShInst) (a d kind : Nat) (final : Bool) (hdr : Nat → Nat → Nat) (bytes : List Byte) : State :=
  sendPayloads s (segPackets s i a d kind final hdr bytes)

/-- The 64-bit key of a pair (R92). -/
def pairKey (p : Pair) : Nat := p.dev * 2 ^ 48 + p.expert * 2 ^ 32 + p.token

/-- The granted pairs that come next, each the first in sheaf order of its destination, whose tokens are staged (R101). -/
def headPairs (i : ShInst) : List Pair :=
  let ps := sortBy pairKey (i.pairs.filter (fun p => p.st == 1 && !p.sent))
  let heads := (ps.map (fun p => p.dev)).eraseDups.filterMap (fun d => ps.find? (fun p => p.dev == d))
  heads.filter (fun p => (stagedOf i p.token).isSome)

/-- A pair can be sent: its context is resident and its token is in the Sheaf buffers (R94, R108). -/
def sendable (s : State) (i : ShInst) (p : Pair) : Bool :=
  (s.sheaf.resident.contains (outCtx s i p) || !s.sheaf.ctxs.contains (outCtx s i p)) && (spillOf s i false p.token).isNone

/-- What a pair that cannot be sent waits for is asked for: its context, or the block that holds its token. -/
def askFor (s : State) (i : ShInst) (p : Pair) : State :=
  let s := match spillOf s i false p.token with
    | some g => wantBack s g
    | none => s
  if waitsCtx s i (fun f => f.ctx == outCtx s i p) then s else (ctxTouch s (outCtx s i p) .none).2

/-- The data of a pair's token leave (R101, R107); with the last destination its staging room returns. -/
def sendPair (s : State) (i : ShInst) (p : Pair) (t : Staged) : State :=
  let last := !i.pairs.any (fun x => x.st == 1 && !x.sent && x.dev == p.dev && x != p)
  let s := sendSegs (ctxTouch s (outCtx s i p) .none).2 i (myArb s) p.dev 5 last
    (fun len off => segHeader t.bytes.length len off p.rank p.token p.row p.rep p.expert) t.bytes
  let i := { i with pairs := i.pairs.map (fun x => if x = p then { p with sent := true } else x) }
  let i := if (grantedPairs i p.token).all (fun x => x.sent) then mapStaged i p.token (freeRoom s) else i
  stagePump (shSet (inc64 s (pgShf + 0x40) 1) i)

/-- DATA_SEND (R101, R107): the origin sends the token of the next granted pair; pairs whose context or token must be fetched are
passed and what they need is asked for (R94, R108). -/
def execDataSend (parityBad : Bool) (s : State) : Out :=
  let ready := s.sheaf.insts.filter (fun i => i.kind == 0 && i.closed)
  match ready.find? (fun i => (headPairs i).any (sendable s i)) with
  | none => .next (ready.foldl (fun s i => (headPairs i).foldl (fun s p => askFor s i p) s) s)
  | some i =>
    match (headPairs i).find? (sendable s i) with
    | none => .next s
    | some p =>
      match stagedOf i p.token with
      | none => .next s
      | some t => if parityBad then .next (shParity s i.part 0x060E) else .next (sendPair s i p t)

/-- The segments of a DATA or RETURN payload: header and bytes; none where the payload does not hold NREC of them. -/
def segsOf : Nat → List Byte → Option (List (Nat × List Byte))
  | 0, bs => if bs.isEmpty then some [] else none
  | n + 1, bs =>
    let h := leNat (bs.take 16)
    let len := fld h 107 96
    if bs.length < 16 + roundUp len 4 then none
    else (segsOf n (bs.drop (16 + roundUp len 4))).map (fun r => (h, (bs.drop 16).take len) :: r)

/-- The oldest DATA or RETURN payload of a kind goes to its instance (R110, R312). -/
def withSegs (s : State) (kind : Nat) (f : State → ShInst → Pkt → List (Nat × List Byte) → State) : Out :=
  match takeEjected (dropReserved s) (ctlOf kind) with
  | none => .next (dropReserved s)
  | some (p, s) =>
    let h := leNat (p.body.take 8)
    match segsOf (fld h 10 8) (p.body.drop 8) with
    | none => .next (shMalformed s)
    | some segs =>
      let rsv := fun (x : Nat) => fld x 75 68 != 0 || fld x 31 30 != 0 || (kind == 6 && (fld x 67 64 != 0 || fld x 29 22 != 0))
      if fld h 15 12 ≠ 0 ∨ fld h 10 8 > 5 ∨ segs.any (fun e => rsv e.1) then .next (shMalformed s)
      else
        match shFind s (shName p).1 (shName p).2 with
        | none => .next (shOrphan s)
        | some i =>
          if p.dor ≠ detMode s then .next (shFault s i 0x060D)
          else if i.kind ≠ 0 then .next (shOrphan s)
          else .next (f (inc64 s (pgShf + 0x58) p.body.length) (shTouch s i) p segs)

/-- A byte range meets one already received. -/
def overlaps (got : List (Nat × Nat)) (o n : Nat) : Bool := got.any (fun g => g.1 < o + n && o < g.1 + g.2)

/-- One DATA segment whose context is there, at its destination (R102, R110): the instance, or a fault. -/
def dataHere (s : State) (i : ShInst) (p : Pkt) (e : Nat × List Byte) : (ShInst × State) ⊕ Nat :=
  let h := e.1
  let tlen := fld h 127 108
  let off := fld h 95 76
  let row := fld h 29 18
  match i.hosted.find? (fun x => x.expert == fld h 15 0 && x.rep == fld h 17 16) with
  | none => .inl (i, shOrphan s)
  | some x =>
    let mine := x.grants.any (fun g => g.arb == p.srcArb && g.dev == p.src && g.base ≤ row && row < g.base + g.n)
    let old := x.rows.find? (fun r => r.row == row)
    let clash : Bool := match old with
      | some r => r.full || r.tlen != tlen || r.token != fld h 63 32
      | none => false
    let got := (old.map (fun r => r.got)).getD []
    if !mine ∨ off + e.2.length > tlen ∨ overlaps got off e.2.length ∨ clash then .inl (i, shOrphan s)
    else if tlen > x.stride then .inr 0x0613
    else
      let got := got ++ [(off, e.2.length)]
      let full := decide ((got.map (fun g => g.2)).sum ≥ tlen)
      let r : ShRow := ⟨row, fld h 63 32, fld h 67 64, tlen, got, full⟩
      let i := setHosted i { x with rows := r :: x.rows.filter (fun y => y.row != row) }
      let s := shUnit s i (slotUnit i x (row * x.stride + off) e.2 false)
      .inl (i, if full then inc64 s (pgShf + 0x48) 1 else s)

/-- One DATA segment meets its flow context (R94). -/
def dataSeg (s : State) (i : ShInst) (p : Pkt) (e : Nat × List Byte) : (ShInst × State) ⊕ Nat :=
  match ctxTouch s (inCtx i p.srcArb p.src (fld e.1 15 0) (fld e.1 17 16)) (.seg p e.1 e.2) with
  | (true, s) => dataHere s i p e
  | (false, s) => .inl (i, s)

/-- The segments of a DATA payload, one after another. -/
def dataSegs : List (Nat × List Byte) → State → ShInst → Pkt → (ShInst × State) ⊕ Nat
  | [], s, i, _ => .inl (i, s)
  | e :: es, s, i, p =>
    match dataSeg s i p e with
    | .inr f => .inr f
    | .inl (i, s) => dataSegs es s i p

/-- DATA_SEGMENT (R102): a destination writes the segments of a DATA payload into their rows; complete slots get their
manifests. -/
def execDataSegment (s : State) : Out :=
  withSegs s 5 (fun s i p segs =>
    shPut s i (match dataSegs segs s i p with
      | .inr f => .inr f
      | .inl (i, s) => .inl (writeManifests s i)))

/-- The hosted slot whose delivered manifest a handle names, by the address of the manifest or by the slot's handle. -/
def manifestSlot (s : State) (i : ShInst) (t num h : Nat) : Option Hosted :=
  let c := (getTile s t).fg
  i.hosted.find? (fun x =>
    let cap := ((slotOf s i.part x.tile x.slot).map (fun r => r.cap)).getD x.cap
    x.tile == t && x.manifest && (x.handle == num
      || (h != 0 && bufAddr h 0 == bufAddr (NMap.get (fun _ => 0) c.handles x.handle) (cap * x.stride))))

/-- The packets of one row of a slot to its origin (R101, R103), the last with FINAL where it is the last for that origin. -/
def rowPackets (s : State) (x : ShInst) (h : Hosted) (g : Grant) (r : ShRow) (bs : List Byte) : List Pkt :=
  let to' := fun (y : ShRow) => h.grants.any (fun k =>
    k.arb == g.arb && k.dev == g.dev && k.base ≤ y.row && y.row < k.base + k.n)
  let last := !h.rows.any (fun y => r.row < y.row && to' y) && !x.hosted.any (fun k =>
    !k.returned && !(k.expert == h.expert && k.rep == h.rep) && k.grants.any (fun q => q.arb == g.arb && q.dev == g.dev && q.n != 0))
  segPackets s x g.arb g.dev 6 last (fun len off => segHeader bs.length len off 0 r.token r.rank h.rep h.expert) bs

/-- A slot's rows leave for their origins in order (R103); those whose flow context is not resident follow once it is (R94). -/
def returnRows (s : State) (x : ShInst) (h : Hosted) (t ho : Nat) : State :=
  (sortBy (fun r => r.row) h.rows).foldl (fun s r =>
    match h.grants.find? (fun g => g.base ≤ r.row && r.row < g.base + g.n) with
    | none => s
    | some g =>
      let row := readBuf s t ho (r.row * hRow ho * 64) (hRow ho * 64)
      let bs := match parseCbs (fmtOfCode x.retFmt) x.width row with
        | some rs => row.take (cbsLen rs)
        | none => row
      let ps := rowPackets s x h g r bs
      match ctxTouch s (inCtx x g.arb g.dev h.expert h.rep) (.pkts ps) with
      | (true, s) => sendPayloads s ps
      | (false, s) => s) s

/-- RETURN (R103): the tile sends the outputs of one expert slot, each row to its origin as RETURN segments. A row is cut
to the length of its CBS stream. A RETURN that names no slot with a delivered manifest faults the partition's latest instance. DESIGN
CHOICE (log entry 108). -/
def execReturn (i : Issue) (s : State) : Out :=
  issued s i 0xFF00FFFFFF000000 (fun s => overEdge s i.tile (fun s =>
    let c := (getTile s i.tile).fg
    let ho := resolve c (fld i.w 47 40)
    let hm := resolve c (fld i.w 39 32)
    let mine := s.sheaf.insts.filter (fun x => x.kind == 0 && x.part == c.part)
    let cands := mine.filterMap (fun x => (manifestSlot s x i.tile (fld i.w 39 32) hm).map (fun h => (x, h)))
    match cands.find? (fun e => !e.2.returned) with
    | none =>
      match cands with
      | e :: _ => shFault s e.1 0x0614
      | [] => shStray s c.part 0x0614
    | some (x, h) =>
      if !bufOk s i ho 0 (h.used * hRow ho * 64) then callFault s i.tile 0x0201 0
      else
        match badByte s i.tile ho 0 (h.used * hRow ho * 64) with
        | some a => parityPoison s i.tile a
        | none =>
          let s := returnRows s x h i.tile ho
          shSet s (shTouch s (setHosted x { h with returned := true }))))

/-- A kept pair's gate in the combine (R105). -/
def combineGate (i : ShInst) (p : Pair) : Nat :=
  if !i.renorm then p.gate
  else
    let ds := sortBy (fun d => fld d 83 80) (i.decisions.filter (fun d => fld d 31 0 == p.token))
    let act := gateSum ((ds.filter (fun d => fld d 83 80 < i.kUse)).map (fun d => fld d 63 32))
    f32Mul p.gate (f32Div act (sKept i p.token))

/-- A complete return is weighted and added; with the token's last kept return its vector is written (R104). -/
def combineAdd (s : State) (i : ShInst) (p : Pair) (o : List Nat) : ShInst × State :=
  let g := combineGate i p
  let prods := o.map (fun x => f32Mul g x)
  let a := (i.accums.find? (fun a => a.token == p.token)).getD ⟨p.token, List.replicate i.width 0, [], []⟩
  let a := if detMode s then { a with held := a.held ++ [(p.rank, prods)], ranks := p.rank :: a.ranks }
    else { a with vals := (a.vals.zip prods).map (fun x => f32Add x.1 x.2), ranks := p.rank :: a.ranks }
  if (keptPairs i p.token).isEmpty then (i, s)
  else if a.ranks.length < (keptPairs i p.token).length then ({ i with accums := a :: i.accums.filter (fun x => x.token != p.token) }, s)
  else
    let vs := if detMode s then xsSum ((sortBy (fun h => h.1) a.held).map (fun h => h.2.map decFP32)) else a.vals
    writeCombined s i p.token vs

/-- The pair that a RETURN segment of a device answers. -/
def returnPair (i : ShInst) (p : Pkt) (h : Nat) : Option Pair :=
  i.pairs.find? (fun x => x.st == 1 && x.token == fld h 63 32 && x.rank == fld h 21 18 && x.expert == fld h 15 0
    && x.rep == fld h 17 16 && x.dev == p.src && x.sent)

/-- One RETURN segment whose context is there, at its origin: a duplicate or a stranger is discarded; a malformed stream poisons the
step (R59). -/
def returnHere (s : State) (i : ShInst) (p : Pkt) (e : Nat × List Byte) : ShInst × State × Bool :=
  let h := e.1
  let tlen := fld h 127 108
  let off := fld h 95 76
  match returnPair i p h with
  | none => (i, shOrphan s, true)
  | some x =>
    if x.back ∨ off + e.2.length > tlen ∨ overlaps (x.got.map (fun g => (g.1, g.2.length))) off e.2.length then
      (i, shOrphan s, true)
    else
      let got := x.got ++ [(off, e.2)]
      let full := decide ((got.map (fun g => g.2.length)).sum ≥ tlen)
      let y := { x with got := if full then [] else got, back := full }
      let i := { i with pairs := i.pairs.map (fun z => if z = x then y else z) }
      if !full then (i, s, true)
      else
        let bs := (sortBy (fun g => g.1) got).flatMap (fun g => g.2)
        match parseCbs (fmtOfCode i.retFmt) i.width bs with
        | none => (i, s, false)
        | some rs =>
          let r := combineAdd s i y ((cbsVals i.width rs).map (encFP32 none false))
          (r.1, r.2, true)

/-- One RETURN segment meets its flow context (R94). -/
def returnSeg (s : State) (i : ShInst) (p : Pkt) (e : Nat × List Byte) : ShInst × State × Bool :=
  match ctxTouch s ⟨i.part, i.comm, i.seq, false, p.srcArb, p.src, fld e.1 15 0, fld e.1 17 16⟩ (.seg p e.1 e.2) with
  | (true, s) => returnHere s i p e
  | (false, s) => (i, s, true)

/-- Returns that have been handled: the instance is put back, and a malformed stream among them poisons the step (R59). -/
def putReturns (r : ShInst × State × Bool) : State :=
  let s := shSpill (shSet r.2.1 r.1)
  if r.2.2 then s else poison (errIn s pgShf 0x060F (some r.1.part) r.1.step) r.1.part 0x060F

/-- The oldest RETURN payload waits for the read-back of a spilled accumulator (R108): the group that it needs. -/
def returnNeeds (s : State) : Option SpillGroup :=
  match s.fab.ejected.find? (ctlOf 6) with
  | none => none
  | some p =>
    match shFind s (shName p).1 (shName p).2, segsOf (fld (leNat (p.body.take 8)) 10 8) (p.body.drop 8) with
    | some i, some segs => segs.findSome? (fun e => spillOf s i true (fld e.1 63 32))
    | _, _ => none

/-- RETURN_SEGMENT (R104): the combine unit adds returned outputs, gate-weighted, into their tokens. While the spill
region is full it accepts none, and a spilled accumulator is read back first (R108). -/
def execReturnSegment (parityBad : Bool) (s : State) : Out :=
  if shFull s then .next s
  else if parityBad then
    match s.fab.ejected.find? (ctlOf 6) with
    | none => .next s
    | some p =>
      match shFind s (shName p).1 (shName p).2 with
      | none => .next s
      | some i => .next (shParity s i.part 0x060E)
  else
    match returnNeeds s with
    | some g => .next (wantBack s g)
    | none =>
      withSegs s 6 (fun s i p segs =>
        putReturns (segs.foldl (fun (r : ShInst × State × Bool) e =>
          let q := returnSeg r.2.1 r.1 p e
          (q.1, q.2.1, r.2.2 && q.2.2)) (i, s, true)))

/-! ## Context fetches (R94) -/

/-- A record whose context is back is handled. -/
def runWork (s : State) (f : CtxFetch) : State :=
  match shFind s f.ctx.comm f.ctx.seq with
  | none => s
  | some i =>
    match f.work with
    | .none => s
    | .pair p =>
      let q := if p.round = 0 then finishA s (addPair s i p) else finishB s { i with pairs := i.pairs ++ [p] }
      shSet q.2 q.1
    | .count c =>
      if detMode s then shPut s i (settleRounds s { i with counts := i.counts ++ [c] })
      else
        match grantOne s i c with
        | .inr code => shFault s i code
        | .inl (g, j) =>
          let q := sendGrants s j c.arb c.dev c.round [g]
          shPut s i (settleRounds q.2 q.1)
    | .grant dev round r =>
      let q := applyGrant s i dev round r
      shPut s i (afterGrants q.2 q.1)
    | .seg p h bs =>
      if f.ctx.inbound then
        shPut s i (match dataHere s i p (h, bs) with
          | .inr code => .inr code
          | .inl (i, s) => .inl (writeManifests s i))
      else putReturns (returnHere s i p (h, bs))
    | .pkts ps => sendPayloads s ps

/-- CONTEXT_FETCH_COMPLETE (R94): the oldest read is back, 340 ACLK after it left, and the records that waited for its context are
handled in order. -/
def execContextFetchComplete (s : State) : Out :=
  match s.sheaf.fetches.find? (fun f => (f.since.map (fun a => decide (a + 340 ≤ s.clk.aclk))).getD false) with
  | none => .next s
  | some f =>
    let mine := s.sheaf.fetches.filter (fun g => g.ctx == f.ctx)
    let s := ctxUse { s with sheaf := { s.sheaf with fetches := s.sheaf.fetches.filter (fun g => g.ctx != f.ctx) } } f.ctx
    .next (fetchPump (mine.foldl runWork s))

/-! ## Aborts, held payloads and read-back -/

/-- An ABORT payload is malformed: FINAL clear, more than one record, or a reserved bit (R95, R110). -/
def abortBad (p : Pkt) : Bool := !shFinal p || (ctlRecs p).length != 1 || decide (65536 ≤ (ctlRecs p).headD 0)

/-- SHEAF_ABORT (R110): a member receives ABORT of an instance and ends it with the carried code; one for an instance not
issued is held. -/
def execSheafAbort (s : State) : Out :=
  withCtl s (fun p => (p.proto == 1 || p.proto == 2) && shKind p == 7) abortBad true
    (fun s i p => shEnd s i ((ctlRecs p).headD 0 % 65536))

/-- PAV_COLL_TIMEOUT in TCLK (R277). -/
def collTimeout (s : State) : Nat := 1000000 * regN s (pgPav + 0x110)

/-- HELD_PAYLOAD_TIMEOUT (R475): the oldest held payload whose instance has not been issued in time is discarded. -/
def execHeldPayloadTimeout (s : State) : Out :=
  match s.sheaf.held.find? (fun h => now s ≥ h.since + collTimeout s) with
  | none => .next s
  | some h => .next (shOrphan { s with sheaf := { s.sheaf with held := s.sheaf.held.erase h } })

/-- The blocks of a spill group read back from T1; the answer says whether every one could be (R108, R331). -/
def spillRead (s : State) (g : SpillGroup) : Bool × State :=
  g.blocks.foldl (fun (r : Bool × State) b =>
    let x := t1Read r.2 (pairN r.2 (pgShf + 0x158) + 65536 * b) 65536
    (r.1 && x.1.isSome, x.2)) (true, s)

/-- SPILL_READBACK_COMPLETE (R108): the oldest spilled items that were asked for are back in the buffers, and their blocks are free;
an uncorrectable block of them faults the partition (R331). -/
def execSpillReadbackComplete (s : State) : Out :=
  match s.sheaf.spills.find? (fun g => g.wanted) with
  | none => .next s
  | some g =>
    match spillRead s g with
    | (true, s) => .next (stagePump { s with sheaf := { s.sheaf with spills := s.sheaf.spills.erase g } })
    | (false, s) =>
      let n := ((shFind s g.comm g.seq).map (fun i => i.part)).getD 4
      .next (partFault (grnFault s 0 n 0x0407) n 0x0407)

/-! ## Completion (R109) -/

/-- A dispatch instance is complete on this device: every token combined, every slot returned. -/
def dispatchDone (s : State) (i : ShInst) : Bool :=
  i.kind == 0 && i.closed && roundsClosed i && (i.staged.filter (fun t => t.done)).length ≥ i.nTokens
    && i.hosted.all (fun h => h.manifest && h.returned)
    && !s.sheaf.stageQ.any (fun q => q.comm == i.comm && q.seq == i.seq)

/-- A load histogram record (R109): the manual gives the header's contents; their places are the model's. -/
def histRecord (i : ShInst) : List Byte :=
  let hs := sortBy (fun h => h.expert * 4 + h.rep) (i.hosted.filter (fun h => h.asked != 0 || h.used != 0 || h.manifest))
  let es := hs.take 8188
  leBytes 2 i.comm ++ leBytes 2 (b2n (hs.length > 8188)) ++ leBytes 4 i.seq ++ leBytes 4 i.step ++ leBytes 4 es.length
    ++ leBytes 8 i.dropped ++ leBytes 8 0
    ++ es.flatMap (fun h => leBytes 8 (min h.rerouted 4095 * 2 ^ 52 + min h.used 65535 * 2 ^ 36 + min h.asked 65535 * 2 ^ 20
      + h.rep * 2 ^ 16 + h.expert))

/-- The record goes to the ring at SHF_HIST_BASE, in places of 64 KiB. -/
def writeHist (s : State) (i : ShInst) : State :=
  let n := regN s (pgShf + 0x150)
  if n = 0 then s
  else
    let k := regN s (pgShf + 0x154)
    let r := histRecord i
    setRegN (t1WriteRaw s (pairN s (pgShf + 0x148) + 65536 * k) (padTo (roundUp r.length 64) r)) (pgShf + 0x154) ((k + 1) % n)

/-- DISPATCH_INSTANCE_COMPLETE (R109): a finished dispatch instance frees its contexts and writes its histogram record. -/
def execDispatchInstanceComplete (s : State) : Out :=
  match s.sheaf.insts.find? (dispatchDone s) with
  | none => .next s
  | some i => .next (shDrop (writeHist s i) i.comm i.seq)

/-! ## Writes of the Expert Placement Table (R90) -/

/-- An entry is stored in the shadow bank of a range: the bank opposite that range's ACTIVE bit, also where its index lies outside the
range. DESIGN CHOICE (log entry 108). -/
def eptStore (s : State) (range idx e : Nat) : State :=
  let k := (1 - eptActive s range) * 65536 + idx % 65536
  { s with
    sheaf := { s.sheaf with
      ept := NMap.set (fun _ => 0) s.sheaf.ept k e, eptBad := NMap.set (fun _ => false) s.sheaf.eptBad k false } }

/-- EPT_ENTRY_WRITE (R90): the write of SHF_EPT_DATA3 stores the entry and advances the index. -/
def execEptEntryWrite (v : Nat) (s : State) : Out :=
  guardWrite s (pgShf) (let n := fld (regN s (pgShf + 0x104)) 13 12
  let idx := regN s (pgShf + 0x108) % 65536
  let e := regN s (pgShf + 0x10C) + regN s (pgShf + 0x110) * 2 ^ 32 + regN s (pgShf + 0x114) * 2 ^ 64 + v % 2 ^ 32 * 2 ^ 96
  let s := { s with sheaf := { s.sheaf with eptPart := none } }
  .next (setRegN (eptStore s n idx e) (pgShf + 0x108) ((idx + 1) % 65536)))

/-- EPT_BULK_LOAD (R90, R111): a write of SHF_EPT_CTRL with LOAD set; ignored with 0x0610 while a copy is in progress. -/
def execEptBulkLoad (v : Nat) (s : State) : Out :=
  guardWrite s (pgShf) (if s.sheaf.load.isSome then .next (err s pgShf 0x0610)
  else
    let c := regN s (pgShf + 0x104)
    let c := setFld (setFld (setFld c 13 12 (fld v 13 12)) 7 4 (fld v 7 4)) 11 11 1
    let s := setRegN s (pgShf + 0x104) c
    .next { s with
      sheaf := { s.sheaf with
        load := some (fld v 13 12, regN s (pgShf + 0x108) % 65536, regN s (pgShf + 0x11C), pairN s (pgShf + 0x120)) } })

/-- Entries of a bulk copy: stored one after another until done, or until one cannot be read. -/
def eptCopy : Nat → State → Nat → Nat → Nat → JobRes × State
  | 0, s, _, _, _ => (.data [], s)
  | n + 1, s, range, idx, a =>
    match readPieces [(a, 16)] s 0 range with
    | (.data d, s) => eptCopy n (eptStore s range idx (leNat d)) range (idx + 1) (a + 16)
    | r => r

/-- LOAD_BUSY clears. -/
def loadEnd (s : State) : State :=
  setRegN { s with sheaf := { s.sheaf with load := none } } (pgShf + 0x104) (setFld (regN s (pgShf + 0x104)) 11 11 0)

/-- EPT_BULK_LOAD_DONE (R90): a bulk copy finishes, or stops at an unmapped page with 0x0402. While a grain of its source
is not readable it goes on. -/
def execEptBulkLoadDone (s : State) : Out :=
  match s.sheaf.load with
  | none => .next s
  | some l =>
    let n := min 65536 l.2.2.1
    let whole := cutGrains [(l.2.2.2, 16 * n)]
    match askPieces whole s 0 l.1 with
    | (some (.remote _ _ _ _ _), s) => .next s
    | (some (.wait _ _), s) => .next s
    | _ =>
    match eptCopy n s l.1 l.2.1 l.2.2.2 with
    | (.data _, s) => .next (loadEnd (touchAll (dropT2 s 0 l.1 whole) l.1 whole))
    | (.unmapped, s) => .next (loadEnd (err s pgShf 0x0402))
    | (.lost x, s) => .next (loadEnd (lostAccess s l.1 x))
    | (.badTmap, s) => .next (loadEnd (partFault (grnFault s 0 l.1 0x0405) l.1 0x0405))
    | (.uncorr ea g, s) => .next (uncorrGrain s l.1 ea g l.2.2.2)
    | (_, _) => .next s

end Sys2Proof.Machine
end

