-- ==== Sys2Proof/Machine/Pool.lean ====
section
/-!
DEFINITION. Pooled gathers and row updates: EMBAG, ROWUPD, windows, row lists, pool units and partials (R193 to R209).
The manual leaves the layout of POOL payloads open; the model uses the Sheaf header (R95) with kinds 0x11 COUNT, 0x12
GRANT, 0x13 LIST, 0x14 PARTIAL, 0x15 DONE and 0x16 POISON (log entry 42).
-/

namespace Sys2Proof.Machine

open Sys2Proof Sys2Proof.Config

/-! ## Rows (R193) -/

/-- A row's values widened to FP32 (R200). -/
def rowVals (fmt n : Nat) (bs : List Byte) : List Nat :=
  match fmtOfCode fmt with
  | some f => (decodeTensor f n bs).map (encFP32 none false)
  | none => []

/-- Values in a format of partials, gradients or results: BF16 or FP32. -/
def valsIn (fmt : Nat) (bs : List Byte) : List Nat :=
  if fmt = 5 then (codesOfBytes 2 bs).map (fun c => c * 65536) else codesOfBytes 4 bs

/-- FP32 values written in a format, rounded (R38). -/
def valsOut (fmt : Nat) (vs : List Nat) : List Byte :=
  if fmt = 5 then vs.flatMap (fun v => leBytes 2 (encBF16 none false (decFP32 v))) else vs.flatMap (leBytes 4)

/-! ## Requests (R194 to R197) -/

/-- An EMBAG descriptor (R194) as the instance that it opens. -/
def parseEmbag (s : State) (part step : Nat) (d : List Byte) : Option ShInst :=
  let w := leNat d
  let n := fld w 127 96
  if d.length ≠ 32 ∨ fld w 23 19 ≠ 0 ∨ rowBytesOf (fld w 31 24) (fld w 47 32) = 0 ∨ !([5, 6].contains (fld w 55 48))
      ∨ !([5, 6].contains (fld w 63 56)) ∨ n = 0 ∨ n > 1048576 ∨ fld w 255 136 ≠ 0 then none
  else some {
    kind := 1, comm := fld w 15 0, seq := fld w 95 64, part := part, step := step, mode := fld w 17 16,
    localEn := bit w 18, rowFmt := fld w 31 24, rowValues := fld w 47 32, retFmt := fld w 55 48, outFmt := fld w 63 56,
    nBags := n, hotAt := fld w 135 128, prog := now s }

/-- A ROWUPD descriptor (R204). -/
def parseRowupd (s : State) (part step : Nat) (d : List Byte) : Option ShInst :=
  let w := leNat d
  if d.length ≠ 32 ∨ fld w 23 18 ≠ 0 ∨ !([5, 6].contains (fld w 31 24)) ∨ rowBytesOf (fld w 31 24) (fld w 47 32) = 0
      ∨ !([5, 6].contains (fld w 55 48)) ∨ fld w 63 56 ≠ 0 ∨ fld w 255 160 ≠ 0 then none
  else some {
    kind := 2, comm := fld w 15 0, seq := fld w 95 64, part := part, step := step, mode := fld w 16 16, stoch := bit w 17,
    rowFmt := fld w 31 24, rowValues := fld w 47 32, gradFmt := fld w 55 48, alpha := fld w 127 96, beta := fld w 159 128,
    prog := now s }

/-- Bytes of a gradient in a row list, padded to 8 (R204); an EMBAG entry has none. -/
def gradBytes (i : ShInst) : Nat := if i.kind = 2 then roundUp (i.rowValues * (if i.gradFmt = 5 then 2 else 4)) 8 else 0

/-- The row entries of a list (R196, R204): address, references as (bag, weight), gradient bytes, and the entry's own
bytes; none where the list ends inside a record, NREF is 0, or a reference names no bag of the window. -/
def rowEntries : Nat → ShInst → Nat → List Byte → Option (List (Nat × List (Nat × Nat) × List Byte × List Byte))
  | 0, _, _, bs => if bs.isEmpty then some [] else none
  | f + 1, i, bags, bs =>
    if bs.isEmpty then some []
    else
      let e := leNat (bs.take 8)
      let nref := fld e 55 48
      let body := if i.kind = 2 then gradBytes i else 8 * nref
      if bs.length < 8 + body ∨ nref = 0 ∨ fld e 63 56 ≠ 0 ∨ fld e 5 0 ≠ 0 ∨ (i.kind = 2 ∧ nref ≠ 1) then none
      else
        let refs := if i.kind = 2 then [] else
          (List.range nref).map (fun k => let r := leNat ((bs.drop (8 + 8 * k)).take 8); (fld r 31 0, fld r 63 32))
        if refs.any (fun r => decide (r.1 ≥ bags)) then none
        else
          (rowEntries f i bags (bs.drop (8 + body))).map (fun l =>
            (fld e 47 0, refs, if i.kind = 2 then (bs.drop 8).take (i.rowValues * (if i.gradFmt = 5 then 2 else 4)) else [],
              bs.take (8 + body)) :: l)

/-- The windows of a request area (R195); none where one is malformed. -/
def parseWindows (i : ShInst) (area : List Byte) : Option (List PoolWin) :=
  let n := byteFld area 0 3
  let maxBags := min 4096 (4194304 / max 1 (4 * i.rowValues))
  (List.range n).foldr (fun k (r : Option (List PoolWin)) =>
    let e := leNat ((area.drop (16 + 16 * k)).take 16)
    let bags := fld e 31 16
    let off := fld e 95 64
    let len := fld e 127 96
    let okBags := if i.kind = 2 then bags == 0 else 1 ≤ bags && bags ≤ maxBags && fld e 63 32 + bags ≤ i.nBags
    if fld e 7 6 ≠ 0 ∨ fld e 15 8 ≠ 0 ∨ !okBags ∨ off % 8 ≠ 0 ∨ len % 8 ≠ 0 ∨ off + len > area.length then none
    else
      match r with
      | none => none
      | some ws => some (⟨fld e 5 0, bags, fld e 63 32, (area.drop off).take len, false, false, false⟩ :: ws)) (some [])

/-- Every grain of a row is in this device's T1 (R197). -/
def rowInT1 (s : State) (part a n : Nat) : Bool :=
  (grainPieces (n / 65536 + 2) a n).all (fun p =>
    match walk s 0 part p.1 with
    | .page _ w => peGrain w (grainOf p.1) == 1 || peGrain w (grainOf p.1) == 5
    | _ => false)

/-- A window split into what is pooled here and what goes to its owner (R197). -/
def splitWindow (s : State) (i : ShInst) (w : PoolWin) : Option (List (Nat × List (Nat × Nat) × List Byte) × List Byte) :=
  (rowEntries (w.list.length / 16 + 1) i w.bags w.list).map (fun es =>
    let here := fun (e : Nat × List (Nat × Nat) × List Byte × List Byte) =>
      i.kind == 1 && i.localEn && rowInT1 s i.part e.1 (rowBytesOf i.rowFmt i.rowValues)
    ((es.filter here).map (fun e => (e.1, e.2.1, e.2.2.1)), (es.filter (fun e => !here e)).flatMap (fun e => e.2.2.2)))

/-- Every window split in order. -/
def splitAll (s : State) (i : ShInst) :
    List PoolWin → Option (List (List (Nat × List (Nat × Nat) × List Byte) × List Byte))
  | [] => some []
  | w :: ws =>
    match splitWindow s i w, splitAll s i ws with
    | some x, some xs => some (x :: xs)
    | _, _ => none

/-! ## Accumulator slots (R198, R199) -/

/-- Bytes that a window takes in the fullest accumulator of a die. -/
def winBytes (i : ShInst) (bags : Nat) : Nat := (bags + 63) / 64 * (4 * i.rowValues)

/-- Bytes taken by granted windows. -/
def slotBytesUsed (s : State) : Nat :=
  (s.sheaf.insts.map (fun i => ((i.ownWins.filter (fun w => w.granted)).map (fun w => winBytes i w.bags)).sum)).sum

/-- The windows that await a grant, with their instances, in the order in which they are granted (R198): that in which their counts
arrived, or in DET_MODE, once every member's counts are in, by requester and window. -/
def grantSeq (s : State) : List (ShInst × OwnWin) :=
  let ws := fun (i : ShInst) => (i.ownWins.filter (fun w => !w.granted)).map (fun w => (i, w))
  if detMode s then
    (s.sheaf.insts.filter (fun i => i.kind != 0 && i.counted.length ≥ i.peers.length)).flatMap (fun i =>
      sortBy (fun e => (e.2.arb * 64 + e.2.dev) * 2 ^ 32 + e.2.idx) (ws i))
  else sortBy (fun e => e.2.order) ((s.sheaf.insts.filter (fun i => i.kind != 0)).flatMap ws)

/-- Windows granted while slots are free, in order; the requester is told (R198). -/
def grantWins : List (ShInst × OwnWin) → State → Nat → State
  | [], s, _ => s
  | e :: ws, s, used =>
    match shFind s e.1.comm e.1.seq with
    | none => grantWins ws s used
    | some i =>
      let w := e.2
      if used + winBytes i w.bags > 262144 then s
      else
        let v := { w with granted := true, grantNo := s.sheaf.winNo }
        let i := { i with ownWins := i.ownWins.map (fun x => if x = w then v else x) }
        let s := { s with sheaf := { s.sheaf with winNo := s.sheaf.winNo + 1 } }
        if w.here then grantWins ws (shSet s i) (used + winBytes i w.bags)
        else
          let r := shSendCtl s i w.arb w.dev 0x12 false [w.idx]
          grantWins ws (shSet r.2 r.1) (used + winBytes i w.bags)

/-- The grants that free slots allow. -/
def poolGrants (s : State) : State := grantWins (grantSeq s) s (slotBytesUsed s)

/-! ## Bags at the requester (R201) -/

/-- Element maximum by R200. -/
def maxElem (a b : Nat) : Nat := f32Max a b

/-- Two FP32 vectors merged by the mode. -/
def mergeVec (mode : Nat) (a b : List Nat) : List Nat :=
  (a.zip b).map (fun x => if mode = 3 then maxElem x.1 x.2 else f32Add x.1 x.2)

/-- The sum or maximum of several partials: in arrival order, or by R55 in DET_MODE (R201). -/
def mergeAll (s : State) (mode : Nat) (ps : List (List Nat)) : List Nat :=
  match ps with
  | [] => []
  | p :: r => if detMode s ∧ mode ≠ 3 then xsSum (ps.map (fun v => v.map decFP32)) else r.foldl (mergeVec mode) p

/-- A bag's vector in FP32 once all of its partials are in (R201). -/
def bagVector (s : State) (i : ShInst) (b : BagAcc) : List Nat :=
  let l := i.lengths.getD b.bag 0
  if b.held.isEmpty ∨ l = 0 then List.replicate i.rowValues 0
  else
    let v := mergeAll s i.mode b.held
    if i.mode = 1 then v.map (fun x => f32Div x (f32OfNat l)) else v

/-- The stall cause of a wait on bags: T2_LATE while a remote partial is outstanding, else T1_LATE (R201). -/
def bagCause (s : State) (i : ShInst) : State :=
  let c := (getTile s i.tile).fg
  let k := if i.bags.any (fun b => b.remote != 0) then 2 else 1
  setFg s i.tile (setCtr c i.ctr { getCtr c i.ctr with cause := k })

/-- Bags whose partials are all in are written to the combine buffer, one unit each (R201). -/
def writeBags (s : State) (i : ShInst) : ShInst × State :=
  let h := NMap.get (fun _ => 0) (getTile s i.tile).fg.handles i.handle
  let r := i.bags.foldl (fun (r : List BagAcc × State) b =>
    if b.done ∨ b.left ≠ 0 then (r.1 ++ [b], r.2)
    else
      let u : Unit := { tile := i.tile, bg := false, part := i.part, handle := i.handle, ctr := i.ctr,
                        off := b.bag * hRow h * 64, data := valsOut i.outFmt (bagVector s i b), weight := false, cause := 1,
                        again := false, link := i.tile / 60, counts := true }
      (r.1 ++ [{ b with done := true, held := [], acc := [] }], shUnit r.2 i u)) ([], s)
  ({ i with bags := r.1 }, bagCause r.2 i)

/-- One source partial of a bag arrives, from another device or from this one's units; an empty one is ignored by the merge (R201). -/
def bagPartial (i : ShInst) (bag : Nat) (v : Option (List Nat)) (remote : Bool) : ShInst :=
  { i with
    bags := i.bags.map (fun b =>
      if b.bag ≠ bag then b
      else
        { b with
          held := match v with
            | some x => b.held ++ [x]
            | none => b.held,
          left := b.left - 1, remote := if remote then b.remote - 1 else b.remote }) }

/-! ## Issue -/

/-- A requester's counts go to every member with FINAL (R198): a record of window and sizes, and one of FIRST_BAG. -/
def sendCounts (s : State) (i : ShInst) : ShInst × State :=
  let ws := (List.range i.wins.length).zip i.wins
  i.peers.foldl (fun (r : ShInst × State) p =>
    let mine := if p.arb = myArb s then ws.filter (fun w => w.2.owner == p.dev && !w.2.list.isEmpty) else []
    let one := fun (r : ShInst × State) (w : Nat × PoolWin) =>
      shSendCtl r.2 r.1 p.arb p.dev 0x11 false
        [w.2.list.length % 2 ^ 32 * 2 ^ 32 + w.2.bags % 2 ^ 32, w.1 % 2 ^ 32 * 2 ^ 32 + w.2.first % 2 ^ 32]
    let r := mine.foldl one r
    shSendCtl r.2 r.1 p.arb p.dev 0x11 true []) (i, s)

/-- A ROWUPD whose windows have all been applied advances its counter by one unit (R297). -/
def rowupdEnd (s : State) (i : ShInst) : ShInst × State :=
  if i.kind ≠ 2 ∨ i.ended ∨ !i.wins.all (fun w => w.done || w.list.isEmpty) then (i, s)
  else
    let u : Unit := {
      tile := i.tile, bg := false, part := i.part, handle := 0, ctr := i.ctr, off := 0, data := [], weight := false, cause := 6,
      again := false, link := i.tile / 60, counts := true }
    ({ i with ended := true }, shUnit s i u)

/-- An instance of pooled rows is issued: its windows are read and split, its counts leave (R194 to R198, R204). -/
def issuePool (s : State) (t : Nat) (n : ShInst) (area : List Byte) : State :=
  match parseWindows n area with
  | none => shFault (shOpen s n) ((shFind (shOpen s n) n.comm n.seq).getD n) 0x060C
  | some ws =>
    match splitAll s n ws with
    | none => shFault (shOpen s n) ((shFind (shOpen s n) n.comm n.seq).getD n) 0x060C
    | some xs =>
      let lens := (List.range n.nBags).map (fun b => byteFld area (byteFld area 4 7 + 2 * b) (byteFld area 4 7 + 2 * b + 1))
      let ix := (List.range ws.length).zip (ws.zip xs)
      let wins := ix.map (fun w => { w.2.1 with list := w.2.2.2, sent := false })
      let here := (ix.filter (fun w => !w.2.2.1.isEmpty)).map (fun w =>
        ({ arb := myArb s, dev := myDev s, idx := w.1, bags := w.2.1.bags, first := w.2.1.first, bytes := 0, here := true,
           granted := false, rx := [], ready := true, rows := w.2.2.1, order := s.sheaf.winNo + w.1, grantNo := 0,
           readyNo := s.sheaf.winNo + w.1, chan := 128, slots := [] } : OwnWin))
      let s := { s with sheaf := { s.sheaf with winNo := s.sheaf.winNo + ws.length } }
      let covers := fun (f m b : Nat) => decide (f ≤ b) && decide (b < f + m)
      let bags := if n.kind = 2 then [] else (List.range n.nBags).map (fun b =>
        let rem := (wins.filter (fun w => !w.list.isEmpty && covers w.first w.bags b)).length
        let loc := (here.filter (fun w => covers w.first w.bags b)).length
        let far := (wins.filter (fun w => !w.list.isEmpty && covers w.first w.bags b && w.owner != myDev s)).length
        (⟨b, [], [], [], true, [], rem + loc, far, false⟩ : BagAcc))
      let s := shOpen s { n with wins := wins, lengths := lens, bags := bags, ownWins := here, tile := t }
      match shFind s n.comm n.seq with
      | none => s
      | some i =>
        let r := sendCounts s i
        let r := if n.kind = 1 then writeBags r.2 r.1 else rowupdEnd r.2 r.1
        poolGrants (shSet r.2 r.1)

/-- EMBAG or ROWUPD at its tile: checks at issue (R208), the request area, the armed result (R297). -/
def poolIssue (i : Issue) (s : State) (parse : State → Nat → Nat → List Byte → Option ShInst) (rowupd : Bool) : Out :=
  issued s i (if rowupd then 0xFF80FF000000001F else 0xFF80FFFF0000001F) (fun s => dynamic s i.tile (fun s =>
    let c := (getTile s i.tile).fg
    let d := descOf s i i.doff 32
    let cq := (fld (leNat d) 15 0, fld (leNat d) 95 64)
    let h := resolve c (fld i.w 47 40)
    let ho := fld i.w 39 32
    let k := fld i.w 4 0
    match parse s c.part c.step d with
    | none => shIssueFault s cq.1 cq.2 c.part 0x060A
    | some n =>
      if !commGood s n.comm c.part then shIssueFault s cq.1 cq.2 c.part 0x0604
      else if (shFind s n.comm n.seq).isSome then shIssueFault s cq.1 cq.2 c.part 0x0607
      else if !bufOk s i h 0 (hLines h * 64) ∨ (!rowupd && NMap.get (fun _ => 0) c.handles ho == 0) then callFault s i.tile 0x0201 0
      else if !armFree s c.part i.tile k then callFault s i.tile 0x0211 0
      else
        match badByte s i.tile h 0 (hLines h * 64) with
        | some a => parityPoison s i.tile a
        | none =>
          let s := armResult s i.tile k (if rowupd then 0 else ho) (if rowupd then 1 else n.nBags)
          issuePool s i.tile { n with seed := c.seed, handle := if rowupd then 0 else ho, ctr := k }
            (readBuf s i.tile h 0 (hLines h * 64))))

/-- EMBAG (R194): opens an instance of pooled gathers and arms the combine buffer, one unit per bag. -/
def execEmbag (i : Issue) (s : State) : Out := poolIssue i s parseEmbag false

/-- ROWUPD (R204): opens an instance of row updates and arms a counter, one unit at completion. -/
def execRowupd (i : Issue) (s : State) : Out := poolIssue i s parseRowupd true

/-! ## Windows between requester and owner -/

/-- A control payload of the POOL protocol of a kind. -/
def poolCtl (kind : Nat) (p : Pkt) : Bool := p.proto == 2 && shKind p == kind

/-- A window of another member as its count names it (R198). -/
def countedWin (s : State) (p : Pkt) (rs : List Nat) : OwnWin :=
  let r0 := rs.headD 0
  let r1 := rs.getD 1 0
  { arb := p.srcArb, dev := p.src, idx := fld r1 63 32, bags := fld r0 31 0, first := fld r1 31 0, bytes := fld r0 63 32,
    here := false, granted := false, rx := [], ready := false, rows := [], order := s.sheaf.winNo, grantNo := 0, readyNo := 0,
    chan := 128, slots := [] }

/-- EMBAG_COUNT (R198): an owner receives a window count, or FINAL, and grants whole windows. -/
def execEmbagCount (s : State) : Out :=
  withCtl s (poolCtl 0x11) (fun _ => false) true (fun s i p =>
    let rs := ctlRecs p
    let i := if rs.length = 2 then { i with ownWins := i.ownWins ++ [countedWin s p rs] } else i
    let i := if shFinal p then { i with counted := i.counted ++ [(p.srcArb, p.src)] } else i
    poolGrants (shSet { s with sheaf := { s.sheaf with winNo := s.sheaf.winNo + 1 } } i))

/-- Counts of the rows that a requester sends away advance in its own Tier Map, and a hot grain is filled (R207). -/
def hotRows (s : State) (i : ShInst) (list : List Byte) : State :=
  match rowEntries (list.length / 16 + 1) i 4096 list with
  | none => s
  | some es =>
    es.foldl (fun s e =>
      (grainPieces 4 e.1 (rowBytesOf i.rowFmt i.rowValues)).foldl (fun s p =>
        match walk s 0 i.part p.1 with
        | .page ea w =>
          let s := touchGrain s i.part ea (grainOf p.1)
          if i.hotAt = 0 ∨ peCount (entryW s ea) (grainOf p.1) < i.hotAt ∨ peWritable w ∨ pePlanned w ∨ detMode s
              ∨ peGrain w (grainOf p.1) ≠ 0 then s
          else if frameOwned s i.part w ∨ quotaRoom s (peOwner w) i.part then
            startMigration s i.part (p.1 / 65536 * 65536) 1
          else s
        | _ => s) s) s

/-- A window's row list leaves for its owner (R198); its row entries advance the COUNTs here (R207). -/
def sendList (s : State) (i : ShInst) (k : Nat) (w : PoolWin) : State :=
  let ps := chunks 2032 w.list
  let s := ((List.range ps.length).zip ps).foldl (fun s e =>
    let body := leBytes 8 (shHeader i.seq i.comm (e.1 + 1 == ps.length) 1 0x13) ++ leBytes 8 (k + 2032 * e.1 * 2 ^ 32) ++ e.2
    send s { mkPkt s 2 (shStamp s i) (myArb s) w.owner with data := true, body := padTo (roundUp body.length 4) body }) s
  let s := shSet s { i with wins := i.wins.set k { w with sent := true } }
  if w.owner ≠ myDev s then hotRows s i w.list else s

/-- Granted row lists leave in order while their partition's staging share has room for them (R107, R198). -/
def listPump (s : State) : State :=
  s.sheaf.insts.foldl (fun s x =>
    (List.range x.wins.length).foldl (fun s k =>
      match shFind s x.comm x.seq with
      | none => s
      | some i =>
        match i.wins[k]? with
        | none => s
        | some w =>
          if !w.granted ∨ w.sent ∨ stagingFree s i.part < (w.list.length + 1023) / 1024 ∨ shFull s then s else sendList s i k w) s) s

/-- EMBAG_WINDOW_GRANT (R198): a requester receives a window grant; the window's row list leaves through outbound staging. -/
def execEmbagWindowGrant (s : State) : Out :=
  withCtl s (poolCtl 0x12) (fun _ => false) false (fun s i p =>
    let k := (ctlRecs p).headD 0 % 2 ^ 32
    match i.wins[k]? with
    | none => shMalformed (shSet s i)
    | some w =>
      if w.granted ∨ w.owner ≠ p.src then shOrphan (shSet s i)
      else listPump (shSet s { i with wins := i.wins.set k { w with granted := true } }))

/-- The oldest POOL data payload of a kind goes to its instance (R312). -/
def withPool (s : State) (kind : Nat) (f : State → ShInst → Pkt → State) : Out :=
  match takeEjected (dropReserved s) (poolCtl kind) with
  | none => .next (dropReserved s)
  | some (p, s) =>
    match shFind s (shName p).1 (shName p).2 with
    | none => .next (shOrphan s)
    | some i =>
      if p.dor ≠ detMode s then .next (shFault s i 0x060D)
      else if i.kind = 0 then .next (shOrphan s)
      else .next (f s (shTouch s i) p)

/-- An owner's window replaced. -/
def setWin (i : ShInst) (w v : OwnWin) : ShInst := { i with ownWins := i.ownWins.map (fun x => if x = w then v else x) }

/-- EMBAG_ROW_LIST (R199, R208): an owner receives a piece of a row list; a whole and well-formed list may be pooled. -/
def execEmbagRowList (s : State) : Out :=
  withPool s 0x13 (fun s i p =>
    let h := leNat ((p.body.drop 8).take 8)
    match i.ownWins.find? (fun w => w.arb == p.srcArb && w.dev == p.src && w.idx == fld h 31 0 && w.granted && !w.ready && !w.here) with
    | none => shOrphan (shSet s i)
    | some w =>
      let off := fld h 63 32
      let bs := (p.body.drop 16).take (w.bytes - off)
      if w.rx.any (fun r => r.1 == off) then shOrphan (shSet s i)
      else
        let rx := w.rx ++ [(off, bs)]
        if (rx.map (fun r => r.2.length)).sum < w.bytes then shSet s (setWin i w { w with rx := rx })
        else
          let list := (sortBy (fun r => r.1) rx).flatMap (fun r => r.2)
          match rowEntries (list.length / 16 + 1) i w.bags list with
          | none => shFault s i 0x060C
          | some es =>
            shSet { s with sheaf := { s.sheaf with winNo := s.sheaf.winNo + 1 } }
              (setWin i w { w with rx := [], ready := true, readyNo := s.sheaf.winNo, rows := es.map (fun e => (e.1, e.2.1, e.2.2.1)) }))

/-! ## Pool units (R199 to R206) -/

/-- What reading a row meets. -/
inductive RowRes where
  | vals (bs : List Byte)
  /-- a grain is not in T1: it is being fetched -/
  | wait
  | fault (code : Nat)
  /-- the state already holds what the obstacle does to the partition -/
  | stop
  deriving DecidableEq, Repr

/-- The page of the pool unit that reads a row: the channel of its first byte (R199). -/
def rowPage (s : State) (i : ShInst) (a : Nat) : Nat :=
  match walk s 0 i.part a with
  | .page _ w => match locate w a with
    | .inr t => pgMch (t1Channel t)
    | .inl _ => pgMch 0
  | _ => pgMch 0

/-- A grain of a row is homed on another device. -/
def rowAway (s : State) (i : ShInst) (a n : Nat) : Bool :=
  (grainPieces 4 a n).any (fun p => match walk s 0 i.part p.1 with
    | .page _ w => peHomeDev w != myDev s
    | _ => false)

/-- A row read for a pool unit (R208): at its owner the page must be homed here; `here` may read a local copy of another device's
row. -/
def readRow (s : State) (i : ShInst) (a n : Nat) (here : Bool) : RowRes × State :=
  let pg := rowPage s i a
  let away := rowAway s i a n
  if away ∧ !here then (.fault 0x060B, s)
  else
    match jobRead s 0 i.part a n with
    | (.data d, s) => (.vals d, s)
    | (.unmapped, s) => (.fault 0x060B, s)
    | (.uncorr ea g, s) =>
      if away then (.stop, uncorrGrain s i.part ea g a)
      else (.fault 0x0510, errIn (incSat s (pg + 0x1A8) 1) pg 0x0510 (some i.part) 0)
    | (.lost x, s) => (.stop, lostAccess s i.part x)
    | (.badTmap, s) => (.stop, partFault (grnFault s 0 i.part 0x0405) i.part 0x0405)
    | (.remote _ _ _ _ _, s) =>
      (.wait, (grainPieces 4 a n).foldl (fun s p => startMigration s i.part (p.1 / 65536 * 65536) 1) s)
    | (_, s) => (.wait, s)

/-- One row added into the slots of its references (R200). -/
def addRow (mode : Nat) (die : Nat) (vs : List Nat) (slots : NMap (List Nat)) (r : Nat × Nat) : NMap (List Nat) :=
  let k := die * 4096 + r.1
  let init := vs.map (fun _ => if mode = 3 then 0xFF800000 else 0)
  let a := (NMap.find slots k).getD init
  NMap.put slots k ((a.zip vs).map (fun x => if mode = 3 then maxElem x.1 x.2 else f32Add x.1 (f32Mul r.2 x.2)))

/-- The partial of one bag of a window: its two die partials merged; none where neither slot was referenced (R201). -/
def winPartial (s : State) (i : ShInst) (w : OwnWin) (b : Nat) : Option (List Nat) :=
  match NMap.find w.slots b, NMap.find w.slots (4096 + b) with
  | some x, some y => some (mergeAll s i.mode [x, y])
  | some x, none => some x
  | none, some y => some y
  | none, none => none

/-- A partial's bytes: its header and its values in RET_FMT (R201). -/
def partialBytes (i : ShInst) (bag : Nat) (v : Option (List Nat)) : List Byte :=
  leBytes 8 (bag % 2 ^ 32 + b2n v.isNone * 2 ^ 32) ++ (match v with
    | some x => valsOut i.retFmt x
    | none => [])

/-- A partial leaves for its requester in payloads of at most 2,024 bytes of it, each with its window, its length, its offset and its
bag. -/
def sendPartial (s : State) (i : ShInst) (w : OwnWin) (b : Nat) : State :=
  let bs := partialBytes i (w.first + b) (winPartial s i w b)
  let ps := chunks 2024 bs
  ((List.range ps.length).zip ps).foldl (fun s e =>
    let body := leBytes 8 (shHeader i.seq i.comm false 1 0x14)
      ++ leBytes 8 (w.idx % 2 ^ 32 + bs.length % 65536 * 2 ^ 32 + 2024 * e.1 % 65536 * 2 ^ 48) ++ leBytes 8 ((w.first + b) % 2 ^ 32) ++ e.2
    send s { mkPkt s 2 (shStamp s i) w.arb w.dev with data := true, body := padTo (roundUp body.length 4) body }) s

/-- A window whose rows are all pooled gives up its slots: its partials leave, or enter this device's own bags (R201). -/
def closeWindow (s : State) (i : ShInst) (w : OwnWin) : State :=
  let bs := List.range w.bags
  let i' := { i with ownWins := i.ownWins.erase w }
  if w.here then
    let j := bs.foldl (fun j b => bagPartial j (w.first + b) (winPartial s i w b) false) i'
    let r := writeBags s j
    poolGrants (shSet r.2 r.1)
  else poolGrants (shSet (bs.foldl (fun s b => sendPartial s i w b) s) i')

/-- The windows of EMBAG instances whose slots are held, with their instances, in grant order. -/
def heldWins (s : State) : List (ShInst × OwnWin) :=
  sortBy (fun e => e.2.grantNo) ((s.sheaf.insts.filter (fun i => i.kind == 1)).flatMap (fun i =>
    (i.ownWins.filter (fun w => w.granted)).map (fun w => (i, w))))

/-- The window that the pool units serve next: the first with a row, or in DET_MODE the oldest grant alone, once its whole list is held
(R202). -/
def servedWindow (s : State) : Option (ShInst × OwnWin) :=
  let can := fun (e : ShInst × OwnWin) => e.2.ready && !e.2.rows.isEmpty
  if detMode s then (heldWins s).head?.bind (fun e => if can e then some e else none) else (heldWins s).find? can

/-- The row of a window that is read next: the first of its list, or in DET_MODE the first on the next channel in rotation that has
one (R202; log entry 43). -/
def nextRow (s : State) (i : ShInst) (w : OwnWin) : Option (Nat × List (Nat × Nat) × List Byte) :=
  if !detMode s then w.rows.head?
  else
    let chan := fun (e : Nat × List (Nat × Nat) × List Byte) => (blockOf (rowPage s i e.1)).2
    (List.range 128).findSome? (fun k => w.rows.find? (fun e => chan e == (w.chan + 1 + k) % 128))

/-- Accesses to a row that another access to it holds (R206, R209): the heads of other windows' rows. -/
def rowWaits (s : State) (w : OwnWin) (a : Nat) : Nat :=
  ((s.sheaf.insts.filter (fun i => i.kind != 0)).flatMap (fun i => i.ownWins.filter (fun x =>
    x != w && x.ready && x.granted && (x.rows.head?.map (fun r => r.1)) == some a))).length

/-- Lines of 64 bytes of row data that an accumulator adds (R199). -/
def rowLines (i : ShInst) : Nat :=
  let per := if i.rowFmt = 5 then 32 else if i.rowFmt = 6 then 16 else 64
  (i.rowValues + per - 1) / per

/-- A parity error in a slot or a switch word poisons the requesting step (R208): here, or at the requester by a POISON payload
(log entry 42). -/
def poolParity (s : State) (i : ShInst) (w : OwnWin) (a : Nat) : State :=
  let pg := rowPage s i a
  let s := errIn (incSat s (pg + 0x1A8) 1) pg 0x0511 (some i.part) i.step
  if w.arb = myArb s ∧ w.dev = myDev s then poison s i.part 0x0511
  else send s { mkPkt s 2 (shStamp s i) w.arb w.dev with
    data := true, body := leBytes 8 (shHeader i.seq i.comm true 1 0x16) ++ leBytes 8 0 }

/-- A row's copies reach the slots of its references (R199, R200): counted, and the row leaves its window. -/
def poolRow (s : State) (i : ShInst) (w : OwnWin) (e : Nat × List (Nat × Nat) × List Byte) (bs : List Byte) : ShInst × OwnWin × State :=
  let pg := rowPage s i e.1
  let vs := rowVals i.rowFmt i.rowValues bs
  let die := (blockOf pg).2 / 64
  let s := inc64 (inc64 s (pg + 0x180) 1) (pg + 0x188) e.2.1.length
  let s := incSat s (pg + 0x1A0) (rowWaits s w e.1)
  let s := if vs.any isNanCode then incSat s (pg + 0x1A4) 1 else s
  let s := e.2.1.foldl (fun s r => inc64 s (pgMch (64 * die + r.1 % 64) + 0x198) (rowLines i)) s
  let v := { w with
    rows := w.rows.erase e, slots := e.2.1.foldl (addRow i.mode die vs) w.slots, chan := (blockOf pg).2 }
  (setWin (shTouch s i) w v, v, s)

/-- POOL_ROW_ACCESS (R199 to R202, R208): a pool unit reads the next row of a window and adds it into every bag that the
entry references; with the window's last row the die partials are merged. `parityBad`: a slot or switch word fails. -/
def execPoolRowAccess (parityBad : Bool) (s : State) : Out :=
  match servedWindow s with
  | none => .next s
  | some (i, w) =>
    match nextRow s i w with
    | none => .next s
    | some e =>
      if parityBad then .next (poolParity s i w e.1)
      else
        match readRow s i e.1 (rowBytesOf i.rowFmt i.rowValues) w.here with
        | (.fault f, s) => .next (shFault s i f)
        | (.wait, s) => .next s
        | (.stop, s) => .next s
        | (.vals bs, s) =>
          let r := poolRow s i w e bs
          if r.2.1.rows.isEmpty then .next (closeWindow r.2.2 r.1 r.2.1) else .next (shSet r.2.2 r.1)

/-! ## Partials and completion at the requester -/

/-- A whole partial's values, if it is not empty. -/
def parsePartial (i : ShInst) (bs : List Byte) : Option (List Nat) :=
  if bit (leNat (bs.take 8)) 32 then none else some ((valsIn i.retFmt (bs.drop 8)).take i.rowValues)

/-- A whole partial is malformed: a reserved bit of its header is set, or its bag differs from its payloads' (R5, R201). -/
def partialBad (bag : Nat) (bs : List Byte) : Bool := fld (leNat (bs.take 8)) 63 33 != 0 || fld (leNat (bs.take 8)) 31 0 != bag

/-- A piece of a bag's partial from a window (R201): a repeated piece is discarded; with the last one the partial is merged. -/
def takePiece (s : State) (i : ShInst) (w : PoolWin) (b : BagAcc) (k total off : Nat) (bs : List Byte) : State :=
  let put := fun (x : BagAcc) => { i with bags := i.bags.map (fun y => if y.bag = b.bag then x else y) }
  if b.from'.contains k ∨ b.rx.any (fun r => r.1 == k && r.2.1 == off) then shOrphan (shSet s i)
  else
    let rx := b.rx ++ [(k, off, bs)]
    let mine := rx.filter (fun r => r.1 == k)
    if (mine.map (fun r => r.2.2.length)).sum < total then shSet s (put { b with rx := rx })
    else
      let all := (sortBy (fun r => r.2.1) mine).flatMap (fun r => r.2.2)
      if partialBad b.bag all then shMalformed (shSet s (put { b with rx := rx.filter (fun r => r.1 != k) }))
      else
        let i := put { b with rx := rx.filter (fun r => r.1 != k), from' := k :: b.from' }
        let r := writeBags s (bagPartial i b.bag (parsePartial i all) (w.owner != myDev s))
        shSet r.2 r.1

/-- A PARTIAL payload at the requester. -/
def partialIn (s : State) (i : ShInst) (p : Pkt) : State :=
  let h := leNat ((p.body.drop 8).take 8)
  let k := fld h 31 0
  let total := fld h 47 32
  let off := fld h 63 48
  match i.wins[k]?, i.bags.find? (fun b => b.bag == leNat ((p.body.drop 16).take 8)) with
  | some w, some b => takePiece s i w b k total off ((p.body.drop 24).take (total - off))
  | _, _ => shMalformed (shSet s i)

/-- A DONE payload at a ROWUPD's requester: a window's contributions are applied. -/
def doneIn (s : State) (i : ShInst) (p : Pkt) : State :=
  let k := leNat ((p.body.drop 8).take 8)
  match i.wins[k]? with
  | none => shMalformed (shSet s i)
  | some w =>
    let r := rowupdEnd s { i with wins := i.wins.set k { w with done := true } }
    shSet r.2 r.1

/-- EMBAG_PARTIAL (R201): the requester merges a bag partial, and writes the bag when it is complete; an owner's word that a window of
a ROWUPD is applied, or that its slot failed parity (R208), arrives likewise. -/
def execEmbagPartial (s : State) : Out :=
  if s.fab.ejected.any (poolCtl 0x14) then withPool s 0x14 partialIn
  else if s.fab.ejected.any (poolCtl 0x16) then withPool s 0x16 (fun s i _ => poison (shSet s i) i.part 0x0511)
  else withPool s 0x15 doneIn

/-! ## Row updates (R204 to R206) -/

/-- A row after one contribution (R205): BETA enters once per row and instance. -/
def updateRow (i : ShInst) (first : Bool) (v g : List Nat) : List Nat :=
  (v.zip g).map (fun x =>
    let ag := f32Mul i.alpha x.2
    if first ∧ i.mode = 1 then f32Add (f32Mul i.beta x.1) ag else f32Add x.1 ag)

/-- A row's values in its format; STOCH rounds a BF16 row by R39 with the row's address (R205). -/
def rowOut (i : ShInst) (a : Nat) (vs : List Nat) : List Byte :=
  if i.rowFmt = 6 then vs.flatMap (leBytes 4)
  else
    ((List.range vs.length).zip vs).flatMap (fun e =>
      leBytes 2 (encBF16 (if i.stoch then some (h64 i.seed i.step (a / 64 % 2 ^ 32) e.1 % 65536) else none) false (decFP32 e.2)))

/-- What applying a contribution leads to. -/
inductive Applied where
  | done
  | wait
  | fault (code : Nat)
  deriving DecidableEq, Repr

/-- One row read, updated and written back as whole blocks (R205). -/
def applyRow (s : State) (i : ShInst) (a : Nat) (g : List Nat) : Applied × State :=
  let n := rowBytesOf i.rowFmt i.rowValues
  let pg := rowPage s i a
  match readRow s i a (roundUp n 64) false with
  | (.fault f, s) => (.fault f, s)
  | (.wait, s) => (.wait, s)
  | (.stop, s) => (.wait, s)
  | (.vals bs, s) =>
    let vs := updateRow i (!i.touched.contains a) (rowVals i.rowFmt i.rowValues bs) g
    let t := newTag s
    match putRows 0 i.part t.1 false (grainRows a (rowOut i a vs ++ bs.drop n)) t.2 0 with
    | (.data _, s, _) => (.done, inc64 s (pg + 0x190) 1)
    | (.readOnly, s, _) => (.fault 0x0403, s)
    | (_, s, _) => (.wait, s)

/-- An owner tells a requester that a window's contributions are applied. -/
def sendDone (s : State) (i : ShInst) (w : OwnWin) : State :=
  let body := leBytes 8 (shHeader i.seq i.comm true 1 0x15) ++ leBytes 8 (w.idx % 2 ^ 32)
  send s { mkPkt s 2 (shStamp s i) w.arb w.dev with data := true, body := body }

/-- Counts and data of every member are in (R205, DET_MODE). -/
def allContributed (i : ShInst) : Bool := i.counted.length ≥ i.peers.length && i.ownWins.all (fun w => w.ready)

/-- The window whose contribution is applied next, with its instance (R205): that whose list became whole first, or in DET_MODE the
oldest of an instance of which every member's data are in. -/
def updateWindow (s : State) : Option (ShInst × OwnWin) :=
  (sortBy (fun e => e.2.readyNo) ((s.sheaf.insts.filter (fun i => i.kind == 2 && (!detMode s || allContributed i))).flatMap (fun i =>
    (i.ownWins.filter (fun w => w.ready && !w.rows.isEmpty)).map (fun w => (i, w))))).head?

/-- A contribution has been applied: it leaves its window, in DET_MODE with the row's others, and windows that are done are told. -/
def afterUpdate (s : State) (i : ShInst) (w : OwnWin) (e : Nat × List (Nat × Nat) × List Byte) : State :=
  let drop := fun (x : OwnWin) =>
    if detMode s then { x with rows := x.rows.filter (fun r => r.1 != e.1) }
    else if x = w then { w with rows := w.rows.erase e } else x
  let ws := i.ownWins.map drop
  let s := (ws.filter (fun x => x.ready && x.rows.isEmpty)).foldl (fun s x => sendDone s i x) s
  poolGrants (shSet s { (shTouch s i) with
    ownWins := ws.filter (fun x => !(x.ready && x.rows.isEmpty)), touched := e.1 :: i.touched.filter (fun a => a != e.1) })

/-- ROWUPD_CONTRIBUTION (R205, R208): the next contribution is applied to its row, or in DET_MODE the XS128 sum of all
contributions to the next row. -/
def execRowupdContribution (parityBad : Bool) (s : State) : Out :=
  match updateWindow s with
  | none => .next s
  | some (i, w) =>
    match w.rows with
    | [] => .next s
    | e :: _ =>
      if parityBad then .next (poolParity s i w e.1)
      else
        let all := if detMode s then i.ownWins.flatMap (fun w => w.rows.filter (fun r => r.1 == e.1)) else [e]
        let gs := all.map (fun r => (valsIn i.gradFmt r.2.2).take i.rowValues)
        let g := if detMode s then xsSum (gs.map (fun v => v.map decFP32)) else gs.headD []
        match applyRow s i e.1 g with
        | (.fault f, s) => .next (shFault s i f)
        | (.wait, s) => .next s
        | (.done, s) => .next (afterUpdate (incSat s (rowPage s i e.1 + 0x1A0) (rowWaits s w e.1)) i w e)

/-- An EMBAG or ROWUPD instance is complete on this device: its own bags or windows, and all that it serves. -/
def poolDone (i : ShInst) : Bool :=
  i.kind != 0 && i.bags.all (fun b => b.done) && i.wins.all (fun w => i.kind == 1 || w.done || w.list.isEmpty)
    && i.counted.length ≥ i.peers.length && i.ownWins.isEmpty && (i.kind == 1 || i.ended)

end Sys2Proof.Machine
end

