-- ==== Sys2Proof/Machine/PavSched.lean ====
section
/-!
DEFINITION. What the general collectives compute: elements and their carriers, and the steps that each member takes
under each algorithm (R262 to R272).
-/

namespace Sys2Proof.Machine

open Sys2Proof Sys2Proof.Config

/-! ## Elements and carriers

An element is held as a number: an FP32 or INT32 code, a byte, a BF16 code widened to FP32, or in the exact sum of R55 the
128-bit integer with its special code above it. -/

/-- Bytes of an element of an ETYPE (R260). -/
def etySize (ety : Nat) : Nat := if ety = 1 then 2 else if ety = 3 then 1 else 4

/-- The instance reduces. -/
def pavReduces (i : PavInst) : Bool := i.op ≤ 2

/-- A floating-point sum under DET_MODE, carried in XS128 (R272). -/
def pavExact (i : PavInst) : Bool := i.det && pavReduces i && i.red == 0 && i.ety ≤ 1

/-- A BF16 sum (R272). -/
def pavBf16Sum (i : PavInst) : Bool := pavReduces i && i.red == 0 && i.ety == 1

/-- The carrier of a partial, `added` once an addition has been applied to it (R262 CFMT, R272). -/
def pavCarrier (i : PavInst) (added : Bool) : Nat :=
  if i.maxRound then 2
  else if pavExact i then 3
  else if pavBf16Sum i ∧ added then 0
  else if i.ety = 3 then 4 else i.ety

/-- The carrier of finished elements. -/
def pavFinal (i : PavInst) : Nat := if i.maxRound then 2 else if i.ety = 3 then 4 else i.ety

/-- Elements of a chunk (R263). -/
def chunkElems (i : PavInst) (cfmt : Nat) : Nat :=
  match cfmt with
  | 1 => if pavBf16Sum i then 16384 else 32768
  | 3 => 3968
  | 4 => 65536
  | _ => 16384

/-- The elements of a byte string of an ETYPE. -/
def elemsOf (ety : Nat) (bs : List Byte) : List Nat :=
  if ety = 1 then (codesOfBytes 2 bs).map (fun c => c * 65536) else codesOfBytes (etySize ety) bs

/-- Finished elements as bytes of their ETYPE. -/
def elemsBytes (ety : Nat) (vs : List Nat) : List Byte :=
  vs.flatMap (fun v => if ety = 1 then leBytes 2 (v / 65536) else leBytes (etySize ety) v)

/-- An XS128 element from its integer and special code. -/
def xsElem (n : Int) (sp : Nat) : Nat := ofSigned 128 n + 2 ^ 128 * sp

/-- The integer and special code of an XS128 element. -/
def xsParts (v : Nat) : Int × Nat := (toSigned 128 (v % 2 ^ 128), v / 2 ^ 128)

/-- An XS128 group of an exponent (R54). -/
def xsGroupBytes (E : Int) (vs : List Nat) : List Byte :=
  let h := ofSigned 16 E + ((List.zip (List.range vs.length) vs).map (fun p => (p.2 / 2 ^ 128) * 2 ^ (16 + 2 * p.1))).sum
  leBytes 8 h ++ padTo 256 (vs.flatMap (fun v => leBytes 16 v))

/-- Elements from position `lo` on as the bytes of a chunk in a carrier. -/
def carrierBytes (i : PavInst) (cfmt lo : Nat) (vs : List Nat) : List Byte :=
  match cfmt with
  | 1 => vs.flatMap (fun v => leBytes 2 (v / 65536))
  | 3 => (List.zip (List.range vs.length) (chunks 16 vs)).flatMap (fun p => xsGroupBytes (i.exps.getD (lo / 16 + p.1) 0) p.2)
  | 4 => vs.flatMap (fun v => leBytes 1 v)
  | _ => vs.flatMap (fun v => leBytes 4 v)

/-- The `n` elements of a chunk; none where its bytes do not hold them, or a group is corrupt (R264). -/
def carrierElems (cfmt n : Nat) (bs : List Byte) : Option (List Nat) :=
  match cfmt with
  | 0 => if bs.length = 4 * n then some (codesOfBytes 4 bs) else none
  | 2 => if bs.length = 4 * n then some (codesOfBytes 4 bs) else none
  | 1 => if bs.length = roundUp (2 * n) 4 ∨ bs.length = 2 * n then some ((codesOfBytes 2 (bs.take (2 * n))).map (fun c => c * 65536)) else none
  | 4 => if bs.length = roundUp n 4 ∨ bs.length = n then some (codesOfBytes 1 (bs.take n)) else none
  | 3 =>
    let gs := chunks 264 bs
    if bs.length ≠ (n + 15) / 16 * 264 then none
    else
      (List.zip (List.range gs.length) gs).foldr (fun p (r : Option (List Nat)) =>
        match r, parseXsGroup (min 16 (n - 16 * p.1)) p.2 with
        | some l, some g => some (g.vals.map (fun v => xsElem v.1 v.2) ++ l)
        | _, _ => none) (some [])
  | _ => none

/-- The reduction of two elements (R272). -/
def pavCombine (i : PavInst) (a b : Nat) : Nat :=
  let smax := fun (x y : Nat) => if toSigned 32 x ≥ toSigned 32 y then x else y
  let smin := fun (x y : Nat) => if toSigned 32 x ≤ toSigned 32 y then x else y
  if i.maxRound then smax a b
  else if pavExact i then
    let x := xsParts a
    let y := xsParts b
    xsElem (x.1 + y.1) (xsJoin x.2 y.2)
  else
    match i.red, i.ety with
    | 0, 2 => (a + b) % 2 ^ 32
    | 0, _ => f32Add a b
    | 1, 2 => smin a b
    | 1, _ => f32Min a b
    | _, 2 => smax a b
    | _, _ => f32Max a b

/-- The element at position `k` converted once to its final format (R268, R272). -/
def pavConvert (i : PavInst) (k v : Nat) : Nat :=
  if i.maxRound then v
  else if pavExact i then
    let p := xsParts v
    let E := i.exps.getD (k / 16) 0
    if i.ety = 0 then xsFinish E p.1 p.2
    else if p.2 = 0 then encBF16 none false (.fin (p.1 < 0) p.1.natAbs (E - 96)) * 65536
    else xsFinish E p.1 p.2
  else if pavBf16Sum i then encBF16 none false (decFP32 v) * 65536
  else v

/-! ## Members -/

/-- Members of one Arbour, and of all. -/
def pavN (i : PavInst) : Nat := (ceDevs i.entry).length
def pavTotal (i : PavInst) : Nat := pavN i * i.arbs.length

/-- Position of this device's Arbour, and its local rank. -/
def pavPos (s : State) (i : PavInst) : Nat := i.arbs.findIdx (fun a => a == myArb s)
def pavRank (s : State) (i : PavInst) : Nat := (ceDevs i.entry).findIdx (fun d => d == myDev s)

/-- The device of a local rank at an Arbour position. -/
def pavDev (i : PavInst) (a r : Nat) : Nat × Nat := (i.arbs.getD a 0, (ceDevs i.entry).getD r 0)

/-- The local rank of an instance's root (R270, R271). -/
def pavRootRank (i : PavInst) : Nat := (i.comm + i.seq) % max 1 (pavN i)

/-- The device that roots an instance's tree in this Arbour. -/
def pavRoot (i : PavInst) : Nat := (ceDevs i.entry).getD (pavRootRank i) 0

/-- The row head of a row of the Arbour (R271); none for a row with no member. -/
def rowHead (i : PavInst) (row : Nat) : Option Nat :=
  let root := pavRoot i
  let ds := (ceDevs i.entry).filter (fun d => d / 8 == row)
  if root / 8 = row then some root
  else if ds.contains (8 * row + root % 8) then some (8 * row + root % 8)
  else ds.head?

/-- The row heads other than the root. -/
def otherHeads (i : PavInst) : List Nat :=
  ((List.range 8).filterMap (fun r => rowHead i r)).filter (fun d => d != pavRoot i)

/-- The members of a head's row, the head apart. -/
def rowMembers (i : PavInst) (head : Nat) : List Nat :=
  (ceDevs i.entry).filter (fun d => d / 8 == head / 8 && d != head)

/-- The rows and columns of a full rectangle; none where the members are not one (R266). -/
def rectangle (i : PavInst) : Option (List Nat × List Nat) :=
  let ds := ceDevs i.entry
  let rows := (List.range 8).filter (fun r => ds.any (fun d => d / 8 == r))
  let cols := (List.range 8).filter (fun c => ds.any (fun d => d % 8 == c))
  if ds.length = rows.length * cols.length then some (rows, cols) else none

/-! ## Sizes -/

/-- Bytes of the size S that chooses the algorithm (R266). -/
def pavSize (i : PavInst) : Nat := if i.op = 3 then i.len * pavTotal i else i.len

/-- Elements of a member's block (REDUCE_SCATTER, ALLGATHER, ALLTOALL). -/
def blockElems (i : PavInst) : Nat :=
  if i.op = 2 then i.len / max 1 (pavTotal i) / etySize i.ety else i.len / etySize i.ety

/-- Elements that the instance works on in this round. -/
def pavElems (i : PavInst) : Nat :=
  if i.op ≤ 2 then (if i.maxRound then (i.len / etySize i.ety + 15) / 16 else i.len / etySize i.ety)
  else if i.op = 4 then blockElems i
  else blockElems i * pavTotal i

/-- Bytes of a rank's count of an ALLTOALLV as elements. -/
def countOf (i : PavInst) (r : Nat) : Nat :=
  (((i.counts.find? (fun c => c.1 == r)).map (fun c => c.2)).getD 0) / etySize i.ety

/-- The result's place of a rank's block. -/
def blockAt (i : PavInst) (r : Nat) : Nat × Nat :=
  if i.op = 6 then
    let lo := ((List.range r).map (countOf i)).sum
    (lo, lo + countOf i r)
  else (r * blockElems i, (r + 1) * blockElems i)

/-- The source's place of the block for a rank (ALLTOALL, ALLTOALLV). -/
def sendAt (i : PavInst) (r : Nat) : Nat × Nat :=
  if i.op = 6 then
    let lo := ((i.sizes.take r).sum) / etySize i.ety
    (lo, lo + i.sizes.getD r 0 / etySize i.ety)
  else (r * blockElems i, (r + 1) * blockElems i)

/-! ## Schedules -/

/-- A move of a range. -/
def mv (p : Nat × Nat) (lo hi cfmt : Nat) (place fin : Bool) : PavMove := ⟨p.1, p.2, 0, lo, hi, cfmt, place, fin⟩

/-- The start of part `j` of `k` of a range; parts begin at multiples of 16 elements from its start. -/
def cutAt (lo hi k j : Nat) : Nat := if j ≥ k then hi else lo + (hi - lo) * j / k / 16 * 16

/-- A step without work, which keeps the numbers of the others in place. -/
def idleStep : PavStep := {}

/-- Recursive doubling over ranks (R267): `g` names the ranks, `fin` says that its end is the final value. -/
def recDouble (i : PavInst) (g : Nat → Nat × Nat) (n r lo hi : Nat) (added fin : Bool) : List PavStep :=
  let L := Nat.log2 n
  let m := 2 ^ L
  let mate := r + m < n
  let back := if fin then pavFinal i else pavCarrier i true
  let fold : PavStep :=
    if r ≥ m then { sends := [mv (g (r - m)) lo hi (pavCarrier i added) false false] }
    else if mate then { recvs := [mv (g (r + m)) lo hi (pavCarrier i added) false false] } else idleStep
  let exch := (List.range L).map (fun k =>
    if r ≥ m then idleStep
    else
      let p := g (Nat.xor r (2 ^ k))
      let c := pavCarrier i (added || decide (k > 0) || decide mate)
      ({ sends := [mv p lo hi c false false], recvs := [mv p lo hi c false false] } : PavStep))
  let finish : PavStep := if fin ∧ r < m then { conv := [(lo, hi)] } else idleStep
  let unfold : PavStep :=
    if r ≥ m then { recvs := [mv (g (r - m)) lo hi back true fin] }
    else if mate then { sends := [mv (g (r + m)) lo hi back true fin] } else idleStep
  if n = m then exch ++ [finish] else fold :: exch ++ [finish, unfold]

/-- The range of a rank after `k` halvings (R267). -/
def halfRange (r L lo hi : Nat) : Nat → Nat × Nat
  | 0 => (lo, hi)
  | k + 1 =>
    let p := halfRange r L lo hi k
    if bit r (L - 1 - k) then (cutAt p.1 p.2 2 1, p.2) else (p.1, cutAt p.1 p.2 2 1)

/-- Halving-doubling over ranks (R267), with the steps `mid` between its halves for the range that a rank then owns;
with none there the range is converted. -/
def halvingDoubling (i : PavInst) (g : Nat → Nat × Nat) (n r lo hi : Nat) (added : Bool) (mid : Nat → Nat → List PavStep) :
    List PavStep :=
  let L := Nat.log2 n
  let m := 2 ^ L
  let mate := r + m < n
  let fold : PavStep :=
    if r ≥ m then { sends := [mv (g (r - m)) lo hi (pavCarrier i added) false false] }
    else if mate then { recvs := [mv (g (r + m)) lo hi (pavCarrier i added) false false] } else idleStep
  let half := (List.range L).map (fun k =>
    if r ≥ m then idleStep
    else
      let q := Nat.xor r (2 ^ (L - 1 - k))
      let c := pavCarrier i (added || decide (k > 0) || decide mate)
      let a := halfRange q L lo hi (k + 1)
      let b := halfRange r L lo hi (k + 1)
      ({ sends := [mv (g q) a.1 a.2 c false false], recvs := [mv (g q) b.1 b.2 c false false] } : PavStep))
  let own := if r ≥ m then (lo, lo) else halfRange r L lo hi L
  let gather := (List.range L).map (fun j =>
    let k := L - 1 - j
    if r ≥ m then idleStep
    else
      let q := Nat.xor r (2 ^ (L - 1 - k))
      let a := halfRange r L lo hi (k + 1)
      let b := halfRange q L lo hi (k + 1)
      ({ sends := [mv (g q) a.1 a.2 (pavFinal i) true true], recvs := [mv (g q) b.1 b.2 (pavFinal i) true true] } : PavStep))
  let unfold : PavStep :=
    if r ≥ m then { recvs := [mv (g (r - m)) lo hi (pavFinal i) true true] }
    else if mate then { sends := [mv (g (r + m)) lo hi (pavFinal i) true true] } else idleStep
  (if n = m then [] else [fold]) ++ half ++ mid own.1 own.2 ++ gather ++ (if n = m then [] else [unfold])

/-- The two-phase exchange of a rectangle (R267): rows and columns at once, then the other way, `mid` on both owned
parts, then the same back. -/
def twoPhase (i : PavInst) (rows cols : List Nat) (a x y lo hi : Nat) (mid : Nat → Nat → List PavStep) : List PavStep :=
  let w := cols.length
  let h := rows.length
  let at' := fun (x y : Nat) => (i.arbs.getD a 0, 8 * rows.getD y 0 + cols.getD x 0)
  let half := cutAt lo hi 2 1
  let A := fun (x : Nat) => (cutAt lo half w x, cutAt lo half w (x + 1))
  let B := fun (y : Nat) => (cutAt half hi h y, cutAt half hi h (y + 1))
  let AA := fun (x y : Nat) => (cutAt (A x).1 (A x).2 h y, cutAt (A x).1 (A x).2 h (y + 1))
  let BB := fun (y x : Nat) => (cutAt (B y).1 (B y).2 w x, cutAt (B y).1 (B y).2 w (x + 1))
  let xs := (List.range w).filter (fun k => k != x)
  let ys := (List.range h).filter (fun k => k != y)
  let m := fun (p : Nat × Nat) (r : Nat × Nat) (c : Nat) (f : Bool) => mv p r.1 r.2 c f f
  let c0 := pavCarrier i false
  let cA := pavCarrier i (decide (w > 1))
  let cB := pavCarrier i (decide (h > 1))
  let cF := pavFinal i
  [{ sends := xs.map (fun k => m (at' k y) (A k) c0 false) ++ ys.map (fun k => m (at' x k) (B k) c0 false),
     recvs := xs.map (fun k => m (at' k y) (A x) c0 false) ++ ys.map (fun k => m (at' x k) (B y) c0 false) },
   { sends := ys.map (fun k => m (at' x k) (AA x k) cA false) ++ xs.map (fun k => m (at' k y) (BB y k) cB false),
     recvs := ys.map (fun k => m (at' x k) (AA x y) cA false) ++ xs.map (fun k => m (at' k y) (BB y x) cB false) }]
  ++ mid (AA x y).1 (AA x y).2 ++ mid (BB y x).1 (BB y x).2 ++
  [{ sends := ys.map (fun k => m (at' x k) (AA x y) cF true) ++ xs.map (fun k => m (at' k y) (BB y x) cF true),
     recvs := ys.map (fun k => m (at' x k) (AA x k) cF true) ++ xs.map (fun k => m (at' k y) (BB y k) cF true) },
   { sends := xs.map (fun k => m (at' k y) (A x) cF true) ++ ys.map (fun k => m (at' x k) (B y) cF true),
     recvs := xs.map (fun k => m (at' k y) (A k) cF true) ++ ys.map (fun k => m (at' x k) (B k) cF true) }]

/-- Chunks of a member's block. -/
def blockChunks (i : PavInst) : Nat := (blockElems i + chunkElems i (pavFinal i) - 1) / chunkElems i (pavFinal i)

/-- Finished blocks that move to or from one member in a step, their chunks numbered one after another. -/
def blockMoves (i : PavInst) (p : Nat × Nat) (bs : List (Nat × Nat)) : List PavMove :=
  (List.zip (List.range bs.length) bs).map (fun b =>
    { mv p b.2.1 b.2.2 (pavFinal i) true true with chunk := b.1 * blockChunks i })

/-- An all-gather by recursive doubling over ranks, each with its own blocks (R267, R270). -/
def gatherDoubling (i : PavInst) (g : Nat → Nat × Nat) (n r : Nat) (blocks : Nat → List (Nat × Nat)) : List PavStep :=
  let L := Nat.log2 n
  let m := 2 ^ L
  let mate := r + m < n
  let held := fun (q k : Nat) =>
    ((List.range m).filter (fun x => x / 2 ^ k == q / 2 ^ k)).flatMap (fun x =>
      blocks x ++ (if x + m < n then blocks (x + m) else []))
  let fold : PavStep :=
    if r ≥ m then { sends := blockMoves i (g (r - m)) (blocks r) }
    else if mate then { recvs := blockMoves i (g (r + m)) (blocks (r + m)) } else idleStep
  let exch := (List.range L).map (fun k =>
    if r ≥ m then idleStep
    else
      let q := Nat.xor r (2 ^ k)
      ({ sends := blockMoves i (g q) (held r k), recvs := blockMoves i (g q) (held q k) } : PavStep))
  let rest := fun (q : Nat) => ((List.range n).filter (fun x => x != q)).flatMap blocks
  let unfold : PavStep :=
    if r ≥ m then { recvs := blockMoves i (g (r - m)) (rest r) }
    else if mate then { sends := blockMoves i (g (r + m)) (rest (r + m)) } else idleStep
  if n = m then exch else fold :: exch ++ [unfold]

/-- The all-gather within an Arbour: multicast of each block, two-phase on a rectangle, or recursive doubling (R266). -/
def gatherWithin (s : State) (i : PavInst) (small : Bool) : List PavStep :=
  let n := pavN i
  let a := pavPos s i
  let r := pavRank s i
  let blk := fun (q : Nat) => blockAt i (a * n + q)
  let others := (List.range n).filter (fun q => q != r)
  if small then
    [{ mcast := true, sends := others.flatMap (fun q => blockMoves i (pavDev i a q) [blk r]),
       recvs := others.flatMap (fun q => blockMoves i (pavDev i a q) [blk q]) }]
  else
    match rectangle i with
    | none => gatherDoubling i (pavDev i a) n r (fun q => [blk q])
    | some (rows, cols) =>
      let me := myDev s
      let rankOf := fun (d : Nat) => (ceDevs i.entry).findIdx (fun e => e == d)
      let h0 := fun (d : Nat) => let b := blk (rankOf d); (b.1, cutAt b.1 b.2 2 1)
      let h1 := fun (d : Nat) => let b := blk (rankOf d); (cutAt b.1 b.2 2 1, b.2)
      let colPeers := (rows.map (fun y => 8 * y + me % 8)).filter (fun d => d != me)
      let rowPeers := (cols.map (fun x => 8 * (me / 8) + x)).filter (fun d => d != me)
      let col := fun (d : Nat) => rows.map (fun y => 8 * y + d % 8)
      let row := fun (d : Nat) => cols.map (fun x => 8 * (d / 8) + x)
      let p := fun (d : Nat) => (i.arbs.getD a 0, d)
      [{ sends := colPeers.flatMap (fun d => blockMoves i (p d) [h0 me]) ++ rowPeers.flatMap (fun d => blockMoves i (p d) [h1 me]),
         recvs := colPeers.flatMap (fun d => blockMoves i (p d) [h0 d]) ++ rowPeers.flatMap (fun d => blockMoves i (p d) [h1 d]) },
       { sends := rowPeers.flatMap (fun d => blockMoves i (p d) ((col me).map h0))
                   ++ colPeers.flatMap (fun d => blockMoves i (p d) ((row me).map h1)),
         recvs := rowPeers.flatMap (fun d => blockMoves i (p d) ((col d).map h0))
                   ++ colPeers.flatMap (fun d => blockMoves i (p d) ((row d).map h1)) }]

/-- ALLGATHER: within the Arbour, then between rank-equivalent devices (R266, R270). -/
def gatherSteps (s : State) (i : PavInst) (small : Bool) : List PavStep :=
  let n := pavN i
  let r := pavRank s i
  gatherWithin s i small ++
    (if i.arbs.length ≤ 1 then []
     else gatherDoubling i (fun a => pavDev i a r) i.arbs.length (pavPos s i)
       (fun a => (List.range n).map (fun q => blockAt i (a * n + q))))

/-- BROADCAST: to the rank-equivalents of ROOT, and multicast in each Arbour (R266, R270). -/
def broadcastSteps (s : State) (i : PavInst) : List PavStep :=
  let n := max 1 (pavN i)
  let a := pavPos s i
  let r := pavRank s i
  let aR := i.root / n
  let rR := i.root % n
  let whole := [(0, pavElems i)]
  let out : PavStep :=
    if r ≠ rR then idleStep
    else if a = aR then
      { sends := ((List.range i.arbs.length).filter (fun b => b != aR)).flatMap (fun b => blockMoves i (pavDev i b rR) whole) }
    else { recvs := blockMoves i (pavDev i aR rR) whole }
  let cast : PavStep :=
    if r = rR then
      { mcast := true, sends := ((List.range (pavN i)).filter (fun q => q != r)).flatMap (fun q => blockMoves i (pavDev i a q) whole) }
    else { recvs := blockMoves i (pavDev i a rR) whole }
  [out, cast]

/-- ALLTOALL and ALLTOALLV: each block from its sender to its receiver (R266). -/
def directSteps (s : State) (i : PavInst) : List PavStep :=
  let n := max 1 (pavN i)
  let me := pavPos s i * n + pavRank s i
  let others := (List.range (pavTotal i)).filter (fun q => q != me)
  [{ sends := others.flatMap (fun q => blockMoves i (pavDev i (q / n) (q % n)) [sendAt i q]),
     recvs := others.flatMap (fun q => blockMoves i (pavDev i (q / n) (q % n)) [blockAt i q]) }]

/-- The steps between Arbours of a range that this member owns (R270): the end converts. -/
def outerSteps (s : State) (i : PavInst) (r : Nat) (small : Bool) (lo hi : Nat) (added : Bool) : List PavStep :=
  let k := i.arbs.length
  let conv : List PavStep := [{ conv := [(lo, hi)] }]
  if k ≤ 1 then conv
  else if small then recDouble i (fun a => pavDev i a r) k (pavPos s i) lo hi added true
  else halvingDoubling i (fun a => pavDev i a r) k (pavPos s i) lo hi added (fun lo hi => [{ conv := [(lo, hi)] }])

/-- Steps numbered from `b` on. -/
def numbered (b : Nat) (l : List PavStep) : List PavStep :=
  (List.zip (List.range l.length) l).map (fun p => { p.2 with no := (b + p.1) % 64 })

/-- The number of the first step of a round (log entry 73). -/
def roundBase (i : PavInst) : Nat := if pavExact i ∧ !i.maxRound then 32 else 0

/-- The endpoint algorithm of a small reduction from element `lo` on (R266, R270). -/
def smallSteps (s : State) (i : PavInst) (lo : Nat) : List PavStep :=
  let n := pavN i
  let a := pavPos s i
  let r := pavRank s i
  let q := pavRootRank i
  let hi := pavElems i
  let one := decide (i.arbs.length ≤ 1)
  let b := roundBase i
  let others := (List.range n).filter (fun x => x != r)
  numbered (b + 1) (recDouble i (pavDev i a) n r lo hi false one) ++
    (if one then []
     else
       (if r = q then numbered (b + 12) (outerSteps s i r true lo hi (decide (n > 1))) else []) ++
       numbered (b + 10)
         [if r = q then { mcast := true, sends := others.map (fun x => mv (pavDev i a x) lo hi (pavFinal i) true true) }
          else { recvs := [mv (pavDev i a q) lo hi (pavFinal i) true true] }])

/-- The exchange of a large reduction (R266, R267, R270). -/
def largeSteps (s : State) (i : PavInst) : List PavStep :=
  let n := pavN i
  let a := pavPos s i
  let r := pavRank s i
  let mid := fun (lo hi : Nat) => outerSteps s i r false lo hi (decide (n > 1))
  let hi := pavElems i
  numbered (roundBase i)
    (match rectangle i with
     | some (rows, cols) =>
       twoPhase i rows cols a (cols.findIdx (fun c => c == myDev s % 8)) (rows.findIdx (fun c => c == myDev s / 8)) 0 hi mid
     | none => halvingDoubling i (pavDev i a) n r 0 hi false mid)

/-- The steps of one chunk of a tree (R271, R274), elements `lo` to `hi`. -/
def treeSteps (s : State) (i : PavInst) (c lo hi : Nat) : List PavStep :=
  let a := i.arbs.getD (pavPos s i) 0
  let me := myDev s
  let root := pavRoot i
  let head := (rowHead i (me / 8)).getD root
  let b := roundBase i
  let m := fun (d cf : Nat) (p : Bool) => { mv (a, d) lo hi cf p p with chunk := c }
  let size := fun (d : Nat) => decide ((rowMembers i d).length > 0)
  let up : List PavStep :=
    if me = root then
      [{ no := b, ready := false,
         recvs := (rowMembers i root).map (fun d => m d (pavCarrier i false) false)
           ++ (otherHeads i).map (fun d => m d (pavCarrier i (size d)) false) }]
    else if me = head then
      [{ no := b, ready := false, recvs := (rowMembers i me).map (fun d => m d (pavCarrier i false) false) },
       { no := b, ready := false, sends := [m root (pavCarrier i (size me)) false] }]
    else [{ no := b, ready := false, sends := [m head (pavCarrier i false) false] }]
  let between := if me = root then
      (numbered (b + 12) (outerSteps s i (pavRank s i) true lo hi (decide (pavN i > 1)))).map (fun st =>
        { st with sends := st.sends.map (fun x => { x with chunk := c }), recvs := st.recvs.map (fun x => { x with chunk := c }) })
    else []
  let down : PavStep :=
    if me = root then
      { no := b + 11, ready := false, mcast := true,
        sends := ((ceDevs i.entry).filter (fun d => d != me)).map (fun d => m d (pavFinal i) true) }
    else { no := b + 11, ready := false, recvs := [m root (pavFinal i) true] }
  up ++ between ++ [down]

/-- A move cut into chunks (R263): by element position in a reduction, from the block's start otherwise. -/
def cutMove (i : PavInst) (x : PavMove) : List PavMove :=
  let E := chunkElems i x.cfmt
  if x.hi ≤ x.lo then []
  else if i.op ≤ 2 then
    (List.range ((x.hi + E - 1) / E - x.lo / E)).map (fun k =>
      let c := x.lo / E + k
      { x with chunk := c, lo := max x.lo (c * E), hi := min x.hi ((c + 1) * E) })
  else
    (List.range ((x.hi - x.lo + E - 1) / E)).map (fun k =>
      { x with chunk := x.chunk + k, lo := x.lo + k * E, hi := min x.hi (x.lo + (k + 1) * E) })

/-- Steps with their moves cut into chunks. -/
def cutSteps (i : PavInst) (l : List PavStep) : List PavStep :=
  l.map (fun st => { st with sends := st.sends.flatMap (cutMove i), recvs := st.recvs.flatMap (cutMove i) })

/-- The number of chunks of a tree round. -/
def treeChunks (i : PavInst) : Nat :=
  let E := chunkElems i (pavCarrier i false)
  (pavElems i + E - 1) / E

/-- The tracks of a tree from its first chunk to `upTo`, apart from those at or above it. -/
def treeTracks (s : State) (i : PavInst) (upTo : Nat) : List PavTrack :=
  let E := chunkElems i (pavCarrier i false)
  ((List.range (treeChunks i)).filter (fun c => c < upTo)).map (fun c =>
    { tree := true, chunk := c, steps := treeSteps s i c (c * E) (min (pavElems i) ((c + 1) * E)) })

/-- The track of an endpoint algorithm. -/
def endTrack (i : PavInst) (l : List PavStep) : PavTrack := { tree := false, chunk := 0, steps := cutSteps i l }

/-- S is at most PAV_SMALL_MAX (R266). -/
def pavSmall (s : State) (i : PavInst) : Bool := pavSize i ≤ regN s (pgPav + 0x108)

/-- The tracks of a round; none while a tree-eligible instance awaits its DECIDE (R266, R274). -/
def roundTracks (s : State) (i : PavInst) : Option (List PavTrack) :=
  if i.op ≤ 2 then
    if !pavSmall s i then some [endTrack i (largeSteps s i)]
    else if !i.eligible then some [endTrack i (smallSteps s i 0)]
    else
      match i.alg with
      | none => none
      | some 0 => some (treeTracks s i (treeChunks i))
      | some _ =>
        let round := b2n (pavExact i && !i.maxRound)
        if i.decRound > round then some (treeTracks s i (treeChunks i))
        else if i.decRound = round ∧ i.fromChunk > 0 then
          some (treeTracks s i i.fromChunk ++
            [endTrack i (smallSteps s i (min (pavElems i) (i.fromChunk * chunkElems i (pavCarrier i false))))])
        else some [endTrack i (smallSteps s i 0)]
  else if i.op = 3 then some [endTrack i (numbered 0 (gatherSteps s i (pavSmall s i)))]
  else if i.op = 4 then some [endTrack i (numbered 0 (broadcastSteps s i))]
  else some [endTrack i (numbered 0 (directSteps s i))]

/-! ## The result -/

/-- The result's range and its chunks: index and range (R260, R263). -/
def resultRange (s : State) (i : PavInst) : Nat × Nat :=
  if i.op = 2 then blockAt i (pavPos s i * pavN i + pavRank s i)
  else if i.op = 6 then (0, (blockAt i (pavTotal i)).1)
  else (0, pavElems { i with maxRound := false })

/-- Chunks of a range from its start. -/
def rangeChunks (E lo hi : Nat) : List (Nat × Nat) :=
  (List.range ((hi - lo + E - 1) / E)).map (fun k => (lo + k * E, min hi (lo + (k + 1) * E)))

/-- The result chunks in order. -/
def resultChunks (s : State) (i : PavInst) : List (Nat × Nat × Nat) :=
  let j := { i with maxRound := false }
  let E := chunkElems j (pavFinal j)
  let l := if i.op = 3 ∨ i.op ≥ 5 then
      (List.range (pavTotal i)).flatMap (fun r => rangeChunks E (blockAt i r).1 (blockAt i r).2)
    else rangeChunks E (resultRange s i).1 (resultRange s i).2
  List.zip (List.range l.length) l

end Sys2Proof.Machine
end

