-- ==== Sys2Proof/Machine/Pavilion.lean ====
section
/-!
DEFINITION. The Pavilion's instances at work: packets, slots, steps, results and failures (R259 to R279).
-/

namespace Sys2Proof.Machine

open Sys2Proof Sys2Proof.Config

/-! ## Instances -/

/-- The instance of a name (R259). -/
def pavFind (s : State) (c q : Nat) : Option PavInst := s.pav.insts.find? (fun i => i.comm == c && i.seq == q)

/-- An instance replaced, by its name. -/
def pavSet (s : State) (i : PavInst) : State :=
  { s with pav := { s.pav with insts := s.pav.insts.map (fun x => if x.comm = i.comm ∧ x.seq = i.seq then i else x) } }

/-- Slots that a name holds are freed (R273, R278). -/
def freeSlots (s : State) (c q : Nat) : State :=
  { s with pav := { s.pav with slots := s.pav.slots.filter (fun x => !(x.comm == c && x.seq == q)) } }

/-- An instance leaves with its slots and its unfinished receipts. -/
def pavDrop (s : State) (c q : Nat) : State :=
  let s := freeSlots s c q
  { s with
    pav := { s.pav with
      insts := s.pav.insts.filter (fun x => !(x.comm == c && x.seq == q)),
      ins := s.pav.ins.filter (fun x => !(x.comm == c && x.seq == q)) } }

/-- Slots held, and the slots that an instance needs at a reduction point (R273). -/
def slotsHeld (s : State) : Nat := (s.pav.slots.map (fun x => x.n)).sum
def slotsNeed (s : State) : Nat := 2 * regN s (pgPav + 0x10C)

/-- PAV_CHUNK_TIMEOUT in TCLK. -/
def chunkTimeout (s : State) : Nat := 1000 * regN s (pgPav + 0x114)

/-! ## Packets (R262) -/

/-- A COLL header. -/
def collHeader (kind cfmt comm seq chunk step pidx crc : Nat) : Nat :=
  kind % 16 * 2 ^ 124 + cfmt % 16 * 2 ^ 120 + comm % 65536 * 2 ^ 104 + seq % 2 ^ 32 * 2 ^ 72 + chunk % 65536 * 2 ^ 56
    + step % 64 * 2 ^ 50 + pidx % 32 * 2 ^ 45 + crc % 2 ^ 32

/-! The fields of a packet's COLL header. -/

def Pkt.ckind (p : Pkt) : Nat := fld p.th 127 124
def Pkt.ccfmt (p : Pkt) : Nat := fld p.th 123 120
def Pkt.ccomm (p : Pkt) : Nat := fld p.th 119 104
def Pkt.cseq (p : Pkt) : Nat := fld p.th 103 72
def Pkt.cchunk (p : Pkt) : Nat := fld p.th 71 56
def Pkt.cstep (p : Pkt) : Nat := fld p.th 55 50
def Pkt.cpidx (p : Pkt) : Nat := fld p.th 49 45
def Pkt.ccrc (p : Pkt) : Nat := fld p.th 31 0
/-- The body of a control kind. -/
def Pkt.cbody (p : Pkt) : Nat := leNat (p.rest.take 32)

/-- A control packet of a name to a member. -/
def collCtl (s : State) (stamp arb dev kind comm seq chunk step crc : Nat) (body : List Byte) : State :=
  send s ((mkPkt s 3 stamp arb dev).withTh (collHeader kind 0 comm seq chunk step 0 crc) body)

/-- A control packet of an instance to a member. -/
def pavCtl (s : State) (i : PavInst) (arb dev kind chunk step crc : Nat) (body : List Byte) : State :=
  collCtl s (ceStamp i.entry) arb dev kind i.comm i.seq chunk step crc body

/-- The mask of the other members of this Arbour. -/
def othersMask (s : State) (i : PavInst) : Nat := setFld (ceMask i.entry) (myDev s) (myDev s) 0

/-- The packets of a chunk (R262, R263). -/
def chunkPkts (s : State) (i : PavInst) (base : Pkt) (o : PavOut) : List Pkt :=
  let ws := chunks 2048 o.bytes
  let crc := crc32c o.bytes
  (List.zip (List.range ws.length) ws).map (fun w =>
    { base with
      data := true, msgId := o.chunk % 65536, count := ws.length, last := w.1 + 1 == ws.length,
      thdr := collHeader 8 o.cfmt i.comm i.seq o.chunk o.step w.1 crc, body := w.2 })

/-- A chunk is sent to one member. -/
def sendChunk (s : State) (i : PavInst) (o : PavOut) (arb dev : Nat) : State :=
  (chunkPkts s i (mkPkt s 3 (ceStamp i.entry) arb dev) o).foldl send s

/-- A chunk is sent for the first time: multicast, or to each receiver. -/
def firstSend (s : State) (i : PavInst) (o : PavOut) : State :=
  let s := inc64 s (pgPav + 0x60) 1
  if o.mcast then
    (chunkPkts s i (mkMcast s 3 (ceStamp i.entry) ((o.dests.map (fun d => 2 ^ d.2.1)).sum)) o).foldl send s
  else o.dests.foldl (fun s d => sendChunk s i o d.1 d.2.1) s

/-! ## Failures (R277 to R279) -/

/-- The record of a call fault or an abort, made before it is counted: PAV_FAULT_INFO holds the first, the error is logged. -/
def pavNote (s : State) (c q part code : Nat) : State :=
  let s := if ctr32 s (pgPav + 0x80) = 0 ∧ ctr32 s (pgPav + 0x8C) = 0 then setRegN s (pgPav + 0x160) (c % 65536 * 65536 + q % 65536) else s
  errIn s pgPav code (some part) ((((getPart s part).steps.head?).map (fun x => x.num)).getD 0)

/-- A call fault of a collective (R279): the step ends with an error completion. -/
def pavCallFault (s : State) (c q part code : Nat) : State :=
  endHead (evt (incSat (pavNote s c q part code) (pgPav + 0x8C) 1) pgPav 0) part code

/-- An instance ends with a code here (R278). -/
def pavEnd (s : State) (i : PavInst) (code : Nat) : State :=
  let s := evt (incSat (pavNote s i.comm i.seq i.part code) (pgPav + 0x80) 1) pgPav 5
  endHead (pavDrop s i.comm i.seq) i.part code

/-- An instance is aborted: ABORT to every other member, by multicast in the Arbour and unicast beyond (R278). -/
def pavAbort (s : State) (i : PavInst) (code : Nat) : State :=
  let th := collHeader 11 0 i.comm i.seq 0 0 0 code
  let s := if othersMask s i = 0 then s else send s ((mkMcast s 3 (ceStamp i.entry) (othersMask s i)).withTh th [])
  let far := (i.arbs.filter (fun a => a != myArb s)).flatMap (fun a => (ceDevs i.entry).map (fun d => (a, d)))
  let s := far.foldl (fun s m => pavCtl s i m.1 m.2 11 0 0 code []) s
  pavEnd s i code

/-! ## Results (R260) -/

/-- Elements of a range that lie in a list of ranges. -/
def covered (l : List (Nat × Nat)) (lo hi : Nat) : Nat := (l.map (fun r => min r.2 hi - max r.1 lo)).sum

/-- The bytes of the result that come before a piece's own. -/
def pieceStart (i : PavInst) (k : Nat) : Nat := ((i.pieces.take k).map (fun p => p.cap)).sum

/-- Units of a result chunk to the tiles whose pieces it meets. -/
def resultUnits (s : State) (i : PavInst) (lo hi : Nat) : List Unit :=
  let esz := etySize i.ety
  let base := (resultRange s i).1
  let bs := elemsBytes i.ety ((i.vals.drop lo).take (hi - lo))
  let b0 := (lo - base) * esz
  (List.zip (List.range i.pieces.length) i.pieces).filterMap (fun p =>
    let x := pieceStart i p.1
    let a := max b0 x
    let b := min (b0 + bs.length) (x + p.2.cap)
    if b ≤ a then none
    else some { tile := p.2.tile, bg := false, part := i.part, handle := p.2.handle, ctr := p.2.ctr, off := a - x,
                data := (bs.drop (a - b0)).take (b - a), weight := false, cause := pavCause i, again := false, link := p.2.tile / 60,
                counts := true })

/-- Result chunks whose elements are all final leave for their tiles. -/
def emitResults (s : State) (i : PavInst) : PavInst × State :=
  let full := i.result.filter (fun r => covered i.fin r.2.1 r.2.2 ≥ r.2.2 - r.2.1)
  if i.maxRound then (i, s)
  else
    let us := full.flatMap (fun r => resultUnits s i r.2.1 r.2.2)
    ({ i with result := i.result.filter (fun r => !full.contains r) },
      us.foldl (fun s u => toEdge (soilUnit s (othersMask s i != 0 || i.arbs.any (fun a => a != myArb s)) u) u) s)

/-! ## Steps -/

/-- Elements from `lo` on replaced. -/
def putElems (vals : List Nat) (lo : Nat) (vs : List Nat) : List Nat := vals.take lo ++ vs ++ vals.drop (lo + vs.length)

/-- Elements that a step sends: the source where the result has a place of its own (R266). -/
def sendElems (i : PavInst) (x : PavMove) : List Nat :=
  ((if i.op ≥ 5 then i.src else i.vals).drop x.lo).take (x.hi - x.lo)

/-- The chunk that a move sends. -/
def outOf (i : PavInst) (tree : Bool) (st : PavStep) (dests : List (Nat × Nat)) (x : PavMove) : PavOut :=
  let bs := carrierBytes i x.cfmt x.lo (sendElems i x)
  { step := st.no, tree := tree, chunk := x.chunk, cfmt := x.cfmt, bytes := padTo (roundUp bs.length 4) bs, mcast := st.mcast,
    dests := dests.map (fun d => (d.1, d.2, 0)), done := [], need := st.ready, sent := false, sentAt := 0 }

/-- The chunks that a step sends: one copy per receiver, or one for all by multicast. -/
def stepOuts (i : PavInst) (tree : Bool) (st : PavStep) : List PavOut :=
  if st.mcast then
    match st.sends.head? with
    | none => []
    | some x =>
      let dests := (st.sends.map (fun y => (y.arb, y.dev))).eraseDups
      (st.sends.filter (fun y => y.arb == x.arb && y.dev == x.dev)).map (outOf i tree st dests)
  else st.sends.map (fun x => outOf i tree st [(x.arb, x.dev)] x)

/-- The source bytes of a member in order, up to the first that a pass has still to drain (R297). -/
def fedBytes : List PavPiece → List Byte
  | [] => []
  | p :: ps => if p.due = 0 then p.src ++ fedBytes ps else p.src

/-- The codes of a reduction's own contribution, 0 where it is still to drain. -/
def ownCodes (i : PavInst) : List Nat := elemsOf i.ety (padTo i.len (fedBytes i.pieces))

/-- The elements that the first round of a reduction starts from: the codes, or the groups' exponents of R55. -/
def firstVals (i : PavInst) (codes : List Nat) : List Nat :=
  if pavExact i then (chunks 16 codes).map (fun g => ofSigned 32 (xsLocalExp (g.map decFP32))) else codes

/-- Elements of the round whose own contribution has drained, from the first on (R297). -/
def drainedTo (i : PavInst) : Nat :=
  if i.op > 2 ∨ i.pieces.all (fun p => p.due == 0) then pavElems i
  else
    let n := (fedBytes i.pieces).length / etySize i.ety
    if i.maxRound then n / 16 else n

/-- A range of a reduction has drained here; the other collectives have their contribution from the start. -/
def drained (i : PavInst) (hi : Nat) : Bool := i.op > 2 || decide (hi ≤ drainedTo i)

/-- What has drained since enters a reduction that has begun (R297); `j` is the instance `i` with more drained. -/
def feedVals (i j : PavInst) : PavInst :=
  if !i.begun ∨ i.op > 2 then j
  else
    let codes := ownCodes j
    let a := drainedTo i
    let vs := ((firstVals j codes).drop a).take (drainedTo j - a)
    { j with codes := codes, src := putElems j.src a vs, vals := putElems j.vals a vs }

/-- A step begins: its chunks are ready to leave, its receipts are expected. A chunk that a pass has still to drain follows
(R297). -/
def startStep (i : PavInst) (k : PavTrack) (st : PavStep) : PavInst × PavTrack :=
  let now := { st with sends := st.sends.filter (fun x => st.mcast || drained i x.hi) }
  ({ i with outs := i.outs ++ stepOuts i k.tree now },
   { k with started := true, waits := st.recvs.map (fun x => ⟨x, false, none⟩),
            todo := st.sends.filter (fun x => !st.mcast && !drained i x.hi) })

/-- The chunks of a running step that have drained since are ready to leave (R297). -/
def topUp (i : PavInst) (k : PavTrack) (st : PavStep) : PavInst × PavTrack :=
  let now := { st with sends := k.todo.filter (fun x => drained i x.hi) }
  ({ i with outs := i.outs ++ stepOuts i k.tree now }, { k with todo := k.todo.filter (fun x => !drained i x.hi) })

/-- The READY packets that a member owes: at most PAV_TREE_DEPTH chunks per peer and step beyond those verified (R267). -/
def owedReady (s : State) (st : PavStep) (ws : List PavWait) : List (PavMove × Nat × Nat) × List PavWait :=
  if !st.ready then ([], ws)
  else
    let depth := regN s (pgPav + 0x10C)
    let peers := (ws.map (fun w => (w.mv.arb, w.mv.dev))).eraseDups
    peers.foldl (fun (r : List (PavMove × Nat × Nat) × List PavWait) p =>
      let mine := r.2.filter (fun w => w.mv.arb == p.1 && w.mv.dev == p.2)
      let open' := (mine.filter (fun w => w.told && w.got.isNone)).length
      let next := (mine.filter (fun w => !w.told)).take (depth - open')
      match next.head?, next.getLast? with
      | some a, some b =>
        (r.1 ++ [(a.mv, a.mv.chunk, b.mv.chunk)],
          r.2.map (fun w => if next.contains w then { w with told := true } else w))
      | _, _ => r) ([], ws)

/-- READY packets leave and are kept until they are answered. -/
def sendReadys (s : State) (i : PavInst) (no : Nat) (l : List (PavMove × Nat × Nat)) : PavInst × State :=
  l.foldl (fun (r : PavInst × State) x =>
    let p := (mkPkt r.2 3 (ceStamp i.entry) x.1.arb x.1.dev).withTh
      (collHeader 6 0 i.comm i.seq 0 no 0 i.dchk) (leBytes 4 (x.2.1 % 65536 + x.2.2 % 65536 * 65536))
    ({ r.1 with asks := r.1.asks ++ [(p, now r.2)] }, send r.2 p)) (i, s)

/-- READY covers a chunk of a receiver. -/
def isReady (i : PavInst) (o : PavOut) (d : Nat × Nat × Nat) : Bool :=
  i.readys.any (fun r => r.1 == d.1 && r.2.1 == d.2.1 && r.2.2.1 == o.step && r.2.2.2.1 ≤ o.chunk && o.chunk ≤ r.2.2.2.2)

/-- Chunks that may leave, leave (R267). -/
def pumpOuts (s : State) (i : PavInst) : PavInst × State :=
  i.outs.foldl (fun (r : PavInst × State) o =>
    if o.sent ∨ (o.need ∧ !o.dests.all (isReady i o)) then ({ r.1 with outs := r.1.outs ++ [o] }, r.2)
    else ({ r.1 with outs := r.1.outs ++ [{ o with sent := true, sentAt := now r.2 }] }, firstSend r.2 i o))
    ({ i with outs := [] }, s)

/-- A step's receipts are in, its own part has drained, and what it sent is acknowledged. -/
def stepDone (i : PavInst) (k : PavTrack) (st : PavStep) : Bool :=
  k.todo.isEmpty && st.recvs.all (fun x => drained i x.hi) && st.conv.all (fun c => drained i c.2) && k.waits.all (fun w => w.got.isSome)
    && i.outs.all (fun o => o.step != st.no || o.tree != k.tree || (k.tree && o.chunk != k.chunk) || o.dests.isEmpty)

/-- A step's receipts are applied in the order in which they were verified, its own contribution first, and its ranges
converted (R268, R272). -/
def applyStep (s : State) (i : PavInst) (k : PavTrack) (st : PavStep) : PavInst × State :=
  let got := sortBy (fun (x : Nat × PavMove × List Nat) => x.1)
    (k.waits.filterMap (fun w => w.got.map (fun g => (g.1, w.mv, g.2))))
  let r := got.foldl (fun (r : PavInst × State) x =>
    let m := x.2.1
    let old := (r.1.vals.drop m.lo).take (m.hi - m.lo)
    if m.place then
      ({ r.1 with vals := putElems r.1.vals m.lo x.2.2, fin := if m.fin then r.1.fin ++ [(m.lo, m.hi)] else r.1.fin }, r.2)
    else
      ({ r.1 with vals := putElems r.1.vals m.lo (List.zipWith (pavCombine i) old x.2.2) },
        inc64 r.2 (pgPav + 0x58) (carrierBytes i m.cfmt m.lo x.2.2).length)) (i, s)
  let i := st.conv.foldl (fun (i : PavInst) c =>
    let vs := (i.vals.drop c.1).take (c.2 - c.1)
    { i with
      vals := putElems i.vals c.1 ((List.zip (List.range vs.length) vs).map (fun p => pavConvert i (c.1 + p.1) p.2)),
      fin := i.fin ++ [c] }) r.1
  (i, r.2)

/-- One track advances as far as it can. -/
def runTrack : Nat → State → PavInst → PavTrack → PavInst × State × PavTrack
  | 0, s, i, k => (i, s, k)
  | f + 1, s, i, k =>
    match k.steps with
    | [] => (i, s, k)
    | st :: rest =>
      let r := if k.started then topUp i k st else startStep i k st
      let o := owedReady s st r.2.waits
      let q := sendReadys s r.1 st.no o.1
      let k := { r.2 with waits := o.2 }
      let p := pumpOuts q.2 q.1
      if !stepDone p.1 k st then (p.1, p.2, k)
      else
        let a := applyStep p.2 p.1 k st
        runTrack f a.2 a.1 { k with steps := rest, started := false, waits := [], todo := [] }

/-- Every track of an instance advances; finished ones leave. -/
def runTracks (s : State) (i : PavInst) : PavInst × State :=
  i.tracks.foldl (fun (r : PavInst × State) k =>
    let x := runTrack (k.steps.length + 1) r.2 r.1 k
    ({ x.1 with tracks := x.1.tracks ++ (if x.2.2.steps.isEmpty then [] else [x.2.2]) }, x.2.1)) ({ i with tracks := [] }, s)

/-- Chunks of a tree begin while fewer than PAV_TREE_DEPTH are in flight (R273). -/
def admitTracks (s : State) (i : PavInst) : PavInst :=
  let n := regN s (pgPav + 0x10C) - (i.tracks.filter (fun k => k.tree)).length
  { i with tracks := i.tracks ++ i.later.take n, later := i.later.drop n }

/-- The exact sum follows the max round (R55, R272). -/
def sumRound (i : PavInst) : PavInst :=
  let exps := i.vals.map (fun v => xsE (toSigned 32 v))
  let vals := (List.zip (List.range i.codes.length) i.codes).map (fun p =>
    let x := xsEntry (exps.getD (p.1 / 16) 0) (decFP32 p.2)
    xsElem x.1 x.2)
  { i with maxRound := false, exps := exps, src := vals, vals := vals, fin := [], live := false }

/-- A round's tracks are set once the instance has begun and its algorithm is known. -/
def launch (s : State) (i : PavInst) : PavInst :=
  if !i.begun ∨ i.live then i
  else
    match roundTracks s i with
    | none => i
    | some ks =>
      let t := ks.any (fun k => k.tree)
      { i with
        live := true, tracks := ks.filter (fun k => !k.tree), later := ks.filter (fun k => k.tree),
        usedTree := i.usedTree || t, usedEnd := i.usedEnd || ks.any (fun k => !k.tree) }

/-- An instance advances as far as it can. -/
def advanceFuel : Nat → State → PavInst → PavInst × State
  | 0, s, i => (i, s)
  | f + 1, s, i =>
    let i := admitTracks s (launch s i)
    if !i.live then (i, s)
    else
      let r := runTracks s i
      let e := emitResults r.2 r.1
      let i := e.1
      if i.tracks.isEmpty ∧ i.later.isEmpty then
        if i.maxRound then advanceFuel f e.2 (sumRound i) else (i, e.2)
      else if i.tracks.length < r.1.tracks.length ∨ (!i.later.isEmpty ∧ (admitTracks e.2 i).tracks.length > i.tracks.length) then
        advanceFuel f e.2 i
      else (i, e.2)

/-- A chunk of a tree still needs its accumulator at this reduction point: a row head's until the root has acknowledged the
partial, the root's until every member has acknowledged the result (R274). -/
def holdsAccum (k : PavTrack) : Bool := k.tree && k.steps.any (fun st => st.mcast || st.no % 32 != 11)

/-- The accumulators that no chunk of an instance needs any more are freed (R273, R274). -/
def trimSlots (s : State) (i : PavInst) : State :=
  if i.alg ≠ some 0 ∨ !i.live ∨ i.maxRound then s
  else
    let n := 2 * ((i.tracks ++ i.later).filter holdsAccum).length
    { s with
      pav := { s.pav with
        slots := s.pav.slots.filterMap (fun x =>
          if x.comm = i.comm ∧ x.seq = i.seq then (if n = 0 then none else some { x with n := min x.n n }) else some x) } }

/-- An instance advances, and stands in the state as it then is. -/
def pavAdvance (s : State) (i : PavInst) : State :=
  let r := advanceFuel (treeChunks i + treeChunks { i with maxRound := false } + 4) s i
  trimSlots (pavSet r.2 r.1) r.1

/-- Progress of an instance (R277). -/
def pavTouch (s : State) (i : PavInst) : PavInst := { i with prog := now s }

/-! ## Decisions (R273, R274) -/

/-- DECIDE's body. -/
def decideBody (alg first : Nat) : List Byte := leBytes 4 (alg % 16 + first % 65536 * 65536)

/-- A decision takes hold at a member: an endpoint algorithm from a chunk on discards what the tree holds of it (R276). -/
def applyDecide (s : State) (i : PavInst) (alg first round : Nat) : PavInst × State :=
  let cur := b2n (pavExact i && !i.maxRound)
  let i := pavTouch s { i with alg := some alg, fromChunk := first, decRound := round }
  if alg = 0 then (i, s)
  else
    let s := freeSlots s i.comm i.seq
    if !i.live ∨ round ≠ cur then (i, s)
    else
      let lo := min (pavElems i) (first * chunkElems i (pavCarrier i false))
      let keep := fun (k : PavTrack) => !k.tree || k.chunk < first
      ({ i with
         vals := i.vals.take lo ++ i.src.drop lo,
         fin := (i.fin.map (fun r => (r.1, min r.2 lo))).filter (fun r => r.1 < r.2),
         tracks := i.tracks.filter keep ++ [endTrack i (smallSteps s i lo)], later := i.later.filter keep,
         outs := i.outs.filter (fun o => !o.tree || o.chunk < first), usedEnd := true }, s)

/-- The root sends DECIDE to every other member of the Arbour, and follows it itself. -/
def rootDecide (s : State) (i : PavInst) (alg first round : Nat) : State :=
  let th := collHeader 4 0 i.comm i.seq 0 round 0 0
  let s := if othersMask s i = 0 then s
    else send s ((mkMcast s 3 (ceStamp i.entry) (othersMask s i)).withTh th (decideBody alg first))
  let others := (ceDevs i.entry).filter (fun d => d != myDev s)
  let i := { i with reserves := [], decides := others.map (fun d => ⟨d, now s, 0⟩) }
  let r := applyDecide s i alg first round
  pavAdvance r.2 r.1

/-- The root denies its tree: one fallback, and the endpoint algorithm (R273). -/
def rootDeny (s : State) (i : PavInst) : State :=
  rootDecide (evt (incSat s (pgPav + 0x6C) 1) pgPav 1) i 1 0 0

/-- The root takes its own slots and asks the row heads (R273). -/
def rootReserve (s : State) (i : PavInst) : State :=
  let need := slotsNeed s
  if slotsHeld s + need > 2048 then rootDeny s i
  else
    let s := { s with pav := { s.pav with slots := s.pav.slots ++ [⟨i.comm, i.seq, need, i.dchk, now s⟩] } }
    let hs := otherHeads i
    if hs.isEmpty then rootDecide s i 0 0 0
    else
      let s := hs.foldl (fun s d => pavCtl s i (myArb s) d 1 0 0 i.dchk (leBytes 4 need)) s
      pavSet s { i with reserves := hs.map (fun d => ⟨d, now s, 0⟩) }

/-! ## Issue (R260, R261, R297) -/

/-- A collective descriptor (R260): none where a field is reserved or out of range; `fdest` allows FDEST. -/
def parseColl (s : State) (part step : Nat) (d : List Byte) (fdest : Bool) : Option PavInst :=
  let w := leNat d
  let op := fld w 19 16
  let red := fld w 25 24
  let ety := fld w 30 28
  let len := fld w 63 32
  let e := commEntry s (fld w 15 0)
  let arbs := commArbs s e
  let i : PavInst := {
    comm := fld w 15 0, seq := fld w 95 64, part := part, step := step, op := op, red := red, ety := ety, len := len,
    root := fld w 111 96, noTree := bit w 112, dchk := crc32c (d.take 8 ++ (d.drop 12).take 4), entry := e, arbs := arbs,
    det := detMode s, prog := now s }
  let total := max 1 (pavTotal i)
  let esz := etySize ety
  let sum := if op > 2 then (if op = 5 then len * total else len)
    else if pavExact i then (len / esz + 15) / 16 * 264
    else if pavBf16Sum i then 2 * len else len
  let E := min (chunkElems i (pavCarrier i false)) (chunkElems i (pavFinal i))
  let elems := if op = 5 then len / esz * total else len / esz
  if d.length ≠ 32 ∨ op = 0 ∨ op > 6 ∨ fld w 23 20 ≠ 0 ∨ fld w 27 26 ≠ 0 ∨ bit w 31 ∨ ety > 3
      ∨ (op ≤ 2 ∧ (red = 3 ∨ ety = 3)) ∨ (op > 2 ∧ red ≠ 0) ∨ len % esz ≠ 0
      ∨ (op = 2 ∧ (len % total ≠ 0 ∨ len / total % esz ≠ 0)) ∨ (op = 6 ∧ len ≠ 0)
      ∨ (op = 4 ∧ fld w 111 96 ≥ total) ∨ fld w 127 113 ≠ 0 ∨ fld w 143 128 ≠ 0 ∨ fld w 191 176 ≠ 0
      ∨ fld w 223 192 < max (2 * sum) 262144 ∨ (elems + E - 1) / E > 65536
      ∨ (op ≠ 6 ∧ !fdest ∧ fld w 255 224 ≠ 0) ∨ (fdest ∧ fld w 255 237 ≠ 0) then none
  else some i

/-- Bytes of this member's contribution, and of its result; the result of an ALLTOALLV is known with its counts. -/
def pavIn' (s : State) (i : PavInst) : Nat :=
  let n := max 1 (pavN i)
  let me := pavPos s i * n + pavRank s i
  match i.op with
  | 4 => if i.root = me then i.len else 0
  | 5 => i.len * pavTotal i
  | 6 => i.sizes.sum
  | _ => i.len

def pavOutBytes (s : State) (i : PavInst) : Nat := ((resultRange s i).2 - (resultRange s i).1) * etySize i.ety

/-- The source bytes gathered so far, and the room of the destinations. -/
def pavGathered (i : PavInst) : List Byte := i.pieces.flatMap (fun p => p.src)
/-- The source bytes that the tiles have named, those a pass has still to drain included (R297). -/
def pavNamed (i : PavInst) : Nat := (i.pieces.map (fun p => p.src.length + p.due)).sum

def pavRoom (i : PavInst) : Nat := (i.pieces.map (fun p => p.cap)).sum

/-- The instance begins once its contribution and its destination are named and, for an ALLTOALLV, every count is held
(R260, R269); what a pass has still to drain enters as it drains (R297). -/
def pavBegin (s : State) (i : PavInst) : PavInst × State :=
  let total := pavTotal i
  if i.begun ∨ (if i.op ≤ 2 then pavNamed i else (pavGathered i).length) < pavIn' s i then (i, s)
  else if i.op = 6 ∧ (List.range total).any (fun r => !i.counts.any (fun c => c.1 == r)) then (i, s)
  else if i.op ≠ 6 ∧ pavRoom i < pavOutBytes s i then (i, s)
  else
    let n := max 1 (pavN i)
    let me := pavPos s i * n + pavRank s i
    let codes := elemsOf i.ety ((pavGathered i).take (pavIn' s i))
    let size := (resultRange s { i with maxRound := false }).2
    let own := blockAt i me
    let i : PavInst :=
      if i.op ≤ 2 then
        let own := ownCodes i
        let vs := firstVals i own
        { i with codes := own, maxRound := pavExact i, src := vs, vals := vs }
      else if i.op = 3 then
        { i with vals := putElems (List.replicate (blockElems i * total) 0) own.1 codes, fin := [own] }
      else if i.op = 4 then
        if i.root = me then { i with vals := codes, fin := [(0, codes.length)] }
        else { i with vals := List.replicate (blockElems i) 0 }
      else
        let x := sendAt i me
        { i with
          src := codes, vals := putElems (List.replicate size 0) own.1 ((codes.drop x.1).take (x.2 - x.1)), fin := [own] }
    let i : PavInst := { i with begun := true, result := resultChunks s i }
    let s : State :=
      if i.op ≠ 6 then s
      else
        let bytes := (i.counts.map (fun c => c.2)).sum
        let s := writeSram s i.table.1 (i.table.2 + 4 * total) (leBytes 4 bytes)
        (List.zip (List.range i.pieces.length) i.pieces).foldl (fun s p =>
          let n := (i.result.filter (fun r => (resultUnits s i r.2.1 r.2.2).any (fun u => u.tile == p.2.tile && u.ctr == p.2.ctr))).length
          let c := (getTile s p.2.tile).fg
          setFg s p.2.tile (setCtr c p.2.ctr { getCtr c p.2.ctr with target := n })) s
    (i, s)

/-- An instance takes the READY, DECIDE and COUNT packets that came before its issue (R267); a DCHK that differs is
found there. -/
def takeEarly (s : State) (i : PavInst) : List Pkt × State :=
  let mine := fun (p : Pkt) => p.ccomm == i.comm && p.cseq == i.seq
  (s.pav.early.filter mine, { s with pav := { s.pav with early := s.pav.early.filter (fun p => !mine p) } })

end Sys2Proof.Machine
end

