-- ==== Sys2Proof/Machine/Collect.lean ====
section
/-!
DEFINITION. The commands of the Pavilion and of link-state notices: communicator entries, issue of collectives, their
packets and timers, completion, and LINKSTATE (R233, R257 to R279, R297, R365).
-/

namespace Sys2Proof.Machine

open Sys2Proof Sys2Proof.Config

/-! ## Communicators -/

/-- An instance of a communicator is in progress on this device. -/
def commBusy (s : State) (c : Nat) : Bool :=
  s.pav.insts.any (fun i => i.comm == c) || s.sheaf.insts.any (fun i => i.comm == c)

/-- COMM_ENTRY_WRITE (R257, R258): the write of DATA15 stores the entry and advances the index; ignored with 0x0709 while an
instance of that communicator is in progress. -/
def execCommEntryWrite (v : Nat) (s : State) : Out :=
  guardWrite s (pgPav) (let s := setRegN s (pgPav + 0x158) v
  let k := regN s (pgPav + 0x118) % 4096
  if commBusy s k then .next (err s pgPav 0x0709)
  else
    let e := leNat ((List.range 16).flatMap (fun i => leBytes 4 (regN s (pgPav + 0x11C + 4 * i))))
    .next (setRegN { s with pav := { s.pav with comms := NMap.set (fun _ => 0) s.pav.comms k e } } (pgPav + 0x118)
      ((k + 1) % 4096)))

/-! ## Packets of an instance -/

/-- A READY, COUNT or RESERVE whose DCHK differs aborts the instance (R261). -/
def dchkBad (i : PavInst) (p : Pkt) : Bool := p.ccrc != i.dchk

/-- A begun instance advances; an ALLTOALLV whose blocks exceed the destination is a call fault (R269). -/
def pavGo (s : State) (i : PavInst) : State :=
  let r := pavBegin s i
  if r.1.begun ∧ !i.begun ∧ i.op = 6 ∧ pavOutBytes s i > pavRoom i then
    evt (incSat (pavAbort s i 0x070A) (pgPav + 0x8C) 1) pgPav 0
  else pavAdvance r.2 r.1

/-- READY for a sender (R267): COUNT to that member is answered. -/
def onReady (s : State) (i : PavInst) (p : Pkt) : State :=
  if dchkBad i p then pavAbort s i 0x0705
  else
    let x := (p.srcArb, p.src, p.cstep, fld p.cbody 15 0, fld p.cbody 31 16)
    pavGo s { i with
      readys := if i.readys.contains x then i.readys else i.readys ++ [x],
      asks := i.asks.filter (fun a => !(a.1.ckind == 7 && a.1.dstArb == p.srcArb && a.1.dst == p.src)) }

/-- The global rank of a member. -/
def rankOfMember (i : PavInst) (arb dev : Nat) : Nat :=
  i.arbs.findIdx (fun a => a == arb) * pavN i + (ceDevs i.entry).findIdx (fun d => d == dev)

/-- COUNT of a member (R269). -/
def onCount (s : State) (i : PavInst) (p : Pkt) : State :=
  if dchkBad i p then pavAbort s i 0x0705
  else
    let r := rankOfMember i p.srcArb p.src
    if i.counts.any (fun c => c.1 == r) then s
    else pavGo s { i with counts := i.counts ++ [(r, fld p.cbody 31 0)] }

/-- DECIDE at a member (R274, R276): answered, and followed where it says something new. -/
def onDecide (s : State) (i : PavInst) (p : Pkt) : State :=
  let s := pavCtl s i p.srcArb p.src 5 0 p.cstep 0 []
  let alg := fld p.cbody 3 0
  if !i.eligible ∨ (i.alg.isSome ∧ (i.alg ≠ some 0 ∨ alg = 0)) then s
  else
    let r := applyDecide s i alg (fld p.cbody 31 16) p.cstep
    pavAdvance r.2 { r.1 with }

/-- One record of an instance is handled. -/
def onRecord (s : State) (c q : Nat) (p : Pkt) : State :=
  match pavFind s c q with
  | none => s
  | some i => if p.ckind = 4 then onDecide s i p else if p.ckind = 6 then onReady s i p else onCount s i p

/-! ## Issue -/

/-- The target of a piece's counter: the result chunks written to its tile; an ALLTOALLV learns it with its counts. -/
def pieceTarget (s : State) (i : PavInst) (k : Nat) : Nat :=
  if i.op = 6 ∧ !i.begun then 0xFFFFFFFF
  else
    let esz := etySize i.ety
    let base := (resultRange s i).1
    let x := pieceStart i k
    let cap := ((i.pieces[k]?).map (fun p => p.cap)).getD 0
    ((resultChunks s i).filter (fun r => (r.2.1 - base) * esz < x + cap && x < (r.2.2 - base) * esz)).length

/-- A piece joins an instance, and its counter is armed (R260, R297). -/
def joinPiece (s : State) (i : PavInst) (x : PavPiece) : State :=
  let k := i.pieces.length
  let i := { i with pieces := i.pieces ++ [x] }
  let s := armResult s x.tile x.ctr x.handle (pieceTarget s i k)
  let c := (getTile s x.tile).fg
  let s := setFg s x.tile (setCtr c x.ctr { getCtr c x.ctr with cause := pavCause i })
  pavGo (pavSet s i) i

/-- COUNT to every other member, kept until it is answered (R269). -/
def pavCounts (s : State) (i : PavInst) : PavInst × State :=
  let n := max 1 (pavN i)
  let me := pavPos s i * n + pavRank s i
  ((List.range (pavTotal i)).filter (fun r => r != me)).foldl (fun (x : PavInst × State) r =>
    let d := pavDev i (r / n) (r % n)
    let p := (mkPkt x.2 3 (ceStamp i.entry) d.1 d.2).withTh (collHeader 7 0 i.comm i.seq 0 0 0 i.dchk) (leBytes 4 (i.sizes.getD r 0))
    ({ x.1 with asks := x.1.asks ++ [(p, now x.2)] }, send x.2 p)) ({ i with counts := [(me, i.sizes.getD me 0)] }, s)

/-- A new instance is issued on this device by its first tile (R260): its early records are taken, the root reserves, an
ALLTOALLV sends its counts. -/
def openColl (s : State) (i : PavInst) (x : PavPiece) (vcount : Nat) : State :=
  let i := { i with
    eligible := i.op ≤ 2 && pavSmall s i && !i.noTree && bit (regN s (pgPav + 0x104)) 0,
    sizes := if i.op = 6 then (List.range (pavTotal i)).map (fun r => leNat (readSram s x.tile (vcount + 4 * r) 4)) else [],
    table := (x.tile, vcount) }
  let s := { s with
  pav := { s.pav with
    insts := s.pav.insts ++ [i], past := s.pav.past.filter (fun p => p != (i.comm, i.seq)) } }
  let e := takeEarly s i
  let s := e.2
  if s.pav.slots.any (fun k => k.comm == i.comm && k.seq == i.seq && k.dchk != i.dchk) then pavAbort s i 0x0705
  else if e.1.any (fun p => p.dor != detMode s) then pavAbort s i 0x070B
  else
    let r := if i.op = 6 then pavCounts s i else (i, s)
    let s := joinPiece (pavSet r.2 r.1) r.1 x
    let s := match pavFind s i.comm i.seq with
      | some j => if j.eligible ∧ pavRoot j = myDev s ∧ j.alg = none then rootReserve s j else s
      | none => s
    e.1.foldl (fun s p => onRecord s i.comm i.seq p) s

/-- A tile issues its part of a collective (R260, R279): the first tile opens the instance, further tiles add their pieces; `src`
gives a piece's bytes and how many its pass has still to drain, `banks` those of its source. -/
def collIssue (s : State) (i : Issue) (d : List Byte) (fdest : Bool) (dst k banks : Nat) (src : State → Nat → List Byte × Nat) :
    State :=
  let t := i.tile
  let part := (getTile s t).fg.part
  let w := leNat d
  let c := fld w 15 0
  let q := fld w 95 64
  let f := pavCallFault s c q part
  let h := NMap.get (fun _ => 0) (getTile s t).fg.handles dst
  if !commGood s c part ∨ !(commArbs s (commEntry s c)).contains (myArb s) then f 0x0702
  else
    match parseColl s part (getTile s t).fg.step d fdest with
    | none => f 0x0701
    | some n =>
      if h = 0 ∨ Nat.land (hMask h) (blockedBanks s i) ≠ 0 then callFault s t 0x0201 0
      else if !armFree s part t k then callFault s t 0x0211 0
      else
        let piece := fun (i : PavInst) =>
          let x := src s (pavIn' s i - pavNamed i)
          ({ tile := t, src := x.1, due := x.2, handle := dst, cap := hLines h * 64, ctr := k, banks := banks } : PavPiece)
        match pavFind s c q with
        | some i =>
          if i.part ≠ part ∨ i.dchk ≠ n.dchk ∨ i.begun ∨ i.pieces.any (fun x => x.tile == t) then f 0x0701
          else joinPiece s i (piece i)
        | none =>
          if (s.pav.insts.filter (fun i => i.part == part)).length ≥ 8 then f 0x0703
          else
            let v := if fdest then 0 else fld w 255 224
            let n' := { n with sizes := if n.op = 6 then (List.range (pavTotal n)).map (fun r => leNat (readSram s t (v + 4 * r) 4)) else [] }
            openColl s n (piece n') v

/-- A parity error in a source piece poisons the step (R279). -/
def pavParity (s : State) (t a : Nat) : State := parityPoison (evt (incSat s (pgPav + 0x88) 1) pgPav 4) t a

/-- A COLL instruction of one operation (R297); a descriptor that names another operation is left to it. -/
def collInstr (op : Nat) (i : Issue) (s : State) : Out :=
  issued s i 0xFF80FFFF0000001F (fun s =>
    let c := (getTile s i.tile).fg
    let d := descOf s i i.doff 32
    let o := fld (leNat d) 19 16
    let h := resolve c (fld i.w 47 40)
    if o ≠ op ∧ 1 ≤ o ∧ o ≤ 6 then s
    else if Nat.land (hMask h) (blockedBanks s i) ≠ 0 then callFault s i.tile 0x0201 0
    else
      match (if h = 0 then none else badByte s i.tile h 0 (hLines h * 64)) with
      | some a => pavParity s i.tile a
      | none =>
        dynamic s i.tile (fun s =>
          collIssue s i d false (fld i.w 39 32) (fld i.w 4 0) (hMask h)
            (fun s n => (if h = 0 then [] else readBuf s i.tile h 0 (min n (hLines h * 64)), 0))))

/-- ALLREDUCE (R266, R268). -/
def execAllreduce (i : Issue) (s : State) : Out := collInstr 1 i s
/-- REDUCE_SCATTER (R268). -/
def execReduceScatter (i : Issue) (s : State) : Out := collInstr 2 i s
/-- ALLGATHER (R266). -/
def execAllgather (i : Issue) (s : State) : Out := collInstr 3 i s
/-- BROADCAST (R266). -/
def execBroadcast (i : Issue) (s : State) : Out := collInstr 4 i s
/-- ALLTOALL (R266). -/
def execAlltoall (i : Issue) (s : State) : Out := collInstr 5 i s
/-- ALLTOALLV (R269). -/
def execAlltoallv (i : Issue) (s : State) : Out := collInstr 6 i s

/-- The pass of a fused instruction and then its instance, if the pass issues (R297). `feeds` says that its drained rows enter the
instance. -/
def fusedPass (i : Issue) (s : State) (ops : List Nat) (feeds : Bool) (open' : State → PassDesc → PassBufs → List Byte → State) :
    State :=
  let c := (getTile s i.tile).fg
  let d := parsePass (descOf s i i.doff 32)
  let cd := descOf s i (i.doff + 2) 32
  let b := passBufs c d
  if 9216 ≤ i.dline then callFault s i.tile 0x0206 0
  else if !ops.contains (fld (leNat cd) 19 16) then callFault s i.tile 0x0212 0
  else
    let s' := runPass s i d (if feeds then some (fld (leNat cd) 15 0, fld (leNat cd) 95 64) else none)
    if (getTile s' i.tile).passes.length ≤ (getTile s i.tile).passes.length then s'
    else dynamic s' i.tile (fun s => open' s d b cd)

/-- The bytes of the first `n` rows that a pass drains. -/
def drainedRows (s : State) (t : Nat) (d : PassDesc) (b : PassBufs) (sz n : Nat) : List Byte :=
  (List.range n).flatMap (fun r => readBuf s t b.drain ((d.drainRow + r) * hRow b.drain * 64) (4 * sz))

/-- MMRS (R297): runs a pass and feeds its drained rows into a reduce-scatter or all-reduce as they drain. -/
def execMmrs (i : Issue) (s : State) : Out :=
  issued s i 0xFF00000000000000 (fun s =>
    let x := getTile s i.tile
    fusedPass i s [1, 2] true (fun s d b cd =>
      let fd := fld (leNat cd) 255 224
      collIssue s i cd true (fld fd 7 0) (fld fd 12 8) (hMask b.drain) (fun _ n =>
        ([], min n (d.m * 4 * bedSize x.bedMode)))))

/-- MMAG (R297): runs a pass on the local shard and issues an all-gather of the shards; its destination handle and counter
stand in the slot, as a COLL's do (log entry 75). -/
def execMmag (i : Issue) (s : State) : Out :=
  issued s i 0xFF0000FF0000001F (fun s =>
    let x := getTile s i.tile
    fusedPass i s [3] false (fun s d b cd =>
      collIssue s i cd false (fld i.w 39 32) (fld i.w 4 0) (hMask b.feed) (fun s n =>
        ((readBuf s i.tile b.feed (d.feedRow * hRow b.feed * 64) (d.m * hRow b.feed * 64)).take n, 0))))

/-- The rows that a pass has drained enter the piece of its instance (R297); once its last result is written nothing more is
due. -/
def feedPiece (t : Nat) (s : State) (p : LivePass) : State :=
  match p.feeds with
  | none => s
  | some (c, q) =>
    match pavFind s c q with
    | none => s
    | some i =>
      match i.pieces.find? (fun x => x.tile == t && x.due != 0) with
      | none => s
      | some x =>
        let total := x.src.length + x.due
        let bs := (drainedRows s t p.desc p.bufs p.size (if passLands p s.clk.aclk then p.desc.m else p.done)).take total
        if bs.length ≤ x.src.length then s
        else pavGo s (feedVals i { i with pieces := i.pieces.map (fun y => if y = x then { x with src := bs, due := total - bs.length } else y) })

/-- The passes of a tile feed their instances. -/
def feedTick (s : State) (t : Nat) : State := (getTile s t).passes.foldl (feedPiece t) s

/-! ## Arrivals -/

/-- A control record or packet is dropped unmatched (R280). -/
def earlyDrop (s : State) : State := incSat s (pgPav + 0x84) 1

/-- A record of an instance not yet issued is held, or dropped where the early table is full (R267). -/
def holdEarly (s : State) (p : Pkt) : State :=
  if s.pav.past.contains (p.ccomm, p.cseq) then s
  else if s.pav.early.length ≥ 8192 then earlyDrop s
  else { s with pav := { s.pav with early := s.pav.early ++ [p] } }

/-- The oldest COLL packet of a kind is taken; one that names no valid communicator, or whose stamp is not the
communicator's, is dropped (R262), and one whose DOR bit differs from DET_MODE ends its instance on every member (R312). -/
def withColl (s : State) (kind : Nat) (f : State → Pkt → State) : Out :=
  match takeEjected s (fun p => p.proto == 3 && p.ckind == kind) with
  | none => .next s
  | some (p, s) =>
    let e := commEntry s p.ccomm
    .next (if !ceValid e ∨ p.stamp ≠ ceStamp e then earlyDrop s
      else
        match pavFind s p.ccomm p.cseq with
        | some i => if p.dor ≠ detMode s then pavAbort s i 0x070B else f s p
        | none => f s p)

/-- The packet's instance, or what happens with none in progress. -/
def withInst (s : State) (p : Pkt) (f : PavInst → State) (other : State) : State :=
  match pavFind s p.ccomm p.cseq with
  | some i => f i
  | none => other

/-- RESERVE (R273): a reduction point answers at once with GRANT or DENY. -/
def execReserve (s : State) : Out :=
  withColl s 1 (fun s p =>
    let bad := match pavFind s p.ccomm p.cseq with
      | some i => dchkBad i p
      | none => false
    let n := fld p.cbody 15 0
    let answer := fun (s : State) (k : Nat) => collCtl s p.stamp p.srcArb p.src k p.ccomm p.cseq 0 0 0 []
    if bad then withInst s p (fun i => pavAbort s i 0x0705) s
    else if s.pav.slots.any (fun x => x.comm == p.ccomm && x.seq == p.cseq) then answer s 2
    else if !bit (regN s (pgPav + 0x104)) 0 ∨ slotsHeld s + n > 2048 then answer (incSat s (pgPav + 0x68) 1) 3
    else answer { s with pav := { s.pav with slots := s.pav.slots ++ [⟨p.ccomm, p.cseq, n, p.ccrc, now s⟩] } } 2)

/-- GRANT (R273): the root decides for the tree once every row head has granted. -/
def execGrant (s : State) : Out :=
  withColl s 2 (fun s p => withInst s p (fun i =>
    if i.alg.isSome ∨ !i.reserves.any (fun a => a.dev == p.src) then s
    else
      let i := { i with reserves := i.reserves.filter (fun a => a.dev != p.src) }
      if i.reserves.isEmpty then rootDecide (pavSet s i) i 0 0 0 else pavSet s i) (earlyDrop s))

/-- DENY (R273): the root falls back to the endpoint algorithm. -/
def execDeny (s : State) : Out :=
  withColl s 3 (fun s p => withInst s p (fun i =>
    if i.alg.isSome ∨ !i.reserves.any (fun a => a.dev == p.src) then s else rootDeny s i) (earlyDrop s))

/-- DECIDE (R273, R274): one that names an endpoint algorithm releases the slots of an instance not issued here too. -/
def execDecide (s : State) : Out :=
  withColl s 4 (fun s p => withInst s p (fun i => onDecide s i p)
    (let s := if fld p.cbody 3 0 = 0 then s else freeSlots s p.ccomm p.cseq
     if s.pav.past.contains (p.ccomm, p.cseq) then collCtl s p.stamp p.srcArb p.src 5 p.ccomm p.cseq 0 p.cstep 0 [] else holdEarly s p))

/-- DEC_ACK (R274). -/
def execDecAck (s : State) : Out :=
  withColl s 5 (fun s p => withInst s p (fun i =>
    pavSet s { i with decides := i.decides.filter (fun a => a.dev != p.src) }) (earlyDrop s))

/-- READY (R267). -/
def execReady (s : State) : Out :=
  withColl s 6 (fun s p => withInst s p (fun i => onReady s i p) (holdEarly s p))

/-- COUNT (R269). -/
def execCount (s : State) : Out :=
  withColl s 7 (fun s p => withInst s p (fun i => onCount s i p) (holdEarly s p))

/-- The receipt that a chunk answers in a started track. -/
def isReceipt (x : PavIn) (k : PavTrack) (w : PavWait) : Bool :=
  k.started && ((k.steps.head?).map (fun st => st.no)) == some x.step && w.mv.arb == x.arb && w.mv.dev == x.dev
    && w.mv.chunk % 65536 == x.chunk && w.got.isNone

/-- The answer to a chunk: CHUNK_ACK (9) or CHUNK_NAK (10). -/
def answerChunk (s : State) (x : PavIn) (kind : Nat) : State :=
  collCtl s (ceStamp (commEntry s x.comm)) x.arb x.dev kind x.comm x.seq x.chunk x.step 0 []

/-- A completed chunk of an instance in progress (R264, R265, R272, R279). -/
def takeChunk (s : State) (i : PavInst) (x : PavIn) (parityBad : Bool) : State :=
  if i.acked.contains (x.arb, x.dev, x.step, x.chunk) then answerChunk s x 9
  else
    let bytes := (sortBy (fun (g : Nat × List Byte) => g.1) x.got).flatMap (fun g => g.2)
    match i.tracks.find? (fun k => k.waits.any (isReceipt x k)) with
    | none => earlyDrop s
    | some k =>
      match k.waits.find? (isReceipt x k) with
      | none => earlyDrop s
      | some w =>
        match (if crc32c bytes = x.crc then carrierElems x.cfmt (w.mv.hi - w.mv.lo) bytes else none) with
        | none => answerChunk (evt (incSat s (pgPav + 0x78) 1) pgPav 2) x 10
        | some vs =>
          let setTrack := fun (i : PavInst) (k' : PavTrack) => { i with tracks := i.tracks.map (fun t => if t = k then k' else t) }
          if parityBad ∧ k.tree ∧ !w.mv.place then
            let s := evt (incSat s (pgPav + 0x88) 1) pgPav 4
            let lost := k.waits.filter (fun w => w.got.isSome)
            let s := lost.foldl (fun s w => answerChunk s { x with arb := w.mv.arb, dev := w.mv.dev } 10) s
            let i := setTrack i { k with waits := k.waits.map (fun w => { w with got := none }) }
            let i := { i with acked := i.acked.filter (fun a => !lost.any (fun w => a == (w.mv.arb, w.mv.dev, x.step, x.chunk))) }
            answerChunk (pavSet s i) x 10
          else
            let i := setTrack i { k with waits := k.waits.map (fun v => if v = w then { v with got := some (i.verified, vs) } else v) }
            let answered := fun (p : Pkt) => p.ckind == 6 && p.dstArb == x.arb && p.dst == x.dev && p.cstep == x.step
              && fld p.cbody 15 0 ≤ x.chunk && x.chunk ≤ fld p.cbody 31 16
            let i := pavTouch s { i with
              verified := i.verified + 1, acked := i.acked ++ [(x.arb, x.dev, x.step, x.chunk)],
              asks := i.asks.filter (fun a => !answered a.1) }
            pavAdvance (answerChunk s x 9) i

/-- CHUNK (R262, R264): a chunk's packet is taken; with the last of its packets the chunk is checked, reduced or written,
and answered. `parityBad` says that the accumulator it meets fails its parity. -/
def execChunk (parityBad : Bool) (s : State) : Out :=
  withColl s 8 (fun s p =>
    let inst := pavFind s p.ccomm p.cseq
    if inst.isNone ∧ !s.pav.past.contains (p.ccomm, p.cseq) then earlyDrop s
    else
      let same := fun (x : PavIn) => x.arb == p.srcArb && x.dev == p.src && x.comm == p.ccomm && x.seq == p.cseq
        && x.step == p.cstep && x.chunk == p.cchunk
      let x := (s.pav.ins.find? same).getD
        ⟨p.srcArb, p.src, p.ccomm, p.cseq, p.cstep, p.cchunk, p.count, p.ccrc, p.ccfmt, [], now s⟩
      if x.got.any (fun g => g.1 == p.cpidx) then s
      else
        let x := { x with got := x.got ++ [(p.cpidx, p.body)] }
        let s := { s with pav := { s.pav with ins := s.pav.ins.filter (fun y => !same y) } }
        if x.got.length < x.count then { s with pav := { s.pav with ins := s.pav.ins ++ [x] } }
        else
          match inst with
          | some i => takeChunk s i x parityBad
          | none => answerChunk s x 9)

/-- The chunk that an answer names. -/
def answersOut (p : Pkt) (o : PavOut) : Bool :=
  o.step == p.cstep && o.chunk % 65536 == p.cchunk
    && (o.dests.any (fun d => d.1 == p.srcArb && d.2.1 == p.src) || o.done.contains (p.srcArb, p.src))

/-- CHUNK_ACK (R265): the sender releases the chunk for that receiver. -/
def execChunkAck (s : State) : Out :=
  withColl s 9 (fun s p => withInst s p (fun i =>
    let i := { i with
    outs := i.outs.map (fun o =>
      if answersOut p o then
        { o with
                 dests := o.dests.filter (fun d => !(d.1 == p.srcArb && d.2.1 == p.src)),
                 done := if o.done.contains (p.srcArb, p.src) then o.done else o.done ++ [(p.srcArb, p.src)] }
      else o) }
    pavAdvance s (pavTouch s i)) (earlyDrop s))

/-- A chunk is sent again to some of its receivers; after the third resend the instance is aborted (R265). -/
def resendChunk (s : State) (i : PavInst) (o : PavOut) (to' : List (Nat × Nat)) : State :=
  let tries := fun (d : Nat × Nat) => ((o.dests.find? (fun x => x.1 == d.1 && x.2.1 == d.2)).map (fun x => x.2.2)).getD 0
  if to'.any (fun d => decide (tries d ≥ 3)) then pavAbort s i 0x0704
  else
    let s := to'.foldl (fun s d => sendChunk (incSat s (pgPav + 0x74) 1) i o d.1 d.2) (soilSteps s)
    let rest := o.dests.filter (fun x => !to'.contains (x.1, x.2.1))
    let o' := { o with
      dests := rest ++ to'.map (fun d => (d.1, d.2, tries d + 1)), done := o.done.filter (fun d => !to'.contains d),
      sentAt := now s }
    pavSet s { i with outs := i.outs.map (fun x => if x = o then o' else x) }

/-- CHUNK_NAK (R265, R279): the chunk is sent again, from the source where it was released. -/
def execChunkNak (s : State) : Out :=
  withColl s 10 (fun s p => withInst s p (fun i =>
    match i.outs.find? (answersOut p) with
    | some o => resendChunk s i o [(p.srcArb, p.src)]
    | none => s) (earlyDrop s))

/-- ABORT (R278): the instance ends with the carried code, or the slots it holds here are freed. -/
def execAbort (s : State) : Out :=
  withColl s 11 (fun s p => withInst s p (fun i => pavEnd s i p.ccrc) (freeSlots s p.ccomm p.cseq))

/-! ## Timers -/

/-- The first instance and the first of its items that is due. -/
def firstDue {α : Type} (s : State) (items : PavInst → List α) (due : α → Bool) : Option (PavInst × α) :=
  s.pav.insts.findSome? (fun i => ((items i).find? due).map (fun x => (i, x)))

/-- CHUNK_TIMEOUT (R265): an unanswered chunk is sent again, or its instance aborted after the third resend. -/
def execChunkTimeout (s : State) : Out :=
  match firstDue s (fun i => i.outs) (fun o => o.sent && !o.dests.isEmpty && now s ≥ o.sentAt + chunkTimeout s) with
  | none => .next s
  | some (i, o) => .next (resendChunk s i o (o.dests.map (fun d => (d.1, d.2.1))))

/-- CHUNK_INCOMPLETE_TIMEOUT (R264): CHUNK_NAK for a chunk still incomplete after its first packet. -/
def execChunkIncompleteTimeout (s : State) : Out :=
  match s.pav.ins.find? (fun x => now s ≥ x.since + chunkTimeout s) with
  | none => .next s
  | some x => .next (answerChunk { s with pav := { s.pav with ins := s.pav.ins.erase x } } x 10)

/-- RESERVE_RESEND_TIMEOUT (R273): an unanswered RESERVE is sent again; after 3 resends it counts as a DENY. -/
def execReserveResendTimeout (s : State) : Out :=
  match firstDue s (fun i => i.reserves) (fun a => now s ≥ a.sentAt + chunkTimeout s) with
  | none => .next s
  | some (i, a) =>
    if a.tries ≥ 3 then .next (rootDeny s i)
    else
      let s := pavCtl s i (myArb s) a.dev 1 0 0 i.dchk (leBytes 4 (slotsNeed s))
      .next (pavSet s { i with reserves := i.reserves.map (fun x => if x = a then ⟨a.dev, now s, a.tries + 1⟩ else x) })

/-- DECIDE_RESEND_TIMEOUT (R274): DECIDE again, by unicast, at most 3 times. -/
def execDecideResendTimeout (s : State) : Out :=
  match firstDue s (fun i => i.decides) (fun a => a.tries < 3 && now s ≥ a.sentAt + chunkTimeout s) with
  | none => .next s
  | some (i, a) =>
    let s := pavCtl s i (myArb s) a.dev 4 0 i.decRound 0 (decideBody (i.alg.getD 0) i.fromChunk)
    .next (pavSet s { i with decides := i.decides.map (fun x => if x = a then ⟨a.dev, now s, a.tries + 1⟩ else x) })

/-- EARLY_RECORD_RESEND (R267): a READY or COUNT that is not answered is sent again every PAV_CHUNK_TIMEOUT. -/
def execEarlyRecordResend (s : State) : Out :=
  match firstDue s (fun i => i.asks) (fun a => now s ≥ a.2 + chunkTimeout s) with
  | none => .next s
  | some (i, a) =>
    .next (pavSet (send s a.1) { i with asks := i.asks.map (fun x => if x = a then (a.1, now s) else x) })

/-- COLL_TIMEOUT (R277, R278, R110, R208): an instance with no progress ends with its timeout error and is aborted; slots held
for an instance not issued here are freed. -/
def execCollTimeout (s : State) : Out :=
  match s.pav.insts.find? (fun i => now s ≥ i.prog + collTimeout s) with
  | some i => .next (pavAbort (evt (incSat s (pgPav + 0x7C) 1) pgPav 3) i 0x0706)
  | none =>
    match s.sheaf.insts.find? (fun i => now s ≥ i.prog + collTimeout s) with
    | some i => .next (shFault s i 0x0606)
    | none =>
      .next { s with
      pav := { s.pav with
        slots := s.pav.slots.filter (fun x => (pavFind s x.comm x.seq).isSome || now s < x.since + collTimeout s) } }

/-! ## Completion -/

/-- A unit of an instance's result has not yet landed. -/
def pavUnits (s : State) (i : PavInst) : Bool :=
  (inFlight s).any (fun u => u.part == i.part && i.pieces.any (fun p => p.tile == u.tile && p.ctr == u.ctr))

/-- Every result chunk is written and counted, and every chunk sent is acknowledged (R260). -/
def pavDone (s : State) (i : PavInst) : Bool :=
  i.begun && i.live && !i.maxRound && i.tracks.isEmpty && i.later.isEmpty && i.result.isEmpty
    && i.outs.all (fun o => o.dests.isEmpty) && !pavUnits s i

/-- INSTANCE_COMPLETE (R260, R201, R205): the oldest collective instance that is complete ends, with the counts of R280; with
none, an EMBAG or ROWUPD instance does. -/
def execInstanceComplete (s : State) : Out :=
  match s.pav.insts.find? (pavDone s) with
  | some i =>
    let s := inc64 s (pgPav + 0x40) 1
    let s := if i.usedEnd then inc64 s (pgPav + 0x50) 1 else if i.usedTree then inc64 s (pgPav + 0x48) 1 else s
    let s := pavDrop s i.comm i.seq
    .next { s with pav := { s.pav with past := ((i.comm, i.seq) :: s.pav.past).take 4096 } }
  | none =>
    match s.sheaf.insts.find? (fun i => poolDone i) with
    | some i => .next (shDrop s i.comm i.seq)
    | none => .next s

/-! ## Link-state notices -/

/-- The pairs that an X-first route uses. -/
def routePairs (a b : Nat) : List (Nat × Nat) :=
  (xFirst a b).foldl (fun (r : List (Nat × Nat) × Nat) d => (r.1 ++ [(r.2, d)], d)) (([] : List (Nat × Nat)), a) |>.1

/-- The routes of a tree: members to row heads, row heads to the root (R276). -/
def treePairs (i : PavInst) : List (Nat × Nat) :=
  let root := pavRoot i
  let heads := root :: otherHeads i
  (ceDevs i.entry).flatMap (fun d =>
    if heads.contains d then routePairs d root
    else routePairs d ((rowHead i (d / 8)).getD root))

/-- The first chunk not yet verified at the root (R274, R276). -/
def firstUnverified (i : PavInst) : Nat :=
  let open' := (i.tracks ++ i.later).filter (fun k => k.tree && (k.steps.any (fun st => !st.mcast)))
  (open'.map (fun k => k.chunk)).foldl min (treeChunks i)

/-- Trees rooted here that use a pair with no link UP fall back (R276). -/
def linkFallback (s : State) (a b : Nat) : State :=
  if !peers a b ∨ linkUp s a b 0 ∨ linkUp s a b 1 then s
  else
    let hit := fun (i : PavInst) => i.eligible && i.alg == some 0 && pavRoot i == myDev s
      && (treePairs i).any (fun p => p == (a, b) || p == (b, a))
    (s.pav.insts.filter hit).foldl (fun s i =>
      let c := firstUnverified i
      if c ≥ treeChunks i ∧ !i.maxRound then s
      else
        rootDecide (evt (incSat s (pgPav + 0x70) 1) pgPav 1) i 1 c (b2n (pavExact i && !i.maxRound))) s

/-! ## The time base's parent (R365) -/

/-- The device that is time root, if it is known: a device heard at depth 0. -/
def timeRoot (s : State) : Option Nat := (s.tb.heard.find? (fun e => e.2 == 0)).map (fun e => e.1)

/-- A device may be a parent (a device not yet heard may: log entry 97): a hop away over a usable link, and not known to be unlocked. -/
def parentOk (s : State) (d : Nat) : Bool := hopUsable s (myDev s) d && NMap.get (fun _ => 0) s.tb.heard d != 0xFF

/-- The parent of this device and its depth (R365). -/
def chooseParent (s : State) : Option (Nat × Nat) :=
  let me := myDev s
  let heard := fun (d : Nat) => NMap.find s.tb.heard d
  let first := fun (f : Nat → Bool) => (members s).find? (fun d => d != me && hopUsable s me d && f d)
  let std : Option (Nat × Nat) := (timeRoot s).bind (fun r =>
    if peers me r then (if parentOk s r then some (r, 1) else none)
    else
      let p := 8 * (me / 8) + r % 8
      if parentOk s p then some (p, 2) else none)
  match std with
  | some x => some x
  | none =>
    match first (fun d => heard d == some 0 || heard d == some 1) with
    | some d => some (d, (heard d).getD 0 + 1)
    | none =>
      match first (fun d => (heard d).isNone) with
      | some d => some (d, 1)
      | none => (first (fun d => heard d == some 2)).map (fun d => (d, 3))

/-- The parent has changed: counted, with its event. -/
def parentChange (s : State) (p : Option Nat) : State :=
  if p = s.tb.parent then s else evt (incSat s (pgTb + 0x4C) 1) pgTb 2

/-- The device aligns to its parent of the moment (R365). -/
def setParent (s : State) : State :=
  let c := regN s (pgTb + 0x104)
  if bit c 0 ∨ !bit c 1 then s
  else
    match chooseParent s with
    | some (d, k) =>
      let q := pairPort (myDev s) d
      let s := parentChange s (some d)
      { s with tb := { s.tb with parent := some d, depth := k, deep := k == 3, port := if linkUp s (myDev s) d 0 then q else q + 1 } }
    | none => { parentChange s none with tb := { s.tb with parent := none, depth := 7, deep := false } }

/-- LINKSTATE (R233, R236): with NOTICE_EN set, a notice later than the last one applied for its port is applied; trees that lose a pair fall back
(R276), and the time parent may change (R365). -/
def execLinkstate (s : State) : Out :=
  match takeEjected s (fun p => p.proto == 9) with
  | none => .next s
  | some (p, s) =>
    let t := leNat (p.body.take 8)
    let dev := byteFld p.body 8 8
    let port := byteFld p.body 9 9
    let code := byteFld p.body 10 10
    let k := dev * 32 + port
    -- a notice with a reserved field set, or of another form, is malformed and discarded (R5; log entry 112)
    if dev ≥ 64 ∨ port ≥ 32 ∨ code ≥ 8 ∨ byteFld p.body 11 15 ≠ 0 ∨ p.len ≠ 16 ∨ p.count ≠ 1 ∨ !p.last ∨ p.msgId ≠ 0 then .next s
    else if !bit (regN s (pgFab + 0x104)) 2 then .next s
    else match NMap.find s.fab.links k with
    | some (t0, _) => if t ≤ t0 then .next s else .next (apply s k t code dev port)
    | none => .next (apply s k t code dev port)
where
  apply (s : State) (k t code dev port : Nat) : State :=
    let before := pairsDown s
    let s := { s with fab := { s.fab with links := NMap.put s.fab.links k (t, code) } }
    let s := if pairsDown s > before then evt s pgFab 3 else s
    let s := match portPeer dev port with
      | some q => linkFallback s dev q
      | none => s
    setParent s

end Sys2Proof.Machine
end

