-- ==== Sys2Proof/Machine/Crypto.lean ====
section
/-!
DEFINITION. The hash and the signature that the boot ROM uses: SHA-512 and Ed25519 of RFC 8032, pure (R375, R384, R385).
-/

namespace Sys2Proof.Machine

/-! ## SHA-512 -/

/-- The first 80 primes. -/
def primes80 : List Nat :=
  (List.range 410).filter (fun n => decide (2 ≤ n) && (List.range n).all (fun d => d < 2 || n % d != 0))

/-- The largest number of at most `b` bits whose `k`-th power is at most `n`. -/
def rootOf (k n b : Nat) : Nat :=
  (List.range b).foldl (fun r i => let c := r + 2 ^ (b - 1 - i); if c ^ k ≤ n then c else r) 0

/-- The round constants of SHA-512: the first 64 fractional bits of the cube roots of the first 80 primes. -/
def shaK : List Nat := primes80.map (fun p => rootOf 3 (p * 2 ^ 192) 68 % 2 ^ 64)

/-- The initial hash value of SHA-512: the first 64 fractional bits of the square roots of the first 8 primes. -/
def shaH0 : List Nat := (primes80.take 8).map (fun p => rootOf 2 (p * 2 ^ 128) 70 % 2 ^ 64)

/-- A 64-bit word rotated right. -/
def rotr64 (x n : Nat) : Nat := x / 2 ^ n + x % 2 ^ n * 2 ^ (64 - n)

/-- Three words combined by exclusive or. -/
def xor3 (a b c : Nat) : Nat := Nat.xor a (Nat.xor b c)

/-- The message schedule of SHA-512, newest word first. -/
def shaSchedule (blk : List Nat) : List Nat :=
  (List.range 64).foldl (fun (w : List Nat) _ =>
    let x2 := w.getD 1 0
    let x7 := w.getD 6 0
    let x15 := w.getD 14 0
    let x16 := w.getD 15 0
    let s0 := xor3 (rotr64 x15 1) (rotr64 x15 8) (x15 / 2 ^ 7)
    let s1 := xor3 (rotr64 x2 19) (rotr64 x2 61) (x2 / 2 ^ 6)
    (x16 + s0 + x7 + s1) % 2 ^ 64 :: w) blk.reverse

/-- One round of SHA-512 on the eight working words. -/
def shaRound (v : List Nat) (kw : Nat × Nat) : List Nat :=
  match v with
  | [a, b, c, d, e, f, g, h] =>
    let s1 := xor3 (rotr64 e 14) (rotr64 e 18) (rotr64 e 41)
    let ch := Nat.xor (Nat.land e f) (Nat.land (2 ^ 64 - 1 - e) g)
    let t1 := h + s1 + ch + kw.1 + kw.2
    let s0 := xor3 (rotr64 a 28) (rotr64 a 34) (rotr64 a 39)
    let maj := xor3 (Nat.land a b) (Nat.land a c) (Nat.land b c)
    [(t1 + s0 + maj) % 2 ^ 64, a, b, c, (d + t1) % 2 ^ 64, e, f, g]
  | _ => v

/-- One 128-byte block of SHA-512. -/
def shaBlock (h : List Nat) (blk : List Byte) : List Nat :=
  let w := (shaSchedule ((chunks 8 blk).map beNat)).reverse
  let v := (shaK.zip w).foldl shaRound h
  (h.zip v).map (fun x => (x.1 + x.2) % 2 ^ 64)

/-- The big-endian bytes of a number. -/
def beBytes (n x : Nat) : List Byte := (leBytes n x).reverse

/-- SHA-512 of a byte string. -/
def sha512 (m : List Byte) : List Byte :=
  let n := m.length
  let pad := m ++ [0x80] ++ List.replicate ((239 - n % 128) % 128) 0 ++ beBytes 16 (8 * n)
  ((chunks 128 pad).foldl shaBlock shaH0).flatMap (beBytes 8)

/-! ## Ed25519 -/

/-- The prime 2^255 − 19. -/
def edP : Nat := 2 ^ 255 - 19

/-- The order of the base point. -/
def edL : Nat := 2 ^ 252 + 27742317777372353535851937790883648493

/-- `b ^ e` modulo the prime, for an exponent of at most `n` bits. -/
def edPow : Nat → Nat → Nat → Nat
  | 0, _, _ => 1
  | n + 1, b, e => let h := edPow n (b * b % edP) (e / 2); if e % 2 = 1 then b * h % edP else h

/-- The inverse modulo the prime. -/
def edInv (x : Nat) : Nat := edPow 256 (x % edP) (edP - 2)

/-- The curve constant −121665/121666. -/
def edD : Nat := (edP - 121665) * edInv 121666 % edP

/-- A point in extended coordinates. -/
structure EdPt where
  x : Nat
  y : Nat
  z : Nat
  t : Nat
  deriving DecidableEq, Repr

/-- The neutral element. -/
def edZero : EdPt := ⟨0, 1, 1, 0⟩

/-- The sum of two points. -/
def edAdd (p q : EdPt) : EdPt :=
  let a := (p.y + edP - p.x) * (q.y + edP - q.x) % edP
  let b := (p.y + p.x) * (q.y + q.x) % edP
  let c := p.t * 2 * edD % edP * q.t % edP
  let d := p.z * 2 * q.z % edP
  let e := b + edP - a
  let f := d + edP - c
  let g := d + c
  let h := b + a
  ⟨e * f % edP, g * h % edP, f * g % edP, e * h % edP⟩

/-- A multiple of a point, for a scalar of at most `n` bits. -/
def edMul : Nat → Nat → EdPt → EdPt
  | 0, _, _ => edZero
  | n + 1, k, p => let r := edMul n (k / 2) (edAdd p p); if k % 2 = 1 then edAdd r p else r

/-- Two points are equal. -/
def edEq (p q : EdPt) : Bool := p.x * q.z % edP == q.x * p.z % edP && p.y * q.z % edP == q.y * p.z % edP

/-- The x coordinate with a given low bit of a point with coordinate y, if there is one (RFC 8032, 5.1.3). -/
def edRecover (y sign : Nat) : Option Nat :=
  let u := (y * y + edP - 1) % edP
  let v := (edD * (y * y % edP) + 1) % edP
  let x := u * edInv v % edP
  let r := edPow 256 x ((edP + 3) / 8)
  let r := if r * r % edP = x then r else r * edPow 256 2 ((edP - 1) / 4) % edP
  if r * r % edP ≠ x ∨ (r = 0 ∧ sign = 1) then none
  else some (if r % 2 = sign then r else edP - r)

/-- A point from its 32 bytes (RFC 8032, 5.1.3). -/
def edDecode (bs : List Byte) : Option EdPt :=
  let n := leNat (bs.take 32)
  let y := n % 2 ^ 255
  if y ≥ edP then none
  else (edRecover y (n / 2 ^ 255)).map (fun x => ⟨x, y, 1, x * y % edP⟩)

/-- A point's 32 bytes. -/
def edEncode (p : EdPt) : List Byte :=
  let zi := edInv p.z
  leBytes 32 (p.y * zi % edP + (p.x * zi % edP) % 2 * 2 ^ 255)

/-- The base point: y = 4/5 with an even x. -/
def edBase : EdPt :=
  let y := 4 * edInv 5 % edP
  let x := (edRecover y 0).getD 0
  ⟨x, y, 1, x * y % edP⟩

/-- Verification of a signature, with the cofactor as RFC 8032 writes the equation (5.1.7). -/
def edVerify (pub msg sig : List Byte) : Bool :=
  let s := leNat ((sig.drop 32).take 32)
  match edDecode pub, edDecode (sig.take 32) with
  | some a, some r =>
    let k := leNat (sha512 (sig.take 32 ++ pub.take 32 ++ msg)) % edL
    decide (s < edL) && edEq (edMul 256 (8 * s) edBase) (edMul 256 8 (edAdd r (edMul 256 k a)))
  | _, _ => false

/-- The secret scalar of a seed (RFC 8032, 5.1.5). -/
def edScalar (seed : List Byte) : Nat :=
  let h := leNat ((sha512 seed).take 32)
  2 ^ 254 + h % 2 ^ 254 / 8 * 8

/-- The public key of a seed. -/
def edPublic (seed : List Byte) : List Byte := edEncode (edMul 256 (edScalar seed) edBase)

/-- The signature of a message by a seed (RFC 8032, 5.1.6). -/
def edSign (seed msg : List Byte) : List Byte :=
  let r := leNat (sha512 ((sha512 seed).drop 32 ++ msg)) % edL
  let rb := edEncode (edMul 256 r edBase)
  let k := leNat (sha512 (rb ++ edPublic seed ++ msg)) % edL
  rb ++ leBytes 32 ((r + k * edScalar seed) % edL)

end Sys2Proof.Machine
end

