-- ==== Sys2Proof/Machine/Power.lean ====
section
/-!
DEFINITION. Power and energy: the Belvedere units' samples, the Gatehouse's evaluations, windows, energy admission,
stretch, holds and protection (R341 to R360). The command of a sample or an evaluation says that its time has come
(log entry 78).
-/

namespace Sys2Proof.Machine

open Sys2Proof Sys2Proof.Config

/-! ## Power off (R357, R459, R466) -/

/-- The regulators are off and nothing keeps state but the fuses; the supervisor's VIN, latch and straps, the PERST# pin
and host memory lie outside the reset (R357, R368, R371). -/
def powerOff (s : State) (latch : Bool) : State :=
  { ({} : State) with
    pending := s.pending, fuse := s.fuse, freeIdx := s.freeIdx,
    mod := { ({} : Module) with vin := s.mod.vin, pos := s.mod.pos, latch := latch || s.mod.latch },
    mem := { ({} : Mem) with host := s.mem.host },
    host := { ({} : HostIf) with perst := s.host.perst } }

/-! ## Samples (R341, R357, R360) -/

/-- The setpoint in force of a rail, in mV; 0 for VIN and for rails that a unit lacks. -/
def setpointOf (s : State) (u r : Nat) : Nat :=
  if u = 3 ∧ r = 0 then 0
  else
    match NMap.find s.fuse.set (u * 4 + r) with
    | some p => if s.belv.heavy then p.2 else p.1
    | none => 0

/-- A rail's voltage lies outside its window: ±5% of its setpoint (R357), and 46.0 V to 56.0 V for VIN (R460). -/
def railOut (s : State) (u r mv : Nat) : Bool :=
  if u = 3 ∧ r = 0 then mv < 46000 || 56000 < mv
  else
    let p := setpointOf s u r
    p != 0 && (mv * 20 < p * 19 || p * 21 < mv * 20)

/-- One rail's sample: voltage in mV, current in mA and power in mW, and the count of samples outside the window. -/
def sampleRail (s : State) (u r : Nat) (v : Nat × Nat) : State :=
  let b := pgBelv u + 0x200 + 16 * r
  let s := setRegN (setRegN (setRegN s b v.1) (b + 4) v.2) (b + 8) (v.1 * v.2 / 1000)
  let k := u * 4 + r
  let n := if railOut s u r v.1 then NMap.get (fun _ => 0) s.belv.out k + 1 else 0
  { s with belv := { s.belv with out := NMap.set (fun _ => 0) s.belv.out k n } }

/-- Energy of a sample, in pJ, added to a unit's counter (R341, R360). -/
def addEnergy (s : State) (u pj : Nat) : State :=
  let e := NMap.get (fun _ => 0) s.belv.rest u + pj
  let s := { s with belv := { s.belv with rest := NMap.set (fun _ => 0) s.belv.rest u (e % 1000000) } }
  let s := inc64 s (pgBelv u + 0x40) (e / 1000000)
  if u = 3 then inc64 s (pgGate + 0x48) (e / 1000000) else s

/-- A unit's rails by index: the rails that it has (R341). -/
def railsOf : Nat → Nat
  | 0 => 3 | 1 => 3 | 2 => 2 | _ => 4

/-- One Belvedere's sample of its rails. -/
def sampleUnit (s : State) (u : Nat) (rails : List (Nat × Nat)) : State :=
  let vs := (List.range (railsOf u)).zip rails
  let s := vs.foldl (fun s v => sampleRail s u v.1 v.2) s
  let pw := (vs.filter (fun v => u != 3 || v.1 == 0)).map (fun v => v.2.1 * v.2.2)
  let s := addEnergy s u pw.sum
  match u, rails with
  | 3, v :: _ =>
    { s with gate := { s.gate with eUsed := s.gate.eUsed + v.1 * v.2, lastP := v.1 * v.2, lastI := v.2, lastV := v.1 } }
  | _, _ => s

/-- RAIL_SAMPLE (R341, R357): the four units' rails as (mV, mA). A rail outside its window in ten samples in a row is a rail
fault, which sets the fault latch and switches off every regulator. -/
def execRailSample (rails : List (List (Nat × Nat))) (s : State) : Out :=
  let s := ((List.range 4).zip rails).foldl (fun s u => sampleUnit s u.1 u.2) s
  .next (if s.belv.out.any (fun e => e.2 ≥ 10) then powerOff s true else s)

/-- Sensors that a unit has (R341). -/
def sensorsOf : Nat → Nat
  | 0 => 16 | 1 => 16 | 2 => 8 | _ => 4

/-- A 16-bit code as a signed number of 1/8 °C. -/
def tempOf (c : Nat) : Int := if c % 65536 < 32768 then (c % 65536 : Int) else (c % 65536 : Int) - 65536

/-- The latest reading of a sensor where it was valid. -/
def sensorT (s : State) (u i : Nat) : Option Int :=
  let w := regN s (pgBelv u + 0x300 + 4 * i)
  if bit w 31 then some (tempOf (w % 65536)) else none

/-- The valid readings of a unit's sensors, by index. -/
def validT (s : State) (u : Nat) : List (Nat × Int) :=
  (List.range (sensorsOf u)).filterMap (fun i => (sensorT s u i).map (fun t => (i, t)))

/-- The valid readings of the three dies. -/
def dieT (s : State) : List Int := [0, 1, 2].flatMap (fun u => (validT s u).map (fun e => e.2))

/-- The hottest of a unit's readings, the lowest index first. -/
def hottest (l : List (Nat × Int)) : Option (Nat × Int) :=
  l.foldl (fun (m : Option (Nat × Int)) e =>
    match m with
    | some x => if x.2 < e.2 then some e else m
    | none => some e) none

/-- GATE_TEMP_SOFT in 1/8 °C. -/
def softT (s : State) : Int := (8 * (regN s (pgGate + 0x130) % 128) : Nat)

/-- One sensor's reading. An invalid one is excluded, counted and recorded (R358). -/
def sampleSensor (s : State) (u i : Nat) (v : Bool × Nat) : State :=
  let s := setRegN s (pgBelv u + 0x300 + 4 * i) (b2n v.1 * 2 ^ 31 + v.2 % 65536)
  let k := u * 16 + i
  let n := if v.1 && u != 3 && decide (880 ≤ tempOf v.2) then NMap.get (fun _ => 0) s.belv.hot k + 1 else 0
  let s := { s with belv := { s.belv with hot := NMap.set (fun _ => 0) s.belv.hot k n } }
  if v.1 then s
  else err (evt (incSat s (pgBelv u + 0x50) 1) (pgBelv u) 2) (pgBelv u) 0x0C01

/-- One Belvedere's temperature sample: BELV_TMAX, BELV_TPEAK, BELV_SOFT_TEMP and the events (R358, R360). -/
def sampleTemps (s : State) (u : Nat) (vs : List (Bool × Nat)) : State :=
  let s := ((List.range (sensorsOf u)).zip vs).foldl (fun s v => sampleSensor s u v.1 v.2) s
  let ts := validT s u
  let s := match hottest ts with
    | none => s
    | some e =>
      let w := e.1 * 65536 + (e.2 % 65536).toNat
      let s := setRegN s (pgBelv u + 0x104) w
      let pk := regN s (pgBelv u + 0x108)
      if pk = 0 ∨ tempOf pk < e.2 then setRegN s (pgBelv u + 0x108) w else s
  let s := if ts.any (fun e => decide (softT s ≤ e.2)) then evt (incSat s (pgBelv u + 0x4C) 1) (pgBelv u) 0 else s
  let s := if u = 3 ∧ ts.any (fun e => e.1 == 0 && decide (320 < e.2)) then evt s (pgBelv 3) 3 else s
  if ts.isEmpty ∧ (NMap.find s.belv.validAt u).isSome then s
  else { s with belv := { s.belv with validAt := NMap.put s.belv.validAt u (now s) } }

/-- The thermal controller acts once per temperature sample (R352). -/
def thermalStep (s : State) : State :=
  let k := s.gate.kT
  if (dieT s).any (fun t => decide (softT s ≤ t)) then
    let s := if k < 56 then evt (incSat s (pgGate + 0x6C) 1) pgGate 2 else s
    { s with gate := { s.gate with kT := min 56 (k + 2) } }
  else if (dieT s).all (fun t => decide (t < softT s - 16)) then { s with gate := { s.gate with kT := k - 1 } }
  else s

/-- TEMP_SAMPLE (R341, R352, R357): the four units' sensors as (valid, code in 1/8 °C). A die sensor at 110 °C or more in two
samples in a row trips the module. -/
def execTempSample (temps : List (List (Bool × Nat))) (s : State) : Out :=
  let s := ((List.range 4).zip temps).foldl (fun s u => sampleTemps s u.1 u.2) s
  .next (if s.belv.hot.any (fun e => e.2 ≥ 2) then powerOff s true else thermalStep s)

/-! ## The Gatehouse -/

/-- The stretch that the Gatehouse asks for (R352, R356). -/
def gateK (s : State) : Nat := if s.gate.hold then 56 else max s.gate.kE (max s.gate.kI s.gate.kT)

/-- TCLK left in the running window (R352). At a window's end the evaluation still sees that window, with none left. -/
def tRem (s : State) : Nat :=
  if s.gate.winAt = some (now s) then 100000 else (100000 - now s % 100000) % 100000

/-- The projection J, in fJ (R352). -/
def projJ (s : State) : Int := (s.gate.eUsed * 1000 + s.gate.lastP * tRem s : Nat)

/-- A − D, in µJ. -/
def budget (s : State) : Int := (regN s (pgGate + 0x108) : Int) - s.gate.debt

/-- The floor (R353): idle energy, and the eighth of the admitted steps' energy that is left at k = 56 (log entry 81). -/
def floorE (s : State) : Nat := eIdle s + ratesOf s (energySteps s) / 8

/-- The current limit in mA. -/
def limitMa (s : State) : Nat := 100 * (regN s (pgGate + 0x10C) % 65536)

/-- GATE_HYST. -/
def hyst (s : State) : Nat := regN s (pgGate + 0x12C) % 128

/-- J is beyond A − D. -/
def overEnergy (s : State) : Bool := decide (budget s * 1000000000 < projJ s)

/-- The energy controller (R352). -/
def nextKE (s : State) : Nat :=
  if overEnergy s then min 56 (s.gate.kE + 4)
  else if projJ s * 1000 < budget s * 1000000000 * (1000 - hyst s : Int) then s.gate.kE - 1
  else s.gate.kE

/-- The current controller (R352). -/
def nextKI (s : State) : Nat :=
  if limitMa s < s.gate.lastI then min 56 (s.gate.kI + 8)
  else if (s.gate.lastI * 1000 : Int) < (limitMa s : Int) * (1000 - hyst s) then s.gate.kI - 1
  else s.gate.kI

/-- A hold is entered: recorded, and every partition with an admitted step stops (R356). -/
def enterHold (s : State) : State :=
  if s.gate.hold then s
  else
    let s := { s with gate := { s.gate with hold := true } }
    let s := err (evt (incSat s (pgGate + 0x60) 1) pgGate 1) pgGate 0x0B02
    (List.range 4).foldl (fun s n =>
      if (getPart s n).steps.any (fun st => st.energyOk) then
        requestStop (setPart s n { getPart s n with stopHold := true }) n
      else s) s

/-- Every sensor of one die has been invalid for 10 ms (R356). -/
def dieBlind (s : State) : Bool :=
  [0, 1, 2].any (fun u => (validT s u).isEmpty && (match NMap.find s.belv.validAt u with
    | some a => decide (a + 10000000 ≤ now s)
    | none => false))

/-- The conditions under which a hold ends (R356). -/
def holdOver (s : State) : Bool :=
  decide ((floorE s : Int) ≤ budget s) && decide (s.gate.lastI < limitMa s) && (dieT s).all (fun t => decide (t < 800))
    && [0, 1, 2].all (fun u => !(validT s u).isEmpty)

/-- The hold ends and its partitions resume (R133, R356). -/
def leaveHold (s : State) : State :=
  let s := { s with gate := { s.gate with hold := false, overE := 0, overI := 0 } }
  (List.range 4).foldl (fun s n =>
    if (getPart s n).stopHold then maybeResume (setPart s n { getPart s n with stopHold := false }) n else s) s

/-- The head step of a partition, where it awaits admission. -/
def waitingHead (s : State) (n : Nat) : Option Step :=
  let p := getPart s n
  match p.steps.head? with
  | some st => if st.phase = .queued ∧ !st.energyOk ∧ p.state = .opened then some st else none
  | none => none

/-- Steps whose first three conditions have come to hold take their place in the order of R349; a stale ECT_VERSION is
counted then (R358). -/
def markConds (s : State) : State :=
  (List.range 4).foldl (fun s n =>
    match waitingHead s n with
    | none => s
    | some st =>
      if st.condAt.isSome ∨ !firstThree s n st then s
      else
        let stale := st.ectVersion != s.gate.version
        let s := if stale then evt (incSat s (pgGate + 0x64) 1) pgGate 4 else s
        mapHead s n (fun x => { x with condAt := some s.clk.aclk, staleEct := stale })) s

/-- The oldest step that waits for energy admission (R349): its partition and itself. -/
def oldestWaiting (s : State) : Option (Nat × Step) :=
  let l := (List.range 4).filterMap (fun n =>
    match waitingHead s n with
    | some st => if st.condAt.isSome then some (n, st) else none
    | none => none)
  (sortBy (fun x => x.2.condAt.getD 0) l).head?

/-- The pace entry of a program becomes the most recently used (R347). -/
def usePace (s : State) (prog : Nat) : State :=
  match s.gate.pace.find? (fun e => e.1 == prog) with
  | some e => { s with gate := { s.gate with pace := e :: s.gate.pace.filter (fun x => x.1 != prog) } }
  | none => s

/-- A step passes energy admission (R348, R349). -/
def passEnergy (s : State) (n : Nat) (st : Step) (sole : Bool) : State :=
  let r := stepRate s st
  let s := if st.staleEct then s else usePace s st.progId
  let s := inc64 s (pgGate + 0x50) 1
  let s := if sole then incSat s (pgGate + 0x58) 1 else s
  mapHead s n (fun x => { x with energyOk := true, soleAdmit := sole, rate := r })

/-- A load notice is due: the scaled PEAK exceeds 5.0 A (R355). -/
def noticeDue (s : State) (st : Step) : Bool :=
  bit (regN s (pgGate + 0x104)) 2 && decide (50 * vinNow s < 48000 * st.peak) && !st.noticeDone

/-- A load notice is sent to each Belvedere; the step passes 2 µs later (R355). -/
def sendNotice' (s : State) (n : Nat) (sole : Bool) : State :=
  let s := incSat { s with belv := { s.belv with heavy := true } } (pgGate + 0x70) 1
  mapHead s n (fun x => { x with notice := some (now s + 2000), soleAdmit := sole })

/-- One energy admission, if the oldest waiting step meets R348 or stands alone (R349). -/
def admitOne (s : State) : Option State :=
  match oldestWaiting s with
  | none => none
  | some (n, st) =>
    let adm := energySteps s
    let ok := fits s adm (stepRate s st) st.peak
    if st.notice.isSome ∨ !tilesPowered s st ∨ (!ok && !adm.isEmpty) then none
    else some (if noticeDue s st then sendNotice' s n (!ok) else passEnergy s n st (!ok))

/-- Energy admissions one after another, oldest first (R349). -/
def admitLoop : Nat → State → State
  | 0, s => s
  | k + 1, s =>
    match admitOne s with
    | none => s
    | some t => admitLoop k t

/-- Energy admission at an evaluation or a commit (R348). -/
def admitEnergy (s : State) : State := if s.gate.hold then s else admitLoop 4 (markConds s)

/-- The energy and current controllers, and the counts toward a hold (R352, R356). -/
def controllers (s : State) : State :=
  let k := gateK s
  let kE := nextKE s
  let kI := nextKI s
  let oE := if k = 56 ∧ overEnergy s then s.gate.overE + 1 else 0
  let oI := if k = 56 ∧ limitMa s < s.gate.lastI then s.gate.overI + 1 else 0
  let s := if s.gate.kI < kI then evt (incSat s (pgGate + 0x68) 1) pgGate 3 else s
  { s with gate := { s.gate with kE := kE, kI := kI, overE := oE, overI := oI, evalAt := some (now s) } }

/-- A controller, a sensor or an unread die asks for a hold (R356). -/
def holdWanted (s : State) : Bool :=
  s.gate.overE ≥ 5 || s.gate.overI ≥ 5 || (dieT s).any (fun t => decide (840 ≤ t)) || dieBlind s

/-- A hold is left or entered (R356). -/
def holdMove (s : State) : State :=
  if s.gate.hold then (if holdOver s then leaveHold s else s) else if holdWanted s then enterHold s else s

/-- With no step that uses energy or waits, no heavy step is about. -/
def heavyEnd (s : State) : State :=
  if (energySteps s).isEmpty ∧ (oldestWaiting s).isNone then { s with belv := { s.belv with heavy := false } } else s

/-- GATE_EVALUATION (R348, R352, R356): the controllers set the stretch, a hold is entered or left, and waiting steps are
tested for energy admission. -/
def execGateEvaluation (s : State) : Out :=
  .next (heavyEnd (admitEnergy (holdMove (controllers s))))

/-- The true-up factor in 1/256 before its bounds (R350): the rounding to 1/256 is left open, so an inexact quotient takes a
free choice between its two neighbours; with no forecast above idle the manual gives no value. -/
def trueup (s : State) (sumRf : Nat) : Int × State :=
  let num : Int := (7 * s.gate.u * sumRf * 1000000 : Nat) + 256 * ((s.gate.eUsed : Int) - eIdle s * 1000000) * 100000
  let den : Int := (8 * sumRf * 1000000 : Nat)
  let f := freshFree s
  if sumRf = 0 then ((f.1.toNat % 897 + 128 : Nat), f.2)
  else if num % den = 0 then (num / den, s)
  else (num / den + b2n (f.1.getLsbD 0), f.2)

/-- A step of the partition has its window's energy attributed (R351). -/
def chargePart (s : State) (n : Nat) : State :=
  let p := getPart s n
  setPart s n { p with steps := p.steps.map (charged s) }

/-- The true-up at the end of a window (R350): the parts are charged, running steps have the window's energy attributed
(R351), and the factor follows where some step had a share. -/
def windowCharged (s : State) : State :=
  let shares := (energySteps s).map (fun x => (x.2.rate, windowShare s x.2)) ++ s.gate.ended
  let v := (List.range 4).foldl chargePart s
  let r := trueup v ((shares.map (fun x => x.1 * x.2)).sum)
  if shares.any (fun x => x.2 != 0) then { r.2 with gate := { r.2.gate with u := (max 128 (min 1024 r.1)).toNat } } else v

/-- WINDOW_END (R350): the debt, the true-up factor and the events. -/
def execWindowEnd (s : State) : Out :=
  let m := s.gate.eUsed / 1000000
  let d := m - regN s (pgGate + 0x108)
  let s := windowCharged s
  let s := if 0 < d then evt (incSat s (pgGate + 0x5C) 1) pgGate 0 else s
  let s := if 320 < s.gate.u then evt s pgGate 5 else s
  .next (setRegN { s with gate := { s.gate with debt := d, eUsed := 0, ended := [], winAt := some (now s) } } (pgGate + 0x124) m)

/-- A limit written: clamped to its range, with error 0x0B01 when it lay outside (R343). -/
def writeLimit (s : State) (a lo hi v : Nat) : State :=
  let s := if v < lo ∨ hi < v then err s pgGate 0x0B01 else s
  setRegN s a (min hi (max lo v))

/-- ALLOT_WRITE (R343): a write of GATE_ALLOT. -/
def execAllotWrite (v : Nat) (s : State) : Out :=
  guardWrite s (pgGate) (.next (writeLimit s (pgGate + 0x108) 10000 s.fuse.grade.allotMax (v % 2 ^ 21)))

/-- ILIMIT_WRITE (R343): a write of GATE_ILIMIT. -/
def execIlimitWrite (v : Nat) (s : State) : Out :=
  guardWrite s (pgGate) (.next (writeLimit s (pgGate + 0x10C) 20 s.fuse.grade.ilimitMax (v % 65536)))

/-- PACE_CLEAR (R347): a write of GATE_PACE_CLEAR. -/
def execPaceClear (v : Nat) (s : State) : Out :=
  guardWrite s (pgGate) (.next (if bit v 0 then { s with gate := { s.gate with pace := [] } } else s))

/-- A register read answers with a value. -/
def regAnswer (s : State) (v : Nat) : State := { s with rdata := leBytes 4 v }

/-- ECT_DATA_READ (R345, R359): a read of GATE_ECT_DATA answers with the coefficient at the index and advances the index. -/
def execEctDataRead (s : State) : Out :=
  let i := regN s (pgGate + 0x13C) % 32
  .next (setRegN (regAnswer s (s.gate.ect.getD i 0)) (pgGate + 0x13C) ((i + 1) % 32))

/-- A tile is needed by a step that is admitted or whose first three conditions hold. -/
def tileWanted (s : State) (t : Nat) : Bool :=
  (List.range 4).any (fun n => (getPart s n).steps.any (fun st => (st.energyOk || st.condAt.isSome) && bit st.tiles t))

/-- IDLE_TILE_GATE (R354): the core of a tile that has been idle for GATE_IDLE_GATE µs is power-gated. -/
def execIdleTileGate (t : Nat) (s : State) : Out :=
  let x := getTile s t
  let due := x.idleSince + 1000 * (regN s (pgGate + 0x134) % 65536)
  whenOk (t < 120 && bit (regN s (pgGate + 0x104)) 1 && x.powered && !tileWanted s t && due ≤ now s) s
    (setTile s t { x with powered := false, gated := true })

/-- UNGATE_WAVE (R354): the next sixteen gated tiles of a partition's waiting step are powered, in logical order. -/
def execUngateWave (n : Nat) (s : State) : Out :=
  match waitingHead s n with
  | none => .next s
  | some st =>
    if !firstThree s n st then .next s
    else
      let ts := (tilesOf st.tiles).filter (fun t => !(getTile s t).powered)
      .next ((ts.take 16).foldl (fun s t =>
        setTile s t { getTile s t with powered := true, gated := false, idleSince := now s }) s)

/-- LOAD_NOTICE_END (R355): a step passes energy admission 2 µs after its load notice; a hold refuses it (R356). -/
def execLoadNoticeEnd (s : State) : Out :=
  match oldestWaiting s with
  | none => .next s
  | some (n, st) =>
    match st.notice with
    | none => .next s
    | some a =>
      if now s < a then .next s
      else if s.gate.hold then .next (mapHead s n (fun x => { x with notice := none }))
      else .next (mapHead (passEnergy s n st st.soleAdmit) n (fun x => { x with notice := none, noticeDone := true }))

/-! ## Step commit (R303, R347, R351) -/

/-- Every operation of a partition's step has completed on its tiles and every instance and STORE of it (R303). -/
def commitReady (s : State) (n : Nat) (st : Step) : Bool :=
  st.phase == .running
    && st.progs.all (fun q => let c := (getTile s q.tile).fg
        c.live && c.part == n && c.ended && c.committing.isNone && !opsLive s q.tile)
    && !s.sheaf.insts.any (fun i => i.part == n) && !s.pav.insts.any (fun i => i.part == n)
    && !s.thr.calls.any (fun c => c.part == n && callLive s c) && !s.thr.outs.any (fun c => c.part == n)
    && !s.grn.reqs.any (fun r => r.part == n && r.op == 3) && !s.grn.stores.any (fun r => r.part == n && r.resp.isNone)
    && !s.atom.groups.any (fun g => g.part == n) && !s.atom.fences.any (fun g => g.part == n)

/-- A commit without replay records the step's ACLK count (R347); a stale ECT_VERSION keeps it out (R358). -/
def notePace (s : State) (st : Step) : State :=
  if st.replays ≠ 0 ∨ st.ectVersion ≠ s.gate.version then s
  else
    { s with
      gate := { s.gate with
        pace := ((st.progId, s.clk.aclk - st.startAclk) :: s.gate.pace.filter (fun e => e.1 != st.progId)).take 64 } }

/-- The buffered page entries of a partition are written back at its commit (R164). -/
def writeBackPart (s : State) (n : Nat) : State :=
  s.grn.live.foldl (fun s e =>
    if NMap.get (fun _ => 4 * n) s.grn.assigned (e.1 / 0x200000) = 4 * n then writeBack s e.1 else s) s

/-- New context, quantum and rank values act at the step boundary, a new staging share at the first one with no dispatch
instance (R422). -/
def takeQuotas (s : State) (n : Nat) : State :=
  let p := getPart s n
  let free := !s.sheaf.insts.any (fun i => i.part == n && i.kind == 0)
  setPart s n { p with
    contexts := p.contextsNext.getD p.contexts, contextsNext := none,
    quantum := p.quantumNext.getD p.quantum, quantumNext := none,
    rank := p.rankNext.getD p.rank, rankNext := none,
    staging := if free then p.stagingNext.getD p.staging else p.staging,
    stagingNext := if free then none else p.stagingNext }

/-- The tiles of a committed step: their parts are published and they are idle from now on (R354). -/
def freeTiles (s : State) (n : Nat) (st : Step) : State :=
  st.progs.foldl (fun s q =>
    let x := getTile s q.tile
    setTile s q.tile { x with
      idleSince := now s, fg := { x.fg with parts := [], huskDone := [], restarts := [], matched := 0, syncMatched := 0 } }) s

/-- What a commit writes: digest and step records, the pace entry, the counters and the completion (R303, R319, R441). -/
def commitRecords (s : State) (n : Nat) (st : Step) : State :=
  let s := writeDigests s n st false
  let s := leaveWindow (writeStepRecord s n (charged s st) 0 false) st
  let s := inc64 (notePace s st) (pgDev + 0x40) 1
  completeEntry s st.qp st.ent 0 st.num (s.clk.aclk - st.startAclk)

/-- STEP_COMMIT (R303): the partition's step commits, and the step boundary follows: the EPT swap (R90), the new quotas
(R422), context switches (R305) and the energy admission that the released rate allows (R348). -/
def execStepCommit (n : Nat) (s : State) : Out :=
  match (getPart s n).steps with
  | [] => .next s
  | st :: r =>
    if !commitReady s n st then .next s
    else
      let s := freeTiles (commitRecords s n st) n st
      let p := getPart s n
      let s := setPart s n { p with
        steps := r, lastStep := some st.num, committed := p.committed + 1, decaySteps := p.decaySteps + 1,
        hsrCommits := p.hsrCommits + 1 }
      let s := { s with kept := s.kept.filter (fun u => u.part != n) }
      let s := takeQuotas (eptSwap (writeBackPart s n) n st.num) n
      let s := st.progs.foldl (fun s q => switchTile s q.tile n) s
      .next (admitEnergy s)

end Sys2Proof.Machine
end

