-- ==== Sys2Proof/Machine/Integrity.lean ====
section
/-!
DEFINITION. Refresh and patrol scrub (R187, R188, R329 to R331), determinism mode and digest rings (R310, R320, R453), the
die-to-die links and device faults (R324, R363, R454 to R456).
-/

namespace Sys2Proof.Machine

open Sys2Proof Sys2Proof.Config

/-! ## Memory channels -/

/-- PER_BANK_REFRESH (R188): a channel in service issues one per-bank refresh. -/
def execPerBankRefresh (c : Nat) (s : State) : Out :=
  whenOk (c < 128 && !(getMch s c).disabled) s (incSat s (pgMch c + 0x5C) 1)

/-- Blocks of a channel (R329). -/
def chanBlocks : Nat := 201326592

/-- The grain of a mapped page whose T1 frame holds an uncorrectable block (R331). -/
def ueGrain (s : State) (n f a : Nat) : State :=
  match NMap.find s.grn.ownerPage f with
  | none =>
    -- a frame that the Sheaf engine has taken for its spill region (R185)
    let b := (a - pairN s (pgShf + 0x158)) / 65536
    if s.sheaf.spills.any (fun g => g.blocks.contains b) then partFault (grnFault s (f % 2) n 0x0407) n 0x0407
    else t1WriteRaw s a (List.replicate 64 0)
  | some page =>
    match walk s (f % 2) n page with
    | .page ea w =>
      let g := a % 0x200000 / 65536
      match locate w (page + g * 65536) with
      | .inr _ => uncorrGrain s n ea g (page + a % 0x200000)
      -- a clean grain whose home is this frame is fetched again from its T2 copy
      | .inl (.remote _ _ _ _ _) =>
        if !peDirty w ∧ peHomeDev w = myDev s then startMigration s n (page + g * 65536) 1
        else t1WriteRaw s a (List.replicate 64 0)
      | .inl _ => t1WriteRaw s a (List.replicate 64 0)
    | _ => s

/-- An uncorrectable block handled by the owner of its frame (R331). A block of a lent frame is reported with the answer to
the borrower's next request for it (log entry 35). -/
def ueOwner (s : State) (a : Nat) : State :=
  let f := a / 0x200000
  if reservedFrame f then
    match NMap.find s.grn.assigned f with
    | none => s
    | some 1 => ((s.grn.leases.map (fun l => l.part)).eraseDups).foldl (fun s n =>
        partFault (grnFault s (f % 2) n 0x0407) n 0x0407) s
    | some 2 => s
    | some 3 => t1WriteRaw s a (List.replicate 64 0)
    | some k => partFault (grnFault s (f % 2) (k / 4) 0x0405) (k / 4) 0x0405
  else if (NMap.find s.grn.lent f).isSome then s
  else
    match NMap.find s.grn.owner f with
    | none => t1WriteRaw s a (List.replicate 64 0)
    | some k => if k % 4 = 3 then ueGrain s (k / 4) f a else s

/-- A scrub read of one block, rewritten where it was corrected (R330). A queued block's correction was counted at its demand
read. -/
def scrubBlock (s : State) (c b : Nat) (queued : Bool) : State :=
  let a := t1AddrOf c b
  let s := inc64 s (pgMch c + 0x40) 1
  let back := fun (s : State) (d : List Byte) => soilSteps (inc64 (t1WriteRaw s a d) (pgMch c + 0x48) 1)
  match t1Decode s a with
  | .ok => s
  | .corrected => back (if queued then s else noteCorrected s a false) (t1Raw s a 64)
  | .miscorrected =>
    let f := freshFree s
    back (if queued then f.2 else noteCorrected f.2 a false) (padTo 64 (leBytes 8 f.1.toNat))
  | .uncorrectable => ueOwner (noteUncorrectable s a 0x0504) a

/-- PATROL_SCRUB_SLOT (R329, R330): the slot serves the oldest queued correction, or the block at MCH_SCRUB_POS. -/
def execPatrolScrubSlot (c : Nat) (s : State) : Out :=
  let m := getMch s c
  if c ≥ 128 ∨ !m.scrubbing then .next s
  else
    match m.queue with
    | b :: q => .next (scrubBlock (setMch s c { m with queue := q }) c b true)
    | [] => .next (scrubBlock (setMch s c { m with scrubPos := (m.scrubPos + 1) % chanBlocks }) c m.scrubPos false)

/-! ## Determinism mode and digests -/

/-- A step of some partition is admitted or queued. -/
def anyStep (s : State) : Bool := (List.range 4).any (fun n => !(getPart s n).steps.isEmpty)

/-- DET_MODE_WRITE (R310, R453): a write of DEV_CTRL.DET_MODE; while work is live it is ignored with 0x0101. -/
def execDetModeWrite (v : Bool) (s : State) : Out :=
  guardWrite s (pgDev) (if anyStep s ∨ !s.sheaf.insts.isEmpty ∨ !s.pav.insts.isEmpty then .next (err s pgDev 0x0101)
  else
    let old := bit (regN s (pgDev + 0x100)) 0
    let s := setRegN s (pgDev + 0x100) (b2n v)
    if old = v then .next s
    else .next { s with det := { s.det with pending := if v = s.det.active then none else some (v, s.clk.root) } })

/-- DET_ACTIVE_CHANGE (R310, R453): every block has taken the new mode; the memory channels switch schedule. -/
def execDetActiveChange (s : State) : Out :=
  match s.det.pending with
  | none => .next s
  | some (v, _) =>
    let s := { s with det := { s.det with active := v, pending := none } }
    let s := (List.range 128).foldl (fun s c => setMch s c { getMch s c with detSched := v }) s
    .next (evt (incSat s (pgDev + 0x68) 1) pgDev 0)

/-- DIGEST_CFG_WRITE (R320): a write of DEV_DIGEST_CFGn; while the partition has a step it is ignored with 0x0102. -/
def execDigestCfgWrite (n v : Nat) (s : State) : Out :=
  guardWrite s (pgDev) (if n ≥ 4 then .next s
  else if !(getPart s n).steps.isEmpty then .next (err s pgDev 0x0102)
  else .next (setRegN s (pgDev + 0x120 + 0x20 * n + 0x14) (v % 2 ^ 17)))

/-! ## Die-to-die links and device faults -/

/-- A die-to-die link. -/
def getD2d (s : State) (k : Nat) : D2d := NMap.get (fun _ => {}) s.d2d k

/-- A die-to-die link replaced. -/
def setD2d (s : State) (k : Nat) (x : D2d) : State := { s with d2d := NMap.set (fun _ => {}) s.d2d k x }

/-- A device fault: BOOT_STATUS shows it, and every partition's steps end with the code (R324, R363). -/
def deviceFault (s : State) (code : Nat) : State :=
  let s := evt { s with boot := { s.boot with state := .deviceFault } } pgDev 2
  (List.range 4).foldl (fun s n =>
    if (getPart s n).steps.isEmpty then endInstances s n else noteError (endAll s n code) n code) s

/-- A link flit's bytes pass the CRC-32 over their first 252 bytes (R211, R324). -/
def d2dCrcOk (bs : List Byte) : Bool := bs.length == 256 && byteFld bs 252 255 == crc32 (bs.take 252)

/-- D2D_FLIT_RECEIVE (R213, R324): a link flit reaches end B (`toB`) or end A. A good one with the expected FSEQ is accepted; a bad
one is discarded and replayed from. The data that it carries reach their buffers by the commands that deliver them. -/
def execD2dFlitReceive (k : Nat) (toB : Bool) (bs : List Byte) (s : State) : Out :=
  let x := getD2d s k
  if k ≥ 3 ∨ x.lstate ≠ 2 then .next s
  else
    let s := inc64 s (pgD2d k + (if toB then 0x40 else 0x48)) 1
    let hdr := byteFld bs 0 7
    let seqd := fld hdr 63 60 == 1 || fld hdr 63 60 == 2
    let want := if toB then x.seqB else x.seqA
    let crc := d2dCrcOk bs
    if crc && (!seqd || fld hdr 59 48 == want) then
      let n := (want + b2n seqd) % 4096
      let clear := fun (f : Nat) => if seqd then 0 else f
      let add := fun (l : List Nat) =>
        if seqd then atVc (atVc l (fld hdr 22 20) (fun c => c + fld hdr 19 12)) (fld hdr 11 9) (fun c => c + fld hdr 8 1) else l
      .next (setD2d s k (if toB then { x with seqB := n, failB := clear x.failB, credB := add x.credB }
        else { x with seqA := n, failA := clear x.failA, credA := add x.credA }))
    else
      let s := if crc then s else incSat s (pgD2d k + 0x58) 1
      let s := evt (incSat s (pgD2d k + 0x5C) 1) (pgD2d k) 1
      .next (setD2d s k (if toB then { x with failB := x.failB + 1 } else { x with failA := x.failA + 1 }))

/-- Eight replays of one flit have failed (R324): the first failure asks for the first replay. -/
def replaysFailed (x : D2d) : Bool := decide (9 ≤ x.failA) || decide (9 ≤ x.failB)

/-- D2D_RETRAIN (R324): a link that has failed eight replays of one flit retrains. -/
def execD2dRetrain (k : Nat) (s : State) : Out :=
  let x := getD2d s k
  whenOk (k < 3 && x.lstate == 2 && replaysFailed x) s
    (evt (incSat (setD2d s k { x with lstate := 3 }) (pgD2d k + 0x60) 1) (pgD2d k) 2)

/-- D2D_RETRAIN_DONE (R324, R455): the retraining ends; a failure is a device fault. -/
def execD2dRetrainDone (k : Nat) (ok : Bool) (s : State) : Out :=
  let x := getD2d s k
  if k ≥ 3 ∨ x.lstate ≠ 3 then .next s
  else if ok then .next (edgePump (evt (setD2d s k { lstate := 2 }) (pgD2d k) 0))
  else .next (deviceFault (err (evt (setD2d s k { x with lstate := 4 }) (pgD2d k) 3) (pgD2d k) 0x1002) 0x1002)

end Sys2Proof.Machine
end

