-- ==== Sys2Proof/Machine/Boot.lean ====
section
/-!
DEFINITION. Bring-up, reset domains and the firmware image (R361 to R387), and the module's rails (R459 to R469). What
checkers, training and known-answer runs find comes with the command as six masks: physical tiles, channels, ports,
Threshers, die-to-die links, and core units (Sheaf engine, Pavilion, Gatehouse, Lodge, atomic home).
-/

namespace Sys2Proof.Machine

open Sys2Proof Sys2Proof.Config

/-! ## Pages and resets -/

/-- The pages of the device-wide blocks. -/
def corePages : List Nat :=
  [pgDev, pgBoot, pgTb, pgGate, pgBelv 0, pgBelv 1, pgBelv 2, pgBelv 3, pgLodge, pgHost, pgShf, pgPav, pgFab, pgAtom]
    ++ (List.range 32).map pgPort

/-- The pages of a compute die: tiles, Threshers, Granary and channels. -/
def diePages (d : Nat) : List Nat :=
  (List.range 60).map (fun t => pgTile (60 * d + t)) ++ (List.range 64).map (fun p => pgPhys (64 * d + p))
    ++ (List.range 4).map (fun u => pgThr (4 * d + u)) ++ [pgGrn d] ++ (List.range 64).map (fun c => pgMch (64 * d + c))

/-- Every page of the device. -/
def allPages : List Nat := corePages ++ diePages 0 ++ diePages 1 ++ [pgD2d 0, pgD2d 1, pgD2d 2]

/-- The registers of the pages that meet `f` return to their reset values. -/
def resetRegs (r : Regs) (f : Nat → Bool) : Regs :=
  { val := NMap.delIf r.val (fun a => f (pageOf a)), c64 := NMap.delIf r.c64 (fun a => f (pageOf a)),
    c32 := NMap.delIf r.c32 (fun a => f (pageOf a)),
    hiLatch := NMap.delIf r.hiLatch (fun a => f (pageOf (a % 2 ^ 32))),
    loStage := NMap.delIf r.loStage (fun a => f (pageOf (a % 2 ^ 32))) }

/-- Pages leave reset: they take TAG from LODGE_SNAP_TAG and show RESET_SINCE at their next snapshot (R433). -/
def notePages (s : State) (ps : List Nat) : State :=
  let tag := regN s (pgLodge + 0x118)
  let s := if tag = 0 then s else ps.foldl (fun s p => setRegN s (p + 0x2C) tag) s
  { s with lodge := { s.lodge with fresh := (s.lodge.fresh ++ ps).eraseDups } }

/-- The module reset (R368): everything but the fuses, the supervisor and the PLL, which stays locked while PERST# is
asserted (R467). -/
def moduleReset (s : State) : State :=
  { ({} : State) with
    pending := s.pending, fuse := s.fuse, freeIdx := s.freeIdx, mod := s.mod,
    clk := { ({} : Clk) with root := s.clk.root, pllLocked := s.clk.pllLocked },
    mem := { ({} : Mem) with host := s.mem.host },
    host := { ({} : HostIf) with perst := true } }

/-- The router-die reset (R368): the rails, the module Belvedere and the time base's count stay (R364). -/
def routerReset (s : State) : State :=
  { ({} : State) with
    pending := s.pending, fuse := s.fuse, freeIdx := s.freeIdx, mod := s.mod,
    clk := { ({} : Clk) with root := s.clk.root, pllLocked := s.clk.pllLocked, tb := s.clk.tb },
    mem := { ({} : Mem) with host := s.mem.host },
    host := { ({} : HostIf) with perst := s.host.perst },
    regs := resetRegs s.regs (fun a => a != pgBelv 3),
    belv := { ({} : Belv) with
      out := s.belv.out.filter (fun e => e.1 / 4 == 3), rest := s.belv.rest.filter (fun e => e.1 == 3) } }

/-! ## Units found bad -/

/-- A mask of the six. -/
def maskOf (u : List Nat) (k : Nat) : Nat := u.getD k 0

/-- The set bits of a mask among the low `n`. -/
def bitsOf (n m : Nat) : List Nat := (List.range n).filter (fun i => bit m i)

/-- The pages of the units that six masks name. -/
def unitPages (u : List Nat) : List Nat :=
  (bitsOf 128 (maskOf u 0)).map pgPhys ++ (bitsOf 128 (maskOf u 1)).map pgMch ++ (bitsOf 32 (maskOf u 2)).map pgPort
    ++ (bitsOf 8 (maskOf u 3)).map pgThr ++ (bitsOf 3 (maskOf u 4)).map pgD2d
    ++ (bitsOf 5 (maskOf u 5)).map (fun i => [pgShf, pgPav, pgGate, pgLodge, pgAtom].getD i pgShf)

/-- Units join the test-bad set (R381). -/
def addTest (s : State) (u : List Nat) : State :=
  let b := s.boot
  { s with
    boot := { b with
      testTiles := Nat.lor b.testTiles (maskOf u 0), testChans := Nat.lor b.testChans (maskOf u 1),
      testPorts := Nat.lor b.testPorts (maskOf u 2), testThr := Nat.lor b.testThr (maskOf u 3),
      testD2d := Nat.lor b.testD2d (maskOf u 4), testCore := Nat.lor b.testCore (maskOf u 5) } }

/-- The bits of `x` outside `m`. -/
def without (x m : Nat) : Nat := x - Nat.land x m

/-- The checkers' self-test (R337, R338): each failing block records cause 0xF0. -/
def checkers (s : State) (u : List Nat) : State :=
  addTest ((unitPages u).foldl (fun s a => err s a ((blockOf a).1 * 256 + 0xF0)) s) u

/-- A channel trained or failed (R187, R190, R371). -/
def trainChan (s : State) (bad : Bool) (ms c : Nat) : State :=
  if bad then
    let f := freshFree s
    let s := setRegN f.2 (pgMch c + 0x10C) (min ms 65535 * 65536 + 1 + f.1.toNat % 255)
    err (evt (setMch s c { getMch s c with disabled := true }) (pgMch c) 2) (pgMch c) 0x0501
  else setRegN (setMch s c { getMch s c with trained := true }) (pgMch c + 0x10C) (min ms 65535 * 65536)

/-- A die-to-die link trained or failed (R324, R455). -/
def trainLink (s : State) (bad : Bool) (us k : Nat) : State :=
  if bad then
    let f := freshFree s
    let s := setRegN f.2 (pgD2d k + 0x104) (min us 65535 * 65536 + 1 + f.1.toNat % 255)
    err (evt (setD2d s k { lstate := 4 }) (pgD2d k) 3) (pgD2d k) 0x1001
  else evt (setRegN (setD2d s k { lstate := 2 }) (pgD2d k + 0x104) (min us 65535 * 65536)) (pgD2d k) 0

/-- Training's results for some channels and links (R371). -/
def trained (s : State) (u : List Nat) (chans links : List Nat) (ms us : Nat) : State :=
  let s := chans.foldl (fun s c => trainChan s (bit (maskOf u 1) c) ms c) s
  let s := links.foldl (fun s k => trainLink s (bit (maskOf u 4) k) us k) s
  addTest s [0, maskOf u 1, 0, 0, maskOf u 4, 0]

/-- A channel's T1 holds zeros with a valid code, and its patrol scrub starts (R380). -/
def initChan (s : State) (c : Nat) : State :=
  let s := { s with
    mem := { s.mem with
      t1 := NMap.delIf s.mem.t1 (fun a => t1Channel a == c),
      t1err := NMap.delIf s.mem.t1err (fun k => t1Channel (k / 72 * 64) == c) } }
  inc64 (setMch s c { getMch s c with scrubbing := true, scrubPos := 0 }) (pgMch c + 0x48) chanBlocks

/-! ## Bring-up -/

/-- Steps 2 and 3 of bring-up (R337, R371, R386): fuses and checkers. Every die leaves reset in this root cycle (R362). -/
def startBoot (s : State) (u : List Nat) : State :=
  let s := notePages { s with clk := { s.clk with release := s.clk.root, aclk := 0, edge := 0 } } allPages
  let g := s.fuse.grade
  if !s.fuse.agree then err { s with boot := { s.boot with state := .fuseFault } } pgBoot 0x0F05
  else
    let s := setRegN (setRegN (setRegN s (pgGate + 0x108) g.allotMax) (pgGate + 0x10C) g.ilimitMax) (pgGate + 0x110) g.powerLimit
    let s := { s with boot := { ({} : Boot) with state := .training } }
    let s := checkers s u
    (List.range 3).foldl (fun s k => setD2d s k { lstate := 1 }) s

/-- PLL_LOCK (R362, R364, R467): the root PLL locks and the time base starts at 0; with PERST# deasserted the boot ROM
runs. -/
def execPllLock (u : List Nat) (s : State) : Out :=
  if !s.mod.powerGood ∨ s.clk.pllLocked ∨ s.boot.state = .deviceFault then .next s
  else
    let s := { s with clk := { s.clk with pllLocked := true, tb := 0, tbFrac := 0 } }
    .next (if s.host.perst then s else startBoot s u)

/-- PLL_LOCK_RETRY (R463): without a valid reference the lock is tried again and nothing else changes. -/
def execPllLockRetry (s : State) : Out := .next s

/-- REFERENCE_LOSS (R363): a device fault; partitions end with 0x0E02, the ports stop sending, and the root PLL is lost. -/
def execReferenceLoss (s : State) : Out :=
  if !s.clk.pllLocked then .next s
  else
    let s := deviceFault (err s pgTb 0x0E02) 0x0E02
    let ports := s.fab.ports.map (fun e => (e.1, if e.2.lstate = .up then { e.2 with lstate := .down } else e.2))
    .next { s with fab := { s.fab with ports := ports }, clk := { s.clk with pllLocked := false } }

/-- PERST_ASSERT (R368, R466, R467): the module reset; a set fault latch wins over it. -/
def execPerstAssert (s : State) : Out :=
  .next (if s.mod.latch then { s with host := { s.host with perst := true } } else moduleReset s)

/-- PERST_DEASSERT (R467): bring-up runs from step 1, which ends at PLL lock. -/
def execPerstDeassert (u : List Nat) (s : State) : Out :=
  if !s.host.perst then .next s
  else
    let s := { s with host := { s.host with perst := false } }
    .next (if s.clk.pllLocked ∧ s.mod.powerGood then startBoot s u else s)

/-- PCIE_LINK_UP (R371, R386, R409): the link is up with its negotiated width and speed, and the firmware stage begins. -/
def execPcieLinkUp (width speed : Nat) (s : State) : Out :=
  let ok := s.clk.pllLocked && !s.host.perst && !s.host.linkUp
  let s' := { s with host := { s.host with linkUp := true, width := width % 64, speed := speed % 16 } }
  whenOk ok s (if s.boot.state = .training then { s' with boot := { s'.boot with state := .waitImage } } else s')

/-- TRAINING_COMPLETE (R371): channels and die-to-die links have trained in `ms` and `us`, or failed. -/
def execTrainingComplete (u : List Nat) (ms us : Nat) (s : State) : Out :=
  if s.boot.trained ∨ [BootState.training, .waitImage, .verifying, .powerup, .kat].contains s.boot.state = false then .next s
  else
    let s := trained s u (List.range 128) (List.range 3) ms us
    .next { s with boot := { s.boot with trained := true } }

/-- T1_INIT_DONE (R380): a trained channel has filled its T1 with zeros. -/
def execT1InitDone (c : Nat) (s : State) : Out :=
  let m := getMch s c
  if c ≥ 128 ∨ !m.trained ∨ m.scrubbing then .next s
  else
    let s := initChan s c
    let all := (List.range 128).all (fun k => (getMch s k).scrubbing || (getMch s k).disabled)
    .next { s with boot := { s.boot with t1Ready := s.boot.t1Ready || all } }

/-! ## Firmware image (R374 to R376) -/

/-- The entries of an image's section table: KIND, offset, length, and whether the reserved fields are 0: in an entry of KIND 0
every other field (R374). -/
def imgSections (bs : List Byte) : List (Nat × Nat × Nat × Bool) :=
  (List.range (byteFld bs 12 13)).map (fun i =>
    let e := (bs.drop (256 + 16 * i)).take 16
    (byteFld e 0 0, byteFld e 4 7, byteFld e 8 11,
      if byteFld e 0 0 = 0 then leNat (e.drop 1) == 0 else byteFld e 1 3 == 0 && byteFld e 12 15 == 0))

/-- The image passes the format check (R374, R375); a reserved field that is not 0 fails it (R5). -/
def imgForm (bs : List Byte) : Bool :=
  let n := byteFld bs 8 11
  let ss := imgSections bs
  byteFld bs 0 3 == 0x41524F47 && byteFld bs 4 4 == 1 && n % 64 == 0 && decide (512 ≤ n) && decide (n ≤ 8388608)
    && decide (n ≤ bs.length) && decide (7 ≤ byteFld bs 12 13) && decide (byteFld bs 12 13 ≤ 64)
    && decide (256 + 16 * byteFld bs 12 13 ≤ n) && ss.all (fun x => decide (x.2.1 + x.2.2.1 ≤ n))
    && ss.all (fun x => decide (x.1 ≤ 7) && x.2.2.2)
    && byteFld bs 7 7 == 0 && byteFld bs 14 15 == 0 && byteFld bs 20 127 == 0 && byteFld bs 160 191 == 0
    && (List.range 7).all (fun k => (ss.filter (fun x => x.1 == k + 1)).length == 1)

/-- The digest D of an image (R375). -/
def imgDigest (bs : List Byte) : List Byte :=
  let n := byteFld bs 8 11
  sha512 (bs.take 192 ++ (bs.take n).drop 256)

/-- The error code with which an image fails; 0 when it verifies (R375). -/
def imgFault (f : Fuse) (bs : List Byte) : Nat :=
  let k := byteFld bs 5 5
  let pub := (bs.drop 128).take 32
  if !imgForm bs then 0x0F04
  else if 3 < k ∨ !bit f.keyPresent k ∨ bit f.keyRevoked k ∨ f.keyHash.getD k 0 ≠ leNat ((sha512 pub).take 32) then 0x0F02
  else if byteFld bs 6 6 < f.svnFloor then 0x0F03
  else if !edVerify pub (imgDigest bs) ((bs.drop 192).take 64) then 0x0F01
  else 0

/-- Words written to registers that lie one after another. -/
def setRegs (s : State) (a : Nat) (bs : List Byte) : State :=
  ((List.range (bs.length / 4)).zip (chunks 4 bs)).foldl (fun s w => setRegN s (a + 4 * w.1) (leNat w.2)) s

/-- The payloads received, in ascending offset. -/
def rxBytes (b : Boot) : List Byte := (sortBy (fun e => e.1) b.rx).flatMap (fun e => e.2)

/-- Every byte of the image being received is held. -/
def rxWhole (b : Boot) : Bool :=
  b.rxLen != 0 && (List.range ((b.rxLen + 2047) / 2048)).all (fun i => b.rx.any (fun e => e.1 == 2048 * i))

/-- A command or write in the wrong state (R386). -/
def bootRefuse (s : State) : State := err s pgBoot 0x0F09

/-- LOAD (R376): the image is read from host memory. -/
def execLoad (s : State) : Out :=
  if s.boot.state ≠ .waitImage then .next (bootRefuse s)
  else
    let n := min 8388608 (regN s (pgBoot + 0x110))
    let bs := readHost s (pairN s (pgBoot + 0x108)) n
    let s := inc64 s (pgHost + 0x50) n
    .next { s with
    boot := { s.boot with
      state := .verifying, busy := 1, rx := [(0, bs)], rxLen := n, rxAt := none, incomplete := false } }

/-- IMAGE_RECEIVED (R375): a complete image is verified and accepted, or discarded. -/
def execImageReceived (s : State) : Out :=
  if s.boot.state ≠ .verifying then .next s
  else
    let bs := rxBytes s.boot
    let f := imgFault s.fuse bs
    let b := { s.boot with busy := 0, rx := [], rxLen := 0, rxAt := none }
    if f ≠ 0 then
      let s := incSat { s with boot := { b with state := .waitImage } } (pgBoot + 0x44) 1
      .next (err (evt s pgBoot 1) pgBoot f)
    else
      let s := { s with
      boot := { b with
        state := .powerup, imgValid := true, image := bs.take (byteFld bs 8 11), keyIndex := byteFld bs 5 5,
        svn := byteFld bs 6 6, waves := 0 } }
      .next (incSat (setRegs s (pgBoot + 0x180) (imgDigest bs)) (pgBoot + 0x40) 1)

/-- BROADCAST_IMAGE (R376): the seed multicasts its verified image as BOOT packets. -/
def execBroadcastImage (s : State) : Out :=
  if !s.boot.imgValid ∨ s.boot.state = .verifying ∨ s.boot.state = .ready ∨ s.boot.state = .deviceFault then .next (bootRefuse s)
  else
    let b := { s.boot with round := s.boot.round + 1 }
    let s := { s with boot := b }
    let mask := pairN s (pgBoot + 0x114)
    let ps := (chunks 2048 b.image)
    .next (((List.range ps.length).zip ps).foldl (fun s c =>
      send s { mkMcast s 0xB 0 mask with
        data := true, body := c.2, thdr := b.image.length * 2 ^ 96 + 2048 * c.1 * 2 ^ 64 + b.round % 2 ^ 32 * 2 ^ 32 }) s)

/-- A BOOT packet is taken: an image is awaited from the fabric, the offset is a multiple of 2,048, and the payload lies in an
image of at most 8 MiB and is short only at its end (R376); the reserved header bits are 0 (R5). -/
def bootFits (s : State) (p : Pkt) : Bool :=
  let n := fld p.thdr 127 96
  let o := fld p.thdr 95 64
  fld p.thdr 31 0 == 0 && s.boot.state == .waitImage && bit (regN s (pgBoot + 0x11C)) 0 && o % 2048 == 0 && decide (o + p.body.length ≤ n)
    && decide (n ≤ 8388608) && (p.body.length == 2048 || o + p.body.length == n)

/-- The payload of a BOOT packet is kept, and a whole image goes to verification (R376). -/
def bootTake (s : State) (p : Pkt) : State :=
  let n := fld p.thdr 127 96
  let o := fld p.thdr 95 64
  let old := if s.boot.rxLen = n then s.boot.rx else []
  let b := { s.boot with rxLen := n, rx := (o, p.body) :: old.filter (fun e => e.1 != o), rxAt := some (now s) }
  { s with boot := if rxWhole b then { b with state := .verifying, incomplete := false } else b }

/-- BOOT_PACKET (R376, R386): a BOOT payload is written at its offset by a device that waits for an image and accepts the
fabric's. -/
def execBootPacket (s : State) : Out :=
  match takeEjected s (fun p => p.proto == 0xB) with
  | none => .next s
  | some (p, s) => if bootFits s p then .next (bootTake s p) else .next (incSat s (pgBoot + 0x4C) 1)

/-- BROADCAST_INCOMPLETE_TIMEOUT (R376): 1 ms after the last packet some are still missing. -/
def execBroadcastIncompleteTimeout (s : State) : Out :=
  let b := s.boot
  let due := match b.rxAt with
    | some a => decide (a + 1000000 ≤ now s)
    | none => false
  whenOk (b.state == .waitImage && due && !rxWhole b) s
    (err (evt { s with boot := { b with incomplete := true, rxAt := none } } pgBoot 3) pgBoot 0x0F08)

/-! ## Power-up, known-answer runs and reconciliation (R377 to R383) -/

/-- TILE_POWER_UP_WAVE (R377): one quadrant of one compute die is powered; after the eighth the image is fanned out. -/
def execTilePowerUpWave (s : State) : Out :=
  let b := s.boot
  whenOk (b.state == .powerup) s
    { s with
      boot := { b with waves := b.waves + 1, state := if b.waves + 1 ≥ 8 then .kat else .powerup },
      lodge := { s.lodge with running := s.lodge.running || decide (b.waves + 1 ≥ 8) } }

/-- The quadrant of a physical tile of a die (R136). -/
def quadrantOf (p : Nat) : Nat := 2 * (p / 8 / 4) + p % 8 / 4

/-- Units bad by fuse or by test (R381). -/
def badTiles (s : State) : Nat := Nat.lor s.fuse.badTiles s.boot.testTiles

def badChans (s : State) : Nat := Nat.lor s.fuse.badChans s.boot.testChans

def badThrs (s : State) : Nat := Nat.lor s.fuse.badThr s.boot.testThr

def badD2ds (s : State) : Nat := Nat.lor s.fuse.badD2d s.boot.testD2d

/-- The good physical tiles of a quadrant of a die, ascending (R382). -/
def goodTiles (s : State) (d q : Nat) : List Nat :=
  ((List.range 64).filter (fun p => quadrantOf p == q && !bit (badTiles s) (64 * d + p))).map (fun p => 64 * d + p)

/-- The compute die that a bad die-to-die link holds in reset (R383). -/
def heldDie (s : State) : Option Nat :=
  let m := badD2ds s % 8
  if m = 0 then none else if m = 1 then some 0 else some 1

/-- The logical map (R382): the physical tile of each logical tile, 128 where it is absent. -/
def logicalMap (s : State) : List Nat :=
  (List.range 120).map (fun t =>
    if heldDie s = some (t / 60) then 128 else (goodTiles s (t / 60) (t / 15 % 4)).getD (t % 15) 128)

/-- A channel of a die is bad. -/
def dieMemBad (s : State) (d : Nat) : Bool := fld (badChans s) (64 * d + 63) (64 * d) != 0

/-- The capability class (R383). -/
def classOf (s : State) : Nat :=
  let short := (List.range 8).any (fun u => decide ((goodTiles s (u / 4) (u % 4)).length < 15))
  let die := (heldDie s).isSome
  b2n (short || die) + 2 * b2n (dieMemBad s 0 || dieMemBad s 1 || die) + 4 * b2n (s.boot.testPorts != 0)
    + 8 * b2n (badThrs s != 0) + 16 * b2n (s.boot.testCore != 0) + 32 * b2n die

/-- Units that the fuses mark good and a test finds bad (R381). -/
def discrepancies (f : Fuse) (u : List Nat) : Nat :=
  popcount 128 (without (maskOf u 0) f.badTiles) + popcount 128 (without (maskOf u 1) f.badChans)
    + popcount 32 (without (maskOf u 2) f.badPorts) + popcount 8 (without (maskOf u 3) f.badThr)
    + popcount 3 (without (maskOf u 4) f.badD2d) + popcount 5 (maskOf u 5)

/-- The tests' bad units as six masks. -/
def testMasks (b : Boot) : List Nat := [b.testTiles, b.testChans, b.testPorts, b.testThr, b.testD2d, b.testCore]

/-- An error recorded `n` times. -/
def errTimes (s : State) (page code : Nat) : Nat → State
  | 0 => s
  | n + 1 => errTimes (err s page code) page code n

/-- Reconciliation (R381 to R383) of some dies: the map, the class and the units they publish. -/
def reconcile (s : State) (dies : List Nat) (u : List Nat) : State :=
  let n := discrepancies s.fuse u
  let s := errTimes (incSat s (pgBoot + 0x50) n) pgBoot 0x0F07 n
  let s := if n = 0 then s else evt s pgBoot 2
  let b := s.boot
  let m := logicalMap s
  let held := match heldDie s with
    | some d => 2 ^ d
    | none => 0
  let s := { s with
  boot := { b with
    map := m, cls := classOf s, badPorts := Nat.lor s.fuse.badPorts b.testPorts, dieReset := Nat.lor b.dieReset held } }
  dies.foldl (fun s d =>
    let s := setRegN s (pgGrn d + 0x148) (if dieMemBad s d ∨ heldDie s = some d then 0 else 391168)
    (List.range 60).foldl (fun s t =>
      if m.getD (60 * d + t) 128 = 128 then s
      else setTile s (60 * d + t) { ({} : Tile) with gated := true, idleSince := now s }) s) s

/-- Known-answer mismatches (R378): each failing unit is test-bad and recorded. -/
def katFails (s : State) (u : List Nat) : State :=
  let n := (unitPages u).length
  addTest (errTimes (incSat s (pgBoot + 0x48) n) pgBoot 0x0F06 n) u

/-- A bin of the image's ECT_BINS section (R345, R374). -/
def ectBin (img : List Byte) (k : Nat) : List Nat :=
  match (imgSections img).find? (fun x => x.1 == 6) with
  | some x => (chunks 4 ((img.drop (x.2.1 + 128 * k)).take 128)).map leNat
  | none => []

/-- The lowest-numbered bin whose every coefficient is at least the measured one, else bin 15 (R345). -/
def adoptBin (img : List Byte) (meas : List Nat) : Nat :=
  ((List.range 15).find? (fun k =>
    (List.range 16).all (fun i => decide (meas.getD i 0 ≤ (ectBin img k).getD i 0)))).getD 15

/-- The ECT is adopted (R345); a new version clears the pace table and resets u (R347, R350). -/
def calibrate (s : State) (meas : List Nat) : State :=
  let k := adoptBin s.boot.image meas
  let v := byteFld s.boot.image 16 19 % 65536 * 65536 + k
  let ect := (List.range 32).map (fun i => if i < 16 then (ectBin s.boot.image k).getD i 0 else 0)
  let g := { s.gate with ect := ect, meas := meas, version := v }
  setRegN { s with gate := if v = s.gate.version then g else { g with pace := [], u := 256 } } (pgGate + 0x138) v

/-- KAT_COMPLETE (R378 to R383, R372): the known-answer runs' failures and the measured coefficients; reconciliation and
READY follow. -/
def execKatComplete (u meas : List Nat) (s : State) : Out :=
  if s.boot.state ≠ .kat ∨ !s.boot.trained ∨ !s.boot.t1Ready then .next s
  else
    let s := calibrate (katFails s u) meas
    let s := reconcile s [0, 1] (testMasks s.boot)
    let s := setRegN s (pgBoot + 0x168) (s.clk.root / 18000000)
    .next (evt { s with boot := { s.boot with state := .ready } } pgBoot 0)

/-! ## Attestation (R384, R385) -/

/-- The capability GRADE code (R383, R387). -/
def gradeCode (s : State) : Nat :=
  if s.boot.cls ≠ 0 ∨ s.boot.map.isEmpty then 0
  else match s.fuse.grade with
    | .h => 1 | .m => 2 | .e => 3

/-- Channels good after reconciliation, as 128 bits. -/
def goodChans (s : State) : Nat := without (2 ^ 128 - 1) (badChans s)

/-- Ports good after reconciliation, as 32 bits. -/
def goodPorts (s : State) : Nat := without (2 ^ 32 - 1) (Nat.lor s.fuse.badPorts s.boot.testPorts)

/-- The first 192 bytes of an attestation report (R385). -/
def reportBytes (s : State) : List Byte :=
  let b := s.boot
  padTo 192 ([1, BitVec.ofNat 8 (gradeCode s), BitVec.ofNat 8 b.cls, BitVec.ofNat 8 b.keyIndex, BitVec.ofNat 8 b.svn,
      BitVec.ofNat 8 s.fuse.svnFloor, BitVec.ofNat 8 (s.fuse.keyPresent % 16 + 16 * s.fuse.keyRevoked), 0]
    ++ leBytes 8 (now s)
    ++ (List.range 8).flatMap (fun i => leBytes 4 (regN s (pgBoot + 0x1C0 + 4 * i)))
    ++ (if b.imgValid then (List.range 16).flatMap (fun i => leBytes 4 (regN s (pgBoot + 0x180 + 4 * i))) else List.replicate 64 0)
    ++ leBytes 16 s.fuse.badTiles ++ leBytes 16 (badTiles s) ++ leBytes 16 (goodChans s) ++ leBytes 4 (goodPorts s))

/-- ATTEST (R385): a report over the nonce is signed; before step 5 the command is refused. -/
def execAttest (s : State) : Out :=
  if [BootState.fuses, .selftest, .training, .fuseFault, .deviceFault].contains s.boot.state then .next (bootRefuse s)
  else
    let r := reportBytes s
    let sig := edSign (padTo 32 s.fuse.seed) (sha512 r)
    .next (evt (incSat (setRegs s (pgBoot + 0x200) (r ++ sig)) (pgBoot + 0x54) 1) pgBoot 4)

/-! ## Resets of single domains (R368 to R370) -/

/-- BOOT_RESET_ROUTER_DIE (R368): target 1, with its key byte 0xA5. Bring-up follows from step 2. -/
def execBootResetRouterDie (key : Nat) (u : List Nat) (s : State) : Out :=
  if key ≠ 0xA5 then .next (bootRefuse s)
  else if !s.clk.pllLocked then .next s
  else .next (startBoot (routerReset s) u)

/-- A partition has a tile or a T1 frame on a die. -/
def touchesDie (s : State) (d n : Nat) : Bool :=
  fld (getPart s n).tiles (60 * d + 59) (60 * d) != 0 || s.grn.owner.any (fun e => e.1 % 2 == d && e.2 == 4 * n + 3)

/-- A compute die's blocks return to reset and its T1 is lost (R368). -/
def resetDie (s : State) (d : Nat) : State :=
  let mine := fun (t : Nat) => t / 60 == d
  let s := { s with
    regs := resetRegs s.regs (fun a => (diePages d).contains a),
    tiles := NMap.delIf s.tiles mine,
    mem := { s.mem with
      sram := NMap.delIf s.mem.sram (fun k => mine (k / 2 ^ 24)), sramBad := NMap.delIf s.mem.sramBad (fun k => mine (k / 2 ^ 24)),
      t1 := NMap.delIf s.mem.t1 (fun a => t1Die a == d), t1err := NMap.delIf s.mem.t1err (fun k => t1Die (k / 72 * 64) == d) },
    edge := s.edge.filter (fun u => !mine u.tile), mesh := s.mesh.filter (fun u => !mine u.tile),
    backlog := s.backlog.filter (fun u => !mine u.tile), gateUsed := s.gateUsed.filter (fun t => !mine t),
    kept := s.kept.filter (fun u => !mine u.tile),
    mch := NMap.delIf s.mch (fun c => c / 64 == d),
    thr := { s.thr with
      calls := s.thr.calls.filter (fun c => c.unit / 4 != d), outs := s.thr.outs.filter (fun c => c.unit / 4 != d),
      egress := s.thr.egress.filter (fun e => e.die != d), ingress := NMap.delIf s.thr.ingress (fun k => k / 256 == d),
      return' := NMap.delIf s.thr.return' (fun k => k / 256 == d), bias := NMap.delIf s.thr.bias (fun k => k / 131072 == d),
      badBank := NMap.delIf s.thr.badBank (fun k => k / 8 == d), streams := NMap.delIf s.thr.streams (fun k => k / 16 == d),
      slotUsed := s.thr.slotUsed.filter (fun k => k / 4 != d), retUsed := s.thr.retUsed.filter (fun k => k / 4 != d),
      gateFree := NMap.delIf s.thr.gateFree (fun k => k / 4 == d), stageFree := NMap.delIf s.thr.stageFree (fun k => k / 4 == d) },
    grn := { s.grn with
      live := NMap.delIf s.grn.live (fun a => t1Die a == d), pageBuf := s.grn.pageBuf.filter (fun e => e.1 != d),
      dirBuf := s.grn.dirBuf.filter (fun e => e.1 != d), reqs := s.grn.reqs.filter (fun r => !mine r.tile),
      stores := s.grn.stores.filter (fun r => !mine r.tile), copies := s.grn.copies.filter (fun c => c.die != d),
      held := s.grn.held.filter (fun c => c.die != d), t2 := s.grn.t2.filter (fun q => q.die != d),
      unmaps := s.grn.unmaps.filter (fun u => u.die != d), owner := NMap.delIf s.grn.owner (fun f => f % 2 == d),
      ownerPage := NMap.delIf s.grn.ownerPage (fun f => f % 2 == d), lent := NMap.delIf s.grn.lent (fun f => f % 2 == d),
      assigned := NMap.delIf s.grn.assigned (fun f => f % 2 == d) } }
  notePages (setD2d (setD2d s d { lstate := 1 }) 2 { lstate := 1 }) (diePages d)

/-- The die's bits of the test-bad sets are forgotten: its units are tested again (R370). -/
def forgetTests (b : Boot) (d : Nat) : Boot :=
  { b with
    testTiles := setFld b.testTiles (64 * d + 63) (64 * d) 0, testChans := setFld b.testChans (64 * d + 63) (64 * d) 0,
    testThr := setFld b.testThr (4 * d + 3) (4 * d) 0, testD2d := setFld (setFld b.testD2d d d 0) 2 2 0 }

/-- BOOT_RESET_COMPUTE_DIE (R368, R370): target 2 + d. Steps and instances with a tile or a frame on the die end with 0x1003;
a die already in reset absorbs the request. -/
def execBootResetComputeDie (d key : Nat) (s : State) : Out :=
  if key ≠ 0xA5 then .next (bootRefuse s)
  else if d ≥ 2 ∨ bit s.boot.dieReset d ∨ s.boot.state ≠ .ready then .next s
  else
    let ns := (List.range 4).filter (touchesDie s d)
    let s := ns.foldl (fun s n => if (getPart s n).steps.isEmpty then endInstances s n else noteError (endAll s n 0x1003) n 0x1003) s
    let s := resetDie s d
    .next { s with boot := { forgetTests s.boot d with dieReset := setFld s.boot.dieReset d d 1 } }

/-- Bring-up of a compute die is done: its checkers, training and known-answer results are taken, its channels initialised, and the
die is reconciled (R370, R381). -/
def dieDone (s : State) (d : Nat) (chk trn kat : List Nat) : State :=
  let cs := (List.range 64).map (fun c => 64 * d + c)
  let s := trained (checkers s chk) trn cs [d, 2] 0 0
  let s := cs.foldl (fun s c => if (getMch s c).trained then initChan s c else s) s
  let s := katFails s kat
  let s := { s with boot := { s.boot with dieReset := setFld s.boot.dieReset d d 0 } }
  reconcile s [d] ((List.range 6).map (fun i => Nat.lor (maskOf chk i) (Nat.lor (maskOf trn i) (maskOf kat i))))

/-- COMPUTE_DIE_BRINGUP_DONE (R370): the die's checkers, training and known-answer runs have ended, each with its bad units, and
its T1 is initialised; the map and the class are published again. -/
def execComputeDieBringupDone (d : Nat) (chk trn kat : List Nat) (s : State) : Out :=
  if d ≥ 2 ∨ !bit s.boot.dieReset d ∨ s.boot.state ≠ .ready then .next s else .next (dieDone s d chk trn kat)


/-- BOOT_RESET_PARTITION (R368, R369): target 4 + n requests a tile partition reset; a die reset absorbs it (R386). -/
def execBootResetPartition (n key : Nat) (s : State) : Out :=
  if key ≠ 0xA5 then .next (bootRefuse s)
  else if n ≥ 4 then .next s
  else .next (setPart s n { getPart s n with resetPending := some 0x0105 })

/-- A context that a partition loses at its reset. -/
def lostCtx (n : Nat) (c : Ctx) : Bool := c.live && c.part == n

/-- The banks that a partition's reset zeroes on a tile: all of them, or, where another partition holds the tile too, those of
the contexts that this one holds (R369, R414). -/
def resetBanks (s : State) (n t : Nat) : Nat :=
  let x := getTile s t
  let of' := fun (c : Ctx) => if c.part = n then c.bankSet else 0
  let other := fun (c : Ctx) => if c.live ∧ c.part ≠ n then c.bankSet else 0
  if (List.range 4).any (fun m => m != n && bit (getPart s m).tiles t) then
    Nat.land (Nat.lor (of' x.fg) (of' x.bg)) (0xFFFF - Nat.land 0xFFFF (Nat.lor (other x.fg) (other x.bg)))
  else 0xFFFF

/-- A partition's contexts on a tile are abandoned and every bank of them holds zeros (R369, R414). -/
def resetTile (s : State) (n t : Nat) : State :=
  let x := getTile s t
  let banks := resetBanks s n t
  let s := (bitsOf 16 banks).foldl (fun s b => zeroSram s t (b * 0x90000) ((b + 1) * 0x90000)) s
  let mine := lostCtx n x.fg
  setTile s t { x with
    fg := if mine then {} else x.fg, bg := if lostCtx n x.bg then {} else x.bg, saved := NMap.del x.saved n,
    stat := if mine then [] else x.stat, tags := if mine then [] else x.tags, passes := if mine then [] else x.passes,
    busy := if mine then [] else x.busy, huskWait := if mine then none else x.huskWait, os := x.os && !mine,
    refetch := if mine then [] else x.refetch,
    switchTo := if mine ∨ x.switchTo = some n then none else x.switchTo, idleSince := if mine then now s else x.idleSince }

/-- A partition reset takes effect (R369): its steps end with the code, its tiles and what it holds in the units are cleared, and
no stop is in force. -/
def partReset (s : State) (n code : Nat) : State :=
  let ts := tilesOf (getPart s n).tiles
  let s := endAll s n code
  let s := ts.foldl (fun s t => resetTile s n t) s
  let s := { s with
    thr := { s.thr with streams := s.thr.streams.filter (fun e => e.2.part != n), egress := s.thr.egress.filter (fun e => e.part != n) },
    kept := s.kept.filter (fun u => u.part != n),
    sheaf := { s.sheaf with slots := s.sheaf.slots.filter (fun r => r.part != n) },
    atom := { s.atom with groups := s.atom.groups.filter (fun g => g.part != n), fences := s.atom.fences.filter (fun g => g.part != n) },
    host := { s.host with binds := s.host.binds.filter (fun b => b.host || b.part != n) } }
  let p := getPart s n
  (setPart s n { p with
    state := if p.resetOpens then .opened else p.state, resetPending := none, resetOpens := false, stop := .none,
    stopCmd := false, stopHold := false, stopFreeze := false, stopParity := false, stopCause := 0, resumeReq := none })

/-- PARTITION_RESET_TAKE_EFFECT (R369): at the frame boundary the partition's tiles abandon their work, its steps and
instances end, its stream contexts close, its counters are disarmed and its banks are zeroed. Its stop, hold or replay is
abandoned (R386). -/
def execPartitionResetTakeEffect (n : Nat) (s : State) : Out :=
  match (getPart s n).resetPending with
  | none => .next s
  | some code => if s.clk.aclk % 64 ≠ 0 then .next s else .next (partReset s n code)


/-! ## The module's rails (R459 to R469) -/

/-- VIN_TURN_ON (R459, R462, R466): the rail sequence starts, unless the fault latch is set. -/
def execVinTurnOn (s : State) : Out :=
  let m := { s.mod with vin := true }
  .next (if s.mod.latch ∨ s.mod.rails.isSome then { s with mod := m } else { s with mod := { m with rails := some 0 } })

/-- RAIL_SETTLED (R462): the next of the eight stages has settled; power-good follows the last. -/
def execRailSettled (s : State) : Out :=
  match s.mod.rails with
  | some k =>
    whenOk (decide (k < 8)) s { s with mod := { s.mod with rails := some (k + 1), powerGood := k + 1 == 8 } }
  | none => .next s

/-- RAIL_SEQUENCE_TIMEOUT (R462, R466): a rail that has not settled stops the sequence and sets the fault latch. -/
def execRailSequenceTimeout (s : State) : Out :=
  match s.mod.rails with
  | some k => whenOk (decide (k < 8)) s (powerOff s true)
  | none => .next s

/-- VIN_TURN_OFF (R459): every regulator switches off; all state but the fuses is lost. -/
def execVinTurnOff (s : State) : Out := .next { powerOff s false with mod := { (powerOff s false).mod with vin := false } }

/-- VIN_OVERVOLTAGE (R459): as a turn-off. -/
def execVinOvervoltage (s : State) : Out := .next { powerOff s false with mod := { (powerOff s false).mod with vin := false } }

/-- FAULT_LATCH_CLEAR (R459, R466): VIN has fallen below 20 V, so the latch clears, and regulators that were on switch off. -/
def execFaultLatchClear (s : State) : Out :=
  let s := if s.mod.rails.isSome then powerOff s false else s
  .next { s with mod := { s.mod with latch := false, vin := false } }

end Sys2Proof.Machine
end

