-- ==== Sys2Proof/Machine/Timebase.lean ====
section
/-!
DEFINITION. The time base and its alignment (R364 to R367), timed snapshots and the interrupt hold-off (R431 to R436).
-/

namespace Sys2Proof.Machine

open Sys2Proof Sys2Proof.Config

/-- Bring-up has reached READY (R371). -/
def ready (s : State) : Bool := s.boot.state == .ready

/-- TB_SET (R364): TB_CTRL.SET loads TB_SET while the time base is unlocked and no step is admitted or queued; a pending
snapshot is cancelled (R442). -/
def execTbSet (s : State) : Out :=
  guardWrite s pgTb (
    if s.tb.locked ∨ anyStep s then .next (err s pgTb 0x0E04)
    else
      let s := { s with clk := { s.clk with tb := BitVec.ofNat 64 (pairN s (pgTb + 0x110)), tbFrac := 0 } }
      .next (if s.lodge.snapAt.isSome then err { s with lodge := { s.lodge with snapAt := none } } pgLodge 0x1108 else s))

/-- A timestamp in 1/16 ns: the time base and the sub-cycle position (R366). A packet's stamp is taken as its command runs
(log entry 97). -/
def stamp16 (s : State) : Nat := now s * 16 + s.clk.root % 18 * 16 / 18

/-- The device is the time root. -/
def isRoot (s : State) : Bool := bit (regN s (pgTb + 0x104)) 0

/-- The DEPTH that the device reports: 0 for the root, 0xFF while it is not locked (R366). -/
def depthByte (s : State) : Nat := if isRoot s then 0 else if s.tb.locked then s.tb.depth else 0xFF

/-- A TIME packet (R366). -/
def sendTime (s : State) (dst kind seq t1 t2 t3 : Nat) : State :=
  let b := [BitVec.ofNat 8 kind, BitVec.ofNat 8 (depthByte s), 0, 0] ++ leBytes 4 seq ++ leBytes 8 t1 ++ leBytes 8 t2 ++ leBytes 8 t3
  send s { mkPkt s 0xA 0 (myArb s) dst with body := padTo 48 b }

/-- TB_PERIOD_EXPIRY (R365, R366): a device that aligns takes its parent and sends it a TIME request; a request still open
makes the period one without a valid exchange. -/
def execTbPeriodExpiry (s : State) : Out :=
  if isRoot s ∨ !bit (regN s (pgTb + 0x104)) 1 then .next s
  else
    let s := setParent { s with tb := { s.tb with missed := s.tb.missed + 1, reqAt := now s } }
    match s.tb.parent with
    | none => .next s
    | some d =>
      let q := (s.tb.seq + 1) % 2 ^ 32
      let t1 := stamp16 s
      .next (sendTime { s with tb := { s.tb with seq := q, req := some (q, t1) } } d 1 q t1 0 0)

/-- What a TIME packet reports of its sender. -/
def hear (s : State) (p : Pkt) : State :=
  { s with tb := { s.tb with heard := NMap.put s.tb.heard p.src (byteFld p.body 1 1) } }

/-- TIME_REQUEST (R366, R386): the request is answered at once; one with DEPTH 0 from a device that is not the parent shows two
time roots. -/
def execTimeRequest (s : State) : Out :=
  match takeEjected s (fun p => p.proto == 0xA && byteFld p.body 0 0 == 1) with
  | none => .next s
  | some (p, s) =>
    let s := if byteFld p.body 1 1 = 0 ∧ s.tb.parent ≠ some p.src then err s pgTb 0x0E01 else s
    let t := stamp16 s
    .next (sendTime (hear s p) p.src 2 (byteFld p.body 4 7) (byteFld p.body 8 15) t t)

/-- A signed number as a 32-bit code. -/
def code32 (x : Int) : Nat := (x % 2 ^ 32).toNat

/-- The rate and the slew after an exchange: `off` in 1/16 ns, TB_PERIOD in µs (R367). -/
def slewBy (s : State) (off : Int) : State :=
  let per : Int := max 10 (regN s (pgTb + 0x128) : Nat)
  let rate := max (-300000) (min 300000 (s.tb.rate + off * 1000000 / (128 * per)))
  { s with tb := { s.tb with rate := rate, slew := off * 1000000 / (32 * per), slewLeft := (1000 * per).toNat } }

/-- The lock after an exchange (R367). -/
def lockBy (s : State) (off : Int) : State :=
  let good := if off ≤ 80 ∧ -80 ≤ off then min 255 (s.tb.good + 1) else 0
  let was := s.tb.locked
  let is := decide (8 ≤ good)
  let s := { s with tb := { s.tb with good := good, locked := is } }
  if is && !was then evt s pgTb 0 else if was && !is then evt (incSat s (pgTb + 0x48) 1) pgTb 1 else s

/-- TIME_RESPONSE (R366, R367): the child steps or slews its time base by the parent's stamps. A response that does not
answer the latest request is discarded. -/
def execTimeResponse (s : State) : Out :=
  match takeEjected s (fun p => p.proto == 0xA && byteFld p.body 0 0 == 2) with
  | none => .next s
  | some (p, s) =>
    match s.tb.req with
    | none => .next s
    | some (q, t1) =>
      if byteFld p.body 4 7 ≠ q ∨ s.tb.parent ≠ some p.src then .next s
      else
        let t2 : Int := byteFld p.body 16 23
        let t3 : Int := byteFld p.body 24 31
        let t4 : Int := stamp16 s
        let off : Int := ((t2 - t1) - (t4 - t3)) / 2
        let dly : Int := ((t4 - t1) - (t3 - t2)) / 2
        let s := inc64 (hear s p) (pgTb + 0x40) 1
        let s := { s with tb := { s.tb with req := none, missed := 0 } }
        let s := setRegN (setRegN s (pgTb + 0x118) (code32 off)) (pgTb + 0x11C) (code32 dly)
        let s :=
          if !s.tb.locked ∧ !anyStep s ∧ (16000 < off ∨ off < -16000) then
            incSat { s with clk := { s.clk with tb := s.clk.tb + BitVec.ofInt 64 (off / 16) } } (pgTb + 0x50) 1
          else slewBy s off
        let s := lockBy s off
        .next (setParent (setRegN s (pgTb + 0x120) (code32 s.tb.rate)))

/-- TB_LOCK_LOSS (R367): ten periods have passed without a valid exchange; the rate is held. -/
def execTbLockLoss (s : State) : Out :=
  whenOk (s.tb.locked && decide (10 ≤ s.tb.missed)) s
    (evt (incSat { s with tb := { s.tb with locked := false, good := 0, slew := 0, slewLeft := 0 } } (pgTb + 0x48) 1) pgTb 1)

/-! ## Timed snapshots (R431 to R433) -/

/-- A snapshot requested for a time: the error code of a refusal, or 0 (R431). -/
def snapFault (s : State) (t : Nat) : Nat :=
  if s.lodge.snapAt.isSome then 0x1109 else if t < now s + 10000 then 0x1108 else 0

/-- A snapshot request (R431); before READY the Lodge takes none (R373). -/
def requestSnap (s : State) (t : Nat) : State :=
  if !ready s then s
  else if snapFault s t ≠ 0 then err s pgLodge (snapFault s t)
  else { s with lodge := { s.lodge with snapAt := some t } }

/-- SNAP_AT (R431): LODGE_SNAP_CMD AT, for the time in LODGE_SNAP_AT. -/
def execSnapAt (s : State) : Out :=
  guardWrite s (pgLodge) (.next (requestSnap s (pairN s (pgLodge + 0x108))))

/-- SNAP_NOW (R443): LODGE_SNAP_CMD NOW, 10 µs after the write. -/
def execSnapNow (s : State) : Out :=
  guardWrite s (pgLodge) (.next (requestSnap s (now s + 10000)))

/-- SNAP_CANCEL (R431, R443): the pending snapshot is cancelled. -/
def execSnapCancel (s : State) : Out :=
  guardWrite s (pgLodge) (.next { s with lodge := { s.lodge with snapAt := none } })

/-- A logical tile is absent once the map is published (R382). -/
def tileAbsent (s : State) (t : Nat) : Bool := s.boot.map.getD t 0 == 128

/-- The page of an address takes part in snapshots (R432, R445): every block but absent and physical tiles. -/
def snapPage (s : State) (p : Nat) : Bool :=
  let b := blockOf p
  b.1 != 0 && !(b.1 == 2 && (128 ≤ b.2 || tileAbsent s b.2))

/-- Where a counter's copy stands in its page's window: pool counters at 0x0C0 (R192, R209). -/
def windowAddr (a : Nat) : Nat := if a % 0x1000 < 0x100 then a else a - 0xC0

/-- Every counter is copied into its page's window (R432). -/
def copyCounters (s : State) : State :=
  let s := s.regs.c64.foldl (fun s e => if snapPage s (pageOf e.1) then setPair s (windowAddr e.1) e.2.toNat else s) s
  s.regs.c32.foldl (fun s e => if snapPage s (pageOf e.1) then setReg s (windowAddr e.1) e.2 else s) s

/-- SNAPSHOT_TAKE (R432, R433): at the pending time every present block copies its counters and advances its SNAP_TAG. -/
def execSnapshotTake (s : State) : Out :=
  match s.lodge.snapAt with
  | none => .next s
  | some t =>
    if now s < t then .next s
    else
      let tag := (regN s (pgLodge + 0x118) + 1) % 2 ^ 24
      let s := copyCounters s
      let s := (allPages.filter (snapPage s)).foldl (fun s p =>
        setRegN s (p + 0x2C) (tag + b2n (s.lodge.fresh.contains p) * 2 ^ 31)) s
      let s := setRegN (setPair s (pgLodge + 0x110) t) (pgLodge + 0x118) tag
      let s := { s with
      lodge := { s.lodge with
        snapAt := none, snapTag := tag, snapTs := t, snapUnlocked := !s.tb.locked, fresh := [] } }
      .next (evt (incSat s (pgLodge + 0x54) 1) pgLodge 0)

/-! ## Events, errors and readings (R435 to R437, R360) -/

/-- EVT_PEND_CLEAR (R435): a W1C write of a page's EVT_PEND clears the bits in EVT_PEND and EVT_RAW. -/
def execEvtPendClear (page bits : Nat) (s : State) : Out :=
  guardWrite s (pageOf page) (let p := pageOf page
  let clr := fun (s : State) (a : Nat) => setRegN s a (without (regN s a) bits)
  whenOk ((blockOf p).1 != 0) s (clr (clr s (p + 0x18)) (p + 0x10)))

/-- ERR_COUNT_READ (R437): the count is read and cleared, and capture is armed again. -/
def execErrCountRead (page : Nat) (s : State) : Out :=
  let p := pageOf page
  .next (setRegN (regAnswer s (regN s (p + 0x28))) (p + 0x28) 0)

/-- TPEAK_READ (R360): the highest temperature since the last read is read and cleared. -/
def execTpeakRead (u : Nat) (s : State) : Out :=
  whenOk (decide (u < 4)) s (setRegN (regAnswer s (regN s (pgBelv u + 0x108))) (pgBelv u + 0x108) 0)

/-- IRQ_HOLDOFF_END (R436): a rise during the hold-off sends the device event vector once. -/
def execIrqHoldoffEnd (s : State) : Out :=
  whenOk (s.lodge.holdRise && decide (s.lodge.holdUntil ≤ now s)) s
    (irqRise { s with lodge := { s.lodge with holdRise := false } })

end Sys2Proof.Machine
end

