-- ==== Sys2Proof/Machine/Host.lean ====
section
/-!
DEFINITION. The host interface (R389 to R410): doorbells, fetching, submission entries, completions, queue pairs, function
resets, the BAR2 window, power states and MSI-X.
-/

namespace Sys2Proof.Machine

open Sys2Proof Sys2Proof.Config

/-! ## Pairs, functions and violations -/

/-- The function of a pair: 0 the PF, n VF n (R409). -/
def pairFn (x : Qp) : Nat := fld x.cfg 12 10

/-- The partition of a pair (R394, R395). -/
def pairPart (x : Qp) : Nat := if pairFn x = 0 then fld x.cfg 14 13 else (pairFn x - 1) % 4

/-- A function exists: the PF, and VFs while VF Enable is set (R389). -/
def fnExists (s : State) (fn : Nat) : Bool := fn == 0 || decide (fn ≤ s.host.numVfs)

/-- A function decodes memory: it exists and is not in D3hot (R390). -/
def fnDecodes (s : State) (fn : Nat) : Bool := fnExists s fn && !s.host.d3.contains fn

/-- The pair that a function names by index: the PF every pair, a VF its own by local index (R410). -/
def resolvePair (s : State) (fn q : Nat) : Option Nat :=
  if fn = 0 then (if q < 256 then some q else none)
  else (List.range 256).find? (fun k => let x := getQp s k; pairFn x == fn && x.vfIdx == q && decide (q < 64))

/-- A violation is answered, counted, and recorded when it is the first (R407). One that no pair makes shows pair 0. -/
def hostViolation (s : State) (q code : Nat) : State :=
  let s := evt (incSat s (pgHost + 0x60) 1) pgHost 0
  let s := if regN s (pgHost + 0x15C) = 0 then setRegN s (pgHost + 0x15C) (q % 256 * 65536 + code) else s
  err s pgHost code

/-- A pair's violations in the running ms of time base. -/
def pairViol (s : State) (x : Qp) : Nat := if x.violSince = now s / 1000000 then x.viol else 0

/-- A violation of a pair, which counts toward its quarantine (R407). -/
def pairViolation (s : State) (q code : Nat) : State :=
  let x := getQp s q
  hostViolation (setQp s q { x with viol := pairViol s x + 1, violSince := now s / 1000000 }) q code

/-- A VF reaches outside its pairs or partition (R408). -/
def vfViolation (s : State) : State := hostViolation s 0 0x0D08

/-- A DMA entry ends with an error (R408). -/
def dmaError (s : State) (code : Nat) : State := err (evt (incSat s (pgHost + 0x6C) 1) pgHost 4) pgHost code

/-! ## Submission entries (R397, R398) -/

/-- Operand bytes `lo` to `hi` of a submission entry, by their place in the 64 bytes. -/
def opFld (e : Entry) (lo hi : Nat) : Nat := byteFld e.body (lo - 8) (hi - 8)

/-- Bytes `lo` to 63 of an entry are zero. -/
def restZero (e : Entry) (lo : Nat) : Bool := opFld e lo 63 == 0

/-- An entry's operands are in range and its reserved fields 0 (R398, R407). -/
def operandsOk (e : Entry) : Bool :=
  match e.opc with
  | 0 => restZero e 8
  | 1 => decide (opFld e 8 15 < 2 ^ 48) && opFld e 8 15 % 64 == 0 && opFld e 20 23 == 0 && restZero e 36
  | 2 | 3 => decide (opFld e 16 23 + opFld e 24 27 ≤ 2 ^ 48) && opFld e 24 27 != 0 && restZero e 28
  | 4 => decide (opFld e 16 17 < 120) && opFld e 18 21 % 64 == 0 && fld (opFld e 22 22) 6 5 == 0 && opFld e 23 23 == 0
      && opFld e 24 27 % 64 == 0 && opFld e 24 27 != 0 && decide (opFld e 18 21 + opFld e 24 27 ≤ tileBytes) && restZero e 28
  | 5 => opFld e 16 19 % 64 == 0 && opFld e 16 19 != 0 && opFld e 20 21 != 0 && restZero e 23
  | 6 => opFld e 8 21 == 0 && restZero e 23
  | _ => false

/-- A submission entry read from its 64 bytes. -/
def parseEntry (bs : List Byte) (seq after : Nat) : Entry :=
  { opc := byteFld bs 0 0, fence := bit (byteFld bs 1 1) 0, noint := bit (byteFld bs 1 1) 1, cid := byteFld bs 2 3,
    body := bs.drop 8, started := false, seq := seq, after := after }

/-- An entry is malformed (R397, R407). -/
def entryBad (bs : List Byte) (e : Entry) : Bool :=
  byteFld bs 1 1 / 4 != 0 || e.cid == 0xFFFF || byteFld bs 4 7 != 0 || !operandsOk e

/-- Steps of a partition that are queued or admitted, and STEP entries fetched and not queued yet (R400). -/
def stepsHeld (s : State) (n : Nat) : Nat :=
  (getPart s n).steps.length
    + ((s.host.qps.filter (fun e => pairPart e.2 == n)).flatMap (fun e =>
        e.2.entries.filter (fun x => x.opc == 1 && !x.started))).length

/-- A pair fetches no entry now (R390, R395, R400, R402, R407). -/
def fetchStops (s : State) (x : Qp) : Bool :=
  !x.enabled || x.draining || x.quarantined || !x.held.isEmpty || cqFull x || x.sqHead == x.sqTail
    || !fnDecodes s (pairFn x)
    || ((readHost s (x.sqBase + 64 * x.sqHead) 1 == [1]) && decide (8 ≤ stepsHeld s (pairPart x)))

/-- One entry is fetched; a malformed one is answered at once (R396, R407). -/
def fetchOne (s : State) (q : Nat) : State :=
  let x := getQp s q
  let r := fetchHost s (x.sqBase + 64 * x.sqHead) 64
  let after := (x.sqHead + 1) % sqSize x
  let seq := s.host.fetchSeq
  let e := parseEntry r.1 seq after
  let s := inc64 r.2 (pgHost + 0x40) 1
  let s := { s with host := { s.host with fetchSeq := seq + 1 } }
  let s := setQp s q { x with sqHead := after, entries := x.entries ++ [e] }
  if entryBad r.1 e then completeEntry (incSat (pairViolation s q 0x0D02) (pgHost + 0x68) 1) q seq 0x0D02 0 0 else s

/-- A pair's entries are fetched up to its tail, as far as it may fetch. -/
def fetchLoop : Nat → State → Nat → State
  | 0, s, _ => s
  | k + 1, s, q => if fetchStops s (getQp s q) then s else fetchLoop k (fetchOne s q) q

/-- A pair fetches (R396). -/
def fetchPair (s : State) (q : Nat) : State := fetchLoop (sqSize (getQp s q)) s q

/-- Every pair fetches what it may. -/
def fetchAll (s : State) : State := s.host.qps.foldl (fun s e => fetchPair s e.1) s

/-- An entry may start: a FENCE waits for every earlier entry of the SQ (R397). -/
def mayStart (x : Qp) (e : Entry) : Bool := !e.started && (!e.fence || x.entries.head? == some e)

/-- The next entry of an operation that a pair can start. -/
def nextEntry (s : State) (q opc : Nat) : Option Entry :=
  let x := getQp s q
  x.entries.find? (fun e => e.opc == opc && mayStart x e)

/-- An entry of a pair replaced. -/
def setEntryOf (s : State) (q : Nat) (e : Entry) : State :=
  let x := getQp s q
  setQp s q { x with entries := x.entries.map (fun y => if y.seq = e.seq then e else y) }

/-- A completion lets the pair fetch on. -/
def finish (s : State) (q seq status r0 r1 : Nat) : State := fetchPair (completeEntry s q seq status r0 r1) q

/-- An entry ends with a DMA error (R408). -/
def failEntry (s : State) (q : Nat) (e : Entry) (code : Nat) : State := finish (dmaError s code) q e.seq code 0 0

/-- The error code of a failed host read: 1 Unsupported Request or Completer Abort, otherwise a poisoned TLP (R408). -/
def readCode (rd : Nat) : Nat := if rd = 1 then 0x0D04 else 0x0D07

/-- A host read of an entry fails: a violation of the pair, and the entry's error completion (R407, R408). -/
def failRead (s : State) (q : Nat) (e : Entry) (code : Nat) : State :=
  let s := pairViolation s q code
  finish (evt (incSat s (pgHost + 0x6C) 1) pgHost 4) q e.seq code 0 0

/-! ## Doorbells (R396, R408) -/

/-- A bad doorbell is ignored and logged. -/
def badDoorbell (s : State) (q : Nat) : State := pairViolation (incSat s (pgHost + 0x64) 1) q 0x0D01

/-- A new SQ tail is bad. -/
def sqBad (x : Qp) (v : Nat) : Bool :=
  let n := sqSize x
  !x.enabled || x.draining || x.quarantined || decide (n ≤ v)
    || decide ((v + n - x.sqHead) % n < (x.sqTail + n - x.sqHead) % n)

/-- SQ_DOORBELL (R396): function `fn` writes the SQ tail doorbell of its pair `q`; the device fetches up to the tail. -/
def execSqDoorbell (fn q v : Nat) (s : State) : Out :=
  if !fnDecodes s fn then .next s
  else
    match resolvePair s fn q with
    | none => .next (vfViolation s)
    | some k =>
      let x := getQp s k
      let t := v % 65536
      if sqBad x t then .next (badDoorbell s k) else .next (fetchPair (setQp s k { x with sqTail := t }) k)

/-- A new CQ head is bad. A draining pair still takes it, so that its last completions can be written (log entry 27). -/
def cqBad (x : Qp) (v : Nat) : Bool :=
  let n := cqSize x
  !x.enabled || x.quarantined || decide (n ≤ v)
    || decide ((x.cqTail + n - x.cqHead) % n < (v + n - x.cqHead) % n)

/-- Held completions are written in order while the CQ has room (R402). -/
def releaseCompls : Nat → State → Nat → State
  | 0, s, _ => s
  | k + 1, s, q =>
    let x := getQp s q
    match x.held with
    | [] => s
    | c :: r => if cqFull x then s else releaseCompls k (writeCompl (setQp s q { x with held := r }) q c) q

/-- CQ_DOORBELL (R396, R402): the new CQ head frees room; held completions are written and fetching resumes. -/
def execCqDoorbell (fn q v : Nat) (s : State) : Out :=
  if !fnDecodes s fn then .next s
  else
    match resolvePair s fn q with
    | none => .next (vfViolation s)
    | some k =>
      let x := getQp s k
      let h := v % 65536
      if cqBad x h then .next (badDoorbell s k)
      else .next (fetchPair (releaseCompls x.held.length (setQp s k { x with cqHead := h }) k) k)

/-! ## Entries (R398 to R400) -/

/-- NOP (R398): completes at once. -/
def execNop (q : Nat) (s : State) : Out :=
  match nextEntry s q 0 with
  | none => .next s
  | some e => .next (finish s q e.seq 0 0 0)

/-- The order among the STEP entries of a partition that have not been queued: the place of the first fetched (R400). -/
def firstStepSeq (s : State) (n : Nat) : Option Nat :=
  (sortBy id ((s.host.qps.filter (fun e => pairPart e.2 == n)).flatMap (fun e =>
    (e.2.entries.filter (fun x => x.opc == 1 && !x.started)).map (fun x => x.seq)))).head?

/-- The entries of a host input list as T0 fills (R399). -/
def inputList (bs : List Byte) : List T0Fill :=
  (chunks 32 bs).map (fun e =>
    { addr := byteFld e 0 7, len := byteFld e 8 11, tile := byteFld e 12 13, handle := byteFld e 14 14, transpose := false,
      esize := 1, line := byteFld e 16 19, host := true, done := false })

/-- A host input list is well formed (R399). -/
def inputOk (bs : List Byte) : Bool :=
  (chunks 32 bs).all (fun e =>
    byteFld e 15 15 == 0 && byteFld e 20 31 == 0 && byteFld e 8 11 % 64 == 0 && byteFld e 8 11 != 0
      && decide (byteFld e 12 13 < 120) && byteFld e 14 14 != 0)

/-- A read of job memory for the host interface; a grain that is not readable is filled, and the access waits (R162, R176). -/
def hostRead (s : State) (n a len : Nat) : JobRes × State :=
  match jobFetch s 0 n a len with
  | (.wait ea g, s) => (.wait ea g, demandRange s n a len)
  | x => x

/-- The program image of a STEP: its header gives its length (R281). -/
def readImage (s : State) (n a : Nat) : JobRes × State :=
  match readPieces (cutGrains [(a, 64)]) s 0 n with
  | (.data h, s) => hostRead s n a (max 64 (byteFld h 4 7))
  | (.wait ea g, s) => (.wait ea g, demandRange s n a 64)
  | x => x

/-- The step of an image (R281 to R285, R399). -/
def newStep (s : State) (q : Nat) (e : Entry) (bs : List Byte) (inp : List T0Fill) : Step :=
  let p := parseImage bs
  { num := opFld e 16 19, progId := byteFld bs 0 3, image := opFld e 8 15, imageBytes := byteFld bs 4 7,
    check := byteFld bs 60 63, seed := byteFld bs 16 23, flags := byteFld bs 9 9, energy := byteFld bs 28 31,
    peak := byteFld bs 32 33, ectVersion := byteFld bs 24 27, layers := byteFld bs 34 35,
    tiles := (p.progs.map (fun x => 2 ^ x.tile)).sum, progs := p.progs, t0 := p.t0 ++ inp, streams := p.streams,
    plan := p.plan, frame := p.frame, slots := p.slots, binds := p.binds, queuedAt := now s, queuedAclk := s.clk.aclk,
    qp := q, ent := e.seq }

/-- A step whose image fails is refused before admission and never queued (R307). -/
def refuseImage (s : State) (n : Nat) (st : Step) (code : Nat) : State :=
  let t := (tilesOf (getPart s n).tiles).headD 0
  endStep (incSat (errIn s (pgTile t) code (some n) st.num) (pgTile t + 0xCC) 1) n st code true

/-- A STEP entry with a good list has its image read and its step queued, or refused; the image's grains may be waited for. -/
def queueStep (s : State) (q n : Nat) (e : Entry) (inp : List T0Fill) : State :=
  match readImage s n (opFld e 8 15) with
  | (.data bs, s) =>
    let p := getPart s n
    let st := newStep s q e bs inp
    let f := imageFault s.boot.map p (detMode s) bs
    let f := if f = 0 ∧ !inp.all (fun x => namesHandle st.progs x.tile x.handle) then 0x0208 else f
    let s := setPart s n { p with lastNum := some st.num }
    if f ≠ 0 then refuseImage s n st f
    else
      let s := setEntryOf s q { e with started := true }
      demandFill (setPart s n { getPart s n with steps := p.steps ++ [st] }) n st
  | (.unmapped, s) => refuseImage (grnFault s 0 n 0x0402) n (newStep s q e [] []) 0x0402
  | (.lost x, s) => finish (lostAccess s n x) q e.seq 0x0404 0 0
  | (.badTmap, s) => finish (partFault (grnFault s 0 n 0x0405) n 0x0405) q e.seq 0x0405 0 0
  | (.uncorr ea g, s) => uncorrGrain s n ea g (opFld e 8 15)
  | (_, s) => s

/-- A STEP entry ends before it is queued, with a code of its own (R408, R428). -/
def refuseEntry (s : State) (q : Nat) (e : Entry) (code : Nat) : State :=
  finish (incSat s (pgHost + 0x68) 1) q e.seq code 0 0

/-- STEP (R398 to R400, R408, R415): a step is queued in the order of fetching. `rd` is the outcome of the read of its input
list: 0 data, 1 Unsupported Request or Completer Abort, 2 poisoned. -/
def execStep (q rd : Nat) (s : State) : Out :=
  match nextEntry s q 1 with
  | none => .next s
  | some e =>
    let n := pairPart (getQp s q)
    let p := getPart s n
    let k := if opFld e 24 31 = 0 then 0 else opFld e 32 35
    let late := match p.lastNum with
      | some l => decide (opFld e 16 19 ≤ l)
      | none => false
    if firstStepSeq s n ≠ some e.seq then .next s
    else if 1024 < k then .next (refuseEntry (err s pgHost 0x0D0B) q e 0x0D0B)
    else if late then .next (refuseEntry (pairViolation s q 0x0D0A) q e 0x0D0A)
    else if p.state ≠ .opened ∧ p.state ≠ .stopped then .next (refuseEntry (err s pgHost 0x0104) q e 0x0104)
    else if k ≠ 0 ∧ rd ≠ 0 then .next (failRead s q e (readCode rd))
    else
      let r := fetchHost s (opFld e 24 31) (32 * k)
      if !inputOk r.1 then .next (refuseEntry (err r.2 pgHost 0x0D0B) q e 0x0D0B)
      else .next (queueStep r.2 q n e (inputList r.1))

/-- The pages of a byte range of job memory. -/
def pagesOf (a n : Nat) : List Nat :=
  (List.range ((a + n - 1) / 0x200000 - a / 0x200000 + 1)).map (fun i => (a / 0x200000 + i) * 0x200000)

/-- H2D may write a page: mapped, and homed here (R398, R408). -/
def pageHome (s : State) (n a : Nat) : Bool :=
  match walk s 0 n a with
  | .page _ w => peHomeDev w == myDev s
  | _ => false

/-- A range holds a grain that is not readable yet. -/
def mustWait (s : State) (n a len : Nat) : Bool :=
  (rangeState s n a len).any (fun r => match r with
    | .wait _ _ => true
    | _ => false)

/-- A range holds a LOST grain, or a Tier Map entry that cannot be read. -/
def rangeLost (s : State) (n a len : Nat) : Bool :=
  (rangeState s n a len).any (fun r => match r with
    | .lost _ | .badTmap => true
    | _ => false)

/-- H2D (R398, R408): host memory is copied into job memory. -/
def execH2d (q rd : Nat) (s : State) : Out :=
  match nextEntry s q 2 with
  | none => .next s
  | some e =>
    let n := pairPart (getQp s q)
    let a := opFld e 16 23
    let len := opFld e 24 27
    if !(pagesOf a len).all (pageHome s n) ∨ rangeLost s n a len then .next (failEntry s q e 0x0D0D)
    else if mustWait s n a len then .next (demandRange s n a len)
    else if rd ≠ 0 then .next (failRead s q e (readCode rd))
    else
      let r := fetchHost s (opFld e 8 15) len
      let t := newTag r.2
      match putRows 0 n t.1 true (grainRows a r.1) t.2 0 with
      | (.data _, s, _) => .next (setEntryOf (touchRows s n (grainRows a r.1)) q { e with started := true, tag := t.1 })
      | (.uncorr ea g, s, _) => .next (failEntry (uncorrGrain s n ea g a) q e 0x0505)
      | (_, s, _) => .next (failEntry s q e 0x0D0D)

/-- D2H (R398): job memory is copied to host memory. What its source meets is answered as a Granary request's (R190;
log entry 28). -/
def execD2h (q : Nat) (s : State) : Out :=
  match nextEntry s q 3 with
  | none => .next s
  | some e =>
    let n := pairPart (getQp s q)
    match hostRead s n (opFld e 16 23) (opFld e 24 27) with
    | (.data bs, s) => .next (setEntryOf (writeHost s (opFld e 8 15) bs) q { e with started := true })
    | (.unmapped, s) => .next (failEntry (grnFault s 0 n 0x0402) q e 0x0402)
    | (.lost x, s) => .next (failEntry (lostAccess s n x) q e 0x0404)
    | (.badTmap, s) => .next (failEntry (partFault (grnFault s 0 n 0x0405) n 0x0405) q e 0x0405)
    | (.uncorr ea g, s) => .next (uncorrGrain s n ea g (opFld e 16 23))
    | (_, s) => .next s

/-- H2T (R21, R24, R398): host data go as one unit to the die edge of a tile, for an armed arrival buffer. -/
def execH2t (q rd : Nat) (s : State) : Out :=
  match nextEntry s q 4 with
  | none => .next s
  | some e =>
    if rd ≠ 0 then .next (failRead s q e (readCode rd))
    else
      let t := opFld e 16 17
      let r := fetchHost s (opFld e 8 15) (opFld e 24 27)
      let u : Sys2Proof.Machine.Unit := {
        tile := t, bg := bit (opFld e 22 22) 7, part := pairPart (getQp s q), handle := 0, ctr := opFld e 22 22 % 32, off := 0,
        data := r.1, weight := false, cause := 9, again := false, link := t / 60, counts := true,
        direct := some (opFld e 18 21) }
      .next (setEntryOf (toEdge (soilUnit r.2 true u) u) q { e with started := true })

/-- RECV_BIND (R251, R398): a channel of the pair's partition is bound to a slot ring in host memory; a further binding replaces
it. -/
def execRecvBind (q : Nat) (s : State) : Out :=
  match nextEntry s q 5 with
  | none => .next s
  | some e =>
    let n := pairPart (getQp s q)
    let c := opFld e 22 22
    let b : Bind := {
      channel := c, part := n, host := true, qp := q, addr := opFld e 8 15, slotBytes := opFld e 16 19, slots := opFld e 20 21,
      next := 0, tile := 0, handle := 0, ctr := 0, bg := false, unbinding := false, freed := [] }
    let bs := s.host.binds.filter (fun x => !(x.channel == c && x.part == n))
    .next (finish { s with host := { s.host with binds := bs ++ [b] } } q e.seq 0 0 0)

/-- No message is being received on a channel of a partition. -/
def channelQuiet (s : State) (n c : Nat) : Bool := !s.atom.inMsgs.any (fun m => m.part == n && m.channel == c)

/-- A channel's binding leaves. -/
def dropBind (s : State) (n c : Nat) : State :=
  { s with host := { s.host with binds := s.host.binds.filter (fun x => !(x.channel == c && x.part == n)) } }

/-- RECV_UNBIND (R398): the channel takes no new message and is unbound once every slot in use is written or discarded. -/
def execRecvUnbind (q : Nat) (s : State) : Out :=
  match nextEntry s q 6 with
  | none => .next s
  | some e =>
    let n := pairPart (getQp s q)
    let c := opFld e 22 22
    if channelQuiet s n c then .next (finish (dropBind s n c) q e.seq 0 0 0)
    else
      let mark := fun (b : Bind) => if b.channel = c ∧ b.part = n then { b with unbinding := true } else b
      let s := { s with host := { s.host with binds := s.host.binds.map mark } }
      .next (setEntryOf s q { e with started := true })

/-- What a started entry waits for is over (R398). -/
def entryDone (s : State) (n : Nat) (e : Entry) : Bool :=
  match e.opc with
  | 2 => !s.grn.t2.any (fun r => r.kind == 1 && r.store == e.tag)
  | 3 => true
  | 4 => !(inFlight s).any (fun u => u.cause == 9 && isH2t u e)
  | 6 => channelQuiet s n (opFld e 22 22)
  | _ => false

/-- DMA_TRANSFER_DONE (R398, R401, R408): the entry at place `seq` in the order of fetching finishes and completes. -/
def execDmaTransferDone (q seq : Nat) (s : State) : Out :=
  let x := getQp s q
  let n := pairPart x
  match x.entries.find? (fun e => e.seq == seq && e.started) with
  | none => .next s
  | some e =>
    if !entryDone s n e then .next s
    else if e.bad ≠ 0 then .next (failEntry s q e e.bad)
    else .next (finish (if e.opc = 6 then dropBind s n (opFld e 22 22) else s) q seq 0 0 0)

/-- The queued step of an entry, if its host input is still to be read. -/
def inputStep (s : State) (n seq : Nat) : Option Step :=
  (getPart s n).steps.find? (fun st => st.ent == seq && st.phase == .queued && st.t0.any (fun f => f.host && !f.done))

/-- HOST_READ_TIMEOUT (R408): a host read of the entry at place `seq` has not completed for 50 ms; the entry ends with 0x0D04, and
a queued step whose input was being read with it. -/
def execHostReadTimeout (q seq : Nat) (s : State) : Out :=
  let x := getQp s q
  let n := pairPart x
  match x.entries.find? (fun e => e.seq == seq && (e.opc == 1 || e.opc == 2 || e.opc == 4)) with
  | none => .next s
  | some e =>
    if !e.started then whenOk (mayStart x e) s (failRead s q e 0x0D04)
    else
      match inputStep s n seq with
      | none => .next s
      | some st =>
        let s := evt (incSat (pairViolation s q 0x0D04) (pgHost + 0x6C) 1) pgHost 4
        let s := endStep s n st 0x0D04 true
        .next (setPart s n { getPart s n with steps := (getPart s n).steps.filter (fun x => x.ent != seq) })

/-- IRQ_COALESCE_TIMEOUT (R403): TIME µs after the first coalesced completion the pair's vector is sent. -/
def execIrqCoalesceTimeout (q : Nat) (s : State) : Out :=
  let x := getQp s q
  whenOk (x.coalCount != 0 && decide (x.coalFirst + 1000 * fld x.coal 31 16 ≤ now s)) s (qpIrq s q)

/-! ## Queue pairs (R395, R407) -/

/-- Heads, tails and PHASE as ENABLE leaves them. -/
def freshHeads (x : Qp) : Qp :=
  { x with sqHead := 0, sqTail := 0, cqHead := 0, cqTail := 0, phase := true, held := [], coalCount := 0 }

/-- A command of HOST_QP_CMD acts on the pair that a function names. -/
def onPair (s : State) (fn q : Nat) (k : Nat → Qp → State) : Out :=
  if !fnDecodes s fn then .next s
  else
    match resolvePair s fn q with
    | none => .next (vfViolation s)
    | some i => .next (k i (getQp s i))

/-- QP_ENABLE (R395). An enabled pair keeps its heads. -/
def execQpEnable (fn q : Nat) (s : State) : Out :=
  onPair s fn q (fun i x => if x.enabled then s else setQp s i { freshHeads x with enabled := true })

/-- QP_DISABLE (R395): the pair stops fetching and drains. -/
def execQpDisable (fn q : Nat) (s : State) : Out :=
  onPair s fn q (fun i x => if x.enabled then setQp s i { x with draining := true } else s)

/-- QP_DRAIN_DONE (R395): every fetched entry of a draining pair has completed. -/
def execQpDrainDone (q : Nat) (s : State) : Out :=
  let x := getQp s q
  whenOk (x.draining && x.entries.isEmpty && x.held.isEmpty) s (setQp s q { x with enabled := false, draining := false })

/-- QP_QUARANTINE (R407, R408): a pair has more than HOST_VIOL_LIMIT violations in the running ms. -/
def execQpQuarantine (q : Nat) (s : State) : Out :=
  let x := getQp s q
  whenOk (!x.quarantined && decide (max 1 (regN s (pgHost + 0x130)) < pairViol s x)) s
    (err (evt (incSat (setQp s q { x with quarantined := true }) (pgHost + 0x70) 1) pgHost 1) pgHost 0x0D03)

/-- QP_UNQUARANTINE (R407): the pair's own function releases it; heads and tails restart as at ENABLE. -/
def execQpUnquarantine (fn q : Nat) (s : State) : Out :=
  onPair s fn q (fun i x =>
    if x.quarantined ∧ pairFn x = fn then setQp s i { freshHeads x with quarantined := false, viol := 0 } else s)

/-! ## Function resets (R394) -/

/-- A pair after a function reset: its entries and held completions are dropped. -/
def dropPair (x : Qp) : Qp := { freshHeads x with enabled := false, draining := false, quarantined := false, entries := [] }

/-- A partition reset is requested (R369). -/
def requestReset (s : State) (n : Nat) : State := setPart s n { getPart s n with resetPending := some 0x0105 }

/-- Registers of a page from `lo` to `hi` return to their reset values. -/
def resetSpan (s : State) (lo hi : Nat) : State :=
  { s with regs := { s.regs with val := NMap.delIf s.regs.val (fun a => lo ≤ a && a ≤ hi) } }

/-- The page of a VF (R410); it lies beyond the PF's BAR0. -/
def pgVf (n : Nat) : Nat := 0x4000000 + 0x1000 * n

/-- What a PF function reset does (R394). -/
def pfReset (s : State) : State :=
  let s := (List.range 4).foldl requestReset s
  let s := { s with
    host := { s.host with
      qps := s.host.qps.map (fun e => (e.1, dropPair e.2)), msix := [], pba := [], mboxBusy := false } }
  let s := (List.range 5).foldl (fun s n =>
    let b := if n = 0 then pgHost else pgVf n
    resetSpan s (b + 0x134) (b + 0x13C)) s
  evt (resetSpan (resetSpan s (pgHost + 0x148) (pgHost + 0x14C)) (pgHost + 0x400) (pgHost + 0x5FC)) pgHost 5

/-- PF_FLR (R394). -/
def execPfFlr (s : State) : Out := .next (pfReset s)

/-- VF_FLR (R394): partition n − 1 is reset, the VF's pairs are disabled and its MSI-X table is cleared. -/
def execVfFlr (n : Nat) (s : State) : Out :=
  if n = 0 ∨ 4 < n ∨ !fnExists s n then .next s
  else
    let s := requestReset s (n - 1)
    .next (evt { s with
      host := { s.host with
        qps := s.host.qps.map (fun e => (e.1, if pairFn e.2 = n then dropPair e.2 else e.2)),
        msix := NMap.delIf s.host.msix (fun k => k / 256 == n), pba := NMap.delIf s.host.pba (fun k => k / 256 == n) } } pgHost 5)

/-- HOT_RESET (R394): hot reset or link down acts as a PF FLR and the link retrains. -/
def execHotReset (s : State) : Out :=
  .next { pfReset s with host := { (pfReset s).host with linkUp := false } }

/-! ## BAR2 (R392) -/

/-- The page that holds a function's window configuration. -/
def barPage (fn : Nat) : Nat := if fn = 0 then pgHost else pgVf fn

/-- What a BAR2 offset of a function addresses: none while the window is disabled, else PHYS and the address, or the partition
and the job address. -/
def barTarget (s : State) (fn off : Nat) : Option (Option Nat × Nat) :=
  let b := barPage fn
  let cfg := regN s (b + 0x13C)
  let a := pairN s (b + 0x134) + off
  if !bit cfg 31 then none
  else if fn = 0 ∧ bit cfg 30 then some (none, a)
  else some (some (if fn = 0 then fld cfg 1 0 else (fn - 1) % 4), a % 2 ^ 48)

/-- A BAR2 access meets data it cannot read or write (R392). -/
def barError (s : State) : State := err s pgHost 0x0D05

/-- Data of a BAR2 read; it answers in `rdata`. -/
def barAnswer (s : State) (bs : List Byte) : State := { s with rdata := bs }

/-- A read of T1 through the PHYS window, block by block: an uncorrectable block reads zeros (R392). -/
def physRead (s : State) (a n : Nat) : State :=
  match t1Read s a n with
  | (some bs, s) => barAnswer s bs
  | (none, s) =>
    let bad := (blocksOf a n).filter (blockBad s)
    let zero := fun (i : Nat) => if bad.contains ((a + i) / 64 * 64) then (0 : Byte) else (t1Raw s (a + i) 1).headD 0
    barAnswer (bad.foldl ueOwner (barError s)) ((List.range n).map zero)

/-- BAR2_READ (R392): a function reads `n` bytes at an offset of its window. A job read that meets a grain that is not readable
yet answers nothing, and the bus repeats it (log entry 29). -/
def execBar2Read (fn off n : Nat) (s : State) : Out :=
  if !fnDecodes s fn then .next s
  else
    match barTarget s fn off with
    | none => .next (barAnswer s (List.replicate n 0))
    | some (none, a) => if t1Bytes < a + n then .fault (.t1Address a) else .next (physRead s a n)
    | some (some p, a) =>
      match hostRead s p a n with
      | (.data bs, s) => .next (barAnswer s bs)
      | (.wait _ _, s) | (.remote _ _ _ _ _, s) => .next s
      | (.uncorr ea g, s) => .next (barAnswer (uncorrGrain (barError s) p ea g a) (List.replicate n 0))
      | (_, s) => .next (barAnswer (barError s) (List.replicate n 0))

/-- Buffered copies of reserved-frame lines that a PHYS write changes are invalidated (R392). -/
def dropBuffers (s : State) (a n : Nat) : State :=
  let inside := fun (w x : Nat) => decide (x < a + n) && decide (a < x + w)
  { s with
    grn := { s.grn with
      live := NMap.delIf s.grn.live (inside 64), pageBuf := s.grn.pageBuf.filter (fun e => !inside 64 e.2),
      dirBuf := s.grn.dirBuf.filter (fun e => !inside 8 e.2) },
    atom := { s.atom with
      leafBuf := s.atom.leafBuf.filter (fun x => !inside 8 x), dirBuf := s.atom.dirBuf.filter (fun x => !inside 8 x) } }

/-- A PHYS write (R328, R392): a narrow write to an uncorrectable block is discarded. -/
def physWrite (s : State) (a : Nat) (bs : List Byte) : State :=
  let s := if reservedFrame (a / 0x200000) ∨ reservedFrame ((a + bs.length - 1) / 0x200000) then dropBuffers s a bs.length else s
  match t1Write s a bs with
  | (true, s) => s
  | (false, s) => ((blocksOf a bs.length).filter (blockBad s)).foldl ueOwner (barError s)

/-- BAR2_WRITE (R392, R408): a function writes bytes at an offset of its window; a poisoned TLP is discarded. -/
def execBar2Write (fn off : Nat) (bs : List Byte) (poisoned : Bool) (s : State) : Out :=
  if !fnDecodes s fn ∨ bs.isEmpty then .next s
  else if poisoned then .next (hostViolation s 0 0x0D07)
  else
    match barTarget s fn off with
    | none => .next s
    | some (none, a) => if t1Bytes < a + bs.length then .fault (.t1Address a) else .next (physWrite s a bs)
    | some (some p, a) =>
      if mustWait s p a bs.length then .next (demandRange s p a bs.length)
      else
        let t := newTag s
        match putRows 0 p t.1 true (grainRows a bs) t.2 0 with
        | (.data _, s, _) => .next (touchRows s p (grainRows a bs))
        | (.uncorr ea g, s, _) => .next (uncorrGrain (barError s) p ea g a)
        | (_, s, _) => .next (barError s)

/-! ## Functions and interrupts -/

/-- VF_ENABLE (R389): NumVFs virtual functions exist. -/
def execVfEnable (n : Nat) (s : State) : Out := .next { s with host := { s.host with numVfs := min n 4 } }

/-- Vectors of a function that are pending and unmasked are sent (R403). -/
def sendPending (s : State) (fn : Nat) : State :=
  (s.host.pba.filter (fun e => e.1 / 256 == fn && !(NMap.get (fun _ => (0, 0, true)) s.host.msix e.1).2.2)).foldl (fun s e =>
    msixSend { s with host := { s.host with pba := NMap.set (fun _ => false) s.host.pba e.1 false } } fn (e.1 % 256)) s

/-- D3HOT (R390): a function enters or leaves D3hot; its state is kept. -/
def execD3hot (fn : Nat) (enter : Bool) (s : State) : Out :=
  if !fnExists s fn then .next s
  else
    let rest := s.host.d3.filter (fun f => f != fn)
    if enter then .next { s with host := { s.host with d3 := rest ++ [fn] } }
    else .next (fetchAll (sendPending { s with host := { s.host with d3 := rest } } fn))

/-- Vectors of a function's MSI-X table (R389). -/
def vectorCount (fn : Nat) : Nat := if fn = 0 then 256 else 32

/-- MSIX_VECTOR_UNMASK (R403): a vector's entry is written and unmasked; a pending interrupt is sent. -/
def execMsixVectorUnmask (fn v addr data : Nat) (s : State) : Out :=
  let k := fn * 256 + v
  if !fnDecodes s fn ∨ vectorCount fn ≤ v then .next s
  else
    let s := { s with host := { s.host with msix := NMap.set (fun _ => (0, 0, true)) s.host.msix k (addr, data, false) } }
    .next (sendPending s fn)

end Sys2Proof.Machine
end

