-- ==== Sys2Proof/Machine/Mailbox.lean ====
section
/-!
DEFINITION. The management mailbox: partitions, job stamps, quotas, lenders and readings (R405, R411 to R426). A command brings the
request's bytes as software wrote them to HOST_MBOX_REQ; its first byte is the OPC.
-/

namespace Sys2Proof.Machine

open Sys2Proof Sys2Proof.Config

/-! ## Requests and responses -/

/-- A command's answer: error code, result bytes from byte 4 on, and the new state. -/
structure MboxAns where
  code : Nat
  res : List Byte
  st : State

/-- A success without results. -/
def done (s : State) : MboxAns := ⟨0, [], s⟩

/-- A refusal: the command is not executed. -/
def refuse (s : State) (code : Nat) : MboxAns := ⟨code, [], s⟩

/-- A mailbox completion sets MBOX_DONE and sends the device event vector (R403, R405). -/
def mboxDone (s : State) : State :=
  let was := bit (regN s (pgHost + 0x18)) 2
  let s := evt s pgHost 2
  if was || bit (regN s (pgHost + 0x14)) 2 || !bit (regN s (pgHost + 8)) 0 then irqRise s else s

/-- The response of a request is written and BUSY clears (R405, R425). -/
def respond (s : State) (code : Nat) (res : List Byte) : State :=
  let b := leBytes 4 (regN s (pgHost + 0x400)) ++ res
  let s := if code = 0 then s else err s pgLodge code
  let s := setRegs s (pgHost + 0x500) (padTo 256 b)
  let s := setRegN s (pgHost + 0x14C) (b.length % 512 * 65536 + code)
  mboxDone (incSat { s with host := { s.host with mboxBusy := false } } (pgLodge + 0x5C) 1)

/-- The mailbox can be used: the PF decodes, the Lodge firmware runs, and no core unit is bad (R383, R390). -/
def mboxOpen (s : State) : Bool := fnDecodes s 0 && s.lodge.running && !bit s.boot.cls 4

/-- A request's bytes `n` to 255 are zero, and its reserved byte 1 and every byte that `rsv` names. -/
def reservedZero (req : List Byte) (n : Nat) (rsv : List Nat) : Bool :=
  (1 :: rsv).all (fun i => byteFld req i i == 0) && leNat (req.drop n) == 0

/-- A request of a command: `n` operand bytes in all, `rsv` reserved ones among them. A request that comes while one is in progress is
ignored (R405); a malformed one, or one whose OPC is not the command's, is refused with 0x1101. -/
def mailbox (s : State) (opc n : Nat) (rsv : List Nat) (req : List Byte) (k : State → MboxAns) : Out :=
  if !mboxOpen s then .next s
  else if s.host.mboxBusy then .next (hostViolation s 0 0x0D09)
  else
    let s := setRegN (setRegs s (pgHost + 0x400) (padTo (roundUp req.length 4) req)) (pgHost + 0x148) (req.length % 512)
    if byteFld req 0 0 ≠ opc ∨ req.length < n ∨ 256 < req.length ∨ !reservedZero req n rsv then .next (respond s 0x1101 [])
    else
      let a := k s
      .next (if a.st.host.mboxBusy then a.st else respond a.st a.code a.res)

/-- Operand bytes of a request. -/
def rq (req : List Byte) (lo hi : Nat) : Nat := byteFld req lo hi

/-- A command of one partition, allowed in some of its states (R425). -/
def onPart (req : List Byte) (ok : List PartState) (s : State) (k : Nat → Part → MboxAns) : MboxAns :=
  let n := rq req 4 4
  if 4 ≤ n then refuse s 0x1101
  else
    let p := getPart s n
    if ok.contains p.state then k n p else refuse s 0x1102

/-! ## Partition records (R413, R414) -/

/-- The fields of a partition record of 72 bytes written into a partition. -/
def recordPart (p : Part) (r : List Byte) : Part :=
  { p with
    tiles := byteFld r 0 15, frame0 := byteFld r 16 23, frame1 := byteFld r 24 31, eptBase := byteFld r 32 33,
    eptLen := byteFld r 34 35, senderTrusted := bit (byteFld r 36 36) 0, thrBanks := byteFld r 37 37 % 4,
    thrSort := bit (byteFld r 37 37) 2, thrStreams := byteFld r 38 38 % 16, thrTags := byteFld r 38 38 / 16,
    egress := byteFld r 39 39, tmapDir := byteFld r 40 47, saveBase := byteFld r 48 55, quota0 := byteFld r 56 59,
    quota1 := byteFld r 60 63, contexts := byteFld r 64 65, quantum := byteFld r 66 67, rank := byteFld r 68 68,
    staging := byteFld r 69 69 }

/-- A partition record's reserved fields are 0 and its values in range (R413). -/
def recordForm (r : List Byte) : Bool :=
  decide (byteFld r 0 15 < 2 ^ 120) && decide (byteFld r 36 36 < 2) && decide (byteFld r 37 37 < 8)
    && decide (byteFld r 40 47 < 2 ^ 41) && decide (byteFld r 48 55 < 2 ^ 48) && decide (byteFld r 64 65 ≤ 16384)
    && byteFld r 66 67 != 0 && byteFld r 70 71 == 0 && decide (byteFld r 32 33 + byteFld r 34 35 ≤ 256)

/-- A partition holds tiles of a die. -/
def onDie (p : Part) (d : Nat) : Bool := fld p.tiles (60 * d + 59) (60 * d) != 0

/-- A partition holds tiles of a quadrant: Thresher unit u serves logical tiles 15u to 15u + 14 (R60). -/
def onQuad (p : Part) (u : Nat) : Bool := fld p.tiles (15 * u + 14) (15 * u) != 0

/-- Two ranges of units meet. -/
def rangesMeet (a la b lb : Nat) : Bool := la != 0 && lb != 0 && decide (a < b + lb) && decide (b < a + la)

/-- Two partitions keep their shares apart (R414). -/
def apart (p q : Part) : Bool :=
  (!(onDie p 0 && onDie q 0) || Nat.land p.frame0 q.frame0 == 0)
    && (!(onDie p 1 && onDie q 1) || Nat.land p.frame1 q.frame1 == 0)
    && !rangesMeet p.eptBase p.eptLen q.eptBase q.eptLen
    && (List.range 8).all (fun u => !(onQuad p u && onQuad q u)
        || (Nat.land p.thrBanks q.thrBanks == 0 && Nat.land p.thrStreams q.thrStreams == 0
            && Nat.land p.thrTags q.thrTags == 0 && !(p.thrSort && q.thrSort)))

/-- The configured partitions other than `n`. -/
def otherParts (s : State) (n : Nat) : List Part :=
  ((List.range 4).filter (fun m => m != n)).map (getPart s) |>.filter (fun p => p.state != .free)

/-- The staging share that a partition has or is about to have (R422). -/
def stagingOf (p : Part) : Nat := p.stagingNext.getD p.staging

/-- A staging share fits beside the others' (R414). -/
def stagingFits (s : State) (n v : Nat) : Bool :=
  decide (1 ≤ v) && decide (v + ((otherParts s n).map stagingOf).sum ≤ 64)

/-- A record breaks no rule of R414. -/
def recordFits (s : State) (n : Nat) (p : Part) : Bool :=
  let os := otherParts s n
  os.all (apart p) && stagingFits s n p.staging
    && [0, 1].all (fun d => !onDie p d || (decide (1 ≤ p.egress) && decide (p.egress ≤ 32)
        && decide (p.egress + ((os.filter (fun q => onDie q d)).map (fun q => q.egress)).sum ≤ 32)))

/-- The registers that a partition record is written to (R413). -/
def writeRecord (s : State) (n : Nat) (p : Part) : State :=
  let s := [0, 1].foldl (fun s d =>
    let s := setPair s (pgGrn d + 0x108 + 8 * n) p.tmapDir
    quotaWrite (assignFrame s p.tmapDir (4 * n)) d n (if d = 0 then p.quota0 else p.quota1)) s
  let s := setRegN s (pgShf + 0x138 + 4 * n) (p.eptLen * 65536 + p.eptBase)
  setRegN s (pgAtom + 0x108) (setFld (regN s (pgAtom + 0x108)) n n (b2n p.senderTrusted))

/-- PART_SET (R413, R414, R425). -/
def execPartSet (req : List Byte) (s : State) : Out :=
  mailbox s 0x01 80 [5, 6, 7] req (fun s =>
    onPart req [.free, .configured] s (fun n p =>
      let r := (req.drop 8).take 72
      let q := { recordPart p r with
                                     state := .configured, lastNum := none, stagingNext := none, contextsNext := none,
                                     quantumNext := none, rankNext := none }
      if !recordForm r then refuse s 0x1101
      else if !recordFits s n q then refuse s 0x1103
      else done (setPart (writeRecord s n q) n q)))

/-- The valid page entries of a partition's Tier Map, through every valid directory entry; a block that cannot be read is reported
(R160, R331). -/
def pagesOfMap (s : State) (n : Nat) : List Nat :=
  (List.range 32768).flatMap (fun i =>
    let d := leNat (t1Raw s (dirBase s 0 n + 8 * i) 8)
    if bit d 63 then ((List.range 4096).map (fun j => fld d 40 0 + 64 * j)).filter (fun ea => bit (entryW s ea) 63) else [])

/-- A Tier Map block of a partition cannot be read (R331). -/
def mapBad (s : State) (n : Nat) : Bool :=
  dirBase s 0 n != 0 && (List.range 4096).any (fun i => blockBad s (dirBase s 0 n + 64 * i))

/-- PART_FREE (R425): pages, leases, the EPT range and communicators of the partition are released. -/
def freePart (s : State) (n : Nat) : State :=
  let p := getPart s n
  let s := if mapBad s n then grnFault s 0 n 0x0405 else s
  let s := (pagesOfMap s n).foldl (fun s ea => releasePage s n ea) s
  let inRange := fun (k : Nat) => p.eptBase * 256 ≤ k % 65536 && k % 65536 < (p.eptBase + p.eptLen) * 256
  let mine := fun (e : Nat) => bit e 80 && fld e 82 81 == n
  let s := setLeases s (s.grn.leases.filter (fun l => l.part != n))
  { s with
    grn := { s.grn with
      assigned := s.grn.assigned.filter (fun e => e.2 != 4 * n),
      dirBuf := s.grn.dirBuf.filter (fun e => !(dirBase s 0 n ≤ e.2 && e.2 < dirBase s 0 n + 0x40000)) },
    sheaf := { s.sheaf with ept := NMap.delIf s.sheaf.ept inRange, eptBad := NMap.delIf s.sheaf.eptBad inRange },
    pav := { s.pav with comms := s.pav.comms.filter (fun e => !mine e.2) } }

/-- PART_FREE (R425). -/
def execPartFree (req : List Byte) (s : State) : Out :=
  mailbox s 0x02 5 [] req (fun s =>
    onPart req [.configured] s (fun n _ =>
      let s := freePart s n
      done (setPart s n { getPart s n with state := .free })))

/-! ## Jobs (R415 to R421) -/

/-- A stamp table entry replaced; it changes whole (R416). -/
def setStamp (s : State) (tag e : Nat) : State :=
  { s with fab := { s.fab with stamps := NMap.set (fun _ => 0) s.fab.stamps tag e } }

/-- The fields of a stamp table entry (R416): STATE, EPOCH, MEMBER, LENDER, PART. -/
def stampEnt (st ep : Nat) (member lender : Bool) (part : Nat) : Nat :=
  st * 2 ^ 14 + ep * 2 ^ 10 + b2n member * 2 ^ 9 + b2n lender * 2 ^ 8 + part * 2 ^ 6

/-- JOB_OPEN (R416, R425): the stamp is LIVE and the partition OPEN. -/
def execJobOpen (req : List Byte) (s : State) : Out :=
  mailbox s 0x03 8 [5] req (fun s =>
    onPart req [.configured] s (fun n p =>
      let stamp := rq req 6 7
      let e := stampEntry s (stamp / 16)
      if stamp / 16 = 0 ∨ fld e 15 14 ≠ 0 then refuse s 0x1105
      else
        let s := setStamp s (stamp / 16) (stampEnt 1 (stamp % 16) true false n)
        done (setPart s n { p with state := .opened, stamp := stamp, lastNum := none, firstError := 0 })))

/-- A partition runs no step and no instance (R418). -/
def partIdle (s : State) (n : Nat) : Bool :=
  (getPart s n).steps.isEmpty && !s.sheaf.insts.any (fun i => i.part == n) && !s.pav.insts.any (fun i => i.part == n)

/-- JOB_EPOCH (R418). -/
def execJobEpoch (req : List Byte) (s : State) : Out :=
  mailbox s 0x04 6 [] req (fun s =>
    onPart req [.opened] s (fun n p =>
      let ep := rq req 5 5
      let tag := p.stamp / 16
      if 16 ≤ ep then refuse s 0x1101
      else if !partIdle s n then refuse s 0x1102
      else
        let s := setStamp s tag (setFld (stampEntry s tag) 13 10 ep)
        done (setPart s n { p with stamp := tag * 16 + ep })))

/-- PART_STOP (R131, R425, R426): the partition's tiles stop. -/
def execPartStop (req : List Byte) (s : State) : Out :=
  mailbox s 0x05 5 [] req (fun s =>
    onPart req [.opened] s (fun n p =>
      done (requestStop (setPart s n { p with state := .stopped, stopCmd := true }) n)))

/-- PART_RESUME (R133, R415): the tiles resume once no hold is in force. -/
def execPartResume (req : List Byte) (s : State) : Out :=
  mailbox s 0x06 5 [] req (fun s =>
    onPart req [.stopped] s (fun n p =>
      done (maybeResume (setPart s n { p with state := .opened, stopCmd := false }) n)))

/-- PART_RESET (R369, R415, R426): the tiles reset at the next frame boundary and the partition is OPEN. -/
def execPartReset (req : List Byte) (s : State) : Out :=
  mailbox s 0x07 5 [] req (fun s =>
    onPart req [.opened, .stopped, .faulted] s (fun n p =>
      done (setPart s n { p with resetPending := some 0x0105, resetOpens := true })))

/-- JOB_CLOSE (R419): partition and stamp are CLOSING; the tiles reset at the next frame boundary. -/
def execJobClose (req : List Byte) (s : State) : Out :=
  mailbox s 0x08 5 [] req (fun s =>
    onPart req [.opened, .stopped, .faulted] s (fun n p =>
      let tag := p.stamp / 16
      let s := setStamp s tag (setFld (stampEntry s tag) 15 14 2)
      done (setPart s n { p with state := .closing, resetPending := some 0x0105, resetOpens := false })))

/-- A packet carries a tag. -/
def tagged (tag : Nat) (p : Pkt) : Bool := p.stamp / 16 == tag

/-- The outstanding count of a tag (R420): what the device issued and is neither answered nor failed, what waits or is in progress at its
units, and what its router buffers hold. -/
def outstanding (s : State) (tag : Nat) : Nat :=
  let part := fld (stampEntry s tag) 7 6
  let mine := fun (m : Nat) => (getPart s m).stamp / 16 == tag && bit (stampEntry s tag) 9
  let issued := ((s.atom.out ++ s.atom.held).filter (fun r => r.stamp / 16 == tag)).length
    + (s.atom.combs.filter (fun c => c.stamp / 16 == tag)).length
    + ((s.pav.insts.filter (fun i => mine i.part)).flatMap (fun i => i.outs.filter (fun o => !o.dests.isEmpty))).length
  let units := (s.fab.ejected.filter (tagged tag)).length + (s.pav.early.filter (tagged tag)).length
    + (s.sheaf.held.filter (fun h => tagged tag h.pkt)).length
    + (s.atom.inMsgs.filter (fun m => m.part == part && mine m.part)).length
    + (s.grn.stores.filter (fun x => match x.resp with
        | some p => tagged tag p
        | none => false)).length
  let router := (s.fab.inject.filter (tagged tag)).length + (s.fab.arrived.filter (fun e => tagged tag e.2)).length
    + (s.fab.ports.flatMap (fun e => (e.2.queue ++ e.2.sent).filter (fun q => tagged tag q.pkt))).length
  issued + units + router

/-- QUIESCE (R420). -/
def execQuiesce (req : List Byte) (s : State) : Out :=
  mailbox s 0x09 6 [] req (fun s =>
    let tag := rq req 4 5
    if 4096 ≤ tag then refuse s 0x1101
    else
      ⟨0, leBytes 4 0 ++ leBytes 4 (outstanding s tag) ++ [BitVec.ofNat 8 (fld (stampEntry s tag) 15 14), 0, 0, 0]
        ++ leBytes 8 (now s), s⟩)

/-- A stamp entry without MEMBER, or without LENDER; with neither left it is UNKNOWN (R421). -/
def dropRole (e b : Nat) : Nat :=
  let e := setFld e b b 0
  if fld e 9 8 = 0 then 0 else e

/-- JOB_RELEASE (R421): refused while the tag's outstanding count is not zero. -/
def execJobRelease (req : List Byte) (s : State) : Out :=
  mailbox s 0x0A 5 [] req (fun s =>
    onPart req [.closing] s (fun n p =>
      let tag := p.stamp / 16
      if outstanding s tag ≠ 0 then refuse s 0x1104
      else done (setPart (setStamp s tag (dropRole (stampEntry s tag) 9)) n { p with state := .configured, stamp := 0 })))

/-! ## Quotas and limits (R422, R423) -/

/-- SET_QUOTA (R422). -/
def execSetQuota (req : List Byte) (s : State) : Out :=
  mailbox s 0x0B 24 [5, 6, 7, 22, 23] req (fun s =>
    onPart req [.opened, .stopped] s (fun n p =>
      let st := rq req 21 21
      if 16384 < rq req 16 17 ∨ rq req 18 19 = 0 then refuse s 0x1101
      else if !stagingFits s n st then refuse s 0x1103
      else
        let s := setPart s n { p with
          quota0 := rq req 8 11, quota1 := rq req 12 15, contextsNext := some (rq req 16 17),
          quantumNext := some (rq req 18 19), rankNext := some (rq req 20 20), stagingNext := some st }
        let s := quotaWrite (quotaWrite s 0 n (rq req 8 11)) 1 n (rq req 12 15)
        done (if partIdle s n then takeQuotas s n else s)))

/-- SET_ALLOT (R343, R423). -/
def execSetAllot (req : List Byte) (s : State) : Out :=
  mailbox s 0x0C 14 [4, 5, 6, 7] req (fun s =>
    let s := writeLimit s (pgGate + 0x108) 10000 s.fuse.grade.allotMax (rq req 8 11)
    done (writeLimit s (pgGate + 0x10C) 20 s.fuse.grade.ilimitMax (rq req 12 13)))

/-! ## Lenders (R181, R184, R424) -/

/-- The frame numbers of a request from byte 12 on. -/
def reqFrames (req : List Byte) (k : Nat) : List Nat := (List.range k).map (fun i => rq req (12 + 4 * i) (15 + 4 * i))

/-- What a die can still lend. -/
def offerLeft (s : State) (d : Nat) : Nat :=
  min (regN s (pgGrn d + 0x14C) - regN s (pgGrn d + 0x150)) (regN s (pgGrn d + 0x148))

/-- Frames are recorded for a borrower (R424). -/
def lendFrames (s : State) (d stamp : Nat) (fs : List Nat) : State :=
  let tag := stamp / 16
  let e := stampEntry s tag
  let s := { s with grn := { s.grn with lent := fs.foldl (fun m f => NMap.put m f stamp) s.grn.lent } }
  let s := setRegN s (pgGrn d + 0x150) (regN s (pgGrn d + 0x150) + fs.length)
  let s := setRegN s (pgGrn d + 0x148) (regN s (pgGrn d + 0x148) - fs.length)
  if fs.isEmpty then s
  else setStamp s tag (if fld e 15 14 = 0 then stampEnt 1 (stamp % 16) false true 0 else setFld e 8 8 1)

/-- LEND (R424): `frames` are those that the lender takes from its offer, which the manual does not fix. -/
def execLend (req : List Byte) (frames : List Nat) (s : State) : Out :=
  let d := rq req 4 4
  let k := min (rq req 5 5) (offerLeft s d)
  let good := frames.length == k && frames.eraseDups.length == k && frames.all (frameFree s d)
  if d < 2 ∧ !good ∧ mboxOpen s ∧ !s.host.mboxBusy ∧ rq req 0 0 = 0x0D then .next s
  else mailbox s 0x0D 8 [] req (fun s =>
    if 2 ≤ d ∨ rq req 5 5 = 0 ∨ 60 < rq req 5 5 ∨ rq req 6 7 < 16 then refuse s 0x1101
    else ⟨0, leBytes 4 0 ++ [BitVec.ofNat 8 k, 0, 0, 0] ++ frames.flatMap (leBytes 4), lendFrames s d (rq req 6 7) frames⟩)

/-- LEND_RELEASE (R421, R424): the frames return to the offer. -/
def execLendRelease (req : List Byte) (s : State) : Out :=
  let k := rq req 5 5
  mailbox s 0x0E (12 + 4 * k) [4, 8, 9, 10, 11] req (fun s =>
    let stamp := rq req 6 7
    let fs := (reqFrames req k).eraseDups
    if !fs.all (fun f => NMap.find s.grn.lent f == some stamp) then refuse s 0x1101
    else
      let back := fun (s : State) (d : Nat) =>
        let c := (fs.filter (fun f => f % 2 == d)).length
        let s := setRegN s (pgGrn d + 0x150) (regN s (pgGrn d + 0x150) - c)
        setRegN s (pgGrn d + 0x148) (regN s (pgGrn d + 0x148) + c)
      let s := back (back s 0) 1
      let s := { s with grn := { s.grn with lent := s.grn.lent.filter (fun e => !fs.contains e.1) } }
      let tag := stamp / 16
      done (if s.grn.lent.any (fun e => e.2 / 16 == tag) then s else setStamp s tag (dropRole (stampEntry s tag) 8)))

/-- LEASE_GRANT (R181, R424): the borrower enters the lease. -/
def execLeaseGrant (req : List Byte) (s : State) : Out :=
  let k := rq req 6 6
  mailbox s 0x0F (12 + 4 * k) [7, 8, 9, 10, 11] req (fun s =>
    onPart req [.opened, .stopped] s (fun n _ =>
      let dev := rq req 5 5
      if 64 ≤ dev then refuse s 0x1101
      else if dev = myDev s then refuse s 0x1106
      else
        let ls := (reqFrames req k).map (fun f => Lease.mk n dev f none false false)
        let s := { s with grn := { s.grn with down := s.grn.down.filter (fun d => d != dev) } }
        done (grnPump (setLeases s (s.grn.leases ++ ls)))))

/-- The grains of a recalled lease are promoted to T1 within quota, or moved to another lease (R184). -/
def vacate (s : State) (l : Lease) : State :=
  match l.page with
  | none => s
  | some ea =>
    let w := entryW s ea
    let page := pageOfEntry s l.part ea
    if frameOwned s l.part w ∨ quotaRoom s (peOwner w) l.part then
      (List.range 32).foldl (fun s g =>
        if peGrain w g = 2 ∨ peGrain w g = 3 then startMigration s l.part (page + g * 65536) 1 else s) s
    else if (freeLeases s l.part).isEmpty then s
    else loseCopies s l.part ea l.lender false ((List.range 32).filter (fun g => peGrain w g == 2 || peGrain w g == 3))

/-- The leases that a request names. -/
def namedLeases (s : State) (n dev : Nat) (fs : List Nat) : List Lease :=
  s.grn.leases.filter (fun l => l.part == n && l.lender == dev && fs.contains l.frame)

/-- LEASE_RECALL (R184, R424): the frames are vacated; the command completes by LEASE_RECALL_DONE. -/
def execLeaseRecall (req : List Byte) (s : State) : Out :=
  let k := rq req 6 6
  mailbox s 0x10 (12 + 4 * k) [7, 8, 9, 10, 11] req (fun s =>
    onPart req [.opened, .stopped, .closing] s (fun n _ =>
      let fs := reqFrames req k
      if !fs.all (fun f => !(namedLeases s n (rq req 5 5) [f]).isEmpty) then refuse s 0x1101
      else
        let mark := fun (l : Lease) =>
          if l.part = n ∧ l.lender = rq req 5 5 ∧ fs.contains l.frame then { l with recalled := true } else l
        let s := setLeases { s with host := { s.host with mboxBusy := true } } (s.grn.leases.map mark)
        done ((s.grn.leases.filter (fun l => l.recalled)).foldl vacate s)))

/-- LEASE_RECALL_DONE (R424): every recalled frame is vacated; the leases leave the table. -/
def execLeaseRecallDone (s : State) : Out :=
  let ls := s.grn.leases.filter (fun l => l.recalled)
  if !s.host.mboxBusy then .next s
  else if !ls.all (vacated s) then .next (ls.foldl vacate s)
  else
    let s := setLeases s (s.grn.leases.filter (fun l => !l.recalled))
    .next (respond (incSat s (pgGrn 0 + 0xE0) ls.length) 0 [])

/-- LENDER_DOWN (R183): the management tree reports a lender down. -/
def execLenderDown (req : List Byte) (s : State) : Out :=
  mailbox s 0x11 6 [4] req (fun s => if 64 ≤ rq req 5 5 then refuse s 0x1101 else done (lenderLost s (rq req 5 5)))

/-! ## Readings -/

/-- SNAPSHOT (R431): a timed snapshot; the response gives its tag. -/
def execSnapshot (req : List Byte) (s : State) : Out :=
  mailbox s 0x12 16 [4, 5, 6, 7] req (fun s =>
    let t := rq req 8 15
    if !ready s then refuse s 0x1102
    else if snapFault s t ≠ 0 then refuse s (snapFault s t)
    else ⟨0, leBytes 4 0 ++ leBytes 4 ((regN s (pgLodge + 0x118) + 1) % 2 ^ 24), requestSnap s t⟩)

/-- The last congestion map (R231). -/
def lastMap (s : State) : List Byte := (List.range 16).flatMap (fun i => leBytes 4 (regN s (pgFab + 0x120 + 4 * i)))

/-- READ_CMAP (R425). -/
def execReadCmap (req : List Byte) (s : State) : Out :=
  mailbox s 0x13 4 [] req (fun s =>
    ⟨0, leBytes 4 0 ++ lastMap s ++ leBytes 8 s.fab.cmapEnd ++ leBytes 2 (regN s (pgFab + 0x11C)), s⟩)

/-- READ_DIGEST (R319, R425). An index beyond the ring is malformed, and a record that cannot be read is answered as a ring write
that fails. -/
def execReadDigest (req : List Byte) (s : State) : Out :=
  mailbox s 0x14 12 [5, 6, 7] req (fun s =>
    let n := rq req 4 4
    let b := pgDev + 0x120 + 0x20 * n
    let k := rq req 8 11
    if 4 ≤ n ∨ regN s (b + 0x14) % 65536 ≤ k then refuse s 0x1101
    else
      match hostRead s n (pairN s b + 64 * k) 64 with
      | (.data bs, s) => ⟨0, leBytes 4 0 ++ bs, s⟩
      | (_, s) => refuse s 0x110A)

end Sys2Proof.Machine
end

