-- ==== Sys2Proof/Machine/RegRead.lean ====
section
/-!
DEFINITION. What a register shows when it is read: the common page layout (R446), each block's live state registers, and
the stored value of every other register. Reading has no effect here; the effects of a read stand in RegWrite.
-/

namespace Sys2Proof.Machine

open Sys2Proof Sys2Proof.Config

/-- A register value from fields: low bit and value. -/
def fields (l : List (Nat × Nat)) : Nat := (l.map (fun e => e.2 * 2 ^ e.1)).sum

/-- A mask of the indices below `n` that meet `p`. -/
def maskIf (n : Nat) (p : Nat → Bool) : Nat := ((List.range n).map (fun i => b2n (p i) * 2 ^ i)).sum

/-- Word `i` of a byte string. -/
def wordAt (bs : List Byte) (i : Nat) : Nat := leNat ((bs.drop (4 * i)).take 4)

/-! ## Pages (R382, R444, R445) -/

/-- The logical map in force: the published one, or before its publication the one that the units known bad so far give. -/
def mapNow (s : State) : List Nat := if s.boot.map.isEmpty then logicalMap s else s.boot.map

/-- The logical tile of a physical tile; 255 for one that is disabled or held as spare (R136). -/
def logicalOf (s : State) (q : Nat) : Nat := ((List.range 120).find? (fun t => (mapNow s).getD t 128 == q)).getD 255

/-- The physical tile of a logical tile. -/
def physOf (s : State) (t : Nat) : Nat := (mapNow s).getD t 128

/-- The page whose registers an address shows: a physical tile's page shows its logical page (R136). -/
def realPage (s : State) (p : Nat) : Nat :=
  let b := blockOf p
  if b.1 = 2 ∧ 128 ≤ b.2 then
    let t := logicalOf s (b.2 - 128)
    if t = 255 then p else pgTile t
  else p

/-- The unit of a page is bad after reconciliation (R381, R446); a die-to-die link shows it at once (R455). -/
def pageBad (s : State) (p : Nat) : Bool :=
  let b := blockOf p
  let done := !s.boot.map.isEmpty
  match b.1 with
  | 2 => done && 128 ≤ b.2 && bit (badTiles s) (b.2 - 128)
  | 3 => done && bit (badThrs s) b.2
  | 5 => done && bit (badChans s) b.2
  | 9 => bit s.boot.badPorts b.2
  | 0x10 => bit (badD2ds s) b.2
  | 6 => done && bit s.boot.testCore 0
  | 7 => done && bit s.boot.testCore 1
  | 0xB => done && bit s.boot.testCore 2
  | 0x11 => done && bit s.boot.testCore 3
  | 0xA => done && bit s.boot.testCore 4
  | _ => false

/-- The stop of a tile's partition is complete (R132). -/
def stopDone (s : State) (t : Nat) : Bool := (getPart s (getTile s t).fg.part).stop == .stopped && (getTile s t).fg.live

/-- BLK_STATUS (R446). -/
def blkStatus (s : State) (p : Nat) : Nat :=
  let q := realPage s p
  let b := blockOf q
  fields [(0, 1), (1, b2n (pageBad s p)), (2, b2n (pageInReset s p)), (3, b2n (regN s (q + 0x18) != 0)),
    (4, b2n (regN s (q + 0x28) != 0)),
    (5, b2n (b.1 == 2 && b.2 < 128 && bit (regN s (q + 8)) 2 && stopDone s b.2))]

/-- The common registers of a page (R446). FREEZE belongs to logical tile pages only. -/
def commonRead (s : State) (p o : Nat) : Nat :=
  let q := realPage s p
  let b := blockOf p
  let spare := b.1 = 2 ∧ 128 ≤ b.2 ∧ q = p
  if o = 0 then idOf b.1 b.2
  else if o = 4 then capsOf b.1 b.2
  else if o = 8 then (if b.1 = 2 ∧ b.2 < 128 then regN s (q + 8) else setFld (regN s (q + 8)) 2 2 0)
  else if o = 0xC then blkStatus s p
  else if o = 0x2C ∧ spare then 0
  else if o < 0x30 then regN s (q + o)
  else 0

/-! ## Device, boot and time base (R387, R388, R452) -/

/-- State codes of a partition (R415). -/
def PartState.code : PartState → Nat
  | .free => 0 | .configured => 1 | .opened => 2 | .stopped => 3 | .faulted => 4 | .closing => 5

/-- BOOT_STATUS.STATE (R371). -/
def BootState.code : BootState → Nat
  | .fuses => 1 | .selftest => 2 | .training => 3 | .waitImage => 4 | .verifying => 5 | .powerup => 6 | .kat => 7
  | .reconcile => 8 | .ready => 9 | .fuseFault => 0xE | .deviceFault => 0xF

/-- The device page's live registers (R452). -/
def devRead (s : State) (o : Nat) : Nat :=
  if o = 0x104 then
    fields [(0, b2n s.det.active), (1, b2n s.det.pending.isSome), (2, b2n (ready s)), (3, b2n (s.boot.state == .deviceFault))]
  else if o = 0x108 then
    ((List.range 4).map (fun n =>
      let p := getPart s n
      fields [(4 * n, p.state.code), (16 + n, b2n (p.steps.any (fun st => st.phase != .queued))),
        (20 + n, b2n (p.steps.any (fun st => st.phase == .queued)))])).sum
  else regN s (pgDev + o)

/-- Word `o` of a mask that spans several registers from `a` on. -/
def maskWord (m a o : Nat) : Nat := fld m (8 * (o - a) + 31) (8 * (o - a))

/-- The boot page's live registers (R387). What reconciliation publishes reads 0 before it. -/
def bootRead (s : State) (o : Nat) : Nat :=
  let b := s.boot
  let pub := !b.map.isEmpty
  if o = 0x100 then
    fields [(0, b.state.code), (8, b2n b.imgValid), (9, b2n b.trained), (10, b2n b.incomplete), (11, b2n (b.busy != 0))]
  else if o = 0x104 then b.busy
  else if o = 0x120 then
    if pub then fields [(0, gradeCode s), (8, b.cls), (16, (b.map.filter (fun q => q != 128)).length)] else 0
  else if o = 0x124 then fields [(0, b.svn), (8, s.fuse.svnFloor % 256)]
  else if o = 0x128 then
    fields [(0, s.fuse.keyPresent % 16), (4, s.fuse.keyRevoked % 16), (8, if b.imgValid then b.keyIndex % 4 else 0)]
  else if o = 0x12C then 0
  else if 0x130 ≤ o ∧ o < 0x140 then maskWord s.fuse.badTiles 0x130 o
  else if 0x140 ≤ o ∧ o < 0x150 then (if pub then maskWord (badTiles s) 0x140 o else 0)
  else if 0x150 ≤ o ∧ o < 0x160 then (if pub then maskWord (goodChans s) 0x150 o else 0)
  else if o = 0x160 then (if pub then goodPorts s else 0)
  else if o = 0x164 then
    (if pub then fields [(0, without 255 (badThrs s)), (8, without 7 (badD2ds s)), (11, without 31 b.testCore)] else 0)
  else if 0x1E0 ≤ o ∧ o < 0x200 then wordAt (edPublic (padTo 32 s.fuse.seed)) ((o - 0x1E0) / 4)
  else regN s (pgBoot + o)

/-- The time-base page's live registers (R388). -/
def tbRead (s : State) (o : Nat) : Nat :=
  let aligns := bit (regN s (pgTb + 0x104)) 1 && !isRoot s
  if o = 0x100 then
    fields [(0, b2n s.tb.locked), (1, b2n (isRoot s)), (2, b2n (aligns && s.tb.parent.isNone)),
      (3, b2n (aligns && s.tb.deep)), (8, min 255 s.tb.good)]
  else if o = 0x108 then now s % 2 ^ 32
  else if o = 0x10C then now s / 2 ^ 32
  else if o = 0x124 then
    (match s.tb.parent with
     | some d => fields [(0, d % 64), (8, s.tb.port % 32), (13, s.tb.depth % 8)]
     | none => 0)
  else regN s (pgTb + o)

/-! ## Gatehouse and Belvedere (R359, R360) -/

/-- A signed number as a 32-bit register value. -/
def int32 (x : Int) : Nat := (x % 2 ^ 32).toNat

/-- GATE_STATE (R359). -/
def gateState (s : State) : Nat :=
  let g := s.gate
  let k := s.clk.stretch
  let adm := (energySteps s).length
  let wait := ((List.range 4).filter (fun n =>
    match waitingHead s n with
    | some st => st.condAt.isSome
    | none => false)).length
  fields [(0, b2n (adm == 0 && wait == 0)), (1, b2n (s.tiles.any (fun e => e.2.gated))), (8, min 15 wait), (12, adm),
    (15, g.pace.length), (22, b2n (k != 0 && g.kT == k)), (23, b2n (k != 0 && g.kI == k)), (24, b2n (k != 0 && g.kE == k)),
    (25, b2n g.hold), (26, k)]

/-- The Gatehouse page's live registers (R359). -/
def gateRead (s : State) (o : Nat) : Nat :=
  if o = 0x100 then gateState s
  else if o = 0x114 then int32 (remainderOf s (energySteps s))
  else if o = 0x118 then ratesOf s (energySteps s) % 2 ^ 32
  else if o = 0x11C then s.gate.debt % 2 ^ 32
  else if o = 0x120 then s.gate.u % 65536
  else if o = 0x128 then floorE s % 2 ^ 32
  else if o = 0x140 then s.gate.ect.getD (regN s (pgGate + 0x13C) % 32) 0
  else if o = 0x144 then s.gate.meas.getD (regN s (pgGate + 0x13C) % 32) 0
  else if o = 0x148 then 0
  else regN s (pgGate + o)

/-- A Belvedere page's live registers (R360). -/
def belvRead (s : State) (u o : Nat) : Nat :=
  if o = 0x100 then
    fields [(0, b2n s.mod.powerGood), (1, b2n ((validT s u).any (fun e => decide (softT s ≤ e.2)))),
      (2, b2n (ctr32 s (pgBelv u + 0x48) != 0)), (3, b2n s.belv.heavy)]
  else if 0x200 ≤ o ∧ o < 0x240 ∧ o % 16 = 12 then setpointOf s u ((o - 0x200) / 16)
  else regN s (pgBelv u + o)

/-! ## Lodge (R436, R438, R443) -/

/-- A page reports pending events: EVT_PEND is not 0 and its BLK_CTRL.ENABLE is set (R436, R446). -/
def reports (s : State) (p : Nat) : Bool := regN s (p + 0x18) != 0 && bit (regN s (p + 8)) 0

/-- The pages of a block type by instance; tiles by logical number (R436). -/
def typePages (t : Nat) : List (Nat × Nat) :=
  (allPages.filter (fun p => (blockOf p).1 == t && (t != 2 || (blockOf p).2 < 128))).map (fun p => ((blockOf p).2, p))

/-- LODGE_EVT_TYPES (R436). -/
def evtTypes (s : State) : Nat := maskIf 18 (fun t => t != 0 && (typePages t).any (fun e => reports s e.2))

/-- LODGE_EVT_INST0 to 3 as one mask (R436). -/
def evtInst (s : State) : Nat :=
  (((typePages (regN s (pgLodge + 0x120) % 32)).filter (fun e => reports s e.2)).map (fun e => 2 ^ e.1)).sum

/-- The 32 bytes of an error log entry (R438). -/
def logBytes (e : LogEnt) : List Byte :=
  let part := match e.part with
    | some n => n % 4 + 4
    | none => 0
  let b := leBytes 8 e.time ++ leBytes 2 e.code ++ [BitVec.ofNat 8 e.btype, BitVec.ofNat 8 e.inst, BitVec.ofNat 8 part, 0]
    ++ leBytes 2 e.suppressed ++ leBytes 4 e.step ++ leBytes 8 e.info
  b ++ leBytes 4 (crc32c b)

/-- The Lodge page's live registers (R443). An entry of the log that has not been written reads 0. -/
def lodgeRead (s : State) (o : Nat) : Nat :=
  let l := s.lodge
  if o = 0x100 then
    fields [(0, b2n l.running), (1, b2n l.logWrapped), (2, b2n l.snapAt.isSome), (3, b2n l.snapUnlocked)]
  else if o = 0x104 then setFld (regN s (pgLodge + 0x104)) 31 31 (b2n l.snapAt.isSome)
  else if o = 0x11C then evtTypes s
  else if 0x124 ≤ o ∧ o < 0x134 then maskWord (evtInst s) 0x124 o
  else if o = 0x138 then l.logHead
  else if 0x140 ≤ o ∧ o < 0x160 then
    (match NMap.get (fun _ => none) l.log (regN s (pgLodge + 0x13C) % 1024) with
     | some e => wordAt (logBytes e) ((o - 0x140) / 4)
     | none => 0)
  else regN s (pgLodge + o)

/-! ## Host interface (R409) -/

/-- HOST_QP_STATE (R409). The count of violations belongs to the running ms. -/
def qpState (s : State) (x : Qp) : Nat :=
  fields [(0, b2n x.enabled), (1, b2n x.draining), (2, b2n (!x.held.isEmpty)), (3, b2n x.quarantined), (16, min 255 (pairViol s x))]

/-- The queue pair window of a pair (R409). -/
def qpWindow (s : State) (q o : Nat) : Nat :=
  let x := getQp s q
  if o = 0x10C then x.sqBase % 2 ^ 32
  else if o = 0x110 then x.sqBase / 2 ^ 32
  else if o = 0x114 then x.cqBase % 2 ^ 32
  else if o = 0x118 then x.cqBase / 2 ^ 32
  else if o = 0x11C then x.cfg
  else if o = 0x120 then x.coal
  else if o = 0x124 then 0
  else if o = 0x128 then fields [(0, x.sqHead % 65536), (16, x.cqTail % 65536)]
  else qpState s x

/-- HOST_SLOT and HOST_LINK (R409). -/
def hostPins (s : State) (o : Nat) : Nat :=
  if o = 0x140 then s.mod.pos % 64
  else if s.host.linkUp then fields [(0, s.host.speed), (4, s.host.width)] else 0

/-- The host interface page's live registers as the PF, the Lodge and the fabric see them (R409). -/
def hostRegRead (s : State) (o : Nat) : Nat :=
  if o = 0x100 then
    fields [(0, b2n s.host.linkUp), (1, b2n s.host.mboxBusy), (2, b2n (s.host.qps.any (fun e => e.2.quarantined))),
      (4, s.host.numVfs)]
  else if 0x10C ≤ o ∧ o < 0x130 then qpWindow s (regN s (pgHost + 0x108) % 256) o
  else if o = 0x140 ∨ o = 0x144 then hostPins s o
  else if o = 0x148 then setFld (regN s (pgHost + 0x148)) 31 31 (b2n s.host.mboxBusy)
  else if o = 0x150 then s.host.hsrSeq % 2 ^ 32
  else if 0x600 ≤ o ∧ o < 0x700 then wordAt s.host.hsr ((o - 0x600) / 4)
  else regN s (pgHost + o)

/-! ## Threshers, Granaries and channels (R83, R191, R192, R209) -/

/-- THR_STATE (R83). -/
def thrState (s : State) (u : Nat) : Nat :=
  let cs := unitCalls s u
  let loaded := (List.range 4).any (fun n => (getPart s n).steps.any (fun st =>
    st.phase != .queued && st.slots.any (fun e => e.1 == u)))
  fields [(0, b2n (cs.isEmpty && s.thr.outs.all (fun o => o.unit != u))), (1, b2n loaded),
    (2, b2n (cs.any (fun c => c.op == 3))), (3, min 4 cs.length),
    (6, maskIf 4 (fun i => (NMap.find s.thr.streams (u * 4 + i)).isSome)), (10, maskIf 2 (bankBusy s u)),
    (12, maskIf 2 (fun i => !NMap.get (fun _ => false) s.thr.badBank (u * 2 + i)))]

/-- A Thresher page's live registers (R83). -/
def thrRead (s : State) (u o : Nat) : Nat := if o = 0x100 then thrState s u else regN s (pgThr u + o)

/-- Pages of a die with a grain in HALF (R162, R191): each holds the lease of its one mirror. -/
def halfPages (s : State) (d : Nat) : Nat :=
  ((s.grn.leases.filterMap (fun l => l.page)).eraseDups.filter (fun ea =>
    peOwner (entryW s ea) == d && (List.range 32).any (fun g => peGrain (entryW s ea) g == 7))).length

/-- A tile lies on a compute die. -/
def tileOn (d t : Nat) : Bool := t / 60 == d

/-- GRN_STATE (R191). -/
def grnState (s : State) (d : Nat) : Nat :=
  let g := s.grn
  let waits := fun (n : Nat) => fld (getPart s n).tiles (60 * d + 59) (60 * d) != 0
    && (((getPart s n).steps.head?).map (fun st => st.phase == .queued)).getD false
  let mine := fun (ea : Nat) => peOwner (entryW s ea) == d
  let idle := g.reqs.all (fun r => !tileOn d r.tile) && g.stores.all (fun r => !tileOn d r.tile) && g.copies.all (fun c => c.die != d)
    && g.t2.all (fun q => q.die != d)
  fields [(0, b2n idle), (9, b2n (detMode s)), (10, b2n (g.copies.any (fun c => c.die == d))),
    (11, b2n (g.lostT2.any (fun e => mine e.1) || g.copies.any (fun c => c.die == d && peGrain (entryW s c.entry) c.grain == 7))),
    (12, maskIf 4 waits), (16, maskIf 4 (overNow s d)), (20, min 4095 (halfPages s d))]

/-- A Granary page's live registers (R191). -/
def grnRead (s : State) (d o : Nat) : Nat := if o = 0x100 then grnState s d else regN s (pgGrn d + o)

/-- Windows whose slots are held, with the instances that they belong to. -/
def grantedWins (s : State) : List (ShInst × OwnWin) :=
  s.sheaf.insts.flatMap (fun i => (i.ownWins.filter (fun w => w.granted)).map (fun w => (i, w)))

/-- A pool unit has rows of a granted window to read or update, or, for EMBAG, to accumulate (R209). -/
def rowsRun (s : State) (c kind : Nat) : Bool :=
  (grantedWins s).any (fun e => e.1.kind == kind && e.2.ready && e.2.rows.any (fun r =>
    rowPage s e.1 r.1 == pgMch c || r.2.1.any (fun x => (blockOf (rowPage s e.1 r.1)).2 / 64 == c / 64 && x.1 % 64 == c % 64)))

/-- A channel's page: the live registers of channel and pool unit (R192, R209). -/
def mchRead (s : State) (c o : Nat) : Nat :=
  let m := getMch s c
  let slots := ((grantedWins s).map (fun e => (e.2.bags + 63 - c % 64) / 64)).sum
  if o = 0x100 then fields [(0, b2n m.trained), (1, b2n m.scrubbing), (2, b2n m.detSched), (3, b2n m.disabled)]
  else if o = 0x104 then m.scrubPos % 2 ^ 32
  else if o = 0x1AC then
    (match (grantedWins s).getLast? with
     | some e => fields [(0, 65536 / max 1 e.1.rowValues % 65536), (16, min 65535 slots)]
     | none => 0)
  else if o = 0x1B0 then
    fields [(0, b2n (slots == 0 && !rowsRun s c 1 && !rowsRun s c 2)), (1, b2n (rowsRun s c 1)), (2, b2n (rowsRun s c 2)), (3, b2n (detMode s))]
  else if (c64Offsets 5).contains o then (ctr64 s (pgMch c + o)).toNat % 2 ^ 32
  else if 0x180 ≤ o ∧ o < 0x1A0 ∧ o % 8 = 4 then (ctr64 s (pgMch c + o - 4)).toNat / 2 ^ 32
  else if (c32Offsets 5).contains o then (ctr32 s (pgMch c + o)).toNat
  else regN s (pgMch c + o)

/-- A die-to-die link's live registers (R456). -/
def d2dRead (s : State) (k o : Nat) : Nat := if o = 0x100 then (getD2d s k).lstate else regN s (pgD2d k + o)

/-! ## Sheaf engine, Pavilion, fabric and atomic home (R111, R236, R237, R256, R280) -/

/-- The Sheaf engine's live registers (R111). -/
def shfRead (s : State) (o : Nat) : Nat :=
  let h := s.sheaf
  if o = 0x100 then
    fields [(0, b2n (h.insts.isEmpty && s.thr.egress.isEmpty)),
      (8, b2n (!h.spills.isEmpty || h.ctxs.any (fun x => !h.resident.contains x))),
      (12, maskIf 4 (fun n => h.insts.any (fun i => i.part == n && i.accepting))), (16, min 16 h.insts.length)]
  else if o = 0x104 then setFld (regN s (pgShf + 0x104)) 10 10 0
  else if 0x10C ≤ o ∧ o < 0x11C then 0
  else if o = 0x164 then h.ctxs.length
  else if o = 0x168 then (shUsed s + 1023) / 1024
  else regN s (pgShf + o)

/-- The Pavilion's live registers (R280). -/
def pavRead (s : State) (o : Nat) : Nat :=
  let p := s.pav
  if o = 0x100 then
    fields [(0, b2n (p.insts.isEmpty && p.slots.isEmpty)), (1, b2n (!p.slots.isEmpty)),
      (2, b2n (p.insts.any (fun i => i.tracks.any (fun t => !t.tree)))), (8, min 255 p.insts.length),
      (16, b2n (decide (8192 ≤ p.early.length)))]
  else if 0x11C ≤ o ∧ o < 0x15C then 0
  else if o = 0x15C then fields [(0, 2048), (16, slotsHeld s)]
  else regN s (pgPav + o)

/-- The router core's live registers (R236). -/
def fabRead (s : State) (o : Nat) : Nat :=
  let f := s.fab
  if o = 0x100 then
    fields [(0, b2n (f.inject.isEmpty && f.arrived.isEmpty && f.holds.isEmpty
        && f.ports.all (fun e => e.2.queue.isEmpty && e.2.sent.isEmpty && e.2.part.isEmpty))),
      (1, b2n (f.written == 3)), (2, b2n (detMode s)),
      (3, b2n (regN s (pgFab + 0x16C) != 0 && (regN s (pgFab + 0x80) != 0 || !f.cmapParts.isEmpty)))]
  else if o = 0x178 ∨ o = 0x17C then 0
  else if o = 0x180 then maskIf 32 (fun p => (getPort s p).lstate == .up)
  else if o = 0x184 then min 65535 (pairsDown s)
  else regN s (pgFab + o)

/-- Four credit counts as the bytes of a register: a port shows what it holds for sending (R237). -/
def credWord (x : Port) (v d : Nat) : Nat :=
  if x.lstate = .up then ((List.range 4).map (fun i => min 255 (x.cred.getD (v + i) 0 / d) * 2 ^ (8 * i))).sum else 0

/-- A port's live registers (R237). -/
def portRead (s : State) (p o : Nat) : Nat :=
  let x := getPort s p
  if o = 0x100 then fields [(0, x.lstate.code), (4, b2n (decide (28 ≤ p))), (5, b2n x.awaiting)]
  else if o = 0x104 then fields [(0, b2n (x.lstate != .disabled)), (4, fld (regN s (pgPort p + 0x104)) 5 4)]
  else if o = 0x108 then (if x.locked then regN s (pgPort p + 0x108) else 0)
  else if o = 0x10C then credWord x 0 1
  else if o = 0x110 then credWord x 4 4
  else if o = 0x114 then (if x.locked then fields [(0, 15), (4, x.pol)] else 0)
  else regN s (pgPort p + o)

/-- The atomic home's live registers (R256). A line has queued requests while one
waits for its command, or for the acknowledgement of its mirrors. -/
def atomRead (s : State) (o : Nat) : Nat :=
  let a := s.atom
  let out := a.out.length + a.held.length + a.combs.length
  if o = 0x100 then
    fields [(0, b2n (out == 0 && s.fab.ejected.all (fun p => p.proto != 4))),
      (1, b2n (s.fab.ejected.any (fun p => p.proto == 4) || s.grn.stores.any (fun x => x.resp.isSome))),
      (2, b2n (bit (regN s (pgAtom + 0x104)) 0 && !detMode s)), (4, regN s (pgAtom + 0x108) % 16)]
  else if 0x128 ≤ o ∧ o < 0x138 then 0
  else if o = 0x13C then out
  else regN s (pgAtom + o)

/-! ## Tiles (R136) -/

/-- TILE_STATE (R136). -/
def tileState (s : State) (t : Nat) : Nat :=
  let x := getTile s t
  let p := getPart s x.fg.part
  let admitted := x.fg.live && p.steps.any (fun st => st.phase != .queued && st.num == x.fg.step)
  fields [(0, b2n x.powered), (9, b2n (admitted && p.stop != .stopped)), (10, b2n x.fg.waiting.isSome),
    (11, b2n (x.fg.live && p.stop == .stopping && decide (p.stopAt ≤ s.clk.aclk))), (12, b2n (stopDone s t)), (16, b2n x.bg.live), (17, b2n x.os),
    (18, x.bedMode % 4)]

/-- TILE_MAP of a physical tile (R136): reserved bits 0. -/
def tileMap (s : State) (physical : Bool) (q : Nat) : Nat :=
  let t := logicalOf s q
  fields [(0, q % 64), (7, q / 64), (8, t), (16, b2n (physical && t == 255))]

/-- A logical tile's live registers (R136). -/
def tileRead (s : State) (t o : Nat) : Nat :=
  let x := getTile s t
  let c := x.fg
  if o = 0x100 then tileState s t
  else if o = 0x104 then tileMap s false (physOf s t)
  else if o = 0x108 then fields [(0, if c.live then c.bankSet else 0), (16, if x.bg.live then x.bg.bankSet else 0)]
  else if o = 0x10C then c.progId % 2 ^ 32
  else if o = 0x110 then c.step % 2 ^ 32
  else if o = 0x114 then (if c.live then pcAddr c % 2 ^ 24 else 0)
  else if o = 0x118 then
    (match c.waiting with
     | some (k, _) => fields [(0, k % 32), (8, waitCause s t k % 256), (31, 1)]
     | none => 0)
  else if o = 0x11C then c.resume
  else regN s (pgTile t + o)

/-! ## PCIe configuration (R389, R391) -/

/-- Vendor, device, class code and subsystem that a function presents (R389): a VF shows no vendor of its own. -/
def pcieIds (s : State) (fn : Nat) : Nat × Nat × Nat × Nat :=
  (if fn = 0 then 0x1F3C else 0xFFFF, if fn = 0 then 0x0A10 else 0x0A11, 0x120000, gradeCode s)

/-- The Device Serial Number (R389): the first 8 bytes of SHA-512 of the identity public key. -/
def deviceSerial (s : State) : Nat := leNat ((sha512 (edPublic (padTo 32 s.fuse.seed))).take 8)

/-- What an offset of a function's BAR4 holds (R391). -/
inductive Bar4 where
  | sqTail (q : Nat) | cqHead (q : Nat) | msixTable (v byte : Nat) | pba (byte : Nat) | nothing
  deriving DecidableEq, Repr

/-- BAR4 by offset (R391): doorbells at 8 bytes a pair, the MSI-X table at 16 bytes a vector, and the pending bits. -/
def bar4At (fn off : Nat) : Bar4 :=
  let pairs := if fn = 0 then 256 else 64
  let table := if fn = 0 then 0x8000 else 0x2000
  let bits := if fn = 0 then 0x9000 else 0x3000
  let vs := if fn = 0 then 256 else 32
  if off < 8 * pairs then (if off % 8 < 4 then .sqTail (off / 8) else .cqHead (off / 8))
  else if table ≤ off ∧ off < table + 16 * vs then .msixTable ((off - table) / 16) (off % 16)
  else if bits ≤ off ∧ off < bits + vs / 8 then .pba (off - bits)
  else .nothing

/-! ## Every register -/

/-- A block-specific register by block type and instance (R445). -/
def blockRead (s : State) (t i o : Nat) : Nat :=
  match t with
  | 0x1 => devRead s o
  | 0x2 => tileRead s i o
  | 0x3 => thrRead s i o
  | 0x4 => grnRead s i o
  | 0x5 => mchRead s i o
  | 0x6 => shfRead s o
  | 0x7 => pavRead s o
  | 0x8 => fabRead s o
  | 0x9 => portRead s i o
  | 0xA => atomRead s o
  | 0xB => gateRead s o
  | 0xC => belvRead s i o
  | 0xD => hostRegRead s o
  | 0xE => tbRead s o
  | 0xF => bootRead s o
  | 0x10 => d2dRead s i o
  | 0x11 => lodgeRead s o
  | _ => 0

/-- A page in reset shows its reset values (R451); a die whose T1 frames are withheld has none free (R383). -/
def resetRead (s : State) (p o : Nat) : Nat :=
  let b := blockOf p
  if b.1 = 4 ∧ o = 0x148 ∧ !s.boot.map.isEmpty ∧ (dieMemBad s b.2 ∨ heldDie s = some b.2) then 0
  else if o = 0 then idOf b.1 b.2 else if o = 4 then capsOf b.1 b.2 else if o = 0xC then 5
  else if o = (evtBits b.1).1 then (evtBits b.1).2
  else if b.1 = 3 ∧ o = 0x100 then 0x3001 else (regReset (p + o)).toNat

/-- A register's value (R446 to R451): a reserved or absent page reads 0 (R445), a snapshot window its copies (R429), an unused
physical tile page its common registers and TILE_MAP, and during FUSE_FAULT every page but BOOT 0 (R386). -/
def regRead (s : State) (a : Nat) : Nat :=
  let p := pageOf a
  let o := a % 0x1000 / 4 * 4
  let b := blockOf p
  let q := realPage s p
  if b.1 = 0 ∨ (s.boot.state = .fuseFault ∧ b.1 ≠ 0xF) then 0
  else if b.1 = 2 ∧ b.2 < 128 ∧ tileAbsent s b.2 then 0
  else if pageInReset s p then resetRead s p o
  else if o = (evtBits b.1).1 then (if b.1 = 2 ∧ 128 ≤ b.2 ∧ q = p then 0 else (evtBits b.1).2)
  else if o < 0x40 then commonRead s p o
  else if b.1 = 2 ∧ 128 ≤ b.2 then
    (if o = 0x104 then tileMap s true (b.2 - 128)
     else if q = p then 0
     else if o < 0x100 then regN s (q + o) else tileRead s (blockOf q).2 o)
  else if o < 0x100 then regN s (p + o)
  else blockRead s b.1 b.2 o

end Sys2Proof.Machine
end

