-- ==== Sys2Proof/Machine/Hsr.lean ====
section
/-!
DEFINITION. The Health Summary Record (R406, R427).
-/

namespace Sys2Proof.Machine

open Sys2Proof Sys2Proof.Config

/-- A counter of some instances summed. -/
def sumSat (s : State) (as : List Nat) : Nat := (as.map (fun a => (ctr32 s a).toNat)).sum

/-- The device totals whose growth the record reports: blocks corrected and uncorrectable, poisons, flit replays, stamp drops,
lender losses, grains lost, host violations. -/
def hsrTotals (s : State) : List Nat :=
  let chans := (List.range 128).map pgMch
  [sumSat s (chans.map (fun p => p + 0x64)), sumSat s (chans.map (fun p => p + 0x68)),
    ((List.range 4).map (fun n => (getPart s n).poisons)).sum, sumSat s ((List.range 32).map (fun p => pgPort p + 0x6C)),
    sumSat s [pgFab + 0x74], sumSat s [pgGrn 0 + 0xD0, pgGrn 1 + 0xD0], sumSat s [pgGrn 0 + 0xD4, pgGrn 1 + 0xD4],
    sumSat s [pgHost + 0x60]]

/-- The growth of total `i` since the previous record, saturating at its field. -/
def hsrDelta (s : State) (i bytes : Nat) : List Byte :=
  leBytes bytes (min (2 ^ (8 * bytes) - 1) ((hsrTotals s).getD i 0 - s.host.hsrPrev.getD i 0))

/-- The index of the greatest element, the lowest on a tie. -/
def argMax (l : List Nat) : Nat := ((List.range l.length).find? (fun i => l.getD i 0 == l.foldl max 0)).getD 0

/-- The stall cause with the most ACLK in the interval; 0 when none. -/
def topCause (p : Part) : Nat := if p.hsrCause.all (fun c => c == 0) then 0 else argMax p.hsrCause + 1

/-- A partition is over its quota on some die. -/
def anyOver (s : State) (n : Nat) : Bool := [0, 1].any (fun d => overNow s d n)

/-- The block of a partition (R427). -/
def hsrPart (s : State) (n : Nat) : List Byte :=
  let p := getPart s n
  let flags := fields [(0, b2n (anyOver s n)), (1, b2n (trusted s n)), (2, b2n p.stopHold)]
  let queued := (p.steps.filter (fun st => st.phase == .queued)).length
  let frames := ([0, 1].map (fun d => regN s (pgGrn d + 0x138 + 4 * n))).sum
  padTo 32 ([BitVec.ofNat 8 p.state.code, BitVec.ofNat 8 flags] ++ leBytes 2 p.stamp ++ leBytes 4 (p.lastStep.getD 0)
    ++ leBytes 4 (min 0xFFFFFFFF p.hsrCommits) ++ [BitVec.ofNat 8 (min 255 queued), BitVec.ofNat 8 (min 255 (p.steps.length - queued))]
    ++ leBytes 2 p.firstError ++ leBytes 4 frames ++ leBytes 4 (min 0xFFFFFFFF p.hsrAdmit) ++ [BitVec.ofNat 8 (topCause p)])

/-- The hottest die sensor and the coolant inlet as 16-bit codes; 0 without a valid reading. -/
def hsrTemps (s : State) : List Byte :=
  let hot := (hottest ([0, 1, 2].flatMap (validT s))).map (fun e => e.2)
  let code := fun (t : Option Int) => leBytes 2 ((t.getD 0) % 65536).toNat
  code hot ++ code (sensorT s 3 0)

/-- Bytes 0 to 251 of the record with sequence number `q` (R427). -/
def hsrBody (s : State) (q : Nat) : List Byte :=
  let flags := fields [(0, b2n (detMode s)), (1, b2n s.tb.locked), (2, b2n s.gate.hold), (3, b2n (s.boot.state == .deviceFault)),
    (4, b2n ((List.range 4).any (anyOver s))), (5, b2n (halfPages s 0 + halfPages s 1 != 0))]
  let down := maskIf 32 (fun p => (getPort s p).lstate == .quarantined || (getPort s p).lstate == .miswired)
  leBytes 8 (now s) ++ leBytes 4 q ++ [BitVec.ofNat 8 s.boot.state.code, BitVec.ofNat 8 (gradeCode s), BitVec.ofNat 8 s.boot.cls,
      BitVec.ofNat 8 flags]
    ++ leBytes 2 (myArb s) ++ [BitVec.ofNat 8 (myDev s), 0] ++ leBytes 4 (fabRead s 0x180) ++ leBytes 4 down
    ++ leBytes 4 (gateState s) ++ leBytes 4 (regN s (pgGate + 0x124)) ++ hsrTemps s ++ leBytes 4 (regN s (pgGate + 0x108))
    ++ leBytes 4 (regN s (pgGrn 0 + 0x150) + regN s (pgGrn 1 + 0x150)) ++ List.replicate 16 0
    ++ (List.range 4).flatMap (hsrPart s)
    ++ hsrDelta s 0 4 ++ hsrDelta s 1 4 ++ hsrDelta s 2 4 ++ hsrDelta s 3 4 ++ hsrDelta s 4 4 ++ hsrDelta s 5 2 ++ hsrDelta s 6 2
    ++ hsrDelta s 7 4 ++ List.replicate 32 0

/-- A partition begins a new interval. -/
def hsrClear (s : State) (n : Nat) : State :=
  setPart s n { getPart s n with hsrAdmit := 0, hsrCause := List.replicate 11 0, hsrCommits := 0 }

/-- HSR_REFRESH (R406, R427): the record of the last 10 ms is exposed with its sequence number, and copied to the host. -/
def execHsrRefresh (s : State) : Out :=
  if !s.lodge.running then .next s
  else
    let q := (s.host.hsrSeq + 1) % 2 ^ 32
    let body := hsrBody s q
    let rec' := body ++ leBytes 4 (crc32c body)
    let s := { s with host := { s.host with hsrSeq := q, hsr := rec', hsrPrev := hsrTotals s } }
    let s := (List.range 4).foldl hsrClear s
    .next (if bit (regN s (pgHost + 0x104)) 1 then writeHost s (pairN s (pgHost + 0x154)) (rec' ++ leBytes 8 q) else s)

end Sys2Proof.Machine
end

