-- ==== Sys2Proof/Machine/RegWrite.lean ====
section
/-!
DEFINITION. Register accesses (R4 to R6, R447 to R451): reads with their effects, the _LO/_HI rules, SOFT_RESET, and what a
write of each register does. Requesters are numbered 0 for the PF, 1 to 4 for the VFs, 5 for the Lodge, and 6 on for the devices
that send register-page requests. A register whose write has a row of its own runs
that row's meaning.
-/

namespace Sys2Proof.Machine

open Sys2Proof Sys2Proof.Config

/-! ## Pairs (R4, R449) -/

/-- Offsets of the _LO registers of a block beside its counters. -/
def loTable : Nat → List Nat
  | 0x1 => (List.range 4).flatMap (fun n => [0x120 + 0x20 * n, 0x128 + 0x20 * n])
  | 0x3 => [0x104]
  | 0x4 => (List.range 4).map (fun n => 0x108 + 8 * n) ++ [0x154, 0x164, 0x170]
  | 0x5 => [0xC0, 0xC8, 0xD0, 0xD8]
  | 0x6 => [0x120, 0x148, 0x158]
  | 0x8 => [0x164, 0x178]
  | 0xA => [0x11C]
  | 0xD => [0x10C, 0x114, 0x134, 0x154]
  | 0xE => [0x108, 0x110]
  | 0xF => [0x108, 0x114]
  | 0x11 => [0x108, 0x110] ++ (List.range 4).flatMap (fun n => [0x160 + 0x20 * n, 0x170 + 0x20 * n])
  | _ => []

/-- An address is a _LO register of a block of this type. -/
def isLo (t a : Nat) : Bool := (c64Offsets t).contains (a % 0x1000) || (loTable t).contains (a % 0x1000)

/-- An address is the _HI register of a pair. -/
def isHi (t a : Nat) : Bool := 4 ≤ a % 0x1000 && isLo t (a - 4)

/-- The key of a requester's latch or staging. -/
def reqKey (req a : Nat) : Nat := req * 2 ^ 32 + a

/-- What a requester has latched of a _HI register. -/
def latched (s : State) (req a : Nat) : Option Word := NMap.get (fun _ => none) s.regs.hiLatch (reqKey req a)

/-- A requester's latch set. -/
def setLatch (s : State) (req a : Nat) (v : Nat) : State :=
  { s with
    regs := { s.regs with
      hiLatch := NMap.set (fun _ => none) s.regs.hiLatch (reqKey req a) (some (BitVec.ofNat 32 v)) } }

/-- What a requester has staged for a _LO register. -/
def staged (s : State) (req a : Nat) : Option Word := NMap.get (fun _ => none) s.regs.loStage (reqKey req a)

/-- A requester's staging set. -/
def setStaged (s : State) (req a : Nat) (v : Nat) : State :=
  { s with
    regs := { s.regs with
      loStage := NMap.set (fun _ => none) s.regs.loStage (reqKey req a) (some (BitVec.ofNat 32 v)) } }

/-! ## Reads -/

/-- The effect of a read on the register itself: RC registers clear (R6), a read of GATE_ECT_DATA advances its index (R359). -/
def readEffect (s : State) (a : Nat) : State :=
  let p := realPage s (pageOf a)
  let t := (blockOf p).1
  let o := a % 0x1000
  if t = 0 ∨ pageInReset s p ∨ (t = 2 ∧ (blockOf p).2 < 128 ∧ tileAbsent s (blockOf p).2) then s
  else if o = 0x28 then setRegN s (p + 0x28) 0
  else if t = 0xC ∧ o = 0x108 then setRegN s (p + 0x108) 0
  else if t = 0xB ∧ o = 0x140 then setRegN s (pgGate + 0x13C) ((regN s (pgGate + 0x13C) % 32 + 1) % 32)
  else s

/-- A read of one register by a requester: its value, and the state after the read (R4, R449). -/
def readReg (s : State) (req a : Nat) : Nat × State :=
  let t := (blockOf a).1
  if isHi t a then
    match latched s req a with
    | some w => (w.toNat, s)
    | none => (regRead s a, s)
  else
    let v := regRead s a
    (v, readEffect (if isLo t a then setLatch s req (a + 4) (regRead s (a + 4)) else s) a)

/-! ## SOFT_RESET (R82, R135, R447) -/

/-- Counters, snapshot window, events and errors of a page clear, and it re-enters for SNAP_TAG (R429, R433, R447). -/
def clearPage (s : State) (p : Nat) : State :=
  let mine := fun (a : Nat) => pageOf a == p
  let gone := fun (a : Nat) =>
    mine a && (decide (0x40 ≤ a % 0x1000 && a % 0x1000 < 0x100) || [0x10, 0x18, 0x1C, 0x20, 0x24, 0x28].contains (a % 0x1000))
  let r := s.regs
  notePages { s with
    regs := { r with
      val := NMap.delIf r.val gone, c64 := NMap.delIf r.c64 mine, c32 := NMap.delIf r.c32 mine,
      hiLatch := NMap.delIf r.hiLatch (fun k => mine (k % 2 ^ 32)), loStage := NMap.delIf r.loStage (fun k => mine (k % 2 ^ 32)) } } [p]

/-- A step is admitted on a tile. -/
def tileBusy (s : State) (t : Nat) : Bool :=
  (List.range 4).any (fun n => (getPart s n).steps.any (fun st => st.phase != .queued && bit st.tiles t))

/-- A step is admitted on a quadrant. -/
def quadBusy (s : State) (u : Nat) : Bool := (List.range 15).any (fun i => tileBusy s (15 * u + i))

/-- A Thresher's calls, banks and stream contexts clear (R82). -/
def clearThr (s : State) (u : Nat) : State :=
  let h := s.thr
  { s with
    thr := { h with
      calls := h.calls.filter (fun c => c.unit != u), outs := h.outs.filter (fun c => c.unit != u),
      bias := NMap.delIf h.bias (fun k => k / 32768 == u), badBank := NMap.delIf h.badBank (fun k => k / 2 == u),
      streams := NMap.delIf h.streams (fun k => k / 4 == u),
      slotUsed := h.slotUsed.filter (fun k => k != u), retUsed := h.retUsed.filter (fun k => k != u),
      gateFree := NMap.del h.gateFree u, stageFree := NMap.del h.stageFree u } }

/-- SOFT_RESET of a page: ignored with 0x0209 or 0x0309 while a step is admitted on the tile or the quadrant. -/
def softResetPage (s : State) (p : Nat) : State :=
  let b := blockOf p
  if b.1 = 0 then s
  else if b.1 = 2 ∧ b.2 < 128 then
    (if tileAbsent s b.2 then s else if tileBusy s b.2 then err s p 0x0209 else clearPage s p)
  else if b.1 = 3 then (if quadBusy s b.2 then err s p 0x0309 else clearPage (clearThr s b.2) p)
  else clearPage s (realPage s p)

/-- SOFT_RESET (R447): BLK_CTRL.SOFT_RESET of a page, by a requester: a VF's page is its own. -/
def execSoftReset (req page : Nat) (s : State) : Out :=
  if 1 ≤ req ∧ req ≤ 4 then
    (if !fnDecodes s req then .next s else if 0x1000 ≤ page then .next (vfViolation s) else .next (clearPage s (pgVf req)))
  else guardWrite s (pageOf page) (.next (softResetPage s (pageOf page)))

/-! ## Writes -/

/-- A write of SHF_EPT_DATA0 to 2: an indexed write into the range of LOAD_RANGE is in progress until DATA3 (R90). -/
def eptDataWrite (s : State) (a v : Nat) : State :=
  setRegN { s with sheaf := { s.sheaf with eptPart := some (fld (regN s (pgShf + 0x104)) 13 12) } } a v

/-- A command's outcome handed on to the next effect of the same write. -/
def chain (o : Out) (k : State → Out) : Out :=
  match o with
  | .next s => k s
  | x => x

/-- The bits of a register that a plain write changes. -/
def maskOfReg (t o : Nat) : Nat := lookN (writeTable t) o

/-- A plain write: the writable fields take the written value (R5). -/
def plainWrite (s : State) (a v : Nat) : State :=
  let m := maskOfReg (blockOf a).1 (a % 0x1000)
  setRegN s a (without (regN s a) m + Nat.land (v % 2 ^ 32) m)

/-- BLK_CTRL (R446): ENABLE, FREEZE of a logical tile page, SOFT_RESET. -/
def ctrlWrite (s : State) (p v : Nat) : Out :=
  let b := blockOf p
  let q := realPage s p
  let s := setRegN s (q + 8) (setFld (regN s (q + 8)) 0 0 (b2n (bit v 0)))
  let tile := b.1 == 2 && b.2 < 128
  let fz : Out := if !tile ∨ bit v 2 = (getTile s b.2).freeze then .next s
    else if bit v 2 then execFreezeSet b.2 s else execFreezeClear b.2 s
  chain fz (fun s => .next (if bit v 1 then softResetPage s p else s))

/-- The common registers of a page (R446). -/
def commonWrite (s : State) (p o v : Nat) : Out :=
  let q := realPage s p
  if o = 8 then ctrlWrite s p v
  else if o = 0x14 then .next (setRegN s (q + 0x14) (Nat.land v (evtBits (blockOf q).1).2))
  else if o = 0x18 then execEvtPendClear q v s
  else .next s

/-- A free choice among the frames of a die that MAP and LEND may take, outside `avoid` (log entry 32): the manual does not fix
it. -/
def pickFrame (s : State) (die : Nat) (avoid : List Nat) : Nat × State :=
  let l := ((List.range 391168).map (fun i => 2 * i + die)).filter (fun f => frameFree s die f && !avoid.contains f)
  let f := freshFree s
  (l.getD (f.1.toNat % max 1 l.length) 0, f.2)

/-- Several frames, one after another. -/
def pickFrames : Nat → State → Nat → List Nat → List Nat × State
  | 0, s, _, l => (l, s)
  | k + 1, s, die, l => let r := pickFrame s die l; pickFrames k r.2 die (l ++ [r.1])

/-- GRN_MAP_CMD (R163, R191). -/
def mapCmdWrite (s : State) (die v : Nat) : Out :=
  let n := fld v 9 8
  if fld v 1 0 = 1 then let r := pickFrame s die []; execMap die n r.1 r.2
  else if fld v 1 0 = 2 then execUnmap die n s
  else .next s

/-- The mailbox command that a request's OPC names (R425); an unknown one is refused. -/
def mailboxCmd (s : State) (r : List Byte) : Out :=
  match byteFld r 0 0 with
  | 0x01 => execPartSet r s
  | 0x02 => execPartFree r s
  | 0x03 => execJobOpen r s
  | 0x04 => execJobEpoch r s
  | 0x05 => execPartStop r s
  | 0x06 => execPartResume r s
  | 0x07 => execPartReset r s
  | 0x08 => execJobClose r s
  | 0x09 => execQuiesce r s
  | 0x0A => execJobRelease r s
  | 0x0B => execSetQuota r s
  | 0x0C => execSetAllot r s
  | 0x0D =>
    let d := rq r 4 4
    let k := pickFrames (min (rq r 5 5) (offerLeft s d)) s (d % 2) []
    execLend r k.1 k.2
  | 0x0E => execLendRelease r s
  | 0x0F => execLeaseGrant r s
  | 0x10 => execLeaseRecall r s
  | 0x11 => execLenderDown r s
  | 0x12 => execSnapshot r s
  | 0x13 => execReadCmap r s
  | 0x14 => execReadDigest r s
  | k => mailbox s (k + 1) 1 [] r (fun s => ⟨0x1101, [], s⟩)

/-- HOST_MBOX_CMD (R405): the request in HOST_MBOX_REQ0 to 63 starts; one that comes while a request is in progress is ignored
with 0x0D09. -/
def mboxWrite (s : State) (v : Nat) : Out :=
  let bs := (List.range 64).flatMap (fun i => leBytes 4 (regN s (pgHost + 0x400 + 4 * i)))
  mailboxCmd s (bs.take (v % 512))

/-- A pair of the queue pair window takes FUNC (R410): a new function gives its lowest free local index. -/
def assignPair (s : State) (q : Nat) (x : Qp) (cfg : Nat) : Qp :=
  let n := fld cfg 12 10
  if n = 0 ∨ pairFn x = n then { x with cfg := cfg }
  else
    let taken := (s.host.qps.filter (fun e => e.1 != q && pairFn e.2 == n)).map (fun e => e.2.vfIdx)
    { x with cfg := cfg, vfIdx := ((List.range 64).find? (fun i => !taken.contains i)).getD 64 }

/-- A write of a pair's configuration, which an enabled pair ignores with 0x0D0E (R395). -/
def qpCfgWrite (s : State) (q : Nat) (f : Qp → Qp) : State :=
  let x := getQp s q
  if x.enabled then err s pgHost 0x0D0E else setQp s q (f x)

/-- The queue pair window of a function (R395, R409, R410): `q` is the pair's index as the function counts. -/
def qpWrite (s : State) (fn q o v : Nat) : Out :=
  match resolvePair s fn q with
  | none => .next (if fn = 0 then s else vfViolation s)
  | some i =>
    if o = 0x11C then
      let keep := fld (getQp s i).cfg 14 10
      let cfg := if fn = 0 then v % 2 ^ 27 else setFld (v % 2 ^ 27) 14 10 keep
      .next (qpCfgWrite s i (fun x => assignPair s i x cfg))
    else if o = 0x120 then .next (setQp s i { getQp s i with coal := v % 2 ^ 32 })
    else if o = 0x124 then
      (match fld v 1 0 with
       | 1 => execQpEnable fn q s
       | 2 => execQpDisable fn q s
       | 3 => execQpUnquarantine fn q s
       | _ => .next s)
    else .next s

/-- The bases of a pair (R395), 4 KiB aligned. -/
def qpBaseWrite (s : State) (fn q o v : Nat) : State :=
  match resolvePair s fn q with
  | none => if fn = 0 then s else vfViolation s
  | some i =>
    let b := v / 4096 * 4096
    qpCfgWrite s i (fun x => if o = 0x10C then { x with sqBase := b } else { x with cqBase := b })

/-- The ring registers of the Lodge and of the digests of a partition with steps are kept (R320, R440). -/
def ringBusy (s : State) (n : Nat) : Bool := !(getPart s n).steps.isEmpty

/-- A write to the step or tally ring registers of partition (o − 0x160) / 0x20. -/
def ringCfgWrite (s : State) (o : Nat) (f : State → State) : State :=
  if ringBusy s ((o - 0x160) / 0x20) then err s pgLodge 0x110B else f s

/-- A 64-bit value that takes effect with the write of its _HI register: `a` is the address of the _LO register. -/
def pairWrite (s : State) (a v : Nat) : State :=
  let t := (blockOf a).1
  let o := a % 0x1000
  let put := fun (s : State) => plainWrite (plainWrite s a (v % 2 ^ 32)) (a + 4) (v / 2 ^ 32)
  if t = 4 ∧ o < 0x128 then assignFrame (put s) (pairN (put s) a) (4 * ((o - 0x108) / 8))
  else if t = 4 ∧ o = 0x154 then assignFrame (put s) (pairN (put s) a) 1
  else if t = 0xA then assignFrame (put s) (pairN (put s) a) 2
  else if t = 8 then
    (if regN s (pgFab + 0x16C) = 0 then put s else assignFrame (put s) (pairN (put s) a) 3)
  else if t = 0xD ∧ (o = 0x10C ∨ o = 0x114) then qpBaseWrite s 0 (regN s (pgHost + 0x108) % 256) o v
  else if t = 0x11 ∧ 0x160 ≤ o then ringCfgWrite s o put
  else put s

/-- PORT_CTRL (R237): MEDIA while the port is DISABLED, then ENABLE, RETRAIN and UNQUARANTINE. -/
def portCtrlWrite (s : State) (p v : Nat) : Out :=
  let off := (getPort s p).lstate == .disabled
  let s := if off then setRegN s (pgPort p + 0x104) (fld v 5 4 * 16) else s
  let en := if bit v 0 then (if off then execPortEnable p s else .next s) else (if off then .next s else execPortDisable p s)
  chain (chain en (fun s => if bit v 2 then execPortRetrain p s else .next s))
    (fun s => if bit v 1 then execPortUnquarantine p s else .next s)

/-- BOOT_RESET (R368, R387). A router-die reset started this way finds the units bad that were bad before (log entry 84). -/
def bootResetWrite (s : State) (v : Nat) : Out :=
  let key := fld v 15 8
  match fld v 3 0 with
  | 1 => execBootResetRouterDie key (testMasks s.boot) s
  | 2 => execBootResetComputeDie 0 key s
  | 3 => execBootResetComputeDie 1 key s
  | 4 => execBootResetPartition 0 key s
  | 5 => execBootResetPartition 1 key s
  | 6 => execBootResetPartition 2 key s
  | 7 => execBootResetPartition 3 key s
  | _ => .next (if key ≠ 0xA5 then bootRefuse s else s)

/-- BOOT_CMD (R387). -/
def bootCmdWrite (s : State) (v : Nat) : Out :=
  match fld v 3 0 with
  | 1 => execLoad s
  | 2 => execBroadcastImage s
  | 3 => execAttest s
  | _ => .next s

/-- LODGE_SNAP_CMD (R443). -/
def snapWrite (s : State) (v : Nat) : Out :=
  let s := setRegN s (pgLodge + 0x104) (v % 4)
  match fld v 1 0 with
  | 1 => execSnapAt s
  | 2 => execSnapNow s
  | 3 => execSnapCancel s
  | _ => .next s

/-- SHF_EPT_CTRL (R111): LOAD_RANGE and SWAP_ARMED, or the start of a bulk copy. -/
def eptCtrlWrite (s : State) (v : Nat) : Out :=
  if bit v 10 then execEptBulkLoad v s
  else
    let c := regN s (pgShf + 0x104)
    .next (setRegN s (pgShf + 0x104) (setFld (setFld c 13 12 (fld v 13 12)) 7 4 (fld v 7 4)))

/-- FAB_ARBOUR and FAB_MEMBERS (R236): written since reset. -/
def fabIdWrite (s : State) (a v : Nat) : State :=
  let k := if a % 0x1000 = 0x108 then 1 else 2
  plainWrite { s with fab := { s.fab with written := Nat.lor s.fab.written k } } a v

/-- FAB_CMAP_RING_CFG (R232, R331): a ring of some records uses the frame at its base. -/
def cmapRingWrite (s : State) (v : Nat) : State :=
  let s := plainWrite s (pgFab + 0x16C) v
  if regN s (pgFab + 0x16C) = 0 then s else assignFrame s (pairN s (pgFab + 0x164)) 3

/-- TB_CTRL (R388): ROOT and ALIGN_EN, then SET. -/
def tbCtrlWrite (s : State) (v : Nat) : Out :=
  let s := setParent (setRegN s (pgTb + 0x104) (v % 4))
  if bit v 2 then execTbSet s else .next s

/-- A write of a block-specific register that is not half of a pair (R457). -/
def blockWrite (s : State) (t i a v : Nat) : Out :=
  let o := a % 0x1000
  match t with
  | 0x1 =>
    if o = 0x100 then execDetModeWrite (bit v 0) s
    else if 0x120 ≤ o ∧ o < 0x1A0 ∧ o % 0x20 = 0x14 then execDigestCfgWrite ((o - 0x120) / 0x20) v s
    else .next s
  | 0x4 =>
    if 0x128 ≤ o ∧ o < 0x138 then execGrnQuotaWrite i ((o - 0x128) / 4) v s
    else if o = 0x16C then mapCmdWrite s i v
    else .next (plainWrite s a v)
  | 0x6 =>
    if o = 0x104 then eptCtrlWrite s v
    else if 0x10C ≤ o ∧ o < 0x118 then .next (eptDataWrite s a v)
    else if o = 0x118 then execEptEntryWrite v s
    else .next (plainWrite s a v)
  | 0x7 =>
    if 0x11C ≤ o ∧ o < 0x158 then .next (setRegN s a v)
    else if o = 0x158 then execCommEntryWrite v s
    else .next (plainWrite s a v)
  | 0x8 =>
    if o = 0x108 ∨ o = 0x10C then .next (fabIdWrite s a v)
    else if o = 0x16C then .next (cmapRingWrite s v)
    else .next (plainWrite s a v)
  | 0x9 => if o = 0x104 then portCtrlWrite s i v else .next s
  | 0xA =>
    if o = 0x108 then execPartModeWrite v s
    else if 0x128 ≤ o ∧ o < 0x134 then .next (setRegN s a v)
    else if o = 0x134 then execOrtEntryWrite v s
    else .next (plainWrite s a v)
  | 0xB =>
    if o = 0x108 then execAllotWrite v s
    else if o = 0x10C then execIlimitWrite v s
    else if o = 0x148 then execPaceClear v s
    else .next (plainWrite s a v)
  | 0xD =>
    if 0x11C ≤ o ∧ o < 0x128 then qpWrite s 0 (regN s (pgHost + 0x108) % 256) o v
    else if o = 0x148 then mboxWrite s v
    else .next (plainWrite s a v)
  | 0xE => if o = 0x104 then tbCtrlWrite s v else .next (plainWrite s a v)
  | 0xF =>
    if o = 0x104 then bootCmdWrite s v
    else if o = 0x12C then bootResetWrite s v
    else .next (plainWrite s a v)
  | 0x11 =>
    if o = 0x104 then snapWrite s v
    else if 0x160 ≤ o ∧ o < 0x1E0 ∧ maskOfReg t o ≠ 0 then .next (ringCfgWrite s o (fun s => plainWrite s a v))
    else .next (plainWrite s a v)
  | _ => .next s

/-- The low half that a write of the _HI register at `a` takes effect with (R449). -/
def lowHalf (s : State) (req a : Nat) : Nat :=
  match staged s req (a - 4) with
  | some w => w.toNat
  | none => regRead s (a - 4)

/-- A pair is written through its halves: _LO is staged, _HI takes effect with it (R4, R449). The halves of an outer table entry
store the entry (R236). -/
def halfWrite (s : State) (req a v : Nat) : Out :=
  let t := (blockOf a).1
  if isLo t a then
    let s := setStaged s req a v
    .next (if t = 8 ∧ a % 0x1000 = 0x178 then setRegN s a v else s)
  else if t = 8 ∧ a % 0x1000 = 0x17C then execOtabEntryWrite v (setRegN s (a - 4) (lowHalf s req a))
  else .next (pairWrite s (a - 4) (lowHalf s req a + v % 2 ^ 32 * 2 ^ 32))

/-- The pair at an address has a writable register. -/
def pairWritable (t a : Nat) : Bool :=
  (isLo t a && (maskOfReg t (a % 0x1000) != 0 || maskOfReg t (a % 0x1000 + 4) != 0 || (t == 8 && a % 0x1000 == 0x178)))
    || (isHi t a && (maskOfReg t (a % 0x1000) != 0 || (t == 8 && a % 0x1000 == 0x17C)))
    || (t == 0xD && (a % 0x1000 == 0x10C || a % 0x1000 == 0x110 || a % 0x1000 == 0x114 || a % 0x1000 == 0x118))

/-- A 4-byte write by the PF, the Lodge or a device of the fabric (R446 to R451). -/
def writeReg (s : State) (req a v : Nat) : Out :=
  let p := pageOf a
  let b := blockOf p
  let o := a % 0x1000
  if b.1 = 0 ∨ a % 4 ≠ 0 then .next s
  else
    guardWrite s p
      (if b.1 = 2 ∧ b.2 < 128 ∧ tileAbsent s b.2 then .next s
       else if o < 0x40 then commonWrite s p o v
       else if o < 0x100 then .next s
       else if pairWritable b.1 a then halfWrite s req a v
       else blockWrite s b.1 b.2 a v)

/-! ## The page of a VF (R410, R458) -/

/-- The first violation as a VF sees it: only one of its own pairs, by local index. -/
def vfFirst (s : State) (n : Nat) : Nat :=
  let w := regN s (pgHost + 0x15C)
  let x := getQp s (fld w 23 16)
  if w ≠ 0 ∧ pairFn x = n then fields [(0, fld w 15 0), (16, x.vfIdx)] else 0

/-- The queue pair window of a VF. -/
def vfWindow (s : State) (n o : Nat) : Nat :=
  match resolvePair s n (regN s (pgVf n + 0x108) % 256) with
  | some q => if o = 0x11C then setFld (setFld (getQp s q).cfg 12 10 n) 14 13 (n - 1) else qpWindow s q o
  | none => 0

/-- A register of a VF's page. -/
def vfRead (s : State) (n o : Nat) : Nat :=
  let b := pgVf n
  if o = 0 then idOf 0xD 0
  else if o = 4 then capsOf 0xD 0
  else if o = 8 then setFld (regN s (b + 8)) 0 0 (1 - b2n (bit (regN s (b + 8)) 0))
  else if o = 0xC then fields [(0, 1), (3, b2n (regN s (b + 0x18) != 0)), (4, b2n (regN s (b + 0x28) != 0))]
  else if o < 0x30 then regN s (b + o)
  else if o < 0x100 then 0
  else if o = 0x100 then
    fields [(0, b2n s.host.linkUp), (2, b2n (s.host.qps.any (fun e => pairFn e.2 == n && e.2.quarantined)))]
  else if o = 0x108 then regN s (b + 0x108) % 256
  else if 0x10C ≤ o ∧ o < 0x130 then vfWindow s n o
  else if o = 0x134 ∨ o = 0x138 then regN s (b + o)
  else if o = 0x13C then setFld (regN s (b + 0x13C)) 1 0 (n - 1)
  else if o = 0x140 ∨ o = 0x144 then hostPins s o
  else if o = 0x15C then vfFirst s n
  else if o = 0x160 then (evtBits 0xD).2
  else 0

/-- A read by a VF: outside its page or its pairs it reads 0 with error 0x0D08 (R408, R410). -/
def vfReadReg (s : State) (n a : Nat) : Nat × State :=
  let o := a % 0x1000 / 4 * 4
  if 0x1000 ≤ a then (0, vfViolation s)
  else if 0x10C ≤ o ∧ o < 0x130 ∧ (resolvePair s n (regN s (pgVf n + 0x108) % 256)).isNone then (0, vfViolation s)
  else if [0x110, 0x118, 0x138].contains o then
    match latched s n (pgVf n + o) with
    | some w => (w.toNat, s)
    | none => (vfRead s n o, s)
  else
    let lo := [0x10C, 0x114, 0x134].contains o
    let s' := if lo then setLatch s n (pgVf n + o + 4) (vfRead s n (o + 4)) else s
    (vfRead s n o, if o = 0x28 then setRegN s' (pgVf n + 0x28) 0 else s')

/-- A write by a VF (R410): its common registers, its pairs and its BAR2 window. BLK_CTRL.ENABLE is kept inverted, so that an
untouched page shows its reset value 1. -/
def vfWriteReg (s : State) (n a v : Nat) : Out :=
  let b := pgVf n
  let q := regN s (b + 0x108) % 256
  let low := fun (o : Nat) => match staged s n (b + o) with
    | some w => w.toNat
    | none => vfRead s n o
  if 0x1000 ≤ a then .next (vfViolation s)
  else if a % 4 ≠ 0 then .next s
  else if a = 8 then
    let s := setRegN s (b + 8) (1 - b2n (bit v 0))
    .next (if bit v 1 then clearPage s b else s)
  else if a = 0x14 then .next (setRegN s (b + 0x14) (Nat.land v (evtBits 0xD).2))
  else if a = 0x18 then .next (setRegN (setRegN s (b + 0x18) (without (regN s (b + 0x18)) v)) (b + 0x10) (without (regN s (b + 0x10)) v))
  else if a = 0x108 then .next (setRegN s (b + 0x108) (v % 256))
  else if a = 0x10C ∨ a = 0x114 ∨ a = 0x134 then .next (setStaged s n (b + a) v)
  else if a = 0x110 ∨ a = 0x118 then .next (qpBaseWrite s n q (a - 4) (low (a - 4) + v % 2 ^ 32 * 2 ^ 32))
  else if a = 0x138 then .next (setPair s (b + 0x134) (low 0x134 + v % 2 ^ 32 * 2 ^ 32))
  else if a = 0x13C then .next (setRegN s (b + 0x13C) (Nat.land v 0x80000000))
  else if 0x11C ≤ a ∧ a < 0x128 then qpWrite s n q a v
  else .next s

/-! ## The commands -/

/-- A read answers a requester in `rdata`; a VF reads its own page. -/
def readBy (s : State) (req a : Nat) : Nat × State :=
  if 1 ≤ req ∧ req ≤ 4 then vfReadReg s req a else readReg s req (a / 4 * 4)

/-- The requester is a function that does not decode memory (R390). -/
def mute (s : State) (req : Nat) : Bool := req ≤ 4 && !fnDecodes s req

/-- LO_READ_LATCH (R4, R449): a read of a register by a requester; a _LO register latches its _HI half for that requester, and
a _HI register answers with what was latched. Every other register answers with its value and its read effect. -/
def execLoReadLatch (req addr : Nat) (s : State) : Out :=
  if mute s req then .next s
  else
    let r := readBy s req addr
    .next (regAnswer r.2 r.1)

/-- A write by a requester. -/
def writeBy (s : State) (req a v : Nat) : Out :=
  if 1 ≤ req ∧ req ≤ 4 then vfWriteReg s req a v else writeReg s req a v

/-- HI_WRITE (R4, R449): a write of a _HI register takes effect with the requester's low half; a register that is no _HI half is
left alone. -/
def execHiWrite (req addr v : Nat) (s : State) : Out :=
  if mute s req then .next s
  else if (1 ≤ req ∧ req ≤ 4 ∧ ¬ [0x110, 0x118, 0x138].contains addr) ∨ (¬ (1 ≤ req ∧ req ≤ 4) ∧ !isHi (blockOf addr).1 addr) then .next s
  else writeBy s req addr v

/-- REGISTER_WRITE (R5, R448, R451): a 4-byte write of a register by a requester; a poisoned TLP of a function is discarded with
0x0D07 (R408). -/
def execRegisterWrite (req addr v : Nat) (poisoned : Bool) (s : State) : Out :=
  if mute s req then .next s
  else if poisoned ∧ req ≤ 4 then .next (hostViolation s 0 0x0D07)
  else writeBy s req addr v

end Sys2Proof.Machine
end

