-- ==== Sys2Proof/Machine/AtomHome.lean ====
section
/-!
DEFINITION. The home atomic unit: the checks of a memory request at its receiver, its translation, and LOAD, STORE, ADD,
MIN, MAX and CAS on the lines of T1, in tile SRAM and in the register page (R238 to R249, R254, R255).
-/

namespace Sys2Proof.Machine

open Sys2Proof Sys2Proof.Config

/-! ## Status codes (R243) -/

def stNoXlate : Nat := 1
def stPerm : Nat := 2
def stSpace : Nat := 3
def stLost : Nat := 4
def stUncorr : Nat := 5
def stMalformed : Nat := 6
def stNotArmed : Nat := 7

/-! ## The request -/

/-- The partition of a request's stamp. -/
def memPart (s : State) (p : Pkt) : Nat := fld (stampEntry s (p.stamp / 16)) 7 6

/-- A request is well formed as its receiver sees it (R243, R244, R255). -/
def memOk (p : Pkt) : Bool :=
  let m := parseMem p.th
  m.ok && p.count == 1 && p.last
    && (if m.comb then m.op == 3 && !m.fetch && m.size == 64 && m.addr % 64 == 0 else true)
    && m.dataLen ≤ p.rest.length

/-- A response to a request (R243). -/
def memRspOf (s : State) (p : Pkt) (st : Nat) (bs : List Byte) : Pkt :=
  let m := parseMem p.th
  { (mkPkt s 5 p.stamp p.srcArb p.src).withTh (rspHeader m.op st bs.length m.addr) bs with msgId := p.msgId }

/-- Two requests touch one 256-byte block, which holds all their lines (R244). -/
def sameBlock (p q : Pkt) : Bool := fld p.th 55 8 == fld q.th 55 8

/-- The oldest request that meets `f` and that no earlier request to its lines precedes (R245). -/
def nextMem (f : Pkt → Bool) : List Pkt → List Pkt → Option Pkt
  | _, [] => none
  | before, p :: ps =>
    if p.proto ≠ 4 then nextMem f before ps
    else if f p && !before.any (sameBlock p) then some p
    else nextMem f (p :: before) ps

/-- A request leaves the home's buffer. -/
def memTaken (s : State) (p : Pkt) : State := { s with fab := { s.fab with ejected := s.fab.ejected.erase p } }

/-- The response of a request waits for mirrors or for the landing of its unit. -/
def memPending (s : State) (p : Pkt) : Bool :=
  let same := fun (r : Option Pkt) => match r with
    | some r => r.dstArb == p.srcArb && r.dst == p.src && r.msgId == p.msgId
    | none => false
  s.grn.stores.any (fun x => same x.resp) || (inFlight s).any (fun u => same u.ack)

/-! ## Translation (R241) -/

/-- What a receiver's translation of a request gives. -/
inductive Xlate where
  | refused (st : Nat)
  /-- a job address of the partition -/
  | job (part a : Nat)
  /-- a T1 address, served with no Tier Map -/
  | direct (a : Nat)
  | sram (part tile a : Nat)
  deriving DecidableEq, Repr

/-- An ATPT entry of 8 bytes through its buffer: a miss reads T1 and is counted. The entry is none where its block is
uncorrectable. -/
def atptEntry (s : State) (a : Nat) (held : Bool) : Option Nat × State :=
  if held then (some (leNat (t1Raw s a 8)), s)
  else
    let s := assignFrame (incSat s (pgAtom + 0x7C) 1) a 2
    match t1Read s (a / 8 * 8) 8 with
    | (some bs, s) => (some (leNat bs), s)
    | (none, s) => (none, err s pgAtom 0x0A05)

/-- Operations that a leaf grants (R241). -/
def leafGrants (e : Nat) (m : MemHdr) : Bool := match m.op with
  | 1 => bit e 62
  | 2 => bit e 61
  | _ => bit e 60

/-- What a leaf entry makes of an offset. -/
def leafTarget (s : State) (part e : Nat) (m : MemHdr) : Xlate :=
  if fld e 59 58 ≠ m.space then .refused stSpace
  else if !leafGrants e m then .refused stPerm
  else if m.space = 0 then
    match walk s 0 part m.off with
    | .page _ w => if peHomeDev w ≠ myDev s then .refused stPerm else .job part m.off
    | _ => .job part m.off
  else
    let tile := fld e 31 24
    let base := 64 * fld e 23 6
    if 120 ≤ tile ∨ tileBytes < base + 0x200000 then .refused stPerm
    else .sram part tile (base + m.off % 0x200000)

/-- The walk of the ATPT (R241): a root entry of the stamp's tag and epoch, a directory entry and a leaf. The router die buffers
directory and leaf entries. -/
def atptWalk (s : State) (p : Pkt) (m : MemHdr) : Xlate × State :=
  let no := fun (s : State) => (Xlate.refused stNoXlate, s)
  let root := pairN s (pgAtom + 0x11C) + 8 * (p.stamp / 16)
  match atptEntry s root (s.atom.dirBuf.contains root) with
  | (none, s) => no s
  | (some r, s) =>
    if !bit r 63 ∨ fld r 62 59 ≠ p.stamp % 16 ∨ fld r 56 41 ≠ 0 then no s
    else
      let part := fld r 58 57
      let da := fld r 40 0 + 8 * fld m.off 47 33
      let s := { s with atom := { s.atom with dirBuf := (root :: s.atom.dirBuf.erase root).take 512 } }
      match atptEntry s da (s.atom.dirBuf.contains da) with
      | (none, s) => no s
      | (some d, s) =>
        if !bit d 63 ∨ fld d 62 41 ≠ 0 then no s
        else
          let s := { s with atom := { s.atom with dirBuf := (da :: s.atom.dirBuf.erase da).take 512 } }
          let la := fld d 40 0 + 8 * fld m.off 32 21
          match atptEntry s la (s.atom.leafBuf.contains la) with
          | (none, s) => no s
          | (some e, s) =>
            if !bit e 63 ∨ fld e 57 32 ≠ 0 ∨ (fld e 59 58 = 0 ∧ fld e 31 0 ≠ 0) then no s
            else
              let s := { s with atom := { s.atom with leafBuf := (la :: s.atom.leafBuf.erase la).take 8192 } }
              (leafTarget s part e m, s)

/-- Where a request outside the register page is served (R239 to R242). -/
def translate (s : State) (p : Pkt) (m : MemHdr) : Xlate × State :=
  if m.space = 1 ∧ m.op ≠ 2 then (.refused stSpace, s)
  else if !trusted s (memPart s p) then atptWalk s p m
  else if m.space = 1 then
    if fld m.off 47 32 ≠ 0 then (.refused stMalformed, s)
    else (.sram (memPart s p) (fld m.off 31 24) (fld m.off 23 0), s)
  else if reservedFrame (m.off / 0x200000) then (.refused stPerm, s)
  else (.direct m.off, s)

/-! ## The operations (R246) -/

/-- The signed value of a two's complement number of `n` bits. -/
def asInt (n a : Nat) : Int := if a < 2 ^ (n - 1) then a else (a : Int) - 2 ^ n

/-- The lesser of two elements (R246). -/
def minElem (ty a b : Nat) : Nat := match ty with
  | 0 => if asInt 32 b < asInt 32 a then b else a
  | 2 => if asInt 64 b < asInt 64 a then b else a
  | 4 => f32Min a b
  | 5 => f32Min (a * 65536) (b * 65536) / 65536
  | _ => min a b

/-- The greater of two elements (R246). -/
def maxOf (ty a b : Nat) : Nat := match ty with
  | 0 => if asInt 32 a < asInt 32 b then b else a
  | 2 => if asInt 64 a < asInt 64 b then b else a
  | 4 => f32Max a b
  | 5 => f32Max (a * 65536) (b * 65536) / 65536
  | _ => max a b

/-- What an operation does to one element. -/
def elemOp (m : MemHdr) (a v : Nat) : Nat := match m.op with
  | 3 => addElem m.ty a v
  | 4 => minElem m.ty a v
  | 5 => maxOf m.ty a v
  | _ => v

/-- Operand elements of `w` bytes, at offsets from the first line, applied to whole lines. -/
def applyElems (f : Nat → Nat → Nat) (w : Nat) : List (Nat × List Byte) → List Byte → List Byte
  | [], b => b
  | (o, v) :: es, b =>
    let old := leNat ((b.drop o).take w)
    applyElems f w es (b.take o ++ leBytes w (f old (leNat v)) ++ b.drop (o + w))

/-- The operand elements of a request by their offsets in its first line: those that MASK marks where it is combined
(R254). -/
def operands (m : MemHdr) (d : List Byte) : List (Nat × List Byte) :=
  let es := elemsAt m.elem (m.addr % 64) (d.take m.dataLen)
  if m.comb then es.filter (fun e => (List.range (m.elem / 2)).all (fun i => bit m.mask (e.1 / 2 + i))) else es

/-- The lines of a request after it (R246). -/
def newLines (m : MemHdr) (d old : List Byte) : List Byte :=
  let o := m.addr % 64
  match m.op with
  | 1 => old
  | 6 => if (old.drop o).take 8 = d.take 8 then old.take o ++ (d.drop 8).take 8 ++ old.drop (o + 8) else old
  | _ => applyElems (elemOp m) m.elem (operands m d) old

/-- What a request returns (R243, R246). -/
def returned (m : MemHdr) (old : List Byte) : List Byte := (old.drop (m.addr % 64)).take m.retLen

/-- Bytes of the lines that a request touches. -/
def lineBytes (m : MemHdr) : Nat := (m.addr % 64 + m.size + 63) / 64 * 64

/-! ## Outcomes -/

/-- A request is refused: counted, and answered with the status (R255, R256). -/
def memRefuse (s : State) (p : Pkt) (st : Nat) : State :=
  let s := faultInfo (evt (incSat s (pgAtom + 0x78) 1) pgAtom 2) p.src st
  send (noteId (memTaken s p) p.srcArb p.src p.msgId none) (memRspOf s p st [])

/-- A request meets what it cannot be performed on: answered with the status, and not marked. -/
def memFail (s : State) (p : Pkt) (st : Nat) : State :=
  send (noteId (memTaken s p) p.srcArb p.src p.msgId none) (memRspOf s p st [])

/-- A request performed: counted, answered, and marked unless it is a LOAD, which is performed again when it is repeated
(R248). -/
def memDone (s : State) (p : Pkt) (bs : List Byte) : State :=
  let s := inc64 (memTaken s p) (pgAtom + 0x48) 1
  let r := memRspOf s p 0 bs
  if (parseMem p.th).op = 1 then send (noteId s p.srcArb p.src p.msgId none) r else sendMarked s r

/-- Requests performed on lines whose mirrors acknowledge later: their responses leave then (R182, R245). -/
def memLater (s : State) (part acks tag : Nat) (ps : List (Pkt × List Byte)) : State :=
  ps.foldl (fun s e =>
    let s := inc64 (noteId (memTaken s e.1) e.1.srcArb e.1.src e.1.msgId none) (pgAtom + 0x48) 1
    { s with
      grn := { s.grn with
        stores := s.grn.stores ++ [{ tile := 0, bg := false, part := part, ctr := 0, acks := acks, tag := tag, resp := some (memRspOf s e.1 0 e.2) }] } }) s

/-- Requests `ps`, merged into one, applied to lines of job memory whose bytes `f` changes (R245). -/
def performJob (s : State) (part a : Nat) (m : MemHdr) (ps : List Pkt) (f : List Byte → List Byte) : Out :=
  let la := a / 64 * 64
  let n := lineBytes m
  let each := fun (s : State) (g : State → Pkt → State) => ps.foldl g s
  let lost := fun (s : State) (code : Nat) =>
    let s := if code ≠ 0x0405 then incSat s (pgGrn (ownerDie s part a) + 0xD4) 1 else s
    Host.Outcome.next (partFault (each (grnFault s 0 part code) (fun s p => memFail s p stLost)) part code)
  match jobFetch s 0 part la n with
  | (.data old, s) =>
    let new := f old
    let s := inc64 s (pgAtom + 0x50) (n / 64)
    if m.op = 1 then .next (each s (fun s p => memDone s p (returned m old)))
    else
      let t := newTag s
      match putRows 0 part t.1 false [(la, new)] t.2 0 with
      | (.data _, s, 0) => .next (each s (fun s p => memDone s p (returned m old)))
      | (.data _, s, acks) => .next (memLater s part acks t.1 (ps.map (fun p => (p, returned m old))))
      | (.readOnly, s, _) => .next (each s (fun s p => memRefuse s p stPerm))
      | (.uncorr ea g, s, _) => .next (uncorrGrain (each s (fun s p => memFail s p stUncorr)) part ea g a)
      | (_, s, _) => .next s
  | (.uncorr ea g, s) => .next (uncorrGrain (each s (fun s p => memFail s p stUncorr)) part ea g a)
  | (.lost _, s) => lost s 0x0404
  | (.unmapped, s) => lost s 0x0402
  | (.badTmap, s) => lost s 0x0405
  | (.wait _ _, s) => .next (demandRange s part la n)
  | (_, s) => .next s

/-- Requests applied to lines of T1 named by their address (R239, R242). An address beyond T1 is refused with a status that
the manual does not name: a free one. -/
def performT1 (s : State) (a : Nat) (m : MemHdr) (ps : List Pkt) (f : List Byte → List Byte) : Out :=
  let la := a / 64 * 64
  let n := lineBytes m
  if t1Bytes < la + n then
    let v := freshFree s
    .next (ps.foldl (fun s p => memRefuse s p (1 + v.1.toNat % 7)) v.2)
  else
    let bad := fun (s : State) => ((blocksOf la n).filter (blockBad s)).foldl ueOwner
      (ps.foldl (fun s p => memFail s p stUncorr) s)
    match t1Read s la n with
    | (none, s) => .next (bad s)
    | (some old, s) =>
      let s := inc64 s (pgAtom + 0x50) (n / 64)
      if m.op = 1 then .next (ps.foldl (fun s p => memDone s p (returned m old)) s)
      else .next (ps.foldl (fun s p => memDone s p (returned m old)) (t1Write s la (f old)).2)

/-- A STORE into tile SRAM is one arrival unit; its response leaves when the unit has landed, or is discarded (R239). -/
def performSram (s : State) (part tile a : Nat) (m : MemHdr) (p : Pkt) : Out :=
  if 120 ≤ tile then .next (memFail s p stNotArmed)
  else
    let s := noteId (memTaken s p) p.srcArb p.src p.msgId none
    let u : Sys2Proof.Machine.Unit := {
      tile := tile, bg := false, part := part, handle := 0, ctr := 0, off := 0, data := p.rest.take m.size, weight := false,
      cause := 6, again := false, link := tile / 60, counts := true, direct := some a, ack := some (memRspOf s p 0 []) }
    .next (toEdge (soilUnit s (fromAway s p) u) u)

/-- A register-page request (R239, R249): served only under the register stamp; 8 bytes are two accesses, the low one first
(log entry 59). -/
def performReg (s : State) (p : Pkt) (m : MemHdr) : Out :=
  let w := regN s (pgAtom + 0x138)
  let req := 6 + p.srcArb * 64 + p.src
  let a := fld m.off 25 0
  if 2 < m.op ∨ 8 < m.size ∨ !bit w 31 ∨ fld w 15 0 ≠ p.stamp then .next (memRefuse s p stSpace)
  else if fld m.off 47 26 ≠ 0 then .next (memRefuse s p stMalformed)
  else if m.op = 1 then
    let r := readReg s req a
    if m.size = 4 then .next (memDone r.2 p (leBytes 4 r.1))
    else
      let r2 := readReg r.2 req (a + 4)
      .next (memDone r2.2 p (leBytes 4 r.1 ++ leBytes 4 r2.1))
  else
    let d := p.rest
    chain (writeReg s req a (leNat (d.take 4))) (fun s =>
      if m.size = 4 then .next (memDone s p [])
      else chain (writeReg s req (a + 4) (leNat ((d.drop 4).take 4))) (fun s => .next (memDone s p [])))

/-! ## Merging at the home (R254) -/

/-- A request that the home may merge with others to its line. -/
def mergeable (s : State) (p : Pkt) : Bool :=
  let m := parseMem p.th
  memOk p && !s.det.active && bit (regN s (pgAtom + 0x104)) 0 && m.op == 3 && !m.fetch && m.addr % 64 + m.size ≤ 64
    && m.space == 0

/-- Up to `k` further requests that wait behind `p` for its line and merge with it: one line, TYPE and stamp, with no other
request to the line between them, and each new to its window. -/
def mergeWith (s : State) (p : Pkt) : Nat → List Pkt → List Pkt
  | _, [] => []
  | 0, _ => []
  | k + 1, q :: qs =>
    if q = p ∨ q.proto ≠ 4 ∨ !sameBlock p q then mergeWith s p (k + 1) qs
    else
      let a := parseMem p.th
      let b := parseMem q.th
      let dup := match seen s q.srcArb q.src q.msgId with
        | .fresh => memPending s q
        | _ => true
      if mergeable s q ∧ b.addr / 64 = a.addr / 64 ∧ b.ty = a.ty ∧ q.stamp = p.stamp ∧ !dup
          ∧ !(q.srcArb = p.srcArb ∧ q.src = p.src ∧ q.msgId = p.msgId) then q :: mergeWith s p k qs
      else []

/-- The operands of merged requests, added element by element (R254). -/
def mergeOperands (ps : List Pkt) : NMap Byte :=
  ps.foldl (fun v p =>
    let m := parseMem p.th
    combAdd m.ty m.elem (operands m p.rest) v) []

/-- The elements of merged operands, in the order of the line. -/
def mergedElems (w : Nat) (v : NMap Byte) : List (Nat × List Byte) :=
  ((List.range (64 / w)).filter (fun i => (NMap.find v (i * w)).isSome)).map (fun i =>
    (i * w, (List.range w).map (fun j => NMap.get (fun _ => 0) v (i * w + j))))

/-! ## The commands -/

/-- A request new to its window is checked, translated and performed. `merge` is how many waiting requests merge with an
ADD. -/
def memPerform (s : State) (p : Pkt) (merge : Nat) : Out :=
  let m := parseMem p.th
  if !memOk p then .next (memRefuse s p stMalformed)
  else if m.space = 2 then performReg s p m
  else
    match translate s p m with
    | (.refused st, s) => .next (memRefuse s p st)
    | (.sram part tile a, s) => performSram s part tile a m p
    | (x, s) =>
      let more := if mergeable s p then (mergeWith s p merge (s.fab.ejected.dropWhile (fun q => q != p))) else []
      let ps := p :: more
      let count := fun (t : State) => Host.Outcome.next
        (if more.isEmpty ∨ t.fab.ejected.length = s.fab.ejected.length then t else inc64 t (pgAtom + 0x58) more.length)
      let f := fun (old : List Byte) =>
        if more.isEmpty then newLines m p.rest old
        else applyElems (addElem m.ty) m.elem (mergedElems m.elem (mergeOperands ps)) old
      match x with
      | .job part a => chain (performJob s part a m ps f) count
      | .direct a => chain (performT1 s a m ps f) count
      | _ => .next s

/-- The home takes the oldest request that meets `f` and whose turn at its lines has come (R245, R248, R255). `parityBad`: a parity
error in a line buffer or window discards the work, and nothing is answered. -/
def memRequest (s : State) (f : Pkt → Bool) (merge : Nat) (parityBad : Bool) : Out :=
  match nextMem f [] s.fab.ejected with
  | none => .next s
  | some p =>
    if parityBad then .next (evt (incSat (memTaken s p) (pgAtom + 0x88) 1) pgAtom 4)
    else
      match seen s p.srcArb p.src p.msgId with
      | .old => .next (incSat (memTaken s p) (pgAtom + 0x70) 1)
      | .dup hdr bs =>
        let r := { (mkPkt s 5 p.stamp p.srcArb p.src).withTh hdr bs with msgId := p.msgId }
        .next (send (incSat (memTaken s p) (pgAtom + 0x68) 1) r)
      | .fresh =>
        if memPending s p then .next (incSat (memTaken s p) (pgAtom + 0x68) 1) else memPerform s p merge

/-- The operation of a request. -/
def memOpOf (p : Pkt) : Nat := fld p.th 127 124

/-- MEM_LOAD (R245): the home performs a LOAD and responds; a request with a reserved OP is answered MALFORMED. -/
def execMemLoad (parityBad : Bool) (s : State) : Out :=
  memRequest s (fun p => !(2 ≤ memOpOf p && memOpOf p ≤ 6)) 0 parityBad

/-- MEM_STORE (R246). -/
def execMemStore (parityBad : Bool) (s : State) : Out := memRequest s (fun p => memOpOf p == 2) 0 parityBad

/-- MEM_ADD (R246, R254): an ADD, alone or merged with `merge` waiting ones. -/
def execMemAdd (merge : Nat) (parityBad : Bool) (s : State) : Out :=
  memRequest s (fun p => memOpOf p == 3) merge parityBad

/-- MEM_MIN (R246). -/
def execMemMin (parityBad : Bool) (s : State) : Out := memRequest s (fun p => memOpOf p == 4) 0 parityBad

/-- MEM_MAX (R246). -/
def execMemMax (parityBad : Bool) (s : State) : Out := memRequest s (fun p => memOpOf p == 5) 0 parityBad

/-- MEM_CAS (R246). -/
def execMemCas (parityBad : Bool) (s : State) : Out := memRequest s (fun p => memOpOf p == 6) 0 parityBad

end Sys2Proof.Machine
end

