-- ==== Sys2Proof/Machine/Dma.lean ====
section
/-!
DEFINITION. Copies within tile SRAM and lines between tiles (R129, R130, R291, R306).
-/

namespace Sys2Proof.Machine

open Sys2Proof Sys2Proof.Config

/-- The source and destination of a copy are good, and in banks of their own (R114, R294). -/
def copyOk (s : State) (i : Issue) (src dst n : Nat) : Bool :=
  bufOk s i src 0 n && bufOk s i dst 0 n && Nat.land (hMask src) (hMask dst) == 0 && n ≤ 147456 * 64

/-- Bytes copied from the start of one buffer to the start of another, `f` applied on the way; a parity error in the source
poisons the step (R135). -/
def copyBytes (s : State) (i : Issue) (src dst n : Nat) (f : List Byte → List Byte) : State :=
  match badByte s i.tile src 0 n with
  | some a => parityPoison s i.tile a
  | none => writeBuf s i.tile dst 0 (f (readBuf s i.tile src 0 n))

/-- COPY (R291): a straight copy of lines. -/
def execCopy (i : Issue) (s : State) : Out :=
  issued s i 0xFF00FFFFFFFFFFFF (fun s =>
    let c := (getTile s i.tile).fg
    let src := resolve c (fld i.w 39 32)
    let dst := resolve c (fld i.w 47 40)
    let n := fld i.w 31 0 * 64
    if !copyOk s i src dst n then callFault s i.tile 0x0201 0 else copyBytes s i src dst n (fun b => b))

/-- TCOPY (R129, R130): a transposing copy of whole 64 × 64 squares; an ESIZE that no format has is a call fault. -/
def execTcopy (i : Issue) (s : State) : Out :=
  issued s i 0xFF03FFFFFFFFFFFF (fun s =>
    let c := (getTile s i.tile).fg
    let src := resolve c (fld i.w 39 32)
    let dst := resolve c (fld i.w 47 40)
    let n := fld i.w 31 0 * 64
    let es := 2 ^ fld i.w 49 48
    let rb := max 1 (hRow src) * 64
    if fld i.w 49 48 = 3 ∨ rb % (64 * es) ≠ 0 ∨ n % (64 * rb) ≠ 0 then callFault s i.tile 0x0204 0
    else if !copyOk s i src dst n then callFault s i.tile 0x0201 0
    else copyBytes s i src dst n (transposeSquares es rb))

/-- RECV (R291): opens a window for SENDs from other tiles of the die. -/
def execRecv (i : Issue) (s : State) : Out :=
  issued s i 0xFF00FF0000000000 (fun s =>
    let c := (getTile s i.tile).fg
    let h := fld i.w 47 40
    let e := NMap.get (fun _ => 0) c.handles h
    if !bufOk s i e 0 (hLines e * 64) then callFault s i.tile 0x0201 0
    else setFg s i.tile { c with windows := c.windows ++ [(h, 0)] })

/-- The FRAME schedule of the step gives a transfer from a tile: to a tile of its die, or to the die edge (R474). -/
def frameGives (s : State) (t dst : Nat) : Bool :=
  match stepOf s t with
  | some st => st.frame.any (fun e => e.src == t && (if t / 60 = dst / 60 then e.kind == 0 && e.dst == dst else e.kind == 2))
  | none => false

/-- Lines that reach a window: written from its first free line on; the window closes with its last line (R291). Lines that
meet no open window, or more than it has room for, are discarded and the step poisons (R24, R306). -/
def landLines (s : State) (part dst h : Nat) (bs : List Byte) : State :=
  let c := (getTile s dst).fg
  let e := NMap.get (fun _ => 0) c.handles h
  match c.windows.find? (fun w => w.1 == h) with
  | none => tilePoison s dst part 0x0215
  | some w =>
    let n := w.2 + bs.length / 64
    if c.part ≠ part ∨ !c.live ∨ n > hLines e then tilePoison s dst part 0x0215
    else
      let s := writeBuf s dst e (w.2 * 64) bs
      let c := (getTile s dst).fg
      setFg s dst { c with
      windows :=
        if n = hLines e then c.windows.erase w else c.windows.map (fun x => if x = w then (h, n) else x) }

/-- The counter that arms a handle in a tile's foreground context; 0 with none. -/
def armingCtr (s : State) (t h : Nat) : Nat :=
  let c := (getTile s t).fg
  ((c.ctrs.find? (fun k => k.2.armed && k.2.kind == 0 && (k.2.handleA == h || k.2.handleB == h))).map (fun k => k.1)).getD 0

/-- SEND (R291): lines to another tile, in the mesh slots that the FRAME schedule gives: into the window that the destination
has opened, or over the die edge into an armed arrival buffer of a tile of the other die, as one unit (R21). -/
def execSend (i : Issue) (s : State) : Out :=
  issued s i 0xFF00FFFFFFFFFFFF (fun s =>
    let c := (getTile s i.tile).fg
    let src := resolve c (fld i.w 47 40)
    let dst := fld i.w 39 32
    let h := fld i.w 31 24
    let n := fld i.w 23 0 * 64
    if !bufOk s i src 0 n ∨ n > 147456 * 64 then callFault s i.tile 0x0201 0
    else
      match badByte s i.tile src 0 n with
      | some a => parityPoison s i.tile a
      | none =>
        let bs := readBuf s i.tile src 0 n
        if dst ≥ 120 ∨ !frameGives s i.tile dst then tilePoison s (if dst < 120 then dst else i.tile) c.part 0x0215
        else if i.tile / 60 = dst / 60 then landLines s c.part dst h bs
        else
          toEdge s {
            tile := dst, bg := false, part := c.part, handle := h, ctr := armingCtr s dst h, off := 0, data := bs,
            weight := false, cause := 6, again := false, link := 2, counts := true })

end Sys2Proof.Machine
end

