-- ==== Sys2Proof/Machine/Vector.lean ====
section
/-!
DEFINITION. The vector family: elementwise, transcendental, conversion and row reduction (R117, R293, R36 to R43).
-/

namespace Sys2Proof.Machine

open Sys2Proof Sys2Proof.Config

/-- The fields of a vector slot: opcode, FMT, STOCH, SAT, three handles, length. -/
def vecMask : Nat := 0xFF3FFFFFFFFFFFFF

/-- A free element of a format: any FP32 value, or any integer of the format's width. -/
def freeElem (f : Fmt) (w : BitVec 64) : Val :=
  if f = .int8 ∨ f = .int32 then valOfInt (toSigned f.bits (w.toNat % 2 ^ f.bits)) else decFP32 (w.toNat % 2 ^ 32)

/-- The results of an instruction where the manual states them; elsewhere fresh free elements (log entry 4), one for each
place, and the counter of free values moves past them. -/
def fillFree (s : State) (f : Fmt) (r : List (Option Val)) : List Val × State :=
  if r.all Option.isSome then (r.filterMap id, s)
  else ((List.zip (List.range r.length) r).map (fun p => p.2.getD (freeElem f (freeValue (s.freeIdx + p.1)))),
    { s with freeIdx := s.freeIdx + r.length })

/-- A vector instruction rounds stochastically: STOCH is set, and it is a conversion (R38, R39; log entry 15). -/
def Issue.sr (i : Issue) (c : Ctx) (k : Nat) : Option Nat :=
  srBits c i.tile (bit i.w 49 && decide (0x28 ≤ fld i.w 63 56 ∧ fld i.w 63 56 ≤ 0x2B)) k

/-- The results of a vector instruction, written in the destination's format from its first byte on; conversions that
saturate are counted (R36, R37, R43). -/
def vecWrite (s : State) (i : Issue) (df : Fmt) (r : List (Option Val)) : State :=
  let c := (getTile s i.tile).fg
  let q := fillFree s df r
  let sat := ((List.zip (List.range q.1.length) q.1).filter (fun p => convCounts df (Issue.sr i c p.1) p.2)).length
  convSat (writeBuf q.2 i.tile (resolve c (fld i.w 47 40)) 0 (encodeTensor df (Issue.sr i c) i.sat q.1)) i.tile sat

/-- What a vector instruction reads besides operand A: `b` gives the bytes of operand B, and `d` says whether the destination is
an operand (R293). -/
structure VecReads where
  b : Option (Fmt → Nat → Nat)
  d : Bool

/-- The buffers of a vector instruction of `n` elements are defined, hold its operands and are free (R114, R294). -/
def vecBufsOk (s : State) (i : Issue) (k : VecReads) (sf df : Fmt) (n : Nat) : Bool :=
  let c := (getTile s i.tile).fg
  bufOk s i (resolve c (fld i.w 47 40)) 0 (tensorBytes df n) && bufOk s i (resolve c (fld i.w 39 32)) 0 (tensorBytes sf n)
    && (match k.b with
        | some f => bufOk s i (resolve c (fld i.w 31 24)) 0 (f sf n)
        | none => true)

/-- The first byte of a vector instruction's operands whose parity is wrong (R135). -/
def vecBad (s : State) (i : Issue) (k : VecReads) (sf df : Fmt) (n : Nat) : Option Nat :=
  let c := (getTile s i.tile).fg
  let rd := fun lo m => badByte s i.tile (resolve c (fld i.w (lo + 7) lo)) 0 m
  ((rd 32 (tensorBytes sf n)).or (match k.b with
    | some f => rd 24 (f sf n)
    | none => none)).or (if k.d then rd 40 (tensorBytes df n) else none)

/-- A vector instruction over its operands: the buffers are checked (R114, R294), parity of what is read poisons
(R135), the results are computed from the operand values and written in the destination's format. -/
def vecOp (i : Issue) (k : VecReads) (src dst : Nat → Fmt → Option Fmt)
    (f : State → Ctx → Fmt → List Val → List Val → List Val → List (Option Val)) (s : State) : State :=
  let c := (getTile s i.tile).fg
  match i.fmt with
  | none => callFault s i.tile 0x0206 0
  | some fm =>
    match src i.w fm, dst i.w fm with
    | some sf, some df =>
      let n := fld i.w 23 0 * 32
      if k.b.isNone ∧ fld i.w 31 24 ≠ 0 then callFault s i.tile 0x0206 0
      else if !vecBufsOk s i k sf df n then callFault s i.tile 0x0201 0
      else
        match vecBad s i k sf df n with
        | some a => parityPoison s i.tile a
        | none =>
          let b := if k.b.isSome then vecElems s i.tile (resolve c (fld i.w 31 24)) n sf else []
          vecWrite s i df (f s c df (vecElems s i.tile (resolve c (fld i.w 39 32)) n sf) b
            (vecElems s i.tile (resolve c (fld i.w 47 40)) n df))
    | _, _ => callFault s i.tile 0x0206 0

/-- An integer modulo the width of its format (R37). -/
def wrapInt (f : Fmt) (x : Int) : Option Val := some (valOfInt (toSigned f.bits (ofSigned f.bits x)))

/-- An integer within its format; the manual states no result outside it (R37). -/
def fitInt (f : Fmt) (x : Int) : Option Val :=
  if -((2 : Int) ^ (f.bits - 1)) ≤ x ∧ x < (2 : Int) ^ (f.bits - 1) then some (valOfInt x) else none

/-- An elementwise instruction of two operands in the slot's format. -/
def elementwise2 (i : Issue) (fl : Val → Val → Val) (int : Fmt → Int → Int → Option Val) (s : State) : Out :=
  issued s i vecMask (vecOp i ⟨some tensorBytes, false⟩ (fun _ f => some f) (fun _ f => some f)
    (fun _ _ f a b _ => (List.zip a b).map (fun p =>
      if f = .int8 ∨ f = .int32 then int f (scaledInt 0 p.1) (scaledInt 0 p.2) else some (fl p.1 p.2))))

/-- An elementwise instruction of one operand in the slot's format. -/
def elementwise1 (i : Issue) (fl : Val → Val) (int : Fmt → Int → Option Val) (s : State) : Out :=
  issued s i vecMask (vecOp i ⟨none, false⟩ (fun _ f => some f) (fun _ f => some f)
    (fun _ _ f a _ _ => a.map (fun x => if f = .int8 ∨ f = .int32 then int f (scaledInt 0 x) else some (fl x))))

/-- ADD: integers wrap (R37). -/
def execVadd (i : Issue) (s : State) : Out := elementwise2 i Val.add (fun f a b => wrapInt f (a + b)) s

/-- SUB: the addition of the negated operand, so that integers wrap (R37; log entry 19). -/
def execVsub (i : Issue) (s : State) : Out :=
  elementwise2 i (fun a b => Val.add a (Val.neg b)) (fun f a b => wrapInt f (a - b)) s

/-- MUL: an integer product outside the format is not stated (log entry 19). -/
def execVmul (i : Issue) (s : State) : Out := elementwise2 i Val.mul (fun f a b => fitInt f (a * b)) s

/-- FMA (R293): the destination is the addend; one rounding (R117). The addition of an integer product within the format
wraps (R37). -/
def execVfma (i : Issue) (s : State) : Out :=
  issued s i vecMask (vecOp i ⟨some tensorBytes, true⟩ (fun _ f => some f) (fun _ f => some f)
    (fun _ _ f a b d => (List.zip (List.zip a b) d).map (fun p =>
      if f = .int8 ∨ f = .int32 then
        (if (fitInt f (scaledInt 0 p.1.1 * scaledInt 0 p.1.2)).isSome then
          wrapInt f (scaledInt 0 p.1.1 * scaledInt 0 p.1.2 + scaledInt 0 p.2) else none)
      else some (Val.add (Val.mul p.1.1 p.1.2) p.2))))

/-- The larger of two values; NaN if either is NaN. -/
def valMax : Val → Val → Val
  | .nan, _ | _, .nan => .nan
  | x, y => if Val.lt x y then y else x

/-- The smaller of two values; NaN if either is NaN. -/
def valMin : Val → Val → Val
  | .nan, _ | _, .nan => .nan
  | x, y => if Val.lt y x then y else x

/-- MAX. -/
def execVmax (i : Issue) (s : State) : Out := elementwise2 i valMax (fun f a b => wrapInt f (max a b)) s

/-- MIN. -/
def execVmin (i : Issue) (s : State) : Out := elementwise2 i valMin (fun f a b => wrapInt f (min a b)) s

/-- The absolute value; a NaN is written in its canonical form (R36). -/
def valAbs : Val → Val
  | .nan => .nan
  | .inf _ => .inf false
  | .fin _ m e => .fin false m e

/-- ABS: of the most negative integer the manual states no result (log entry 19). -/
def execVabs (i : Issue) (s : State) : Out := elementwise1 i valAbs (fun f x => fitInt f x.natAbs) s

/-- NEG: of the most negative integer the manual states no result (log entry 19). -/
def execVneg (i : Issue) (s : State) : Out := elementwise1 i Val.neg (fun f x => fitInt f (-x)) s

/-- Bytes of the first element of an operand, with its scale in a block-scaled format. -/
def firstBytes (f : Fmt) : Nat := if f.scaleBlock = 0 then f.bits / 8 else tensorBytes f 32

/-- SCALE (R293): multiplies each element by the first element of operand B. -/
def execVscale (i : Issue) (s : State) : Out :=
  issued s i vecMask (vecOp i ⟨some (fun f _ => firstBytes f), false⟩ (fun _ f => some f) (fun _ f => some f)
    (fun _ _ f a b _ => a.map (fun x =>
      let k := b.headD (.fin false 0 0)
      if f = .int8 ∨ f = .int32 then fitInt f (scaledInt 0 x * scaledInt 0 k) else some (Val.mul x k))))

/-- SELECT (R293): the mask is the first 32 bits of operand B; element k of the destination becomes that of
operand A where bit k mod 32 is set, and keeps its value elsewhere (log entry 15). -/
def execVselect (i : Issue) (s : State) : Out :=
  issued s i vecMask (vecOp i ⟨some (fun _ _ => 4), true⟩ (fun _ f => some f) (fun _ f => some f)
    (fun s c _ a _ d =>
      let m := leNat (readBuf s i.tile (resolve c (fld i.w 31 24)) 0 4)
      (List.zip (List.range a.length) (List.zip a d)).map (fun p => some (if bit m (p.1 % 32) then p.2.1 else p.2.2))))

/-- A transcendental instruction: the FP32 value nearest the exact result (R117), written in the slot's format; where
there is no exact result the manual states none. -/
def transcendental (i : Issue) (g : Val → Option Val) (s : State) : Out :=
  issued s i vecMask (vecOp i ⟨none, false⟩ (fun _ f => some f) (fun _ f => some f)
    (fun _ _ _ a _ _ => a.map (fun x => (g x).map (fun y => decFP32 (encFP32 none false y)))))

/-- EXP. -/
def execVexp (i : Issue) (s : State) : Out := transcendental i (fun x => some (valExp x)) s
/-- EXP2. -/
def execVexp2 (i : Issue) (s : State) : Out := transcendental i (fun x => some (valExp2 x)) s
/-- LOG2. -/
def execVlog2 (i : Issue) (s : State) : Out := transcendental i valLog2 s
/-- SIGM. -/
def execVsigm (i : Issue) (s : State) : Out := transcendental i (fun x => some (valSigm x)) s
/-- TANH. -/
def execVtanh (i : Issue) (s : State) : Out := transcendental i (fun x => some (valTanh x)) s
/-- RCP. -/
def execVrcp (i : Issue) (s : State) : Out := transcendental i valRcp s
/-- RSQRT. -/
def execVrsqrt (i : Issue) (s : State) : Out := transcendental i valRsqrt s

/-- The source format of a conversion: FP32, or BF16 in the two further opcodes of the class (R43, R291; log entry 15). -/
def cvtSource (w : Nat) (_ : Fmt) : Option Fmt := some (if 0x2A ≤ fld w 63 56 then .bf16 else .fp32)

/-- CVT (R36 to R39): FP32 or BF16 elements of operand A converted to the slot's format. -/
def execVcvt (i : Issue) (s : State) : Out :=
  issued s i vecMask (vecOp i ⟨none, false⟩ cvtSource
    (fun _ f => if f = .bs4 ∨ f = .bsi8 then none else some f) (fun _ _ _ a _ _ => a.map some))

/-- CVTB (R43): FP32 or BF16 elements of operand A converted to a block-scaled format. -/
def execVcvtb (i : Issue) (s : State) : Out :=
  issued s i vecMask (vecOp i ⟨none, false⟩ cvtSource
    (fun _ f => if f = .bs4 ∨ f = .bsi8 then some f else none) (fun _ _ _ a _ _ => a.map some))

/-- Elements of one row of a row reduction's operand (R293: the row length is the handle's ROW_LINES). -/
def rowElems (f : Fmt) (ha : Nat) : Nat :=
  if f = .bs4 then hRow ha * 64 * 16 / 9 / 16 * 16
  else if f = .bsi8 then hRow ha * 64 * 32 / 33 / 32 * 32 else hRow ha * 64 * 8 / f.bits

/-- The FP32 result of row `r` of a buffer: the balanced tree over its elements, padded with the identity (R117). -/
def rowResult (s : State) (t ha : Nat) (f : Fmt) (per pad : Nat) (pre : Nat → Nat) (op : Nat → Nat → Nat) (r : Nat) : Nat :=
  treeFold op 32 (padPow2 pad ((decodeTensor f per (readBuf s t ha (r * hRow ha * 64) (hRow ha * 64))).map
    (fun v => pre (encFP32 none false v))))

/-- Values of a CBS row of ROW_LINES lines: as many as fit with every block present (log entry 15). -/
def cbsRowElems (f : Fmt) (ha : Nat) : Nat :=
  let blk := cbsBlockBytes f + cbsScaleBytes f
  let b := hRow ha * 64
  b / (4 + 16 * blk) * 512 + (b % (4 + 16 * blk) - 4) / blk * 32

/-- The present blocks of CBS rows, row-major, each with its values as FP32 (R151). -/
def cbsItems (rows : List (List CbsRec)) : List (Nat × List Nat) :=
  ((List.range rows.length).zip rows).flatMap (fun p => p.2.flatMap (fun r =>
    r.blocks.map (fun b => (p.1, b.2.map (encFP32 none false)))))

/-- The result of row `r` of a reduction along CBS rows (R151): within each of the 8 lane groups' shares the row's values reduce
by the tree of R117, and the shares' results merge in ascending order; a row with no items yields +0. -/
def cbsRowResult (items : List (Nat × List Nat)) (pad : Nat) (pre : Nat → Nat) (op : Nat → Nat → Nat) (r : Nat) : Nat :=
  let parts := (List.range 8).filterMap (fun u =>
    match (share 8 u items).filter (fun p => p.1 == r) with
    | [] => none
    | l => some (treeFold op 32 (padPow2 pad ((l.flatMap (fun p => p.2)).map pre))))
  match parts with
  | [] => 0
  | p :: ps => ps.foldl op p

/-- A row reduction along CBS rows: a malformed record poisons the step (R59). -/
def cbsReduce (s : State) (i : Issue) (f : Fmt) (hd ha rows pad : Nat) (pre : Nat → Nat) (op : Nat → Nat → Nat) : State :=
  let rs := (List.range rows).map (fun r =>
    parseCbs (some f) (cbsRowElems f ha) (readBuf s i.tile ha (r * hRow ha * 64) (hRow ha * 64)))
  if rs.any Option.isNone then tilePoison s i.tile (getTile s i.tile).fg.part 0x0216
  else
    let items := cbsItems (rs.filterMap id)
    writeBuf s i.tile hd 0 ((List.range rows).flatMap (fun r => leBytes 4 (cbsRowResult items pad pre op r)))

/-- A row reduction (R293): rows of operand A by its ROW_LINES, one FP32 result per row, by the balanced tree padded with the
operation's identity (R117). With bit 49 set, which a reduction does not need for rounding, the rows are CBS streams (R151; log
entry 15). -/
def rowReduce (i : Issue) (pad : Nat) (pre : Nat → Nat) (op : Nat → Nat → Nat) (s : State) : Out :=
  issued s i vecMask (fun s =>
    let c := (getTile s i.tile).fg
    match i.fmt with
    | none => callFault s i.tile 0x0206 0
    | some f =>
      let n := fld i.w 23 0 * 32
      let hd := resolve c (fld i.w 47 40)
      let ha := resolve c (fld i.w 39 32)
      let per := if bit i.w 49 then cbsRowElems f ha else rowElems f ha
      let rows := n / max 1 per
      if fld i.w 31 24 ≠ 0 then callFault s i.tile 0x0206 0
      else if !bufOk s i hd 0 (rows * 4) || !bufOk s i ha 0 (rows * hRow ha * 64) then callFault s i.tile 0x0201 0
      else
        match badByte s i.tile ha 0 (rows * hRow ha * 64) with
        | some a => parityPoison s i.tile a
        | none =>
          if bit i.w 49 then cbsReduce s i f hd ha rows pad pre op
          else
            writeBuf s i.tile hd 0 ((List.range rows).flatMap (fun r =>
              leBytes 4 (rowResult s i.tile ha f per pad pre op r))))

/-- RSUM. -/
def execVrsum (i : Issue) (s : State) : Out := rowReduce i 0 id f32Add s
/-- RMAX. -/
def execVrmax (i : Issue) (s : State) : Out := rowReduce i 0xFF800000 id f32Max s
/-- RMIN. -/
def execVrmin (i : Issue) (s : State) : Out := rowReduce i 0x7F800000 id f32Min s
/-- RNORM2: the sum of squares of each row. -/
def execVrnorm2 (i : Issue) (s : State) : Out := rowReduce i 0 (fun x => f32Mul x x) f32Add s

end Sys2Proof.Machine
end

