-- ==== Sys2Proof/Machine/Dispatch.lean ====
section
/-!
DEFINITION. One arm per command: the call of its meaning.
-/

namespace Sys2Proof.Machine

open Sys2Proof

def exec (i : Instr) (s : State) : Host.Outcome State Fault Refusal :=
  match i with
  | .arrivalUnitLanded tile parityBad => Sys2Proof.Machine.execArrivalUnitLanded tile parityBad s
  | .waitRelease tile => Sys2Proof.Machine.execWaitRelease tile s
  | .gateSlotDelivery tile => Sys2Proof.Machine.execGateSlotDelivery tile s
  | .apass op => Sys2Proof.Machine.execApass op s
  | .aload op => Sys2Proof.Machine.execAload op s
  | .aos op => Sys2Proof.Machine.execAos op s
  | .abed op => Sys2Proof.Machine.execAbed op s
  | .mmrs op => Sys2Proof.Machine.execMmrs op s
  | .mmag op => Sys2Proof.Machine.execMmag op s
  | .husk op => Sys2Proof.Machine.execHusk op s
  | .expertLastChunkDone tile hidden => Sys2Proof.Machine.execExpertLastChunkDone tile hidden s
  | .vadd op => Sys2Proof.Machine.execVadd op s
  | .vsub op => Sys2Proof.Machine.execVsub op s
  | .vmul op => Sys2Proof.Machine.execVmul op s
  | .vfma op => Sys2Proof.Machine.execVfma op s
  | .vmax op => Sys2Proof.Machine.execVmax op s
  | .vmin op => Sys2Proof.Machine.execVmin op s
  | .vabs op => Sys2Proof.Machine.execVabs op s
  | .vneg op => Sys2Proof.Machine.execVneg op s
  | .vscale op => Sys2Proof.Machine.execVscale op s
  | .vselect op => Sys2Proof.Machine.execVselect op s
  | .vexp op => Sys2Proof.Machine.execVexp op s
  | .vexp2 op => Sys2Proof.Machine.execVexp2 op s
  | .vlog2 op => Sys2Proof.Machine.execVlog2 op s
  | .vsigm op => Sys2Proof.Machine.execVsigm op s
  | .vtanh op => Sys2Proof.Machine.execVtanh op s
  | .vrcp op => Sys2Proof.Machine.execVrcp op s
  | .vrsqrt op => Sys2Proof.Machine.execVrsqrt op s
  | .vcvt op => Sys2Proof.Machine.execVcvt op s
  | .vcvtb op => Sys2Proof.Machine.execVcvtb op s
  | .vrsum op => Sys2Proof.Machine.execVrsum op s
  | .vrmax op => Sys2Proof.Machine.execVrmax op s
  | .vrmin op => Sys2Proof.Machine.execVrmin op s
  | .vrnorm2 op => Sys2Proof.Machine.execVrnorm2 op s
  | .chaff op => Sys2Proof.Machine.execChaff op s
  | .copy op => Sys2Proof.Machine.execCopy op s
  | .tcopy op => Sys2Proof.Machine.execTcopy op s
  | .send op => Sys2Proof.Machine.execSend op s
  | .recv op => Sys2Proof.Machine.execRecv op s
  | .fill op => Sys2Proof.Machine.execFill op s
  | .list op => Sys2Proof.Machine.execList op s
  | .store op => Sys2Proof.Machine.execStore op s
  | .storeComplete tile ctr => Sys2Proof.Machine.execStoreComplete tile ctr s
  | .hint op => Sys2Proof.Machine.execHint op s
  | .topk op => Sys2Proof.Machine.execTopk op s
  | .gtopk op => Sys2Proof.Machine.execGtopk op s
  | .kvsort op => Sys2Proof.Machine.execKvsort op s
  | .sOpen op => Sys2Proof.Machine.execSOpen op s
  | .sPush op => Sys2Proof.Machine.execSPush op s
  | .sFlush op => Sys2Proof.Machine.execSFlush op s
  | .sClose op => Sys2Proof.Machine.execSClose op s
  | .biasLoad op => Sys2Proof.Machine.execBiasLoad op s
  | .rmem op => Sys2Proof.Machine.execRmem op s
  | .msgs op => Sys2Proof.Machine.execMsgs op s
  | .thrIngressChunk t tag pos idx data parity => Sys2Proof.Machine.execThrIngressChunk t tag pos idx data parity s
  | .thrReturnTransfer u tag parityBad => Sys2Proof.Machine.execThrReturnTransfer u tag parityBad s
  | .decisionEgress u => Sys2Proof.Machine.execDecisionEgress u s
  | .dispatch op => Sys2Proof.Machine.execDispatch op s
  | .dsend op => Sys2Proof.Machine.execDsend op s
  | .ret op => Sys2Proof.Machine.execReturn op s
  | .embag op => Sys2Proof.Machine.execEmbag op s
  | .rowupd op => Sys2Proof.Machine.execRowupd op s
  | .allreduce op => Sys2Proof.Machine.execAllreduce op s
  | .reduceScatter op => Sys2Proof.Machine.execReduceScatter op s
  | .allgather op => Sys2Proof.Machine.execAllgather op s
  | .broadcast op => Sys2Proof.Machine.execBroadcast op s
  | .alltoall op => Sys2Proof.Machine.execAlltoall op s
  | .alltoallv op => Sys2Proof.Machine.execAlltoallv op s
  | .arm op => Sys2Proof.Machine.execArm op s
  | .wait op => Sys2Proof.Machine.execWait op s
  | .waiti op => Sys2Proof.Machine.execWaiti op s
  | .rel op => Sys2Proof.Machine.execRel op s
  | .fence op => Sys2Proof.Machine.execFence op s
  | .fenceComplete t bg => Sys2Proof.Machine.execFenceComplete t bg s
  | .setlc op => Sys2Proof.Machine.execSetlc op s
  | .loop op => Sys2Proof.Machine.execLoop op s
  | .jump op => Sys2Proof.Machine.execJump op s
  | .jnz op => Sys2Proof.Machine.execJnz op s
  | .commit op => Sys2Proof.Machine.execCommit op s
  | .commitComplete t => Sys2Proof.Machine.execCommitComplete t s
  | .endStep op => Sys2Proof.Machine.execEnd op s
  | .stepCommit n => Sys2Proof.Machine.execStepCommit n s
  | .contextSaveComplete t => Sys2Proof.Machine.execContextSaveComplete t s
  | .quantumExpiry t => Sys2Proof.Machine.execQuantumExpiry t s
  | .t0FillComplete n => Sys2Proof.Machine.execT0FillComplete n s
  | .stepAdmit n => Sys2Proof.Machine.execStepAdmit n s
  | .stepStart n => Sys2Proof.Machine.execStepStart n s
  | .stopTakeEffect n => Sys2Proof.Machine.execStopTakeEffect n s
  | .stopComplete n => Sys2Proof.Machine.execStopComplete n s
  | .resumeTakeEffect n => Sys2Proof.Machine.execResumeTakeEffect n s
  | .stationaryRefetchDone t data => Sys2Proof.Machine.execStationaryRefetchDone t data s
  | .freezeSet t => Sys2Proof.Machine.execFreezeSet t s
  | .freezeClear t => Sys2Proof.Machine.execFreezeClear t s
  | .poisonHalt h => Sys2Proof.Machine.execPoisonHalt h s
  | .redeliveryComplete n => Sys2Proof.Machine.execRedeliveryComplete n s
  | .replayAdmit n => Sys2Proof.Machine.execReplayAdmit n s
  | .replayRestart n => Sys2Proof.Machine.execReplayRestart n s
  | .decisionDrain die parity => Sys2Proof.Machine.execDecisionDrain die parity s
  | .contextFetchComplete => Sys2Proof.Machine.execContextFetchComplete s
  | .countCoalesceExpiry => Sys2Proof.Machine.execCountCoalesceExpiry s
  | .countA => Sys2Proof.Machine.execCountA s
  | .countB => Sys2Proof.Machine.execCountB s
  | .grantA => Sys2Proof.Machine.execGrantA s
  | .grantB => Sys2Proof.Machine.execGrantB s
  | .dataSend parityBad => Sys2Proof.Machine.execDataSend parityBad s
  | .dataSegment => Sys2Proof.Machine.execDataSegment s
  | .returnSegment parityBad => Sys2Proof.Machine.execReturnSegment parityBad s
  | .sheafAbort => Sys2Proof.Machine.execSheafAbort s
  | .heldPayloadTimeout => Sys2Proof.Machine.execHeldPayloadTimeout s
  | .spillReadbackComplete => Sys2Proof.Machine.execSpillReadbackComplete s
  | .dispatchInstanceComplete => Sys2Proof.Machine.execDispatchInstanceComplete s
  | .eptEntryWrite v => Sys2Proof.Machine.execEptEntryWrite v s
  | .eptBulkLoad v => Sys2Proof.Machine.execEptBulkLoad v s
  | .eptBulkLoadDone => Sys2Proof.Machine.execEptBulkLoadDone s
  | .embagCount => Sys2Proof.Machine.execEmbagCount s
  | .embagWindowGrant => Sys2Proof.Machine.execEmbagWindowGrant s
  | .embagRowList => Sys2Proof.Machine.execEmbagRowList s
  | .poolRowAccess parityBad => Sys2Proof.Machine.execPoolRowAccess parityBad s
  | .embagPartial => Sys2Proof.Machine.execEmbagPartial s
  | .rowupdContribution parityBad => Sys2Proof.Machine.execRowupdContribution parityBad s
  | .map die n frame => Sys2Proof.Machine.execMap die n frame s
  | .unmap die n => Sys2Proof.Machine.execUnmap die n s
  | .unmapComplete die => Sys2Proof.Machine.execUnmapComplete die s
  | .grainFlip data frame => Sys2Proof.Machine.execGrainFlip data frame s
  | .grnQuotaWrite die n v => Sys2Proof.Machine.execGrnQuotaWrite die n v s
  | .grainRequest => Sys2Proof.Machine.execGrainRequest s
  | .grainResponse => Sys2Proof.Machine.execGrainResponse s
  | .perBankRefresh c => Sys2Proof.Machine.execPerBankRefresh c s
  | .patrolScrubSlot c => Sys2Proof.Machine.execPatrolScrubSlot c s
  | .flitReceive p bytes fec => Sys2Proof.Machine.execFlitReceive p bytes fec s
  | .retryReq p q => Sys2Proof.Machine.execRetryReq p q s
  | .retryReqRepeat p => Sys2Proof.Machine.execRetryReqRepeat p s
  | .retryLimitDown p => Sys2Proof.Machine.execRetryLimitDown p s
  | .portEnable p => Sys2Proof.Machine.execPortEnable p s
  | .portDisable p => Sys2Proof.Machine.execPortDisable p s
  | .portRetrain p => Sys2Proof.Machine.execPortRetrain p s
  | .portUnquarantine p => Sys2Proof.Machine.execPortUnquarantine p s
  | .portTrainingDone p pol arb dev port => Sys2Proof.Machine.execPortTrainingDone p pol arb dev port s
  | .alignmentLoss p => Sys2Proof.Machine.execAlignmentLoss p s
  | .flitSilenceTimeout p => Sys2Proof.Machine.execFlitSilenceTimeout p s
  | .downBackoffRetrain p => Sys2Proof.Machine.execDownBackoffRetrain p s
  | .quarantineLimit p => Sys2Proof.Machine.execQuarantineLimit p s
  | .packetInject => Sys2Proof.Machine.execPacketInject s
  | .packetReceive parity => Sys2Proof.Machine.execPacketReceive parity s
  | .linkstate => Sys2Proof.Machine.execLinkstate s
  | .cmapSample => Sys2Proof.Machine.execCmapSample s
  | .cmapIntervalEnd => Sys2Proof.Machine.execCmapIntervalEnd s
  | .cmap => Sys2Proof.Machine.execCmap s
  | .cmapPartTimeout => Sys2Proof.Machine.execCmapPartTimeout s
  | .otabEntryWrite hi => Sys2Proof.Machine.execOtabEntryWrite hi s
  | .memLoad parityBad => Sys2Proof.Machine.execMemLoad parityBad s
  | .memStore parityBad => Sys2Proof.Machine.execMemStore parityBad s
  | .memAdd merge parityBad => Sys2Proof.Machine.execMemAdd merge parityBad s
  | .memMin parityBad => Sys2Proof.Machine.execMemMin parityBad s
  | .memMax parityBad => Sys2Proof.Machine.execMemMax parityBad s
  | .memCas parityBad => Sys2Proof.Machine.execMemCas parityBad s
  | .memRsp => Sys2Proof.Machine.execMemRsp s
  | .e2eTimeout => Sys2Proof.Machine.execE2eTimeout s
  | .combineWindowExpiry => Sys2Proof.Machine.execCombineWindowExpiry s
  | .msgPacket => Sys2Proof.Machine.execMsgPacket s
  | .msgAck => Sys2Proof.Machine.execMsgAck s
  | .msgNack => Sys2Proof.Machine.execMsgNack s
  | .msgTimeout => Sys2Proof.Machine.execMsgTimeout s
  | .ortEntryWrite v => Sys2Proof.Machine.execOrtEntryWrite v s
  | .partModeWrite v => Sys2Proof.Machine.execPartModeWrite v s
  | .commEntryWrite v => Sys2Proof.Machine.execCommEntryWrite v s
  | .reserve => Sys2Proof.Machine.execReserve s
  | .grant => Sys2Proof.Machine.execGrant s
  | .deny => Sys2Proof.Machine.execDeny s
  | .decide => Sys2Proof.Machine.execDecide s
  | .decAck => Sys2Proof.Machine.execDecAck s
  | .ready => Sys2Proof.Machine.execReady s
  | .count => Sys2Proof.Machine.execCount s
  | .chunk parityBad => Sys2Proof.Machine.execChunk parityBad s
  | .chunkAck => Sys2Proof.Machine.execChunkAck s
  | .chunkNak => Sys2Proof.Machine.execChunkNak s
  | .abort => Sys2Proof.Machine.execAbort s
  | .chunkTimeout => Sys2Proof.Machine.execChunkTimeout s
  | .chunkIncompleteTimeout => Sys2Proof.Machine.execChunkIncompleteTimeout s
  | .reserveResendTimeout => Sys2Proof.Machine.execReserveResendTimeout s
  | .decideResendTimeout => Sys2Proof.Machine.execDecideResendTimeout s
  | .earlyRecordResend => Sys2Proof.Machine.execEarlyRecordResend s
  | .collTimeout => Sys2Proof.Machine.execCollTimeout s
  | .instanceComplete => Sys2Proof.Machine.execInstanceComplete s
  | .detModeWrite v => Sys2Proof.Machine.execDetModeWrite v s
  | .detActiveChange => Sys2Proof.Machine.execDetActiveChange s
  | .digestCfgWrite n v => Sys2Proof.Machine.execDigestCfgWrite n v s
  | .d2dFlitReceive k toB bs => Sys2Proof.Machine.execD2dFlitReceive k toB bs s
  | .d2dRetrain k => Sys2Proof.Machine.execD2dRetrain k s
  | .d2dRetrainDone k ok => Sys2Proof.Machine.execD2dRetrainDone k ok s
  | .railSample rails => Sys2Proof.Machine.execRailSample rails s
  | .tempSample temps => Sys2Proof.Machine.execTempSample temps s
  | .gateEvaluation => Sys2Proof.Machine.execGateEvaluation s
  | .windowEnd => Sys2Proof.Machine.execWindowEnd s
  | .allotWrite v => Sys2Proof.Machine.execAllotWrite v s
  | .ilimitWrite v => Sys2Proof.Machine.execIlimitWrite v s
  | .paceClear v => Sys2Proof.Machine.execPaceClear v s
  | .ectDataRead => Sys2Proof.Machine.execEctDataRead s
  | .idleTileGate t => Sys2Proof.Machine.execIdleTileGate t s
  | .ungateWave n => Sys2Proof.Machine.execUngateWave n s
  | .loadNoticeEnd => Sys2Proof.Machine.execLoadNoticeEnd s
  | .pllLock u => Sys2Proof.Machine.execPllLock u s
  | .pllLockRetry => Sys2Proof.Machine.execPllLockRetry s
  | .referenceLoss => Sys2Proof.Machine.execReferenceLoss s
  | .tbSet => Sys2Proof.Machine.execTbSet s
  | .tbPeriodExpiry => Sys2Proof.Machine.execTbPeriodExpiry s
  | .timeRequest => Sys2Proof.Machine.execTimeRequest s
  | .timeResponse => Sys2Proof.Machine.execTimeResponse s
  | .tbLockLoss => Sys2Proof.Machine.execTbLockLoss s
  | .perstAssert => Sys2Proof.Machine.execPerstAssert s
  | .perstDeassert u => Sys2Proof.Machine.execPerstDeassert u s
  | .bootResetRouterDie key u => Sys2Proof.Machine.execBootResetRouterDie key u s
  | .bootResetComputeDie d key => Sys2Proof.Machine.execBootResetComputeDie d key s
  | .bootResetPartition n key => Sys2Proof.Machine.execBootResetPartition n key s
  | .partitionResetTakeEffect n => Sys2Proof.Machine.execPartitionResetTakeEffect n s
  | .computeDieBringupDone d chk trn kat => Sys2Proof.Machine.execComputeDieBringupDone d chk trn kat s
  | .trainingComplete u ms us => Sys2Proof.Machine.execTrainingComplete u ms us s
  | .t1InitDone c => Sys2Proof.Machine.execT1InitDone c s
  | .load => Sys2Proof.Machine.execLoad s
  | .broadcastImage => Sys2Proof.Machine.execBroadcastImage s
  | .bootPacket => Sys2Proof.Machine.execBootPacket s
  | .broadcastIncompleteTimeout => Sys2Proof.Machine.execBroadcastIncompleteTimeout s
  | .imageReceived => Sys2Proof.Machine.execImageReceived s
  | .attest => Sys2Proof.Machine.execAttest s
  | .tilePowerUpWave => Sys2Proof.Machine.execTilePowerUpWave s
  | .katComplete u meas => Sys2Proof.Machine.execKatComplete u meas s
  | .sqDoorbell fn q v => Sys2Proof.Machine.execSqDoorbell fn q v s
  | .qpQuarantine q => Sys2Proof.Machine.execQpQuarantine q s
  | .cqDoorbell fn q v => Sys2Proof.Machine.execCqDoorbell fn q v s
  | .nop q => Sys2Proof.Machine.execNop q s
  | .step q rd => Sys2Proof.Machine.execStep q rd s
  | .h2d q rd => Sys2Proof.Machine.execH2d q rd s
  | .d2h q => Sys2Proof.Machine.execD2h q s
  | .h2t q rd => Sys2Proof.Machine.execH2t q rd s
  | .recvBind q => Sys2Proof.Machine.execRecvBind q s
  | .recvUnbind q => Sys2Proof.Machine.execRecvUnbind q s
  | .dmaTransferDone q seq => Sys2Proof.Machine.execDmaTransferDone q seq s
  | .hostReadTimeout q seq => Sys2Proof.Machine.execHostReadTimeout q seq s
  | .irqCoalesceTimeout q => Sys2Proof.Machine.execIrqCoalesceTimeout q s
  | .qpEnable fn q => Sys2Proof.Machine.execQpEnable fn q s
  | .qpDisable fn q => Sys2Proof.Machine.execQpDisable fn q s
  | .qpDrainDone q => Sys2Proof.Machine.execQpDrainDone q s
  | .qpUnquarantine fn q => Sys2Proof.Machine.execQpUnquarantine fn q s
  | .pfFlr => Sys2Proof.Machine.execPfFlr s
  | .vfFlr n => Sys2Proof.Machine.execVfFlr n s
  | .hotReset => Sys2Proof.Machine.execHotReset s
  | .bar2Read fn off n => Sys2Proof.Machine.execBar2Read fn off n s
  | .bar2Write fn off bs poisoned => Sys2Proof.Machine.execBar2Write fn off bs poisoned s
  | .hsrRefresh => Sys2Proof.Machine.execHsrRefresh s
  | .partSet req => Sys2Proof.Machine.execPartSet req s
  | .partFree req => Sys2Proof.Machine.execPartFree req s
  | .jobOpen req => Sys2Proof.Machine.execJobOpen req s
  | .jobEpoch req => Sys2Proof.Machine.execJobEpoch req s
  | .partStop req => Sys2Proof.Machine.execPartStop req s
  | .partResume req => Sys2Proof.Machine.execPartResume req s
  | .partReset req => Sys2Proof.Machine.execPartReset req s
  | .jobClose req => Sys2Proof.Machine.execJobClose req s
  | .quiesce req => Sys2Proof.Machine.execQuiesce req s
  | .jobRelease req => Sys2Proof.Machine.execJobRelease req s
  | .setQuota req => Sys2Proof.Machine.execSetQuota req s
  | .setAllot req => Sys2Proof.Machine.execSetAllot req s
  | .lend req frames => Sys2Proof.Machine.execLend req frames s
  | .lendRelease req => Sys2Proof.Machine.execLendRelease req s
  | .leaseGrant req => Sys2Proof.Machine.execLeaseGrant req s
  | .leaseRecall req => Sys2Proof.Machine.execLeaseRecall req s
  | .leaseRecallDone => Sys2Proof.Machine.execLeaseRecallDone s
  | .lenderDown req => Sys2Proof.Machine.execLenderDown req s
  | .snapshot req => Sys2Proof.Machine.execSnapshot req s
  | .readCmap req => Sys2Proof.Machine.execReadCmap req s
  | .readDigest req => Sys2Proof.Machine.execReadDigest req s
  | .snapAt => Sys2Proof.Machine.execSnapAt s
  | .snapNow => Sys2Proof.Machine.execSnapNow s
  | .snapCancel => Sys2Proof.Machine.execSnapCancel s
  | .snapshotTake => Sys2Proof.Machine.execSnapshotTake s
  | .evtPendClear page bits => Sys2Proof.Machine.execEvtPendClear page bits s
  | .errCountRead page => Sys2Proof.Machine.execErrCountRead page s
  | .tpeakRead u => Sys2Proof.Machine.execTpeakRead u s
  | .irqHoldoffEnd => Sys2Proof.Machine.execIrqHoldoffEnd s
  | .loReadLatch req addr => Sys2Proof.Machine.execLoReadLatch req addr s
  | .hiWrite req addr v => Sys2Proof.Machine.execHiWrite req addr v s
  | .softReset req page => Sys2Proof.Machine.execSoftReset req page s
  | .registerWrite req addr v poisoned => Sys2Proof.Machine.execRegisterWrite req addr v poisoned s
  | .vinTurnOn => Sys2Proof.Machine.execVinTurnOn s
  | .railSettled => Sys2Proof.Machine.execRailSettled s
  | .railSequenceTimeout => Sys2Proof.Machine.execRailSequenceTimeout s
  | .vinTurnOff => Sys2Proof.Machine.execVinTurnOff s
  | .vinOvervoltage => Sys2Proof.Machine.execVinOvervoltage s
  | .faultLatchClear => Sys2Proof.Machine.execFaultLatchClear s
  | .pcieLinkUp width speed => Sys2Proof.Machine.execPcieLinkUp width speed s
  | .vfEnable n => Sys2Proof.Machine.execVfEnable n s
  | .d3hot fn enter => Sys2Proof.Machine.execD3hot fn enter s
  | .msixVectorUnmask fn v addr data => Sys2Proof.Machine.execMsixVectorUnmask fn v addr data s

end Sys2Proof.Machine
end

