-- ==== Sys2Proof/Machine/Sequencer.lean ====
section
/-!
DEFINITION. The step sequencers of the tiles: the bundle that each issues in an ACLK (R15, R286 to R291).
-/

namespace Sys2Proof.Machine

open Sys2Proof Sys2Proof.Config

/-! ## The instructions of a bundle (R288, R291) -/

/-- The instruction of an array slot. -/
def arrayInstr (i : Issue) : Option Instr :=
  match fld i.w 63 56 with
  | 0x01 => some (.apass i)
  | 0x02 => some (.aload i)
  | 0x03 => some (.aos i)
  | 0x04 => some (.abed i)
  | 0x05 => some (.mmrs i)
  | 0x06 => some (.husk i)
  | 0x07 => some (.mmag i)
  | _ => none

/-- The instruction of a vector slot: the opcodes of a class in the order in which R291 lists its members. -/
def vectorInstr (i : Issue) : Option Instr :=
  match fld i.w 63 56 with
  | 0x10 => some (.vadd i)
  | 0x11 => some (.vsub i)
  | 0x12 => some (.vmul i)
  | 0x13 => some (.vfma i)
  | 0x14 => some (.vmax i)
  | 0x15 => some (.vmin i)
  | 0x16 => some (.vabs i)
  | 0x17 => some (.vneg i)
  | 0x18 => some (.vscale i)
  | 0x19 => some (.vselect i)
  | 0x20 => some (.vexp i)
  | 0x21 => some (.vexp2 i)
  | 0x22 => some (.vlog2 i)
  | 0x23 => some (.vsigm i)
  | 0x24 => some (.vtanh i)
  | 0x25 => some (.vrcp i)
  | 0x26 => some (.vrsqrt i)
  | 0x28 => some (.vcvt i)
  | 0x29 => some (.vcvtb i)
  | 0x2A => some (.vcvt i)
  | 0x2B => some (.vcvtb i)
  | 0x2C => some (.vrsum i)
  | 0x2D => some (.vrmax i)
  | 0x2E => some (.vrmin i)
  | 0x2F => some (.vrnorm2 i)
  | 0x30 => some (.chaff i)
  | _ => none

/-- The OP of the descriptor that a slot names. -/
def descOp (s : State) (i : Issue) (hi lo : Nat) : Nat := fld (leNat (descOf s i i.doff 32)) hi lo

/-- A Granary request by its OP (R169); one with an invalid OP is refused by the first. -/
def grqInstr (s : State) (i : Issue) : Instr :=
  match descOp s i 3 0 with
  | 2 => .list i
  | 3 => .store i
  | 4 => .hint i
  | _ => .fill i

/-- A Thresher call by its OP (R61); one with an invalid OP is refused by the first. -/
def thrInstr (s : State) (i : Issue) : Instr :=
  match descOp s i 3 0 with
  | 2 => .gtopk i
  | 3 => .kvsort i
  | 4 => .sOpen i
  | 5 => .sPush i
  | 6 => .sFlush i
  | 7 => .sClose i
  | 8 => .biasLoad i
  | _ => .topk i

/-- A collective by its OP (R260); one with an invalid OP is refused by the first. -/
def collOf (s : State) (i : Issue) : Instr :=
  match descOp s i 19 16 with
  | 2 => .reduceScatter i
  | 3 => .allgather i
  | 4 => .broadcast i
  | 5 => .alltoall i
  | 6 => .alltoallv i
  | _ => .allreduce i

/-- The instruction of a DMA slot. -/
def dmaInstr (s : State) (i : Issue) : Option Instr :=
  match fld i.w 63 56 with
  | 0x40 => some (.copy i)
  | 0x41 => some (.tcopy i)
  | 0x42 => some (.send i)
  | 0x43 => some (.recv i)
  | 0x44 => some (grqInstr s i)
  | 0x45 => some (thrInstr s i)
  | 0x46 => some (.rmem i)
  | 0x47 => some (.msgs i)
  | 0x48 => some (.dispatch i)
  | 0x49 => some (.dsend i)
  | 0x4A => some (.ret i)
  | 0x4B => some (.embag i)
  | 0x4C => some (.rowupd i)
  | 0x4D => some (collOf s i)
  | _ => none

/-- The instruction of a sync slot. -/
def syncInstr (i : Issue) : Option Instr :=
  match fld i.w 31 24 with
  | 0x80 => some (.arm i)
  | 0x81 => some (.wait i)
  | 0x82 => some (.waiti i)
  | 0x83 => some (.rel i)
  | 0x84 => some (.fence i)
  | 0x85 => some (.setlc i)
  | 0x86 => some (.loop i)
  | 0x87 => some (.jump i)
  | 0x88 => some (.jnz i)
  | 0x89 => some (.commit i)
  | 0x8A => some (.endStep i)
  | _ => none

/-! ## The banks that two slots may not share (R114, R289) -/

/-- The banks of the handles that an instruction's fields name. -/
def fieldBanks (c : Ctx) (w : Nat) (lows : List Nat) : Nat :=
  lows.foldl (fun m lo => Nat.lor m (hMask (resolve c (fld w (lo + 7) lo)))) 0

/-- The banks that a pass names. -/
def passBanks (s : State) (i : Issue) : Nat :=
  let b := passBufs (getTile s i.tile).fg (parsePass (descOf s i i.doff 32))
  Nat.lor (Nat.lor (hMask b.feed) (hMask b.drain)) (Nat.lor (hMask b.carry) (hMask b.vmap))

/-- The banks that a 64-bit slot names (R114, R291 to R293). -/
def slotBanks (s : State) (i : Issue) : Nat :=
  let c := (getTile s i.tile).fg
  match fld i.w 63 56 with
  | 0x01 | 0x03 | 0x05 | 0x07 => passBanks s i
  | 0x02 => fieldBanks c i.w [32]
  | 0x06 => fieldBanks c i.w [40, 32, 24, 16]
  | 0x40 | 0x41 | 0x44 | 0x45 | 0x46 | 0x4D => fieldBanks c i.w [40, 32]
  | 0x42 | 0x43 | 0x47 | 0x49 => fieldBanks c i.w [40]
  | 0x48 => fieldBanks c i.w [32]
  | 0x4A => fieldBanks c i.w [40, 32, 24]
  | 0x4B => fieldBanks c i.w [40, 32]
  | 0x4C => fieldBanks c i.w [40]
  | 0x00 | 0x04 => 0
  | 0x16 | 0x17 => fieldBanks c i.w [40, 32]
  | op => if 0x20 ≤ op ∧ op < 0x30 then fieldBanks c i.w [40, 32] else fieldBanks c i.w [40, 32, 24]

/-- The banks that a bundle of this ACLK finds owned by passes and copies under way (R114). -/
def busyBanks (x : Tile) (aclk : Nat) : Nat := ((x.busy.filter (fun e => aclk ≤ e.2)).map (fun e => e.1)).foldl Nat.lor 0

/-- ACLK that a vector instruction takes (R112, R117): 128 FP32 or 256 BF16 results per ACLK, or 32 transcendental results per
ACLK with a latency of 12. -/
def vectorAclk (w : Nat) : Nat :=
  let n := fld w 23 0 * 32
  if fld w 63 56 / 8 = 4 then (n + 31) / 32 + 12 else if fld w 53 50 = 5 then (n + 255) / 256 else (n + 127) / 128

/-- What a vector or DMA instruction that has just issued owns from now on, and until when (R114): a vector instruction at its
rate (R112, R117), a CHAFF store at 128 values per ACLK and a latency of 6 (R149), a copy at 128 or 32 B per ACLK (R129), a SEND
at one line per ACLK (R115; log entry 13). Passes, loads, HUSK, armed buffers, Thresher calls and STOREs are held where they
stand in the state. -/
def opOwns (s : State) (i : Issue) : List (Nat × Nat) :=
  let c := (getTile s i.tile).fg
  let a := s.clk.aclk
  let op := fld i.w 63 56
  if 0x10 ≤ op ∧ op < 0x30 then [(slotBanks s i, a + vectorAclk i.w)]
  else if op = 0x30 then [(slotBanks s i, a + (fld (leNat (descOf s i i.doff 16)) 95 64 + 127) / 128 + 6)]
  else if op = 0x40 then [(fieldBanks c i.w [40, 32], a + (fld i.w 31 0 + 1) / 2)]
  else if op = 0x41 then [(fieldBanks c i.w [40, 32], a + 2 * fld i.w 31 0)]
  else if op = 0x42 then [(fieldBanks c i.w [40], a + fld i.w 23 0)]
  else []

/-- The banks that an instruction has come to own are noted; those that are free again are forgotten. -/
def noteOwned (s : State) (i : Issue) : State :=
  let x := getTile s i.tile
  match opOwns s i with
  | [] => s
  | l => if x.fg.live then setTile s i.tile { x with busy := x.busy.filter (fun e => s.clk.aclk ≤ e.2) ++ l } else s

/-! ## Issue -/

/-- A bundle, read from the program bank (R286, R288). -/
structure Bundle where
  dline : Nat
  array : Nat
  vector : Nat
  dma : Nat
  sync : Nat
  reserved : Nat
  deriving DecidableEq, Repr

/-- The fields of the 256 bits of a bundle. -/
def parseBundle (w : Nat) : Bundle :=
  { dline := fld w 255 242, array := fld w 223 160, vector := fld w 159 96, dma := fld w 95 32, sync := fld w 31 0,
    reserved := fld w 241 224 }

/-- The bytes of a bundle of a context's program. -/
def bundleBytes (s : State) (t k : Nat) : List Byte :=
  readSram s t ((getTile s t).fg.progBank * 0x90000 + 32 * k) 32

/-- The other bundle of a code pair names another descriptor line (R286). -/
def pairBroken (s : State) (t : Nat) (b : Bundle) : Bool :=
  let c := (getTile s t).fg
  let k := if c.pc % 2 = 0 then c.pc + 1 else c.pc - 1
  let d := (parseBundle (leNat (bundleBytes s t k))).dline
  k < c.codeBundles && b.dline != 0x3FFF && d != 0x3FFF && b.dline != d

/-- A slot of a bundle as an issue. -/
def slotIssue (s : State) (t : Nat) (b : Bundle) (w : Nat) : Issue :=
  ⟨t, BitVec.ofNat 64 w, b.dline, busyBanks (getTile s t) s.clk.aclk⟩

/-- A slot holds a NOP or an instruction (R288). -/
def slotOk (w : Nat) (i : Option Instr) : Bool := w == 0 || i.isSome

/-- The call fault of a bundle's own form, 0 with none: the end of the code, a reserved bit or opcode, a code pair of two
descriptor lines, one bank named twice (R286, R288 to R290, R307). -/
def bundleFault (s : State) (t : Nat) (b : Bundle) : Nat :=
  let c := (getTile s t).fg
  let a := slotIssue s t b b.array
  let v := slotIssue s t b b.vector
  let d := slotIssue s t b b.dma
  if c.pc ≥ c.codeBundles then 0x020F
  else if b.reserved ≠ 0 ∨ (b.dline ≥ 9216 ∧ b.dline ≠ 0x3FFF) then 0x0206
  else if !(slotOk b.array (arrayInstr a) && slotOk b.vector (vectorInstr v) && slotOk b.dma (dmaInstr s d)
      && slotOk b.sync (syncInstr (slotIssue s t b b.sync))) then 0x0206
  else if pairBroken s t b then 0x0210
  else
    let x := slotBanks s a
    let y := slotBanks s v
    let z := slotBanks s d
    if Nat.lor (Nat.lor (Nat.land x y) (Nat.land y z)) (Nat.land x z) ≠ 0 then 0x0201 else 0

/-- What follows a next state; a stop stays one. -/
def thenDo (o : Out) (f : State → Out) : Out :=
  match o with
  | .next s => f s
  | .fault r => .fault r
  | .refused r => .refused r

/-- An instruction of a bundle runs; a NOP does nothing. -/
def runSlot (s : State) (i : Issue) (c : Option Instr) : Out :=
  match c with
  | some c => thenDo (exec c s) (fun s => .next (noteOwned s i))
  | none => .next s

/-- A bundle of a tile issues (R289): ARM and REL, the DMA, vector and array slots, then the waits and transfers; then the
sequencer goes on (R290), unless it is held or the step has ended. -/
def issueBundle (s : State) (t : Nat) : Out :=
  let c := (getTile s t).fg
  let b := parseBundle (leNat (bundleBytes s t c.pc))
  let f := bundleFault s t b
  let bad := (List.range 32).find? (fun k => NMap.get (fun _ => false) s.mem.sramBad (sramKey t (pcAddr c + k)))
  match bad with
  | some k => .next (parityPoison s t (pcAddr c + k))
  | none =>
    if f ≠ 0 then .next (callFault s t f 0)
    else
      let s := inc64 s (pgTile t + 0x40) 1
      let y := slotIssue s t b b.sync
      let a := slotIssue s t b b.array
      let v := slotIssue s t b b.vector
      let d := slotIssue s t b b.dma
      let first := fld b.sync 31 24 = 0x80 ∨ fld b.sync 31 24 = 0x83
      thenDo (runSlot s y (if first then syncInstr y else none)) (fun s =>
      thenDo (runSlot s d (dmaInstr s d)) (fun s =>
      thenDo (runSlot s v (vectorInstr v)) (fun s =>
      thenDo (runSlot s a (arrayInstr a)) (fun s =>
      thenDo (runSlot s y (if first then none else syncInstr y)) (fun s =>
        let x := (getTile s t).fg
        .next (if x.live ∧ x.step = c.step ∧ x.part = c.part ∧ !x.ended ∧ x.waiting.isNone ∧ x.committing.isNone then
          setFg s t (advance x c.jump s.clk.aclk) else s))))))

/-- Every tile whose sequencer is not held issues the bundle of this ACLK (R15). -/
def issueAll (s : State) : Out :=
  (List.range 120).foldl (fun o t => thenDo o (fun s => if issues s t then issueBundle s t else .next s)) (.next s)

end Sys2Proof.Machine
end

