-- ==== Sys2Proof/Machine/Tick.lean ====
section
/-!
DEFINITION. One cycle of the root PLL, in which no command runs: the time base, the ACLK and its stretch, and what is
counted per ACLK (R27, R179, R180, R352, R361 to R367).
-/

namespace Sys2Proof.Machine

open Sys2Proof Sys2Proof.Config

/-! ## The time base (R364, R367) -/

/-- A µs of the time base ends with a completion held (R402, R407). -/
def cqFullTick (s : State) : State :=
  if now s % 1000 = 0 ∧ s.host.qps.any (fun e => !e.2.held.isEmpty) then incSat s (pgHost + 0x74) 1 else s

/-- A TCLK edge: the time base advances by one, and by the whole part of what its rate and slew have added to it; it never
decreases (R367). -/
def tclkEdge (s : State) : State :=
  let slewing := s.tb.slewLeft ≠ 0
  let sum := s.clk.tbFrac + 1000000000 + s.tb.rate + (if slewing then s.tb.slew else 0)
  let adv := (sum / 1000000000).toNat
  let s := { s with
    clk := { s.clk with tb := s.clk.tb + BitVec.ofNat 64 adv, tbFrac := sum - 1000000000 * (adv : Int) },
    tb := { s.tb with slewLeft := s.tb.slewLeft - 1 } }
  if adv = 0 then s else cqFullTick s

/-! ## What an ACLK counts -/

/-- A stalled ACLK of a tile under a cause: the tile's counter and its partition's summary (R22, R427). -/
def causeTick (s : State) (t c : Nat) : State :=
  let n := (getTile s t).fg.part
  let p := getPart s n
  inc64 (setPart s n { p with hsrCause := p.hsrCause.set (c - 1) (p.hsrCause.getD (c - 1) 0 + 1) }) (pgTile t + 0x60 + 8 * (c - 1)) 1

/-- An ACLK in which a tile is held at an arrival wait (R22): counted, and kept for the cause that it will have; is stopped
for the refetch of a stationary line, under the refetch's cause (R135), or awaits a switch that a delivery holds back (R305). -/
def stallTick (s : State) (t : Nat) : State :=
  let x := getTile s t
  let p := getPart s x.fg.part
  if !x.fg.live then s
  else if stopHolds s x.fg.part then
    (if p.stopCause = 0 ∨ !headStopped p then s
    else causeTick (inc64 s (pgTile t + 0x58) 1) t p.stopCause)
  else if x.switchTo.isSome then
    match pendingCause s t with
    | some c => causeTick (inc64 s (pgTile t + 0x58) 1) t c
    | none => s
  else if x.fg.waiting.isNone then s
  else inc64 (setTile s t { x with fg := { x.fg with held := x.fg.held + 1 } }) (pgTile t + 0x58) 1

/-- The cause for which a grain of a stream entry keeps a die's part of a step from being ready (R179). -/
def grainCause (s : State) (n d a : Nat) : Option Nat :=
  match walk s 0 n a with
  | .page ea w =>
    let g := grainOf a
    match locate w a with
    | .inl (.wait _ _) =>
      if peOwner w ≠ d then none
      else if s.grn.lostT2.contains (ea, g) then some 3
      else if peGrain w g = 0 ∧ !frameOwned s n w ∧ !quotaRoom s d n ∧ (bindTarget s n ea (if peDirty w then 3 else 2)).isNone then some 10
      else if peHomeDev w ≠ myDev s then some 2
      else some 1
    | _ => none
  | _ => none

/-- The cause of a T0 fill that is not complete (R179). -/
def fillCause (s : State) (n : Nat) (f : T0Fill) : Nat :=
  if f.host then 9
  else
    match walk s 0 n f.addr with
    | .page _ w =>
      match locate w f.addr with
      | .inl (.remote _ _ _ _ _) => 2
      | .inl (.wait _ _) => if peHomeDev w ≠ myDev s then 2 else 1
      | _ => 1
    | _ => 1

/-- The causes that keep a die's part of a queued step from being ready. -/
def dieCauses (s : State) (n : Nat) (st : Step) (d : Nat) : List Nat :=
  let grains := (st.streams.flatMap (fun e => grainPieces (e.2 / 65536 + 2) e.1 e.2)).filterMap (fun p => grainCause s n d p.1)
  let fills := (st.t0.filter (fun f => !f.done && f.tile / 60 == d)).map (fillCause s n)
  let energy := if firstThree s n st ∧ !st.energyOk ∧ st.progs.any (fun q => q.tile / 60 == d) then [4] else []
  grains ++ fills ++ energy

/-- The first unmet cause in the order of R180. -/
def firstCause (l : List Nat) : Option Nat := [3, 10, 2, 1, 9, 4].find? (fun c => l.contains c)

/-- An ACLK in which a die's part of a queued step is not ready (R179). -/
def dieWait (s : State) (d : Nat) (l : List Nat) : State :=
  match firstCause l with
  | some c => inc64 (inc64 s (pgGrn d + 0x60) 1) (pgGrn d + 0x60 + 8 * c) 1
  | none => s

/-- An ACLK in which a step waits for admission (R179, R180): each die's counters, the step's record and the partition's
summary. -/
def admitTick (s : State) (n : Nat) (st : Step) : State :=
  let a := dieCauses s n st 0
  let b := dieCauses s n st 1
  let s := dieWait (dieWait s 0 a) 1 b
  match firstCause (a ++ b) with
  | none => s
  | some c =>
    let p := getPart s n
    setPart s n { p with
      hsrAdmit := p.hsrAdmit + 1, hsrCause := p.hsrCause.set (c - 1) (p.hsrCause.getD (c - 1) 0 + 1),
      steps := p.steps.map (fun x =>
        if x = st then { x with admitWait := x.admitWait.set (c - 1) (x.admitWait.getD (c - 1) 0 + 1) } else x) }

/-- The queued steps of a partition wait one ACLK. -/
def queuedTick (s : State) (n : Nat) : State :=
  ((getPart s n).steps.filter (fun st => st.phase == .queued)).foldl (fun s st => admitTick s n st) s

/-- A step is admitted on the quadrant of a Thresher. -/
def quadAdmitted (s : State) (u : Nat) : Bool :=
  (List.range 4).any (fun n => (getPart s n).steps.any (fun st =>
    st.phase != .queued && (List.range 15).any (fun i => bit st.tiles (15 * u + i))))

/-- An ACLK of a Thresher (R62, R83): a source transfer in its ingress slot; a call in progress, and an ingress slot that carried
no transfer, are counted. -/
def thrTick (s : State) (u : Nat) : State :=
  let s := sourceTick s u
  let s := if s.thr.calls.any (fun c => c.unit == u && callLive s c) then inc64 s (pgThr u + 0x60) 1 else s
  if slotTile s.thr.ingress u s.clk.aclk ≠ 15 ∧ quadAdmitted s u ∧ !s.thr.slotUsed.contains u then inc64 s (pgThr u + 0x68) 1
  else s

/-- An ACLK of a die-to-die link: each compute-die end at which a unit waits for a gate slot (R24, R455). -/
def holdTick (s : State) (k : Nat) : State :=
  let ends := ((s.edge.filter (fun u => u.link == k)).map (fun u => u.tile / 60)).eraseDups
  inc64 s (pgD2d k + 0x50) ends.length

/-- A delivered ACLK edge: the bundles that issue in the ACLK that ends here, what it counts, and the next one. -/
def deliverEdge (s : State) : Out :=
  let s := (List.range 120).foldl waitTick s
  let s := (List.range 120).foldl stallTick s
  let s := (List.range 120).foldl (fun s t => landTick (feedTick (arrayTick s t) t) t) s
  let s := (List.range 4).foldl queuedTick (markConds s)
  let s := (List.range 8).foldl thrTick s
  let s := (List.range 3).foldl holdTick s
  let s := listPump (stagePump s)
  thenDo (issueAll s) (fun s =>
    let s := { edgePump s with gateUsed := [] }
    let s := { s with thr := { s.thr with slotUsed := [], retUsed := [] }, clk := { s.clk with aclk := s.clk.aclk + 1, edge := s.clk.edge + 1 } }
    .next (inc64 s (pgDev + 0x48) 1))

/-- A withheld ACLK edge (R315, R352): counted, and no running step is clean. -/
def withholdEdge (s : State) : State :=
  let s := inc64 { s with clk := { s.clk with edge := s.clk.edge + 1 } } (pgGate + 0x40) 1
  (List.range 4).foldl (fun s n =>
    let p := getPart s n
    setPart s n { p with
      steps := p.steps.map (fun st =>
        if st.phase = .queued then st else { st with stretch := st.stretch + 1, unclean := st.unclean || started st }) }) s

/-- An ACLK edge of the root, delivered or withheld (R352): a change of the stretch takes effect with a group of 64 edges. -/
def aclkEdge (s : State) : Out :=
  let i := s.clk.edge % 64
  let s := if i = 0 then { s with clk := { s.clk with stretch := gateK s } } else s
  let k := s.clk.stretch
  if (i + 1) * k / 64 > i * k / 64 then .next (withholdEdge s) else deliverEdge s

/-- One cycle of the root PLL (R361, R362): nothing before it has locked; TCLK from its lock on, and ACLK once the dies have
left reset. Queue pairs that may fetch again do (R396). -/
def rootCycle (s : State) : Out :=
  if !s.clk.pllLocked then .next s
  else
    let r := s.clk.root + 1
    let s := { s with clk := { s.clk with root := r } }
    let s := if r % 18 = 0 then tclkEdge s else s
    let s := if s.boot.state ≠ .fuses ∧ s.clk.release < r ∧ (r - s.clk.release) % 10 = 0 then
        s.fab.ports.foldl (fun (s : State) (e : Nat × Port) => fclkTick s e.1) s else s
    let o := if s.boot.state ≠ .fuses ∧ s.clk.release < r ∧ (r - s.clk.release) % s.fuse.grade.aclkDiv = 0 then aclkEdge s
      else .next s
    thenDo o (fun s => .next (fetchAll s))

end Sys2Proof.Machine
end

