-- ==== Sys2Proof/Machine/Step.lean ====
section
/-!
DEFINITION. One step of the device: the command at the front of its queue, or, with no command waiting, one cycle of the
root PLL (R361).
-/

namespace Sys2Proof.Machine

open Sys2Proof

/-- The command at the front runs on the state with the rest of the queue; with an empty queue a root cycle passes (log entry 1). -/
def step (s : State) : Host.Outcome State Fault Refusal :=
  match s.pending with
  | c :: rest => exec c { s with pending := rest }
  | [] => rootCycle s

/-- The state with the command that a word spells at the front of its queue: unchanged, since no word spells one. -/
def State.withFetchWord (s : State) (nbits w : Nat) : State :=
  match decodeTableWord nbits w with
  | some c => { s with pending := c :: s.pending }
  | none => s

end Sys2Proof.Machine
end

