-- ==== Sys2Proof/Safety.lean ====
section
/-!
DEFINITION. The predicates that the statements use: when a tile instruction issues, what its operands are, and the
canonical form of the memories.
-/

namespace Sys2Proof.Machine

open Sys2Proof Sys2Proof.Config

/-- The foreground context of a tile. -/
abbrev fgOf (s : State) (t : Nat) : Ctx := (getTile s t).fg

/-- The tile issues, the slot has no bit set outside its fields, and an instruction with a descriptor has one (R288, R289). -/
abbrev slotIssues (s : State) (i : Issue) (used : Nat) : Prop :=
  issues s i.tile = true ∧ Nat.land i.w (2 ^ 64 - 1 - used) = 0 ∧ ¬ (bit used 55 = true ∧ 9216 ≤ i.dline)

/-- The instruction is not one that a replay matches against the abandoned run (R334). -/
abbrev freshRun (s : State) (t : Nat) : Prop := (fgOf s t).matched = 0

/-- The handle in bits 47 to 40 of a slot, resolved (R287). -/
abbrev opHi (s : State) (i : Issue) : Nat := resolve (fgOf s i.tile) (fld i.w 47 40)

/-- The handle in bits 39 to 32 of a slot, resolved. -/
abbrev opMid (s : State) (i : Issue) : Nat := resolve (fgOf s i.tile) (fld i.w 39 32)

/-- The handle in bits 31 to 24 of a slot, resolved. -/
abbrev opLow (s : State) (i : Issue) : Nat := resolve (fgOf s i.tile) (fld i.w 31 24)

/-- Elements of a vector slot: its length in blocks of 32 (R293). -/
abbrev vecLen (i : Issue) : Nat := fld i.w 23 0 * 32

/-- Operand A of a vector instruction, in format `f`. -/
abbrev vecA (s : State) (i : Issue) (f : Fmt) : List Val := vecElems s i.tile (opMid s i) (vecLen i) f

/-- Operand B of a vector instruction. -/
abbrev vecB (s : State) (i : Issue) (f : Fmt) : List Val := vecElems s i.tile (opLow s i) (vecLen i) f

/-- The destination of a vector instruction as its old elements. -/
abbrev vecD (s : State) (i : Issue) (f : Fmt) : List Val := vecElems s i.tile (opHi s i) (vecLen i) f

/-- A vector instruction that reads operands as `k` says finds them: it issues, operand B is named or reserved, its buffers lie in
their handles and are free, and no byte that it reads has a parity error (R114, R135, R293, R294). -/
abbrev vecReady (s : State) (i : Issue) (k : VecReads) (sf df : Fmt) : Prop :=
  slotIssues s i vecMask ∧ (k.b = none → fld i.w 31 24 = 0) ∧ vecBufsOk s i k sf df (vecLen i) = true
    ∧ vecBad s i k sf df (vecLen i) = none

/-- A format of integers (R32). -/
abbrev isInt (f : Fmt) : Prop := f = .int8 ∨ f = .int32

/-- The memories hold their canonical form: addresses rise strictly, and no entry equals what an unlisted address reads
as. -/
def Mem.wf (m : Mem) : Prop :=
  NMap.wf (fun _ => 0) m.sram ∧ NMap.wf (fun _ => false) m.sramBad ∧ NMap.wf (fun _ => 0) m.t1
    ∧ NMap.wf (fun _ => 0) m.t1err ∧ NMap.wf (fun _ => 0) m.host

/-- The pass descriptor that a slot names (R288, R292). -/
abbrev passD (s : State) (i : Issue) : PassDesc := parsePass (descOf s i i.doff 32)

/-- The buffers of the pass. -/
abbrev passB (s : State) (i : Issue) : PassBufs := passBufs (fgOf s i.tile) (passD s i)

/-- The feed rows of a pass hold no parity error (R135). -/
abbrev feedClean (s : State) (i : Issue) : Prop :=
  badByte s i.tile (passB s i).feed ((passD s i).feedRow * hRow (passB s i).feed * 64)
    ((passD s i).m * hRow (passB s i).feed * 64) = none

/-- HUSK's descriptor and buffers are good, and its rows and its state record hold no parity error (R114, R135, R157). -/
abbrev huskReady (s : State) (i : Issue) : Prop :=
  (parseHusk (descOf s i i.doff 32)).bad = false ∧ huskBufsOk s i (parseHusk (descOf s i i.doff 32)) = true
    ∧ badByte s i.tile (opHi s i) 0 (hLines (opHi s i) * 64) = none
    ∧ badByte s i.tile (resolve (fgOf s i.tile) (fld i.w 23 16)) 0 64 = none

/-- A CHAFF descriptor that R157 takes, with its output format: the threshold is finite and not negative, OUT_FMT is 1 to 6, the
length a multiple of 32, and the reserved bits are 0. -/
abbrev chaffFmt (w : Nat) : Option Fmt := if fld w 39 32 ≤ 6 then fmtOfCode (fld w 39 32) else none

/-- The other fields of a CHAFF descriptor are good (R157). -/
abbrev chaffFields (w : Nat) : Prop :=
  thresholdBad (fld w 31 0) = false ∧ fld w 95 64 % 32 = 0
    ∧ fld w 47 40 / 8 = 0 ∧ fld w 63 48 = 0 ∧ fld w 127 96 = 0

/-- CHAFF's buffers are good and its source holds no parity error. -/
abbrev chaffBuffers (s : State) (i : Issue) (f : Fmt) : Prop :=
  bufOk s i (opHi s i) 0 (chaffBytes f (fld (leNat (descOf s i i.doff 16)) 95 64)) = true
    ∧ bufOk s i (opMid s i) 0 (4 * fld (leNat (descOf s i i.doff 16)) 95 64) = true
    ∧ bufOk s i (opLow s i) 0 4 = true
    ∧ badByte s i.tile (opMid s i) 0 (4 * fld (leNat (descOf s i i.doff 16)) 95 64) = none

/-- What a COLL instruction of operation `op` needs (R260, R279), where `u` is the state in which its effect runs and `n` the
instance that its descriptor describes. -/
abbrev collReady (s u : State) (i : Issue) (op : Nat) (n : PavInst) : Prop :=
  u = countEffect s i.tile ∧ freshRun s i.tile ∧ fld (leNat (descOf s i i.doff 32)) 19 16 = op
    ∧ (if opHi s i = 0 then none else badByte s i.tile (opHi s i) 0 (hLines (opHi s i) * 64)) = none
    ∧ Nat.land (hMask (opHi s i)) (blockedBanks s i) = 0
    ∧ commGood u (fld (leNat (descOf s i i.doff 32)) 15 0) (fgOf s i.tile).part = true
    ∧ (commArbs u (commEntry u (fld (leNat (descOf s i i.doff 32)) 15 0))).contains (myArb u) = true
    ∧ parseColl u (fgOf s i.tile).part (fgOf u i.tile).step (descOf s i i.doff 32) false = some n
    ∧ NMap.get (fun _ => 0) (fgOf u i.tile).handles (fld i.w 39 32) ≠ 0
    ∧ Nat.land (hMask (NMap.get (fun _ => 0) (fgOf u i.tile).handles (fld i.w 39 32))) (blockedBanks u i) = 0
    ∧ armFree u (fgOf s i.tile).part i.tile (fld i.w 4 0) = true

/-- The instance with the sizes of an ALLTOALLV read from its send-count table (R269). -/
abbrev collSized (s u : State) (i : Issue) (n : PavInst) : PavInst :=
  { n with sizes := if n.op = 6 then (List.range (pavTotal n)).map (fun r =>
      leNat (readSram u i.tile (fld (leNat (descOf s i i.doff 32)) 255 224 + 4 * r) 4)) else [] }

/-- The piece that a tile gives to an instance: what is still missing of the contribution, from its source (R260). -/
abbrev collPiece (s u : State) (i : Issue) (j : PavInst) : PavPiece :=
  { tile := i.tile,
    src := if opHi s i = 0 then [] else readBuf u i.tile (opHi s i) 0
      (min (pavIn' u j - pavNamed j) (hLines (opHi s i) * 64)),
    due := 0, handle := fld i.w 39 32,
    cap := hLines (NMap.get (fun _ => 0) (fgOf u i.tile).handles (fld i.w 39 32)) * 64, ctr := fld i.w 4 0,
    banks := hMask (opHi s i) }

/-- A page takes the writes of software: bring-up allows them, no core unit is bad, its die is not in reset (R373, R383, R451). -/
abbrev takesWrites (s : State) (page : Nat) : Prop :=
  (beforeReady s && !earlyType (blockOf page).1) = false ∧ (s.boot.state == .fuseFault && (blockOf page).1 != 0xF) = false
    ∧ (bit s.boot.cls 4 && !coreType (blockOf page).1) = false ∧ pageInReset s page = false

/-! ## Memory requests and messages -/

/-- The records of the list that RMEM names (R295). -/
abbrev rmemList (s : State) (i : Issue) : List (MemHdr × List Byte × Nat) :=
  rmemRecords (fld i.w 31 16) (readBuf s i.tile (opHi s i) 0 (hLines (opHi s i) * 64)) 0

/-- MSGS toward one channel (R296): an operation of one answer and a message; `d` is the descriptor. -/
abbrev msgOne (s : State) (i : Issue) (d : Nat) : State :=
  let n := (fgOf s i.tile).part
  let g := openGroup s i.tile n (fld i.w 4 0) 1
  issueReq g.2 {
    arb := fld d 15 0, dev := fld d 21 16, id := 0, proto := 6, part := n, stamp := (getPart s n).stamp,
    issuer := .tile i.tile false, counted := true,
    pkts := msgPkts (mkPkt g.2 6 (getPart s n).stamp (fld d 15 0) (fld d 21 16)) (fld d 31 24)
      (readBuf s i.tile (opHi s i) 0 (fld i.w 39 16)),
    sentAt := 0, tries := 0, reply := { group := g.1 }, members := [] }

/-- MSGS toward the members of a mask: an operation of one answer for each (R252, R296). -/
abbrev msgMany (s : State) (i : Issue) (d : Nat) : State :=
  let n := (fgOf s i.tile).part
  let g := openGroup s i.tile n (fld i.w 4 0) (popcount 64 (fld d 127 64))
  issueReq g.2 {
    arb := myArb s, dev := 0, id := 0, proto := 6, part := n, stamp := (getPart s n).stamp,
    issuer := .tile i.tile false, counted := true,
    pkts := msgPkts (mkMcast g.2 6 (getPart s n).stamp (fld d 127 64)) (fld d 31 24)
      (readBuf s i.tile (opHi s i) 0 (fld i.w 39 16)),
    sentAt := 0, tries := 0, reply := { group := g.1 }, members := [], mask := fld d 127 64 }

/-- The slot that the next message of a channel takes: a freed one first (R252). -/
abbrev bindSlot (b : Bind) : Nat := b.freed.headD (b.next % max 1 b.slots)

/-- A channel whose next slot is taken. -/
abbrev bindTaken (b : Bind) : Bind :=
  if b.freed.isEmpty then { b with next := (b.next + 1) % max 1 b.slots } else { b with freed := b.freed.drop 1 }

/-- A message as its first packet opens it. -/
abbrev msgNew (s : State) (b : Bind) (p : Pkt) : InMsg :=
  ⟨p.srcArb, p.src, p.msgId, b.part, b.channel, bindSlot b, fld p.th 95 64, p.count, [], [], now s⟩

/-- The state with a message opened: its slot is taken. -/
abbrev msgOpen (s : State) (b : Bind) (p : Pkt) : State :=
  { s with
    host := { s.host with binds := s.host.binds.map (fun x => if x = b then bindTaken b else x) },
    atom := { s.atom with inMsgs := s.atom.inMsgs ++ [msgNew s b p] } }

/-- The oldest request of an operation that no earlier request to its lines precedes; 1 takes every OP but 2 to 6 (R245). -/
abbrev memNext (s : State) (op : Nat) : Option Pkt :=
  nextMem (fun p => if op = 1 then !(2 ≤ memOpOf p && memOpOf p ≤ 6) else memOpOf p == op) [] s.fab.ejected

/-- A request is new to its window, well formed, and not for the register page (R248, R255). -/
abbrev memFresh (s : State) (p : Pkt) : Prop :=
  seen s p.srcArb p.src p.msgId = .fresh ∧ memPending s p = false ∧ memOk p = true ∧ (parseMem p.th).space ≠ 2

/-! ## Collectives -/

/-- The oldest COLL packet of a kind is `p`, of a valid communicator and with its stamp and, where its instance is in progress, with
the DOR bit of the mode; `u` is the state without it (R262, R312). -/
abbrev collTaken (s u : State) (p : Pkt) (k : Nat) : Prop :=
  takeEjected s (fun p => p.proto == 3 && p.ckind == k) = some (p, u) ∧ ceValid (commEntry u p.ccomm) = true
    ∧ p.stamp = ceStamp (commEntry u p.ccomm) ∧ (pavFind u p.ccomm p.cseq = none ∨ p.dor = detMode u)

/-- A packet belongs to a chunk that is coming in (R264). -/
abbrev chunkOf (p : Pkt) (x : PavIn) : Bool :=
  x.arb == p.srcArb && x.dev == p.src && x.comm == p.ccomm && x.seq == p.cseq && x.step == p.cstep && x.chunk == p.cchunk

/-- The chunk of a packet as it stood before the packet (R264). -/
abbrev chunkBefore (s : State) (p : Pkt) : PavIn :=
  (s.pav.ins.find? (chunkOf p)).getD
    ⟨p.srcArb, p.src, p.ccomm, p.cseq, p.cstep, p.cchunk, p.count, p.ccrc, p.ccfmt, [], now s⟩

/-- The chunk with the packet. -/
abbrev chunkWith (s : State) (p : Pkt) : PavIn :=
  { chunkBefore s p with got := (chunkBefore s p).got ++ [(p.cpidx, p.body)] }

/-- The state with the chunk of a packet no longer among those coming in. -/
abbrev chunkOut (s : State) (p : Pkt) : State :=
  { s with pav := { s.pav with ins := s.pav.ins.filter (fun y => !chunkOf p y) } }

/-- A sent chunk with the answer of a receiver (R265). -/
abbrev outAnswered (p : Pkt) (o : PavOut) : PavOut :=
  if answersOut p o then
    { o with
      dests := o.dests.filter (fun d => !(d.1 == p.srcArb && d.2.1 == p.src)),
      done := if o.done.contains (p.srcArb, p.src) then o.done else o.done ++ [(p.srcArb, p.src)] }
  else o

/-! ## The router -/

/-- A link-state notice whose fields lie in their ranges and whose packet has the form of one (R5, R233). -/
abbrev noticeGood (p : Pkt) : Prop :=
  byteFld p.body 8 8 < 64 ∧ byteFld p.body 9 9 < 32 ∧ byteFld p.body 10 10 < 8 ∧ byteFld p.body 11 15 = 0 ∧ p.len = 16
    ∧ p.count = 1 ∧ p.last = true ∧ p.msgId = 0

/-- The state in which the oldest received packet has been taken from its port's buffer. -/
abbrev packetTaken (s : State) (q : Nat) (r : List (Nat × Pkt)) : State :=
  setPort { s with fab := { s.fab with arrived := r } } q { getPort s q with stale := (getPort s q).stale - 1 }

/-- The room that a packet's copies owe its port: none where a later training has advertised it anew (R214). -/
abbrev owedUnits (s : State) (q : Nat) (p : Pkt) : Nat := if (getPort s q).stale = 0 then p.units else 0

/-- A flit received: the port's last flit is now, and what its FEC corrected is counted (R213, R235). -/
abbrev flitSeen (s : State) (p fec : Nat) : State :=
  let u := setPort s p { getPort s p with lastFlit := now s }
  if fec = 1 then inc64 u (pgPort p + 0x58) 1 else if fec = 2 then incSat u (pgPort p + 0x60) 1 else u

/-- A good flit counted, its ACK applied (R213). -/
abbrev flitAcked (u : State) (p : Nat) (f : Flit) : State :=
  if f.ftype ≤ 3 then applyAck (inc64 u (pgPort p + 0x48) 1) p f.ack else inc64 u (pgPort p + 0x48) 1

/-- A packet past a port: over an outer link OHOPS rises and HOPS restarts (R218). -/
abbrev acrossPort (q : Nat) (p : Pkt) : Pkt := if q ≥ 28 then { p with ohops := p.ohops + 1, hops := 0 } else p

/-- A packet routed on is counted while it lives: one that was dropped holds no buffer (R235). -/
abbrev routedOn (p : Pkt) (h : Nat) (s : State) : State :=
  if s.fab.holds.any (fun x => x.id == h) then inc64 (inc64 s (pgFab + 0x50) 1) (pgFab + 0x58) p.size else s

/-- The copies that a multicast packet still needs from here: its members among the device's peers (R227). -/
abbrev mcastRest (s : State) (p : Pkt) : List (Nat × Nat) :=
  ((List.range 64).filter (fun d => bit p.mask d && d != myDev s && isMember s d && peers (myDev s) d)).map (fun d => (d, 2 ^ d))

/-! ## The Granary -/

/-- The request of a FILL or LIST as the Granary queues it (R169 to R172). -/
abbrev grnQueued (s : State) (r : GReq) : State := { s with grn := { s.grn with reqs := s.grn.reqs ++ [r] } }

/-- A STORE as the Granary queues and remembers it (R170, R173). -/
abbrev storeQueued (s : State) (r : GReq) (x : GStore) : State :=
  { s with grn := { s.grn with reqs := s.grn.reqs ++ [r], stores := s.grn.stores ++ [x] } }

/-- The entries of the list that a LIST delivers (R171). -/
abbrev listLen (s : State) (i : Issue) : Nat := listCount (fgOf s i.tile) (fld i.w 39 32) (opMid s i)

/-- What a copy into T1 does that is next: it moves its bytes into the page's frame, or into `frame`, which the page takes, where
it has none and one is free within quota (R174, R185). -/
abbrev copiedToT1 (s : State) (cp : Copy) (data : List Byte) (frame : Nat) : State :=
  if frameOwned s cp.part (entryW s cp.entry) then copyToT1 s cp data
  else if frameFree s (peOwner (entryW s cp.entry)) frame && quotaRoom s (peOwner (entryW s cp.entry)) cp.part then
    copyToT1 (takeFrame s cp.part cp.entry cp.page frame) cp data
  else s

/-! ## The sync slot -/

/-- A tile has counted an ARM or REL that no replay matches (R334). -/
abbrev syncCounted (s : State) (t : Nat) : State := setFg s t { fgOf s t with syncs := (fgOf s t).syncs + 1 }

/-- No ARM or REL of the abandoned run is left to match (R334). -/
abbrev freshSync (s : State) (t : Nat) : Prop := (fgOf s t).syncMatched = 0

/-- The record of an ARM (R298). -/
abbrev armRec (u : State) (i : Issue) : Nat := leNat (descOf u i (fld i.w 18 17) 16)

/-- The record's fields are good (R298). -/
abbrev armFields (r : Nat) : Prop := fld r 17 16 ≠ 3 ∧ fld r 23 22 = 0 ∧ fld r 31 24 = 0 ∧ fld r 127 64 = 0

/-- Counters 31 and 30 are the credit counters, and a counter that is armed and not satisfied is not armed again (R298). -/
abbrev armRoles (u : State) (i : Issue) (r : Nat) : Prop :=
  (i.ctr = 31 ↔ fld r 17 16 = 1) ∧ (i.ctr = 30 ↔ fld r 17 16 = 2)
    ∧ ((getCtr (fgOf u i.tile) i.ctr).armed = false ∨ satisfied u (fgOf u i.tile).part i.tile (getCtr (fgOf u i.tile) i.ctr) = true)

/-- The table word of a handle as it stands in the table (R287). -/
abbrev rawHandle (u : State) (t h : Nat) : Nat := NMap.get (fun _ => 0) (fgOf u t).handles h

/-- A data counter names a defined buffer, or a ring of two, whose banks no other operation owns (R114, R298). -/
abbrev armBuffers (u : State) (i : Issue) (r : Nat) : Prop :=
  fld r 17 16 = 0 → rawHandle u i.tile (fld r 7 0) ≠ 0 ∧ (fld r 15 8 = 0 ∨ rawHandle u i.tile (fld r 15 8) ≠ 0)
    ∧ Nat.land (Nat.lor (hMask (rawHandle u i.tile (fld r 7 0))) (hMask (rawHandle u i.tile (fld r 15 8)))) (blockedBanks u i) = 0

/-- The counter that an ARM sets (R298, R299). -/
abbrev armedCtr (c : Ctx) (r : Nat) : Ctr :=
  { armed := true, kind := fld r 17 16, value := 0, target := if bit r 18 then lcGet c (fld r 21 19) else fld r 63 32,
    handleA := fld r 7 0, handleB := fld r 15 8, released := 0, cause := 0 }

/-- A LOOP of `n` bundles is allowed: its end lies in the code and in the loops that run, its register is settled, and no transfer
is under way (R290). -/
abbrev loopGood (s : State) (c : Ctx) (r n : Nat) : Prop :=
  n ≤ 512 ∧ c.loops.length < 4 ∧ lcSettled s c r = true ∧ c.jump = none ∧ c.pc + n < c.codeBundles
    ∧ c.loops.any (fun l => decide (l.last < c.pc + n)) = false

/-- A transfer's target lies in the code, its code pair names one descriptor line, and no other transfer is under way (R286,
R290). -/
abbrev targetGood (s : State) (t target : Nat) : Prop :=
  let line := fun b => fld (leNat (readSram s t ((fgOf s t).progBank * 0x90000 + 32 * b) 32)) 255 242
  target < (fgOf s t).codeBundles ∧ (fgOf s t).jump = none
    ∧ (line (target / 2 * 2) = 0x3FFF ∨ line (target / 2 * 2 + 1) = 0x3FFF ∨ line (target / 2 * 2) = line (target / 2 * 2 + 1))

/-- What a tile's part of a layer was (R302). -/
abbrev layerPart (s : State) (t l : Nat) (st : Step) : LayerPart :=
  ⟨l, (fgOf s t).crc, (fgOf s t).crcLen, (fgOf s t).tally, (fgOf s t).huskDone, s.clk.aclk - st.startAclk, st.layerReplays != 0⟩

/-- A tile whose COMMIT of layer `l` has completed: it goes on, and holds its part, the restart record and cleared digests and
tallies (R302, R332). -/
abbrev layerCommitted (s : State) (t l : Nat) (st : Step) : State :=
  let c := advance (fgOf s t) (fgOf s t).jump s.clk.aclk
  setFg s t { c with
    committing := none, lastLayer := some l, parts := if c.parts.any (fun p => p.layer == l) then c.parts else c.parts ++ [layerPart s t l st],
    crc := 0, crcLen := 0, tally := {}, huskDone := [], restarts := keepRestart c l c.pc }

/-- A tile's COMMIT completes: its operations have, its previous layer is committed, and no poison of its own is to halt it (R302,
R333). -/
abbrev commitMay (s : State) (t : Nat) (st : Step) : Prop :=
  opsLive s t = false ∧ (∀ p, (fgOf s t).lastLayer = some p → st.layersDone.contains p = true)
    ∧ (st.phase ≠ .halting ∨ (st.damaged ≠ [] ∧ st.damaged.any (fun d => d.1 == t) = false))

/-- A partition whose step has committed, before the step boundary's effects (R303). -/
abbrev stepLeft (s : State) (n : Nat) (st : Step) (r : List Step) : State :=
  let u := freeTiles (commitRecords s n st) n st
  let v := setPart u n { getPart u n with
    steps := r, lastStep := some st.num, committed := (getPart u n).committed + 1, decaySteps := (getPart u n).decaySteps + 1,
    hsrCommits := (getPart u n).hsrCommits + 1 }
  { v with kept := v.kept.filter (fun x => x.part != n) }

/-! ## Steps, stops and replays -/

/-- The bytes that a T0 fill writes: a transposed one exchanges squares of 64 by 64 elements of its rows (R177). -/
abbrev fillBytes (q : TileProg) (f : T0Fill) (d : List Byte) : List Byte :=
  if f.transpose then transposeSquares f.esize (max 1 (hRow (NMap.get (fun _ => 0) q.handles f.handle)) * 64) d else d

/-- A T0 fill of a partition's step is marked done (R177). -/
abbrev fillDone (s : State) (n : Nat) (st : Step) (f : T0Fill) : State :=
  setPart s n { getPart s n with
    steps := (getPart s n).steps.map (fun x =>
      if x.num = st.num then { x with t0 := x.t0.map (fun y => if y = f then { f with done := true } else y) } else x) }

/-- A tile at the start of its step: at its entry, with its loop registers 0 and the restart record of ENTRY (R301). -/
abbrev tileStarted (s : State) (t : Nat) : State :=
  setFg s t { fgOf s t with
    pc := (fgOf s t).entry, lc := [0, 0, 0, 0, 0, 0, 0, 0], lcAt := [0, 0, 0, 0, 0, 0, 0, 0], restarts := [entryRecord (fgOf s t)] }

/-- A result that no grain is waited for. -/
abbrev noWait (r : JobRes) : Bool := match r with
  | .wait _ _ => false
  | _ => true

/-- The tiles that a stop of a partition halts (R131, R132). -/
abbrev stopTiles (s : State) (n : Nat) : List Nat := if headStopped (getPart s n) then fgTiles s n else []

/-- A resume descriptor of a tile's beds is not good (R135). -/
abbrev resumeBad (s : State) (t : Nat) : Bool :=
  (List.range (bedCount (getTile s t).bedMode)).any (fun b =>
    !descGood (getTile s t).bedMode b (readSram s t ((getTile s t).fg.resume + 64 * b) 64))

/-- A partition whose stop has ended. -/
abbrev stopCleared (s : State) (n : Nat) : State :=
  setPart s n { getPart s n with stop := .none, resumeReq := none, stopCause := 0 }

/-- A tile halted for its replay: its Husk records stand as at the restart record, its static work is abandoned (R146, R333). -/
abbrev tileHaltedForReplay (done : List Nat) (s : State) (t : Nat) : State :=
  let u := restoreHusk s t (restartOf (getTile s t).fg done).layer
  setTile u t { getTile u t with
    fg := haltCtx (getTile u t).fg done, stat := [], tags := [], passes := [], busy := [], huskWait := none }

/-- The partition's oldest step, or `st` where it has none. -/
abbrev headStep (s : State) (n : Nat) (st : Step) : Step := ((getPart s n).steps.head?).getD st

/-- The restart records of the named tiles whose parity fails are dropped (R340). -/
abbrev recordsDropped (s : State) (n : Nat) (bad : List (Nat × Nat)) (done : List Nat) : State :=
  (bad.filter (fun b => (fgTiles s n).contains b.1)).foldl (fun s b => dropRecords s b.1 b.2 done) s

/-- A tile restarts from its restart record (R333, R334). -/
abbrev tileRestarted (done : List Nat) (s : State) (t : Nat) : State :=
  let r := restartOf (fgOf s t) done
  setFg s t { fgOf s t with pc := r.pc, lc := r.lc, lcAt := [0, 0, 0, 0, 0, 0, 0, 0], effects := r.effects, syncs := r.syncs }

/-- The wait of an admitted replay counted under POISON_REPLAY by the device, the Granaries and the partition's record (R179,
R333). -/
abbrev replayWaited (s : State) (n w : Nat) : State :=
  let u := [0, 1].foldl (fun s d => inc64 (inc64 s (pgGrn d + 0x60) w) (pgGrn d + 0xB8) w) (incSat s (pgDev + 0x60) 1)
  setPart u n { getPart u n with
    hsrAdmit := (getPart u n).hsrAdmit + w, hsrCause := (getPart u n).hsrCause.set 10 ((getPart u n).hsrCause.getD 10 0 + w) }

/-- The damaged lines of a tile are written again with the bytes that the Granary brings, and counted (R135). -/
abbrev linesRefetched (s : State) (t : Nat) (data : List Byte) : State :=
  let ls := (List.range (getTile s t).refetch.length).zip (getTile s t).refetch
  let u := ls.foldl (fun s l => writeSram s t l.2 (padTo 64 ((data.drop (64 * l.1)).take 64))) s
  incSat (incSat u (pgTile t + 0xC8) (getTile s t).refetch.length) (pgGrn (t / 60) + 0xC8) (getTile s t).refetch.length

/-- The blocks of a tile whose lines were refetched are loaded again, and a HUSK that waited for them runs (R135). -/
abbrev refetchEnded (s : State) (t : Nat) (w : Option Issue) : State :=
  w.elim (reloadBlocks (setTile s t { getTile s t with refetch := [], huskWait := none }) t)
    (huskRun (reloadBlocks (setTile s t { getTile s t with refetch := [], huskWait := none }) t))

/-- FREEZE of a tile is set or cleared, in its register and in the tile (R135). -/
abbrev freezeShown (s : State) (t : Nat) (b : Bool) : State :=
  let u := setRegN s (pgTile t + 8) (setFld (regN s (pgTile t + 8)) 2 2 (b2n b))
  setTile u t { getTile s t with freeze := b }

/-- What a context save leaves, by what the write of the save area met (`o`): the incoming context of partition `m` is restored
with its own area as read (`r`); a grain in no tier is asked for; another obstacle ends the step (R176, R305). -/
abbrev contextSaved (v : State) (t m n : Nat) (r o : JobRes) : State :=
  match o with
  | .data _ =>
    let w := dropStreams v t n
    restoreTile (setTile w t { getTile w t with switchTo := none, saved := NMap.put (getTile w t).saved n (getTile w t).fg }) t m r
  | .wait _ _ => demandRange v n (areaAddr v t n) saveAreaBytes
  | o => admitObstacle v n (areaAddr v t n) o

/-! ## Thresher calls -/

/-- The descriptor of a Thresher call. -/
abbrev thrWord (s : State) (i : Issue) : Nat := leNat (descOf s i i.doff 32)

/-- The call that a slot's descriptor describes, with its source and destination (R61). -/
abbrev thrCallOf (s : State) (i : Issue) : ThrCall := parseCall s i (opHi s i) (opMid s i)

/-- A call of operation `op` that R82 takes: its descriptor, its sizes, the partition's share and its buffers are good, its unit is
not bad, and its source holds no parity error. -/
abbrev thrTaken (op : Nat) (s : State) (i : Issue) : Prop :=
  slotIssues s i 0xFF80FFFFC0000000 ∧ (thrCallOf s i).op = op ∧ thrBad s (thrCallOf s i).unit = false
    ∧ callMalformed (thrCallOf s i) (thrWord s i) = false ∧ callSizes (thrCallOf s i) = 0 ∧ callShares s (thrCallOf s i) = 0
    ∧ callBufsOk s i (thrCallOf s i) = true ∧ badByte s i.tile (thrCallOf s i).src 0 (srcBytes (thrCallOf s i)) = none
    ∧ (op = 3 ∨ freshRun s i.tile)

/-- The call as it joins those in progress. -/
abbrev thrStarted (s : State) (i : Issue) : ThrCall := { thrCallOf s i with srcLen := srcBytes (thrCallOf s i) }

/-- A transfer has come to a unit in this ACLK: its ingress slot is used (R62). -/
abbrev slotMarked (s : State) (u : Nat) : State := { s with thr := { s.thr with slotUsed := s.thr.slotUsed ++ [u] } }

/-- The token of a call at a position, new where it has no chunk yet. -/
abbrev tokAt (c : ThrCall) (pos : Nat) : ThrTok := (c.toks.find? (fun x => x.pos == pos)).getD ⟨pos, 0, []⟩

/-- The scores that chunk `idx` of a call holds (R63). -/
abbrev chunkPart (c : ThrCall) (idx : Nat) : Nat := min (chunkScores c.fmt) (c.nExp - idx * chunkScores c.fmt)

/-- A chunk of tile `t` comes in a slot that the tile owns and nothing else has used (R62). -/
abbrev slotFree (s : State) (t : Nat) : Prop :=
  t < 120 ∧ slotTile s.thr.ingress (thrUnit t) s.clk.aclk = t % 15 ∧ s.thr.slotUsed.contains (thrUnit t) = false

/-- A chunk is the next of its token, and a first chunk finds room for its token in the unit and in the partition's tags (R64,
R65, R82). -/
abbrev chunkNext (s : State) (u : Nat) (c : ThrCall) (pos idx : Nat) : Prop :=
  pos < c.n ∧ c.done.contains pos = false ∧ idx = (tokAt c pos).next
    ∧ (c.toks.any (fun x => x.pos == pos) = true ∨ (((unitCalls s u).map (fun x => x.toks.length)).sum < 16
      ∧ (((unitCalls s u).filter (fun x => x.part == c.part)).map (fun x => x.toks.length)).sum < 4 * popcount 4 (getPart s c.part).thrTags))

/-- A call's token with the scores of its next chunk, and the call's other tokens. -/
abbrev tokFed (c : ThrCall) (pos idx : Nat) (data : List Byte) : ThrTok :=
  { tokAt c pos with next := idx + 1, scores := (tokAt c pos).scores ++ scoreCodes c.fmt (chunkPart c idx) data }

abbrev tokOthers (c : ThrCall) (pos : Nat) : List ThrTok := c.toks.filter (fun x => x.pos != pos)

/-- A return slot of the calling tile in this ACLK, in which nothing has left; the last transfer only once it is ready (R473). -/
abbrev returnMay (s : State) (u : Nat) (c : ThrCall) : Prop :=
  slotTile s.thr.return' u s.clk.aclk = c.tile % 15 ∧ s.thr.retUsed.contains u = false ∧ (c.ret.length ≤ 64 → c.retReady ≤ s.clk.aclk)

/-- The next 64 bytes of a call's output written to its destination (R473). -/
abbrev bytesReturned (s : State) (u : Nat) (c : ThrCall) : State :=
  writeBuf { s with thr := { s.thr with retUsed := s.thr.retUsed ++ [u] } } c.tile c.dst c.retOff (c.ret.take 64)

/-- A call whose output is returned: it is over; a closed context is free; a bank that was loaded is valid (R67, R81). -/
abbrev callOver (s : State) (u : Nat) (c : ThrCall) : State :=
  { s with
    thr := { s.thr with
      calls := s.thr.calls.erase c, streams := if c.op = 7 then NMap.del s.thr.streams (u * 4 + c.ctx) else s.thr.streams,
      badBank := if c.op = 8 then NMap.set (fun _ => false) s.thr.badBank (u * 2 + c.bank) false else s.thr.badBank } }

/-- Records of free room in a partition's egress share (R75). -/
abbrev egressRoom (s : State) (o : ThrOut) : Nat := (getPart s o.part).egress * 256 - egressUsed s (o.unit / 4) o.part

/-- The decisions that find room are in the egress buffer, and all are counted (R73, R75). -/
abbrev egressed (s : State) (o : ThrOut) : State :=
  inc64 { s with
    thr := { s.thr with
      outs := s.thr.outs.erase o, egress := s.thr.egress ++ (o.recs.take (egressRoom s o)).map (fun r => ⟨o.unit / 4, o.part, r⟩) } }
    (pgThr o.unit + 0x48) o.recs.length

/-! ## The Sheaf -/

/-- A control payload is taken: it is the oldest that `take` names, it is well formed, its instance is in progress, its DOR bit is that
of the mode, its sender is a member, and its number is fresh (R95, R110, R312). -/
abbrev ctlTaken (s : State) (take bad : Pkt → Bool) (p : Pkt) (u : State) (i : ShInst) (q : ShPeer) : Prop :=
  takeEjected (dropReserved s) take = some (p, u) ∧ (ctlBad p || bad p) = false ∧ shFind u (shName p).1 (shName p).2 = some i
    ∧ p.dor = detMode u ∧ shPeer i p.srcArb p.src = some q ∧ ctlFresh q p.msgId = true

/-- The instance with the payload's number marked and its progress noted (R95, R277). -/
abbrev ctlNoted (u : State) (i : ShInst) (p : Pkt) : ShInst := shTouch u (mapPeer i p.srcArb p.src (fun q => ctlMark q p.msgId))

/-- A control payload is the oldest that `take` names, well formed, and of no instance in progress (R475). -/
abbrev ctlAlone (s : State) (take bad : Pkt → Bool) (p : Pkt) (u : State) : Prop :=
  takeEjected (dropReserved s) take = some (p, u) ∧ (ctlBad p || bad p) = false ∧ shFind u (shName p).1 (shName p).2 = none

/-- A segment's reserved bits are not 0 (R102, R104). -/
abbrev segBad (kind x : Nat) : Bool :=
  fld x 75 68 != 0 || fld x 31 30 != 0 || (kind == 6 && (fld x 67 64 != 0 || fld x 29 22 != 0))

/-- A DATA or RETURN payload is taken (R102, R110, R312). -/
abbrev segsTaken (s : State) (kind : Nat) (p : Pkt) (u : State) (i : ShInst) (segs : List (Nat × List Byte)) : Prop :=
  takeEjected (dropReserved s) (ctlOf kind) = some (p, u) ∧ segsOf (fld (leNat (p.body.take 8)) 10 8) (p.body.drop 8) = some segs
    ∧ fld (leNat (p.body.take 8)) 15 12 = 0 ∧ fld (leNat (p.body.take 8)) 10 8 ≤ 5 ∧ segs.any (fun e => segBad kind e.1) = false
    ∧ shFind u (shName p).1 (shName p).2 = some i ∧ p.dor = detMode u ∧ i.kind = 0

/-- The outcome of the segments of a DATA payload, with the manifests of the slots that are complete (R102). -/
abbrev dataWritten (segs : List (Nat × List Byte)) (s : State) (i : ShInst) (p : Pkt) : (ShInst × State) ⊕ Nat :=
  match dataSegs segs s i p with
  | .inr f => .inr f
  | .inl (j, w) => .inl (writeManifests w j)

/-- The outcome of the segments of a RETURN payload (R104). -/
abbrev returnsAdded (s : State) (i : ShInst) (p : Pkt) (segs : List (Nat × List Byte)) : ShInst × State × Bool :=
  segs.foldl (fun r e => ((returnSeg r.2.1 r.1 p e).1, (returnSeg r.2.1 r.1 p e).2.1, r.2.2 && (returnSeg r.2.1 r.1 p e).2.2)) (i, s, true)

/-- The descriptor of a fused Sheaf or pool instruction. -/
abbrev shDesc (s : State) (i : Issue) : List Byte := descOf s i i.doff 32

/-- The handle and the counter that a DISPATCH names. -/
abbrev shHandle (i : Issue) : Nat := fld i.w 39 32
abbrev shCtr (i : Issue) : Nat := fld i.w 4 0

/-- The tile that issued a DISPATCH: its combine counter armed with target 0, and the instance its latest (R85, R297). -/
abbrev dispatchArmed (s : State) (i : Issue) : State :=
  let u := armResult s i.tile (shCtr i) (shHandle i) 0
  setFg u i.tile { (getTile u i.tile).fg with dispatch := some (fld (leNat (shDesc s i)) 15 0, fld (leNat (shDesc s i)) 95 64), staged := 0 }

/-- What a DISPATCH needs besides its instance: a communicator of its partition, a defined handle, a counter that is free (R84,
R298). -/
abbrev dispatchMay (s : State) (i : Issue) (n : ShInst) : Prop :=
  commGood s n.comm (fgOf s i.tile).part = true ∧ rawHandle s i.tile (shHandle i) ≠ 0
    ∧ armFree s (fgOf s i.tile).part i.tile (shCtr i) = true

/-- The dispatch instances of a partition. -/
abbrev dispatchesOf (s : State) (part : Nat) : List ShInst := s.sheaf.insts.filter (fun x => x.kind == 0 && x.part == part)

/-- The row bytes of a DSEND. -/
abbrev dsendBytes (s : State) (i : Issue) : Nat := fld i.w 23 8 * hRow (opHi s i) * 64

/-- The slots of a partition's instances that a RETURN's manifest handle names (R103). -/
abbrev returnCands (s : State) (i : Issue) : List (ShInst × Hosted) :=
  (dispatchesOf s (fgOf s i.tile).part).filterMap (fun x => (manifestSlot s x i.tile (fld i.w 39 32) (opMid s i)).map (fun h => (x, h)))

/-- Dispatch instances whose pairs may be sent (R101). -/
abbrev sendReady (s : State) : List ShInst := s.sheaf.insts.filter (fun i => i.kind == 0 && i.closed)

/-- The entry that the write of SHF_EPT_DATA3 completes (R90). -/
abbrev eptWord (s : State) (v : Nat) : Nat :=
  regN s (pgShf + 0x10C) + regN s (pgShf + 0x110) * 2 ^ 32 + regN s (pgShf + 0x114) * 2 ^ 64 + v % 2 ^ 32 * 2 ^ 96

/-- SHF_EPT_CTRL with RANGE and ACTIVE as written and LOAD set (R90, R111). -/
abbrev eptCtrlLoaded (s : State) (v : Nat) : Nat :=
  setFld (setFld (setFld (regN s (pgShf + 0x104)) 13 12 (fld v 13 12)) 7 4 (fld v 7 4)) 11 11 1

/-- The pieces of job memory that a bulk load reads. -/
abbrev loadPieces (l : Nat × Nat × Nat × Nat) : List (Nat × Nat) := cutGrains [(l.2.2.2, 16 * min 65536 l.2.2.1)]

/-- The records that wait for a context, handled in order once it is resident (R94). -/
abbrev fetchesRun (s : State) (f : CtxFetch) : State :=
  (s.sheaf.fetches.filter (fun g => g.ctx == f.ctx)).foldl runWork
    (ctxUse { s with sheaf := { s.sheaf with fetches := s.sheaf.fetches.filter (fun g => g.ctx != f.ctx) } } f.ctx)

/-! ## The pool units -/

/-- A POOL data payload is taken (R201, R312). -/
abbrev poolTaken (s : State) (kind : Nat) (p : Pkt) (u : State) (i : ShInst) : Prop :=
  takeEjected (dropReserved s) (poolCtl kind) = some (p, u) ∧ shFind u (shName p).1 (shName p).2 = some i ∧ p.dor = detMode u ∧ i.kind ≠ 0

/-- What EMBAG and ROWUPD need besides a good descriptor: a communicator of their partition, a new name, a request area in defined
lines without parity error, a destination for EMBAG, and a free counter (R194, R204, R208, R297). -/
abbrev poolMay (u : State) (i : Issue) (rowupd : Bool) (n : ShInst) : Prop :=
  commGood u n.comm (fgOf u i.tile).part = true ∧ shFind u n.comm n.seq = none ∧ bufOk u i (opHi u i) 0 (hLines (opHi u i) * 64) = true
    ∧ (rowupd = true ∨ rawHandle u i.tile (shHandle i) ≠ 0) ∧ armFree u (fgOf u i.tile).part i.tile (shCtr i) = true
    ∧ badByte u i.tile (opHi u i) 0 (hLines (opHi u i) * 64) = none

/-- What an EMBAG or ROWUPD leaves: its counter armed, for its bags or for one unit, and its instance with the request area
(R194, R204, R297). -/
abbrev poolIssued (u : State) (i : Issue) (rowupd : Bool) (n : ShInst) : State :=
  let v := armResult u i.tile (shCtr i) (if rowupd then 0 else shHandle i) (if rowupd then 1 else n.nBags)
  issuePool v i.tile { n with seed := (fgOf u i.tile).seed, handle := if rowupd then 0 else shHandle i, ctr := shCtr i }
    (readBuf v i.tile (opHi u i) 0 (hLines (opHi u i) * 64))

/-- The instance with the window that a count of two records names, and the sender counted where it is the last (R198). -/
abbrev countNoted (s : State) (i : ShInst) (p : Pkt) : ShInst :=
  let j := if (ctlRecs p).length = 2 then { i with ownWins := i.ownWins ++ [countedWin s p (ctlRecs p)] } else i
  if shFinal p then { j with counted := j.counted ++ [(p.srcArb, p.src)] } else j

/-- One more window number is given out. -/
abbrev winNumbered (s : State) : State := { s with sheaf := { s.sheaf with winNo := s.sheaf.winNo + 1 } }

/-- What a window grant does at the requester (R198). -/
abbrev windowGranted (s : State) (i : ShInst) (p : Pkt) : State :=
  match i.wins[(ctlRecs p).headD 0 % 2 ^ 32]? with
  | none => shMalformed (shSet s i)
  | some w =>
    if w.granted ∨ w.owner ≠ p.src then shOrphan (shSet s i)
    else listPump (shSet s { i with wins := i.wins.set ((ctlRecs p).headD 0 % 2 ^ 32) { w with granted := true } })

/-- The window that a piece of a row list belongs to: granted, not whole, of the sender (R199). -/
abbrev listWindow (i : ShInst) (p : Pkt) : Option OwnWin :=
  i.ownWins.find? (fun w => w.arb == p.srcArb && w.dev == p.src && w.idx == fld (leNat ((p.body.drop 8).take 8)) 31 0 && w.granted && !w.ready && !w.here)

/-- The offset of a piece in its list, and its bytes. -/
abbrev listOff (p : Pkt) : Nat := fld (leNat ((p.body.drop 8).take 8)) 63 32

abbrev listPiece (w : OwnWin) (p : Pkt) : List Byte := (p.body.drop 16).take (w.bytes - listOff p)

/-- A window whose list has the pieces `rx`: kept until the list is whole, when its rows are known or it faults with 0x060C (R196,
R199, R208). -/
abbrev listTaken (s : State) (i : ShInst) (w : OwnWin) (rx : List (Nat × List Byte)) : State :=
  let list := (sortBy (fun r => r.1) rx).flatMap (fun r => r.2)
  if (rx.map (fun r => r.2.length)).sum < w.bytes then shSet s (setWin i w { w with rx := rx })
  else
    match rowEntries (list.length / 16 + 1) i w.bags list with
    | none => shFault s i 0x060C
    | some es => shSet (winNumbered s)
        (setWin i w { w with rx := [], ready := true, readyNo := s.sheaf.winNo, rows := es.map (fun e => (e.1, e.2.1, e.2.2.1)) })

/-- The contributions that the next update of a row takes, and their values (R205). -/
abbrev rowContributions (s : State) (i : ShInst) (e : Nat × List (Nat × Nat) × List Byte) : List (List Nat) :=
  (if detMode s then i.ownWins.flatMap (fun w => w.rows.filter (fun r => r.1 == e.1)) else [e]).map
    (fun r => (valsIn i.gradFmt r.2.2).take i.rowValues)

/-- The gradient of an update: in DET_MODE the exact sum of all contributions to the row (R55, R205). -/
abbrev rowGradient (s : State) (i : ShInst) (e : Nat × List (Nat × Nat) × List Byte) : List Nat :=
  if detMode s then xsSum ((rowContributions s i e).map (fun v => v.map decFP32)) else (rowContributions s i e).headD []

/-! ## The host interface -/

/-- A function names one of its pairs (R395, R410). -/
abbrev namesPair (s : State) (fn q k : Nat) : Prop := fnDecodes s fn = true ∧ resolvePair s fn q = some k

/-- A pair with new SQ tail, or with a new CQ head (R396). -/
abbrev tailSet (s : State) (k v : Nat) : State := setQp s k { getQp s k with sqTail := v % 65536 }

abbrev headSet (s : State) (k v : Nat) : State := setQp s k { getQp s k with cqHead := v % 65536 }

/-- An entry is the first of its operation that a pair can start, and its partition (R397). -/
abbrev entryNext (s : State) (q opc : Nat) (e : Entry) (n : Nat) : Prop := nextEntry s q opc = some e ∧ n = pairPart (getQp s q)

/-- Host input entries that a STEP names (R398). -/
abbrev stepInputs (e : Entry) : Nat := if opFld e 24 31 = 0 then 0 else opFld e 32 35

/-- A STEP of an open or stopped partition, the first in the order of fetching, with a step number above the last and a host input
list in range (R398 to R400, R415). -/
abbrev stepMay (s : State) (n : Nat) (e : Entry) : Prop :=
  firstStepSeq s n = some e.seq ∧ stepInputs e ≤ 1024 ∧ (∀ l, (getPart s n).lastNum = some l → l < opFld e 16 19)
    ∧ ((getPart s n).state = .opened ∨ (getPart s n).state = .stopped)

/-- The unit that an H2T sends to the die edge of its tile (R398). -/
abbrev h2tUnit (s : State) (q : Nat) (e : Entry) : Machine.Unit :=
  { tile := opFld e 16 17, bg := bit (opFld e 22 22) 7, part := pairPart (getQp s q), handle := 0, ctr := opFld e 22 22 % 32, off := 0,
    data := (fetchHost s (opFld e 8 15) (opFld e 24 27)).1, weight := false, cause := 9, again := false, link := opFld e 16 17 / 60,
    counts := true, direct := some (opFld e 18 21) }

/-- The binding that a RECV_BIND makes (R251, R398). -/
abbrev boundBy (q n : Nat) (e : Entry) : Bind :=
  { channel := opFld e 22 22, part := n, host := true, qp := q, addr := opFld e 8 15, slotBytes := opFld e 16 19, slots := opFld e 20 21,
    next := 0, tile := 0, handle := 0, ctr := 0, bg := false, unbinding := false, freed := [] }

/-- A partition's channel bound anew. -/
abbrev bindSet (s : State) (n c : Nat) (b : Bind) : State :=
  { s with host := { s.host with binds := s.host.binds.filter (fun x => !(x.channel == c && x.part == n)) ++ [b] } }

/-- A partition's channel that takes no new message (R398). -/
abbrev unbindMarked (s : State) (n c : Nat) : State :=
  { s with
    host := { s.host with binds := s.host.binds.map (fun b => if b.channel = c ∧ b.part = n then { b with unbinding := true } else b) } }

/-- H2D's range is mapped, homed here, of no LOST grain, and readable (R162, R398, R408). -/
abbrev h2dMay (s : State) (n a len : Nat) : Prop :=
  (pagesOf a len).all (pageHome s n) = true ∧ rangeLost s n a len = false ∧ mustWait s n a len = false

/-- A VF's reset: its partition is reset, its pairs are dropped, its MSI-X table is cleared, the event is set (R394). -/
abbrev vfReset (s : State) (n : Nat) : State :=
  let u := requestReset s (n - 1)
  evt { u with
    host := { u.host with
      qps := u.host.qps.map (fun e => (e.1, if pairFn e.2 = n then dropPair e.2 else e.2)),
      msix := NMap.delIf u.host.msix (fun k => k / 256 == n), pba := NMap.delIf u.host.pba (fun k => k / 256 == n) } } pgHost 5

/-- The health status record of the last 10 ms, with its CRC (R427). -/
abbrev hsrRecord (s : State) (q : Nat) : List Byte := hsrBody s q ++ leBytes 4 (crc32c (hsrBody s q))

/-- The record exposed and the interval's totals restarted (R406, R427). -/
abbrev hsrShown (s : State) (q : Nat) : State :=
  (List.range 4).foldl hsrClear { s with host := { s.host with hsrSeq := q, hsr := hsrRecord s q, hsrPrev := hsrTotals s } }

/-! ## Die-to-die links -/

/-- A die-to-die flit carries a sequence number: types 1 and 2 (R212, R324). -/
abbrev d2dSeqd (bs : List Byte) : Bool := fld (byteFld bs 0 7) 63 60 == 1 || fld (byteFld bs 0 7) 63 60 == 2

/-- The credits of an end after a sequenced flit (R324): the counts of its header's two credit fields are added. -/
abbrev d2dCredited (l : List Nat) (hdr : Nat) : List Nat :=
  atVc (atVc l (fld hdr 22 20) (fun c => c + fld hdr 19 12)) (fld hdr 11 9) (fun c => c + fld hdr 8 1)

/-- A link whose end has accepted a flit: a sequenced one advances FSEQ, returns credits and ends a run of failures. -/
abbrev d2dTaken (x : D2d) (toB seqd : Bool) (hdr : Nat) : D2d :=
  if toB then
    { x with seqB := (x.seqB + b2n seqd) % 4096, failB := if seqd then 0 else x.failB, credB := if seqd then d2dCredited x.credB hdr else x.credB }
  else
    { x with seqA := (x.seqA + b2n seqd) % 4096, failA := if seqd then 0 else x.failA, credA := if seqd then d2dCredited x.credA hdr else x.credA }

/-- A link whose end has discarded a flit. -/
abbrev d2dFailed (x : D2d) (toB : Bool) : D2d :=
  if toB then { x with failB := x.failB + 1 } else { x with failA := x.failA + 1 }

/-! ## The time base -/

/-- A valid exchange recorded (R366, R367): the sender is heard, the exchange counted, offset and delay shown. -/
abbrev exchangeKept (s : State) (p : Pkt) (off dly : Int) : State :=
  let u := inc64 (hear s p) (pgTb + 0x40) 1
  setRegN (setRegN { u with tb := { u.tb with req := none, missed := 0 } } (pgTb + 0x118) (code32 off)) (pgTb + 0x11C) (code32 dly)

/-! ## The mailbox -/

/-- The mailbox takes a request of operation `opc` with `n` operand bytes: it is open and idle, and the request is well formed
(R405, R425). -/
abbrev mboxTakes (s : State) (opc n : Nat) (rsv : List Nat) (req : List Byte) : Prop :=
  mboxOpen s = true ∧ s.host.mboxBusy = false ∧ rq req 0 0 = opc ∧ n ≤ req.length ∧ req.length ≤ 256
    ∧ reservedZero req n rsv = true

/-- The request as the mailbox's registers show it. -/
abbrev mboxShown (s : State) (req : List Byte) : State :=
  setRegN (setRegs s (pgHost + 0x400) (padTo (roundUp req.length 4) req)) (pgHost + 0x148) (req.length % 512)

/-- The answer of a command is written, unless it goes on with BUSY set (R405). -/
abbrev mboxAnswer (a : MboxAns) : State := if a.st.host.mboxBusy then a.st else respond a.st a.code a.res

/-- A partition as PART_SET's record configures it (R413). -/
abbrev recordNew (p : Part) (req : List Byte) : Part :=
  { recordPart p ((req.drop 8).take 72) with
    state := .configured, lastNum := none, stagingNext := none, contextsNext := none, quantumNext := none, rankNext := none }

/-- SET_QUOTA's values recorded: the frame quotas at once, the rest until the partition takes them (R422). -/
abbrev quotaNoted (u : State) (req : List Byte) (n : Nat) (p : Part) : State :=
  quotaWrite (quotaWrite (setPart u n { p with
    quota0 := rq req 8 11, quota1 := rq req 12 15, contextsNext := some (rq req 16 17),
    quantumNext := some (rq req 18 19), rankNext := some (rq req 20 20), stagingNext := some (rq req 21 21) })
    0 n (rq req 8 11)) 1 n (rq req 12 15)

/-- Lent frames of one die returned to its offer (R424). -/
abbrev lendBack (u : State) (l : List Nat) (d : Nat) : State :=
  let c := (l.filter (fun f => f % 2 == d)).length
  let v := setRegN u (pgGrn d + 0x150) (regN u (pgGrn d + 0x150) - c)
  setRegN v (pgGrn d + 0x148) (regN v (pgGrn d + 0x148) + c)

/-- Lent frames returned, and the tag's borrower role dropped with its last frame (R421, R424). -/
abbrev lendReturned (u : State) (l : List Nat) (stamp : Nat) : State :=
  let v := lendBack (lendBack u l 0) l 1
  let v := { v with grn := { v.grn with lent := v.grn.lent.filter (fun e => !l.contains e.1) } }
  if v.grn.lent.any (fun e => e.2 / 16 == stamp / 16) then v
  else setStamp v (stamp / 16) (dropRole (stampEntry v (stamp / 16)) 8)

/-- The leases that LEASE_RECALL names are marked, and the mailbox stays busy (R184, R424). -/
abbrev leasesMarked (u : State) (n : Nat) (req : List Byte) : State :=
  setLeases { u with host := { u.host with mboxBusy := true } }
    (u.grn.leases.map (fun l =>
      if l.part = n ∧ l.lender = rq req 5 5 ∧ (reqFrames req (rq req 6 6)).contains l.frame then { l with recalled := true } else l))

/-- The partition that a request names, in one of the states that its command allows (R425). -/
abbrev mboxPart (u : State) (req : List Byte) (n : Nat) (p : Part) (l : List PartState) : Prop :=
  n = rq req 4 4 ∧ n < 4 ∧ p = getPart u n ∧ l.contains p.state = true

end Sys2Proof.Machine
end

