-- ==== Sys2Proof/Certificates/Slice0/Obligations.lean ====
section
/-!
DEFINITION. The statements about the device, for the provers: each is a Prop, and its docstring says in words what it
states and names the log entries that it rests on.
-/

open Sys2Proof Sys2Proof.Machine Sys2Proof.Config

/-- For every command c and state s, a step of s with c at the front of its queue is exec of c on s with the rest of the
queue. -/
def Obligations.StepRunsFront : Prop :=
  ∀ (c : Instr) (rest : List Instr) (s : State),
    step { s with pending := c :: rest } = exec c { s with pending := rest }

/-- With no command waiting a step is one root cycle, and before the root PLL has locked, when there is no ACLK and no
TCLK, nothing changes. That an idle step is a root cycle is log entry 1. -/
def Obligations.StepIdle : Prop :=
  ∀ s : State, s.pending = [] →
    step s = rootCycle s ∧ (s.clk.pllLocked = false → step s = .next s)

/-- At power-on the device is in the bring-up state FUSES with its PLL not locked, its time base at 0, no command waiting,
VIN off; every register holds its reset value, every counter and latch is 0 or empty, no tile holds a program, no
packet is anywhere, and every byte of the memories reads as an unlisted one. What unlisted memory reads as is a log
entry. -/
def Obligations.ResetState : Prop :=
  (∀ a : Nat, getReg State.reset a = regReset a ∧ ctr64 State.reset a = 0 ∧ ctr32 State.reset a = 0)
  ∧ State.reset.boot.state = .fuses ∧ State.reset.clk.pllLocked = false ∧ now State.reset = 0 ∧ State.reset.pending = []
  ∧ State.reset.mod.vin = false ∧ State.reset.mod.rails = none ∧ State.reset.mod.powerGood = false
  ∧ (∀ t : Nat, (getTile State.reset t).fg.live = false ∧ (getTile State.reset t).bg.live = false)
  ∧ State.reset.fab.inject = [] ∧ State.reset.fab.arrived = [] ∧ State.reset.fab.ejected = []
  ∧ (∀ t a n : Nat, readSram State.reset t a n = List.replicate n 0 ∧ readHost State.reset a n = List.replicate n 0)

/-- The memories of the reset state have their canonical form: addresses rise strictly and no entry equals what an
unlisted address reads as. The reset state has stretch 0 and all controllers at 0, so it is within the bound. -/
def Obligations.InvariantsAtReset : Prop :=
  State.reset.mem.wf
  ∧ State.reset.clk.stretch ≤ 56 ∧ State.reset.gate.kE ≤ 56 ∧ State.reset.gate.kI ≤ 56 ∧ State.reset.gate.kT ≤ 56

/-- For every state whose SRAM, T1, symbol errors and host memory have their canonical form, the next state of every step
has it too, whatever command runs, or a root cycle. -/
def Obligations.MemWfKept : Prop :=
  ∀ s t : State, s.mem.wf → step s = .next t → t.mem.wf

/-- From every state in which the stretch in force and the three controllers are at most 56, every step leaves them at
most 56, whatever command runs, or a root cycle. -/
def Obligations.StretchBoundKept : Prop :=
  ∀ s t : State, s.clk.stretch ≤ 56 ∧ s.gate.kE ≤ 56 ∧ s.gate.kI ≤ 56 ∧ s.gate.kT ≤ 56 →
    step s = .next t → t.clk.stretch ≤ 56 ∧ t.gate.kE ≤ 56 ∧ t.gate.kI ≤ 56 ∧ t.gate.kT ≤ 56

/-- Every E4M3 code with sign s, exponent e and mantissa m decodes to (-1)^s 2^(e-7) (1 + m/8) for e from 1 to 15, to
(-1)^s 2^-6 (m/8) for e = 0, and 0x7F and 0xFF are NaN; none is an infinity; 0x7E is 448, the largest finite value,
and 0x01 is 2^-9, the smallest non-zero magnitude. -/
def Obligations.E4M3Decoding : Prop :=
  (∀ s e m : Nat, s < 2 → e < 16 → m < 8 →
    (¬ (e = 15 ∧ m = 7) → ∃ k x, decE4M3 (s * 128 + e * 8 + m) = .fin (s == 1) k x
      ∧ (k : ℚ) * 2 ^ x = if e = 0 then 2 ^ (-6 : ℤ) * ((m : ℚ) / 8) else 2 ^ ((e : ℤ) - 7) * (1 + (m : ℚ) / 8))
    ∧ (e = 15 ∧ m = 7 → decE4M3 (s * 128 + e * 8 + m) = .nan))
  ∧ (∀ (c : Nat) (b : Bool), c < 256 → decE4M3 c ≠ .inf b)
  ∧ (∀ (c : Nat) (b : Bool) (k : Nat) (x : ℤ), c < 256 → decE4M3 c = .fin b k x →
    (k : ℚ) * 2 ^ x ≤ 448 ∧ (k ≠ 0 → (2 : ℚ) ^ (-9 : ℤ) ≤ k * 2 ^ x))
  ∧ (∃ k x, decE4M3 0x7E = .fin false k x ∧ (k : ℚ) * 2 ^ x = 448)
  ∧ (∃ k x, decE4M3 0x01 = .fin false k x ∧ (k : ℚ) * 2 ^ x = 2 ^ (-9 : ℤ))

/-- Every E5M2 code with sign s, exponent e and mantissa m decodes to (-1)^s 2^(e-15) (1 + m/4) for e from 1 to 30, to
(-1)^s 2^-14 (m/4) for e = 0, to an infinity of its sign for e = 31 and m = 0, and to NaN for e = 31 and another m;
0x7B is 57,344, the largest finite value, and 0x01 is 2^-16, the smallest non-zero magnitude. -/
def Obligations.E5M2Decoding : Prop :=
  (∀ s e m : Nat, s < 2 → e < 32 → m < 4 →
    (e ≠ 31 → ∃ k x, decE5M2 (s * 128 + e * 4 + m) = .fin (s == 1) k x
      ∧ (k : ℚ) * 2 ^ x = if e = 0 then 2 ^ (-14 : ℤ) * ((m : ℚ) / 4) else 2 ^ ((e : ℤ) - 15) * (1 + (m : ℚ) / 4))
    ∧ (e = 31 → decE5M2 (s * 128 + e * 4 + m) = if m = 0 then .inf (s == 1) else .nan))
  ∧ (∀ (c : Nat) (b : Bool) (k : Nat) (x : ℤ), c < 256 → decE5M2 c = .fin b k x →
    (k : ℚ) * 2 ^ x ≤ 57344 ∧ (k ≠ 0 → (2 : ℚ) ^ (-16 : ℤ) ≤ k * 2 ^ x))
  ∧ (∃ k x, decE5M2 0x7B = .fin false k x ∧ (k : ℚ) * 2 ^ x = 57344)
  ∧ (∃ k x, decE5M2 0x01 = .fin false k x ∧ (k : ℚ) * 2 ^ x = 2 ^ (-16 : ℤ))

/-- In each floating-point format every code that is not NaN, subnormals among them, is the encoding, to nearest even, of
the value it decodes to; a NaN is written as the canonical code. -/
def Obligations.FloatRoundTrip : Prop :=
  (∀ c < 2 ^ 32, encFP32 none false (decFP32 c) = if decFP32 c = .nan then 0x7FC00000 else c)
  ∧ (∀ c < 2 ^ 16, encBF16 none false (decBF16 c) = if decBF16 c = .nan then 0x7FC0 else c)
  ∧ (∀ c < 2 ^ 8, encE4M3 none (decE4M3 c) = if decE4M3 c = .nan then 0x7F else c)
  ∧ (∀ c < 2 ^ 8, encE5M2 none false (decE5M2 c) = if decE5M2 c = .nan then 0x7E else c)

/-- A T1 address in frame f lies on die f mod 2 and, in interleave unit u of the frame, on the channel (u + f/2) mod 64 of
that die; channel and block index give the 64-byte block back, so no two blocks share a place. The numbering of blocks
within a channel is the model's (R167 says: the next free slot of the frame's share). -/
def Obligations.T1Placement : Prop :=
  (∀ a : Nat, a < t1Bytes → t1Die a = a / 0x200000 % 2 ∧ t1Channel a / 64 = t1Die a
    ∧ t1Channel a % 64 = (a % 0x200000 / 256 + a / 0x200000 / 2) % 64
    ∧ t1AddrOf (t1Channel a) (t1Block a) = a / 64 * 64)
  ∧ (∀ a b : Nat, a < t1Bytes → b < t1Bytes → t1Channel a = t1Channel b → t1Block a = t1Block b → a / 64 = b / 64)

/-- A 64-bit counter that advances by n counts modulo 2^64, a saturating counter stops at 0xFFFF_FFFF, and neither changes
another counter or any register value. An event sets its bit in EVT_RAW whatever the mask holds and in EVT_PEND when
its mask bit is clear, adds one to EVT_SETCNT up to saturation, and sets no other bit of these registers; a masked
event leaves EVT_PEND as it was. -/
def Obligations.CountersAndEvents : Prop :=
  (∀ (s : State) (a b n : Nat),
     (ctr64 (inc64 s a n) a).toNat = ((ctr64 s a).toNat + n) % 2 ^ 64
     ∧ (ctr32 (incSat s a n) a).toNat = min ((ctr32 s a).toNat + n) 0xFFFFFFFF
     ∧ (b ≠ a → ctr64 (inc64 s a n) b = ctr64 s b ∧ ctr32 (incSat s a n) b = ctr32 s b)
     ∧ ctr32 (inc64 s a n) b = ctr32 s b ∧ ctr64 (incSat s a n) b = ctr64 s b
     ∧ getReg (inc64 s a n) b = getReg s b ∧ getReg (incSat s a n) b = getReg s b)
  ∧ (∀ (s : State) (page b : Nat), b < 32 →
     getReg (evt s page b) (page + 0x10) = getReg s (page + 0x10) ||| BitVec.ofNat 32 (2 ^ b)
     ∧ getReg (evt s page b) (page + 0x14) = getReg s (page + 0x14)
     ∧ getReg (evt s page b) (page + 0x18)
         = (if (getReg s (page + 0x14)).getLsbD b then getReg s (page + 0x18)
            else getReg s (page + 0x18) ||| BitVec.ofNat 32 (2 ^ b))
     ∧ (getReg (evt s page b) (page + 0x1C)).toNat = min ((getReg s (page + 0x1C)).toNat + 1) 0xFFFFFFFF)

/-- An error that a block instance detects adds one to ERR_COUNT, up to saturation; ERR_FIRST and ERR_FIRST_TS take its
code and the low half of the time base if ERR_COUNT was 0, and else keep what they held, but that of several errors in
one cycle ERR_FIRST holds the lowest code (which errors share a cycle is log entry 117). -/
def Obligations.ErrorCapture : Prop :=
  ∀ (s : State) (page code step : Nat) (part : Option Nat), page % 0x1000 = 0 → code < 2 ^ 32 →
    (getReg (errIn s page code part step) (page + 0x28)).toNat = min ((getReg s (page + 0x28)).toNat + 1) 0xFFFFFFFF
    ∧ getReg (errIn s page code part step) (page + 0x20)
        = (if getReg s (page + 0x28) = 0 then BitVec.ofNat 32 code
           else if NMap.find s.regs.errAt page = some s.clk.root ∧ code < (getReg s (page + 0x20)).toNat then BitVec.ofNat 32 code
           else getReg s (page + 0x20))
    ∧ getReg (errIn s page code part step) (page + 0x24)
        = (if getReg s (page + 0x28) = 0 then BitVec.ofNat 32 (now s) else getReg s (page + 0x24))

/-- Bytes written to the SRAM of a tile read back; every byte of SRAM outside them, on this or another tile, and T1 and
host memory read as before; the written bytes have good parity and no other byte's parity changes. -/
def Obligations.SramReadAfterWrite : Prop :=
  ∀ (s : State) (t a : Nat) (bs : List Byte), a + bs.length ≤ 2 ^ 24 →
    readSram (writeSram s t a bs) t a bs.length = bs
    ∧ (∀ u b : Nat, b < 2 ^ 24 → ¬ (u = t ∧ a ≤ b ∧ b < a + bs.length) → readSram (writeSram s t a bs) u b 1 = readSram s u b 1
        ∧ NMap.get (fun _ => false) (writeSram s t a bs).mem.sramBad (sramKey u b) = NMap.get (fun _ => false) s.mem.sramBad (sramKey u b))
    ∧ (∀ b : Nat, a ≤ b → b < a + bs.length → NMap.get (fun _ => false) (writeSram s t a bs).mem.sramBad (sramKey t b) = false)
    ∧ (writeSram s t a bs).mem.t1 = s.mem.t1 ∧ (writeSram s t a bs).mem.host = s.mem.host

/-- Where no symbol of T1 is in error, a write of bytes within T1 is done whole, a demand read of the same bytes answers
them, and every byte of T1 outside them reads as before. -/
def Obligations.T1ReadAfterWrite : Prop :=
  ∀ (s : State) (a : Nat) (bs : List Byte), s.mem.t1err = [] → bs ≠ [] → a + bs.length ≤ t1Bytes →
    (t1Write s a bs).1 = true ∧ (t1Read (t1Write s a bs).2 a bs.length).1 = some bs
    ∧ (∀ b : Nat, b < a ∨ a + bs.length ≤ b → t1Raw (t1Write s a bs).2 b 1 = t1Raw s b 1)

/-- Every packet whose fields fit their widths, with no mask unless it is multicast and no transport header unless it is a
data packet, is read back from the bytes that a link carries, all fields of its routing header, mask, transport header
and payload included; and the length in its header is the number of its bytes. -/
def Obligations.PacketRoundTrip : Prop :=
  ∀ p : Pkt, p.dst < 64 → p.src < 64 → p.dstArb < 65536 → p.srcArb < 65536 → p.stamp < 65536 →
    p.proto < 16 → p.hops < 8 → p.ohops < 4 → p.viaDev < 64 → p.msgId < 65536 → p.count < 4096 → p.rsv < 128 →
    p.mask < 2 ^ 64 → p.thdr < 2 ^ 128 → (p.mcast = false → p.mask = 0) → (p.data = false → p.thdr = 0) → p.body.length < 4096 →
    parsePkt p.bytes = p ∧ pktLength p.header = p.bytes.length

/-- Every flit whose fields fit their widths and whose FILL counts its payload words is 256 bytes, passes its CRC-32 check
and is read back from its bytes. -/
def Obligations.FlitRoundTrip : Prop :=
  ∀ f : Flit, f.ftype < 16 → f.fseq < 4096 → f.ack < 4096 → f.start < 64 → f.fill ≤ 61 → f.cvcA < 8 → f.credA < 256 →
    f.cvcB < 8 → f.credB < 256 → f.words.length = 4 * f.fill →
    f.bytes.length = 256 ∧ flitGood f.bytes = true ∧ parseFlit f.bytes = f

/-- ADD, SUB, MUL, MAX and MIN complete on a tile that issues with good operands: element k of the destination becomes the
operation on element k of A and of B, integers wrap in ADD and SUB (SUB by log entry 19), an integer product outside
the format is a free value (log entry 19), the specials of MAX and MIN are those of log entry 20, and results are
written from the first byte of the destination with the conversions of R36 to R43 counted; nothing else changes. -/
def Obligations.VectorElementwise : Prop :=
  (∀ (i : Issue) (s : State) (f : Fmt), i.fmt = some f →
     vecReady s i ⟨some tensorBytes, false⟩ f f →
     exec (.vadd i) s = .next (vecWrite s i f ((List.zip (vecA s i f) (vecB s i f)).map (fun p => if isInt f then
       wrapInt f ((scaledInt 0 p.1) + (scaledInt 0 p.2)) else some (Val.add p.1 p.2)))))
  ∧ (∀ (i : Issue) (s : State) (f : Fmt), i.fmt = some f →
     vecReady s i ⟨some tensorBytes, false⟩ f f →
     exec (.vsub i) s = .next (vecWrite s i f ((List.zip (vecA s i f) (vecB s i f)).map (fun p => if isInt f then
       wrapInt f ((scaledInt 0 p.1) - (scaledInt 0 p.2)) else some (Val.add p.1 (Val.neg p.2))))))
  ∧ (∀ (i : Issue) (s : State) (f : Fmt), i.fmt = some f →
     vecReady s i ⟨some tensorBytes, false⟩ f f →
     exec (.vmul i) s = .next (vecWrite s i f ((List.zip (vecA s i f) (vecB s i f)).map (fun p => if isInt f then
       fitInt f ((scaledInt 0 p.1) * (scaledInt 0 p.2)) else some (Val.mul p.1 p.2)))))
  ∧ (∀ (i : Issue) (s : State) (f : Fmt), i.fmt = some f →
     vecReady s i ⟨some tensorBytes, false⟩ f f →
     exec (.vmax i) s = .next (vecWrite s i f ((List.zip (vecA s i f) (vecB s i f)).map (fun p => if isInt f then
       wrapInt f (max (scaledInt 0 p.1) (scaledInt 0 p.2)) else some (valMax p.1 p.2)))))
  ∧ (∀ (i : Issue) (s : State) (f : Fmt), i.fmt = some f →
     vecReady s i ⟨some tensorBytes, false⟩ f f →
     exec (.vmin i) s = .next (vecWrite s i f ((List.zip (vecA s i f) (vecB s i f)).map (fun p => if isInt f then
       wrapInt f (min (scaledInt 0 p.1) (scaledInt 0 p.2)) else some (valMin p.1 p.2)))))

/-- FMA adds its destination to the product of A and B with one rounding, ABS and NEG work on A, SCALE multiplies A by the
first element of B, SELECT takes A where the mask in the first 32 bits of B is set and keeps the destination elsewhere
(the mask form is log entry 15); integer results that the manual does not state are free values (log entry 19). -/
def Obligations.VectorOneOperand : Prop :=
  (∀ (i : Issue) (s : State) (f : Fmt), i.fmt = some f →
     vecReady s i ⟨some tensorBytes, true⟩ f f →
     exec (.vfma i) s = .next (vecWrite s i f ((List.zip (List.zip (vecA s i f) (vecB s i f)) (vecD s i f)).map (fun
       p => if isInt f then (if (fitInt f (scaledInt 0 p.1.1 * scaledInt 0 p.1.2)).isSome then wrapInt f (scaledInt 0
       p.1.1 * scaledInt 0 p.1.2 + scaledInt 0 p.2) else none) else some (Val.add (Val.mul p.1.1 p.1.2) p.2)))))
  ∧ (∀ (i : Issue) (s : State) (f : Fmt), i.fmt = some f →
     vecReady s i ⟨none, false⟩ f f →
     exec (.vabs i) s = .next (vecWrite s i f ((vecA s i f).map (fun x => if isInt f then fitInt f ((scaledInt 0
       x).natAbs) else some (valAbs x)))))
  ∧ (∀ (i : Issue) (s : State) (f : Fmt), i.fmt = some f →
     vecReady s i ⟨none, false⟩ f f →
     exec (.vneg i) s = .next (vecWrite s i f ((vecA s i f).map (fun x => if isInt f then fitInt f (-(scaledInt 0 x))
       else some (Val.neg x)))))
  ∧ (∀ (i : Issue) (s : State) (f : Fmt), i.fmt = some f →
     vecReady s i ⟨some (fun f _ => firstBytes f), false⟩ f f →
     exec (.vscale i) s = .next (vecWrite s i f ((vecA s i f).map (fun x => if isInt f then fitInt f (scaledInt 0 x *
       scaledInt 0 ((vecB s i f).headD (.fin false 0 0))) else some (Val.mul x ((vecB s i f).headD (.fin false 0
       0)))))))
  ∧ (∀ (i : Issue) (s : State) (f : Fmt), i.fmt = some f →
     vecReady s i ⟨some (fun _ _ => 4), true⟩ f f →
     exec (.vselect i) s = .next (vecWrite s i f ((List.zip (List.range (vecA s i f).length) (List.zip (vecA s i f)
       (vecD s i f))).map (fun p => some (if bit (leNat (readBuf s i.tile (opLow s i) 0 4)) (p.1 % 32) then p.2.1 else
       p.2.2)))))

/-- EXP, EXP2, LOG2, SIGM, TANH, RCP and RSQRT complete: each element of the destination is the FP32 value nearest the
exact function of the element of A, converted to the format of the slot, and a free value where there is no exact
result (log entry 19). -/
def Obligations.VectorTranscendental : Prop :=
  (∀ (i : Issue) (s : State) (f : Fmt), i.fmt = some f →
     vecReady s i ⟨none, false⟩ f f →
     exec (.vexp i) s = .next (vecWrite s i f ((vecA s i f).map (fun x => ((fun x => some (valExp x)) x).map (fun y
       => decFP32 (encFP32 none false y))))))
  ∧ (∀ (i : Issue) (s : State) (f : Fmt), i.fmt = some f →
     vecReady s i ⟨none, false⟩ f f →
     exec (.vexp2 i) s = .next (vecWrite s i f ((vecA s i f).map (fun x => ((fun x => some (valExp2 x)) x).map (fun y
       => decFP32 (encFP32 none false y))))))
  ∧ (∀ (i : Issue) (s : State) (f : Fmt), i.fmt = some f →
     vecReady s i ⟨none, false⟩ f f →
     exec (.vlog2 i) s = .next (vecWrite s i f ((vecA s i f).map (fun x => ((valLog2) x).map (fun y => decFP32
       (encFP32 none false y))))))
  ∧ (∀ (i : Issue) (s : State) (f : Fmt), i.fmt = some f →
     vecReady s i ⟨none, false⟩ f f →
     exec (.vsigm i) s = .next (vecWrite s i f ((vecA s i f).map (fun x => ((fun x => some (valSigm x)) x).map (fun y
       => decFP32 (encFP32 none false y))))))
  ∧ (∀ (i : Issue) (s : State) (f : Fmt), i.fmt = some f →
     vecReady s i ⟨none, false⟩ f f →
     exec (.vtanh i) s = .next (vecWrite s i f ((vecA s i f).map (fun x => ((fun x => some (valTanh x)) x).map (fun y
       => decFP32 (encFP32 none false y))))))
  ∧ (∀ (i : Issue) (s : State) (f : Fmt), i.fmt = some f →
     vecReady s i ⟨none, false⟩ f f →
     exec (.vrcp i) s = .next (vecWrite s i f ((vecA s i f).map (fun x => ((valRcp) x).map (fun y => decFP32 (encFP32
       none false y))))))
  ∧ (∀ (i : Issue) (s : State) (f : Fmt), i.fmt = some f →
     vecReady s i ⟨none, false⟩ f f →
     exec (.vrsqrt i) s = .next (vecWrite s i f ((vecA s i f).map (fun x => ((valRsqrt) x).map (fun y => decFP32
       (encFP32 none false y))))))

/-- CVT converts the FP32 or BF16 elements of A to a format that is not block-scaled, CVTB to a block-scaled one; both
round and saturate by their STOCH and SAT bits and count saturations. Which opcodes of the class take BF16 is log
entry 15. -/
def Obligations.VectorConvert : Prop :=
  (∀ (i : Issue) (s : State) (f : Fmt) (g : Fmt), i.fmt = some f →
     g = (if 0x2A ≤ fld i.w 63 56 then .bf16 else .fp32) →
     (f ≠ .bs4 ∧ f ≠ .bsi8) →
     vecReady s i ⟨none, false⟩ g f →
     exec (.vcvt i) s = .next (vecWrite s i f ((vecA s i g).map some)))
  ∧ (∀ (i : Issue) (s : State) (f : Fmt) (g : Fmt), i.fmt = some f →
     g = (if 0x2A ≤ fld i.w 63 56 then .bf16 else .fp32) →
     (f = .bs4 ∨ f = .bsi8) →
     vecReady s i ⟨none, false⟩ g f →
     exec (.vcvtb i) s = .next (vecWrite s i f ((vecA s i g).map some)))

/-- RSUM, RMAX, RMIN and RNORM2 write one FP32 result per row of A, little-endian, from the first byte of the destination:
the balanced tree over the row, padded with +0 for sums, minus infinity for the maximum and plus infinity for the
minimum; RNORM2 squares each element first. Along CBS rows the eight shares of the present blocks are reduced and
merged in ascending order (that bit 49 selects CBS rows is log entry 15). Nothing but the destination buffer changes. -/
def Obligations.RowReductions : Prop :=
  (∀ (i : Issue) (s : State) (f : Fmt) (per n : Nat), i.fmt = some f →
     slotIssues s i vecMask →
     fld i.w 31 24 = 0 →
     per = (if bit i.w 49 then cbsRowElems f (opMid s i) else rowElems f (opMid s i)) →
     n = vecLen i / max 1 per →
     bufOk s i (opHi s i) 0 (n * 4) = true →
     bufOk s i (opMid s i) 0 (n * hRow (opMid s i) * 64) = true →
     badByte s i.tile (opMid s i) 0 (n * hRow (opMid s i) * 64) = none →
     exec (.vrsum i) s = .next (if bit i.w 49 then cbsReduce s i f (opHi s i) (opMid s i) n 0 id f32Add else writeBuf
       s i.tile (opHi s i) 0 ((List.range n).flatMap (fun r => leBytes 4 (rowResult s i.tile (opMid s i) f per 0 id
       f32Add r)))))
  ∧ (∀ (i : Issue) (s : State) (f : Fmt) (per n : Nat), i.fmt = some f →
     slotIssues s i vecMask →
     fld i.w 31 24 = 0 →
     per = (if bit i.w 49 then cbsRowElems f (opMid s i) else rowElems f (opMid s i)) →
     n = vecLen i / max 1 per →
     bufOk s i (opHi s i) 0 (n * 4) = true →
     bufOk s i (opMid s i) 0 (n * hRow (opMid s i) * 64) = true →
     badByte s i.tile (opMid s i) 0 (n * hRow (opMid s i) * 64) = none →
     exec (.vrmax i) s = .next (if bit i.w 49 then cbsReduce s i f (opHi s i) (opMid s i) n 0xFF800000 id f32Max else
       writeBuf s i.tile (opHi s i) 0 ((List.range n).flatMap (fun r => leBytes 4 (rowResult s i.tile (opMid s i) f
       per 0xFF800000 id f32Max r)))))
  ∧ (∀ (i : Issue) (s : State) (f : Fmt) (per n : Nat), i.fmt = some f →
     slotIssues s i vecMask →
     fld i.w 31 24 = 0 →
     per = (if bit i.w 49 then cbsRowElems f (opMid s i) else rowElems f (opMid s i)) →
     n = vecLen i / max 1 per →
     bufOk s i (opHi s i) 0 (n * 4) = true →
     bufOk s i (opMid s i) 0 (n * hRow (opMid s i) * 64) = true →
     badByte s i.tile (opMid s i) 0 (n * hRow (opMid s i) * 64) = none →
     exec (.vrmin i) s = .next (if bit i.w 49 then cbsReduce s i f (opHi s i) (opMid s i) n 0x7F800000 id f32Min else
       writeBuf s i.tile (opHi s i) 0 ((List.range n).flatMap (fun r => leBytes 4 (rowResult s i.tile (opMid s i) f
       per 0x7F800000 id f32Min r)))))
  ∧ (∀ (i : Issue) (s : State) (f : Fmt) (per n : Nat), i.fmt = some f →
     slotIssues s i vecMask →
     fld i.w 31 24 = 0 →
     per = (if bit i.w 49 then cbsRowElems f (opMid s i) else rowElems f (opMid s i)) →
     n = vecLen i / max 1 per →
     bufOk s i (opHi s i) 0 (n * 4) = true →
     bufOk s i (opMid s i) 0 (n * hRow (opMid s i) * 64) = true →
     badByte s i.tile (opMid s i) 0 (n * hRow (opMid s i) * 64) = none →
     exec (.vrnorm2 i) s = .next (if bit i.w 49 then cbsReduce s i f (opHi s i) (opMid s i) n 0 (fun x => f32Mul x x)
       f32Add else writeBuf s i.tile (opHi s i) 0 ((List.range n).flatMap (fun r => leBytes 4 (rowResult s i.tile
       (opMid s i) f per 0 (fun x => f32Mul x x) f32Add r)))))

/-- APASS of a dense pass takes its bed: every vector has a slot from the fourth ACLK on, an invalid one as a bubble
(startPass); a pass of present blocks gives a slot to each row that holds a present block of its chunk; AOS takes its
bed with its accumulators at zero. A valid vector of a dense pass drains, in the order of its count, the row of the
stationary block times the vector, and a valid vector of an output-stationary pass adds its products to the
accumulators. The feed layout of AOS is log entry 14. -/
def Obligations.ArrayPass : Prop :=
  (∀ (i : Issue) (s : State), slotIssues s i 0xFF80000000000000 →
     passFault s i (passD s i) (passB s i) false = 0 →
     (passD s i).present = false →
     exec (.apass i) s = .next (startPass s i (passD s i) (passB s i) false (denseVecs s i (passD s i) (passB s i))
       none))
  ∧ (∀ (i : Issue) (s : State) (vs : List (Nat × Bool)), slotIssues s i 0xFF80000000000000 →
     passFault s i (passD s i) (passB s i) false = 0 →
     (passD s i).present = true →
     feedClean s i →
     presentVecs s i (passD s i) (passB s i) = some vs →
     exec (.apass i) s = .next (startPass s i (passD s i) (passB s i) false vs none))
  ∧ (∀ (i : Issue) (s : State), slotIssues s i 0xFF80000000000000 →
     passFault s i (passD s i) (passB s i) true = 0 →
     exec (.aos i) s = .next (startPass s i (passD s i) (passB s i) true (denseVecs s i (passD s i) (passB s i))
       none))
  ∧ (∀ (s : State) (t : Nat) (p : LivePass) (m : Nat), p.os = false →
     p.desc.present = false →
     badByte s t p.bufs.feed ((p.desc.feedRow + m) * hRow p.bufs.feed * 64) (feedRowBytes p.desc false p.size) = none →
     injectVec t (s, p) (m, true) = (drainRow s t p.desc p.bufs p.done (passRow p.desc.sfmt p.size p.blk (feedVector
       s t p.bufs.feed (p.desc.feedRow + m) (contraction p.desc.sfmt p.size) ((streamFmt p.desc.xfmt).getD .e4m3))),
       { p with next := p.next + 1, done := p.done + 1 }))
  ∧ (∀ (s : State) (t : Nat) (p : LivePass) (m : Nat), p.os = true →
     p.desc.present = false →
     badByte s t p.bufs.feed ((p.desc.feedRow + m) * hRow p.bufs.feed * 64) (feedRowBytes p.desc true p.size) = none →
     injectVec t (s, p) (m, true) = (s, { p with next := p.next + 1, cells := cellsAfter s t p m }))

/-- ALOAD of a block without parity error, in a bed of the mode and by the load rules, fills the named stationary register
with the bytes of its handle, its format, and the load time two ACLK on, and changes nothing else; ABED of another
mode that exists, with no pass or load live, sets the bed mode, empties the stationary registers and tags, leaves
output-stationary mode, and shows the mode in TILE_STATE; of the mode in force it changes nothing. -/
def Obligations.ArrayLoadAndMode : Prop :=
  (∀ (i : Issue) (s : State), slotIssues s i 0xFF3FE0FFFFFFFFFF →
     (statFmt (fld i.w 53 50)).isSome →
     fld i.w 49 46 < bedCount (getTile s i.tile).bedMode →
     bufOk s i (opMid s i) (fld i.w 31 0 * 64) (blockBytes (fld i.w 53 50) (bedSize (getTile s i.tile).bedMode)) = true →
     loadOk (getTile s i.tile) (fld i.w 49 46) (fld i.w 49 46 * 2 + fld i.w 45 45) (s.clk.aclk + 2) = true →
     badLines s i.tile (opMid s i) (fld i.w 31 0 * 64) (blockBytes (fld i.w 53 50) (bedSize (getTile s
       i.tile).bedMode)) = [] →
     exec (.aload i) s = .next (setTile s i.tile
       { getTile s i.tile with stat := NMap.set (fun _ => {}) (getTile s i.tile).stat (fld i.w 49 46 * 2 + fld i.w 45 45) { sfmt := fld i.w 53 50, src := opMid s i, off := fld i.w 31 0 * 64, loadAt := s.clk.aclk + 2, bytes := readBuf s i.tile (opMid s i) (fld i.w 31 0 * 64) (blockBytes (fld i.w 53 50) (bedSize (getTile s i.tile).bedMode)), lastSlot := (NMap.get (fun _ => ({} : StatReg)) (getTile s i.tile).stat (fld i.w 49 46 * 2 + fld i.w 45 45)).lastSlot, used := false } }))
  ∧ (∀ (i : Issue) (s : State), slotIssues s i 0xFF00000000000003 →
     fld i.w 1 0 ≠ 3 →
     fld i.w 1 0 ≠ (getTile s i.tile).bedMode →
     arrayLive (getTile s i.tile) s.clk.aclk = false →
     exec (.abed i) s = .next (setRegN (setTile s i.tile
       { getTile s i.tile with bedMode := fld i.w 1 0, passes := [], stat := [], tags := [], os := false }) (pgTile
       i.tile + 0x100) (setFld (regN (setTile s i.tile
       { getTile s i.tile with bedMode := fld i.w 1 0, passes := [], stat := [], tags := [], os := false }) (pgTile
       i.tile + 0x100)) 19 18 (fld i.w 1 0))))
  ∧ (∀ (i : Issue) (s : State), slotIssues s i 0xFF00000000000003 →
     fld i.w 1 0 = (getTile s i.tile).bedMode →
     exec (.abed i) s = .next s)

/-- HUSK on a registered slot with kept rows and no parity error writes the fetch list and the chunk count and begins the
expert step (huskIssue); on a slot with no kept row its loop register becomes 0, its list is empty and the tile has
run a HUSK, and nothing else changes. CHAFF with good operands writes CBS records of the thresholded values and their
length, counts, and enters the digest where flagged (chaffDone). The row length is log entry 17. The oldest expert
step of a tile ends by updating its state record in SRAM and leaving it for the write back of the layer; a strict step
with a miss that has not recomputed instead discards its outputs and recomputes dense: its list holds every hidden
neuron and its loop register the dense chunk count. -/
def Obligations.HuskChaff : Prop :=
  (∀ (i : Issue) (s : State) (reg : SlotReg) (k : HuskPick), slotIssues s i 0xFF80FFFFFFFF0700 →
     huskReady s i →
     badLines s i.tile (opMid s i) 0 (hLines (opMid s i) * 64) = [] →
     slotOfHandle s (fgOf s i.tile).part i.tile (fld i.w 47 40) = some reg →
     keptRows s i.tile (opHi s i) reg ≠ [] →
     huskPick s i (parseHusk (descOf s i i.doff 32)) reg = some k →
     exec (.husk i) s = .next (huskIssue s i (parseHusk (descOf s i i.doff 32)) reg k))
  ∧ (∀ (i : Issue) (s : State) (reg : SlotReg), slotIssues s i 0xFF80FFFFFFFF0700 →
     huskReady s i →
     slotOfHandle s (fgOf s i.tile).part i.tile (fld i.w 47 40) = some reg →
     keptRows s i.tile (opHi s i) reg = [] →
     exec (.husk i) s = .next (setFg s i.tile
       { lcSet (fgOf s i.tile) (fld i.w 10 8) 0 s.clk.aclk with listLens := NMap.put (fgOf s i.tile).listLens (fld i.w 31 24) 0, tally := { (fgOf s i.tile).tally with used := true } }))
  ∧ (∀ (i : Issue) (s : State) (f : Fmt), slotIssues s i 0xFFC0FFFFFF000000 →
     chaffFmt (leNat (descOf s i i.doff 16)) = some f →
     chaffFields (leNat (descOf s i i.doff 16)) →
     chaffBuffers s i f →
     exec (.chaff i) s = .next (chaffDone s i f (fld (leNat (descOf s i i.doff 16)) 47 40) (fld (leNat (descOf s i
       i.doff 16)) 31 0) (fld (leNat (descOf s i i.doff 16)) 95 64)))
  ∧ (∀ (t : Nat) (hidden : List (List Nat)) (s : State) (r : HuskRun) (rest : List HuskRun) (m : Nat), (fgOf s t).husk = r :: rest →
     m = r.recompute.getD (missCount r hidden) →
     ¬ (r.policy = 1 ∧ r.dense = false ∧ r.recompute = none ∧ 0 < m) →
     badByte s t r.handle 0 64 = none →
     exec (.expertLastChunkDone t hidden) s = .next (expertUpdate s t r rest m))
  ∧ (∀ (t : Nat) (hidden : List (List Nat)) (s : State) (r : HuskRun) (rest : List HuskRun) (m : Nat), (fgOf s t).husk = r :: rest →
     m = r.recompute.getD (missCount r hidden) →
     r.policy = 1 ∧ r.dense = false ∧ r.recompute = none ∧ 0 < m →
     exec (.expertLastChunkDone t hidden) s = .next (expertRecompute s t r rest m))

/-- COPY and TCOPY write the source bytes (transposed by squares of 64 for TCOPY, log entry 76) to the destination buffer
and nothing else; RECV opens a window with no line landed; SEND to a tile of the die lands its lines in the open
window, and over the die edge it leaves one unit for the armed buffer (log entry 76). -/
def Obligations.TileCopies : Prop :=
  (∀ (i : Issue) (s : State), slotIssues s i 0xFF00FFFFFFFFFFFF →
     copyOk s i (opMid s i) (opHi s i) (fld i.w 31 0 * 64) = true →
     badByte s i.tile (opMid s i) 0 (fld i.w 31 0 * 64) = none →
     exec (.copy i) s = .next (writeBuf s i.tile (opHi s i) 0 (readBuf s i.tile (opMid s i) 0 (fld i.w 31 0 * 64))))
  ∧ (∀ (i : Issue) (s : State), slotIssues s i 0xFF03FFFFFFFFFFFF →
     fld i.w 49 48 ≠ 3 →
     max 1 (hRow (opMid s i)) * 64 % (64 * 2 ^ fld i.w 49 48) = 0 →
     fld i.w 31 0 * 64 % (64 * (max 1 (hRow (opMid s i)) * 64)) = 0 →
     copyOk s i (opMid s i) (opHi s i) (fld i.w 31 0 * 64) = true →
     badByte s i.tile (opMid s i) 0 (fld i.w 31 0 * 64) = none →
     exec (.tcopy i) s = .next (writeBuf s i.tile (opHi s i) 0 (transposeSquares (2 ^ fld i.w 49 48) (max 1 (hRow
       (opMid s i)) * 64) (readBuf s i.tile (opMid s i) 0 (fld i.w 31 0 * 64)))))
  ∧ (∀ (i : Issue) (s : State), slotIssues s i 0xFF00FF0000000000 →
     bufOk s i (NMap.get (fun _ => 0) (fgOf s i.tile).handles (fld i.w 47 40)) 0 (hLines (NMap.get (fun _ => 0) (fgOf s
       i.tile).handles (fld i.w 47 40)) * 64) = true →
     exec (.recv i) s = .next (setFg s i.tile
       { fgOf s i.tile with windows := (fgOf s i.tile).windows ++ [(fld i.w 47 40, 0)] }))
  ∧ (∀ (i : Issue) (s : State), slotIssues s i 0xFF00FFFFFFFFFFFF →
     bufOk s i (opHi s i) 0 (fld i.w 23 0 * 64) = true →
     fld i.w 23 0 ≤ 147456 →
     badByte s i.tile (opHi s i) 0 (fld i.w 23 0 * 64) = none →
     fld i.w 39 32 < 120 →
     frameGives s i.tile (fld i.w 39 32) = true →
     exec (.send i) s = .next (if i.tile / 60 = fld i.w 39 32 / 60 then landLines s (fgOf s i.tile).part (fld i.w 39
       32) (fld i.w 31 24) (readBuf s i.tile (opHi s i) 0 (fld i.w 23 0 * 64)) else toEdge s
       { tile := fld i.w 39 32, bg := false, part := (fgOf s i.tile).part, handle := fld i.w 31 24, ctr := armingCtr s (fld i.w 39 32) (fld i.w 31 24), off := 0, data := readBuf s i.tile (opHi s i) 0 (fld i.w 23 0 * 64), weight := false, cause := 6, again := false, link := 2, counts := true }))

/-- With a good pass, MMRS runs it as a pass whose drained rows are its contribution and then, counted as a dynamic
effect, issues a reduce-scatter or all-reduce; MMAG runs the pass and issues an all-gather of its feed rows, its
destination and counter in the slot (log entry 75). Each of the six COLL instructions, with a descriptor of its
operation, a source without parity error, a good communicator, a free counter and a destination handle, opens its
instance where none of its name runs on the device and fewer than eight of the partition do; on a tile that has no
piece in the instance yet, with the same descriptor and a contribution that has not begun, it joins it with its piece. -/
def Obligations.CollectiveIssue : Prop :=
  (∀ (i : Issue) (s u : State), slotIssues s i 0xFF00000000000000 →
     i.dline < 9216 →
     [1, 2].contains (fld (leNat (descOf s i (i.doff + 2) 32)) 19 16) = true →
     u = runPass s i (passD s i) (some (fld (leNat (descOf s i (i.doff + 2) 32)) 15 0, fld (leNat (descOf s i (i.doff +
       2) 32)) 95 64)) →
     (getTile s i.tile).passes.length < (getTile u i.tile).passes.length →
     freshRun u i.tile →
     exec (.mmrs i) s = .next (collIssue (countEffect u i.tile) i (descOf s i (i.doff + 2) 32) true (fld (fld (leNat
       (descOf s i (i.doff + 2) 32)) 255 224) 7 0) (fld (fld (leNat (descOf s i (i.doff + 2) 32)) 255 224) 12 8)
       (hMask (passB s i).drain) (fun _ n => ([], min n ((passD s i).m * 4 * bedSize (getTile s i.tile).bedMode)))))
  ∧ (∀ (i : Issue) (s u : State), slotIssues s i 0xFF0000FF0000001F →
     i.dline < 9216 →
     fld (leNat (descOf s i (i.doff + 2) 32)) 19 16 = 3 →
     u = runPass s i (passD s i) none →
     (getTile s i.tile).passes.length < (getTile u i.tile).passes.length →
     freshRun u i.tile →
     exec (.mmag i) s = .next (collIssue (countEffect u i.tile) i (descOf s i (i.doff + 2) 32) false (fld i.w 39 32)
       (fld i.w 4 0) (hMask (passB s i).feed) (fun v n => ((readBuf v i.tile (passB s i).feed ((passD s i).feedRow *
       hRow (passB s i).feed * 64) ((passD s i).m * hRow (passB s i).feed * 64)).take n, 0))))
  ∧ (∀ (i : Issue) (s u : State) (c : Nat × Instr) (n : PavInst), c ∈ [(1, Instr.allreduce i), (2, .reduceScatter i), (3, .allgather i), (4, .broadcast i), (5, .alltoall i), (6,
       .alltoallv i)] →
     slotIssues s i 0xFF80FFFF0000001F →
     collReady s u i c.1 n →
     pavFind u (fld (leNat (descOf s i i.doff 32)) 15 0) (fld (leNat (descOf s i i.doff 32)) 95 64) = none →
     (u.pav.insts.filter (fun j => j.part == (fgOf s i.tile).part)).length < 8 →
     exec c.2 s = .next (openColl u n (collPiece s u i (collSized s u i n)) (fld (leNat (descOf s i i.doff 32)) 255
       224)))

/-- The oldest unit at the die edge for a tile whose context is its partition's and whose counter is armed and unsatisfied
sends its next line into the mesh in the tile's gate slot (enterLine), and is held outside one; one whose counter is
not armed is discarded and poisons with 0x0215. The oldest unit in the mesh lands once its last line has come: it is
written, its counter advances, it is kept for redelivery, and the Granary goes on. One that fails parity goes back to
the die edge, counts in TILE_PARITY, and is refetched if it is of weight class, else it poisons the step with 0x0207. -/
def Obligations.Arrivals : Prop :=
  (∀ (t : Nat) (s : State) (u : Machine.Unit) (e : FrameEnt), oldestFor s.edge t = some u →
     unitOwned s u = true →
     unitArmed s u = true →
     gateSlot s t u.part = some e →
     exec (.gateSlotDelivery t) s = .next (enterLine s u e))
  ∧ (∀ (t : Nat) (s : State) (u : Machine.Unit), oldestFor s.edge t = some u →
     unitOwned s u = true →
     unitArmed s u = true →
     gateSlot s t u.part = none →
     exec (.gateSlotDelivery t) s = .next s)
  ∧ (∀ (t : Nat) (s : State) (u : Machine.Unit), oldestFor s.edge t = some u →
     unitOwned s u = true →
     unitArmed s u = false →
     exec (.gateSlotDelivery t) s = .next (tilePoison (discardUnit (edgePump { s with edge := s.edge.erase u }) u) t
       u.part 0x0215))
  ∧ (∀ (t : Nat) (s : State) (u : Machine.Unit), oldestFor s.mesh t = some u →
     u.due ≤ s.clk.aclk →
     unitOwned { s with mesh := s.mesh.erase u } u = true →
     unitArmed { s with mesh := s.mesh.erase u } u = true →
     exec (.arrivalUnitLanded t false) s = .next (grnPump (landUnit { s with mesh := s.mesh.erase u } u)))
  ∧ (∀ (t : Nat) (s : State) (u : Machine.Unit), oldestFor s.mesh t = some u →
     u.due ≤ s.clk.aclk →
     unitOwned { s with mesh := s.mesh.erase u } u = true →
     exec (.arrivalUnitLanded t true) s = .next (if u.weight then incSat (incSat (parityReturn s t u) (pgTile t +
       0xC8) 1) (pgGrn (t / 60) + 0xC8) 1 else tilePoison (parityReturn s t u) t u.part 0x0207))

/-- VIN_TURN_ON starts the rail sequence unless the fault latch is set or the regulators are on; each RAIL_SETTLED
advances it and the eighth gives power-good; a sequence timeout latches and powers off; VIN_TURN_OFF and
VIN_OVERVOLTAGE power off; FAULT_LATCH_CLEAR clears the latch with VIN off. The list of what powering off clears is
log entry 7. -/
def Obligations.ModuleSupply : Prop :=
  (∀ (s : State), s.mod.latch = false →
     s.mod.rails = none →
     exec .vinTurnOn s = .next { s with mod := { s.mod with vin := true, rails := some 0 } })
  ∧ (∀ (s : State), (s.mod.latch = true ∨ s.mod.rails.isSome = true) →
     exec .vinTurnOn s = .next { s with mod := { s.mod with vin := true } })
  ∧ (∀ (s : State) (k : Nat), s.mod.rails = some k →
     k < 8 →
     exec .railSettled s = .next { s with mod := { s.mod with rails := some (k + 1), powerGood := k + 1 == 8 } })
  ∧ (∀ (s : State) (k : Nat), s.mod.rails = some k →
     k < 8 →
     exec .railSequenceTimeout s = .next (powerOff s true))
  ∧ (∀ (s : State), exec .vinTurnOff s = .next { powerOff s false with mod := { (powerOff s false).mod with vin := false } })
  ∧ (∀ (s : State), exec .vinOvervoltage s = .next { powerOff s false with mod := { (powerOff s false).mod with vin := false } })
  ∧ (∀ (s : State), s.mod.rails = none →
     exec .faultLatchClear s = .next { s with mod := { s.mod with latch := false, vin := false } })
  ∧ (∀ (s : State) (k : Nat), s.mod.rails = some k →
     exec .faultLatchClear s = .next
       { powerOff s false with mod := { (powerOff s false).mod with latch := false, vin := false } })

/-- PLL_LOCK on a powered device that is not locked and not in DEVICE_FAULT locks it, zeroes the time base and starts
bring-up unless PERST# holds it; a reference loss is a device fault 0x0E02 that takes the ports down; PERST# asserts
the module reset, or only the pin while the fault latch is set, and its release starts bring-up on a locked, powered
device; the link comes up with its width and speed and bring-up goes on. TB_CTRL.SET loads TB_SET while the time base
is unlocked and no step is admitted or queued, cancelling a pending snapshot with 0x1108, and is refused with 0x0E04
otherwise. At the end of a period a device that aligns asks its parent, and one that is the root or does not align
does nothing. A request is answered with its stamp and the device's own; one of depth 0 from another device than the
parent records 0x0E01. A response to the latest request sets the offset and the delay, steps the time base of an
unlocked device that is more than 1 microsecond off and runs no step, else slews it, and eight good exchanges lock it;
ten periods without one unlock it. A packet's stamp is taken as its command runs (log entry 97). -/
def Obligations.ClockAndPins : Prop :=
  (∀ (u : List Nat) (s : State), s.mod.powerGood = true →
     s.clk.pllLocked = false →
     s.boot.state ≠ .deviceFault →
     s.host.perst = false →
     exec (.pllLock u) s = .next (startBoot { s with clk := { s.clk with pllLocked := true, tb := 0, tbFrac := 0 } }
       u))
  ∧ (∀ (u : List Nat) (s : State), s.mod.powerGood = true →
     s.clk.pllLocked = false →
     s.boot.state ≠ .deviceFault →
     s.host.perst = true →
     exec (.pllLock u) s = .next { s with clk := { s.clk with pllLocked := true, tb := 0, tbFrac := 0 } })
  ∧ (∀ (s : State), exec .pllLockRetry s = .next s)
  ∧ (∀ (s u : State), s.clk.pllLocked = true →
     u = deviceFault (err s pgTb 0x0E02) 0x0E02 →
     exec .referenceLoss s = .next
       { u with clk := { u.clk with pllLocked := false }, fab := { u.fab with ports := u.fab.ports.map (fun e => (e.1, if e.2.lstate = .up then { e.2 with lstate := .down } else e.2)) } })
  ∧ (∀ (s : State), exec .perstAssert s = .next (if s.mod.latch then { s with host := { s.host with perst := true } } else
       moduleReset s))
  ∧ (∀ (u : List Nat) (s : State), s.host.perst = true →
     exec (.perstDeassert u) s = .next (if s.clk.pllLocked = true ∧ s.mod.powerGood = true then startBoot
       { s with host := { s.host with perst := false } } u else { s with host := { s.host with perst := false } }))
  ∧ (∀ (w v : Nat) (s : State), s.clk.pllLocked = true →
     s.host.perst = false →
     s.host.linkUp = false →
     exec (.pcieLinkUp w v) s = .next
       { s with host := { s.host with linkUp := true, width := w % 64, speed := v % 16 }, boot := { s.boot with state := if s.boot.state = .training then .waitImage else s.boot.state } })
  ∧ (∀ (s u : State), takesWrites s pgTb →
     s.tb.locked = false →
     anyStep s = false →
     u = { s with clk := { s.clk with tb := BitVec.ofNat 64 (pairN s (pgTb + 0x110)), tbFrac := 0 } } →
     exec .tbSet s = .next (if s.lodge.snapAt.isSome then err { u with lodge := { u.lodge with snapAt := none } }
       pgLodge 0x1108 else u))
  ∧ (∀ (s : State), takesWrites s pgTb →
     (s.tb.locked = true ∨ anyStep s = true) →
     exec .tbSet s = .next (err s pgTb 0x0E04))
  ∧ (∀ (s u : State) (d : Nat), isRoot s = false →
     bit (regN s (pgTb + 0x104)) 1 = true →
     u = setParent { s with tb := { s.tb with missed := s.tb.missed + 1, reqAt := now s } } →
     u.tb.parent = some d →
     exec .tbPeriodExpiry s = .next (sendTime
       { u with tb := { u.tb with seq := (u.tb.seq + 1) % 2 ^ 32, req := some ((u.tb.seq + 1) % 2 ^ 32, stamp16 u) } }
       d 1 ((u.tb.seq + 1) % 2 ^ 32) (stamp16 u) 0 0))
  ∧ (∀ (s : State), (isRoot s = true ∨ bit (regN s (pgTb + 0x104)) 1 = false) →
     exec .tbPeriodExpiry s = .next s)
  ∧ (∀ (s u v : State) (p : Pkt), takeEjected s (fun p => p.proto == 0xA && byteFld p.body 0 0 == 1) = some (p, u) →
     v = (if byteFld p.body 1 1 = 0 ∧ u.tb.parent ≠ some p.src then err u pgTb 0x0E01 else u) →
     exec .timeRequest s = .next (sendTime
       { v with tb := { v.tb with heard := NMap.put v.tb.heard p.src (byteFld p.body 1 1) } } p.src 2 (byteFld p.body
       4 7) (byteFld p.body 8 15) (stamp16 v) (stamp16 v)))
  ∧ (∀ (s u v w : State) (p : Pkt) (q t1 : Nat) (off dly : Int), takeEjected s (fun p => p.proto == 0xA && byteFld p.body 0 0 == 2) = some (p, u) →
     u.tb.req = some (q, t1) →
     byteFld p.body 4 7 = q →
     u.tb.parent = some p.src →
     off = (((byteFld p.body 16 23 : Int) - t1) - ((stamp16 u : Int) - byteFld p.body 24 31)) / 2 →
     dly = (((stamp16 u : Int) - t1) - ((byteFld p.body 24 31 : Int) - byteFld p.body 16 23)) / 2 →
     v = exchangeKept u p off dly →
     w = (if v.tb.locked = false ∧ anyStep v = false ∧ (16000 < off ∨ off < -16000) then incSat
       { v with clk := { v.clk with tb := v.clk.tb + BitVec.ofInt 64 (off / 16) } } (pgTb + 0x50) 1 else slewBy v off) →
     exec .timeResponse s = .next (setParent (setRegN (lockBy w off) (pgTb + 0x120) (code32 (lockBy w off).tb.rate))))
  ∧ (∀ (s u : State) (p : Pkt), takeEjected s (fun p => p.proto == 0xA && byteFld p.body 0 0 == 2) = some (p, u) →
     (u.tb.req = none ∨ u.tb.parent ≠ some p.src ∨ u.tb.req.map (fun r => r.1) ≠ some (byteFld p.body 4 7)) →
     exec .timeResponse s = .next u)
  ∧ (∀ (s : State), s.tb.locked = true →
     10 ≤ s.tb.missed →
     exec .tbLockLoss s = .next (evt (incSat
       { s with tb := { s.tb with locked := false, good := 0, slew := 0, slewLeft := 0 } } (pgTb + 0x48) 1) pgTb 1))

/-- Training of channels and die-to-die links is recorded once; T1 initialisation of a trained channel starts its
scrubbing, and T1 is ready when every channel scrubs or is disabled; a power-up wave is counted and the eighth ends
the power-up and starts the Lodge; known-answer results calibrate, reconcile, take the elapsed time and end in READY
with the event READY. -/
def Obligations.BringUpSteps : Prop :=
  (∀ (u : List Nat) (ms us : Nat) (s : State), s.boot.trained = false →
     [BootState.training, .waitImage, .verifying, .powerup, .kat].contains s.boot.state = true →
     exec (.trainingComplete u ms us) s = .next
       { trained s u (List.range 128) (List.range 3) ms us with boot := { (trained s u (List.range 128) (List.range 3) ms us).boot with trained := true } })
  ∧ (∀ (c : Nat) (s : State), c < 128 →
     (getMch s c).trained = true →
     (getMch s c).scrubbing = false →
     exec (.t1InitDone c) s = .next
       { initChan s c with boot := { (initChan s c).boot with t1Ready := (initChan s c).boot.t1Ready || (List.range 128).all (fun k => (getMch (initChan s c) k).scrubbing || (getMch (initChan s c) k).disabled) } })
  ∧ (∀ (s : State), s.boot.state = .powerup →
     exec .tilePowerUpWave s = .next
       { s with boot := { s.boot with waves := s.boot.waves + 1, state := if s.boot.waves + 1 ≥ 8 then .kat else .powerup }, lodge := { s.lodge with running := s.lodge.running || decide (s.boot.waves + 1 ≥ 8) } })
  ∧ (∀ (u meas : List Nat) (s v : State), s.boot.state = .kat →
     s.boot.trained = true →
     s.boot.t1Ready = true →
     v = reconcile (calibrate (katFails s u) meas) [0, 1] (testMasks (calibrate (katFails s u) meas).boot) →
     exec (.katComplete u meas) s = .next (evt
       { setRegN v (pgBoot + 0x168) (v.clk.root / 18000000) with boot := { (setRegN v (pgBoot + 0x168) (v.clk.root / 18000000)).boot with state := .ready } }
       pgBoot 0))

/-- LOAD while an image is awaited reads at most 8 MiB of host memory at BOOT_IMG_ADDR and goes to verification (the cut
is log entry 83); a broadcast of a valid image sends one packet for each 2,048 bytes; a BOOT packet that fits is kept
and the last of an image starts verification, any other is counted as dropped; a broadcast that stays incomplete for a
millisecond is marked and recorded with 0x0F08; a received image is refused with its code or taken, with its digest
shown, counted, and power-up begins. -/
def Obligations.ImageLoading : Prop :=
  (∀ (s : State), s.boot.state = .waitImage →
     exec .load s = .next
       { inc64 s (pgHost + 0x50) (min 8388608 (regN s (pgBoot + 0x110))) with boot := { s.boot with state := .verifying, busy := 1, rx := [(0, readHost s (pairN s (pgBoot + 0x108)) (min 8388608 (regN s (pgBoot + 0x110))))], rxLen := min 8388608 (regN s (pgBoot + 0x110)), rxAt := none, incomplete := false } })
  ∧ (∀ (s u : State), s.boot.imgValid = true →
     s.boot.state ≠ .verifying →
     s.boot.state ≠ .ready →
     s.boot.state ≠ .deviceFault →
     u = { s with boot := { s.boot with round := s.boot.round + 1 } } →
     exec .broadcastImage s = .next (((List.range (chunks 2048 u.boot.image).length).zip (chunks 2048
       u.boot.image)).foldl (fun v c => send v
       { mkMcast v 0xB 0 (pairN u (pgBoot + 0x114)) with data := true, body := c.2, thdr := u.boot.image.length * 2 ^ 96 + 2048 * c.1 * 2 ^ 64 + u.boot.round % 2 ^ 32 * 2 ^ 32 })
       u))
  ∧ (∀ (s u : State) (p : Pkt), takeEjected s (fun p => p.proto == 0xB) = some (p, u) →
     bootFits u p = true →
     exec .bootPacket s = .next (bootTake u p))
  ∧ (∀ (s u : State) (p : Pkt), takeEjected s (fun p => p.proto == 0xB) = some (p, u) →
     bootFits u p = false →
     exec .bootPacket s = .next (incSat u (pgBoot + 0x4C) 1))
  ∧ (∀ (s : State) (a : Nat), s.boot.state = .waitImage →
     s.boot.rxAt = some a →
     a + 1000000 ≤ now s →
     rxWhole s.boot = false →
     exec .broadcastIncompleteTimeout s = .next (err (evt
       { s with boot := { s.boot with incomplete := true, rxAt := none } } pgBoot 3) pgBoot 0x0F08))
  ∧ (∀ (s : State), s.boot.state = .verifying →
     exec .imageReceived s = .next (if imgFault s.fuse (rxBytes s.boot) = 0 then incSat (setRegs
       { s with boot := { s.boot with busy := 0, rx := [], rxLen := 0, rxAt := none, state := .powerup, imgValid := true, image := (rxBytes s.boot).take (byteFld (rxBytes s.boot) 8 11), keyIndex := byteFld (rxBytes s.boot) 5 5, svn := byteFld (rxBytes s.boot) 6 6, waves := 0 } }
       (pgBoot + 0x180) (imgDigest (rxBytes s.boot))) (pgBoot + 0x40) 1 else err (evt (incSat
       { s with boot := { s.boot with busy := 0, rx := [], rxLen := 0, rxAt := none, state := .waitImage } } (pgBoot +
       0x44) 1) pgBoot 1) pgBoot (imgFault s.fuse (rxBytes s.boot))))
  ∧ (∀ (s : State), [BootState.fuses, .selftest, .training, .fuseFault, .deviceFault].contains s.boot.state = false →
     exec .attest s = .next (evt (incSat (setRegs s (pgBoot + 0x200) (reportBytes s ++ edSign (padTo 32 s.fuse.seed)
       (sha512 (reportBytes s)))) (pgBoot + 0x54) 1) pgBoot 4))

/-- With the key 0xA5 a router-die reset of a locked device resets it and starts bring-up, a compute-die reset in READY
ends the steps of the partitions on that die with 0x1003 and puts the die in reset, a partition reset awaits the next
frame boundary with 0x0105; a completed bring-up of a die ends its reset and reconciles; the partition reset ends its
steps, clears its tiles and what it holds in the units, and clears its stop. The states in which these act are log
entry 84. -/
def Obligations.BootResets : Prop :=
  (∀ (u : List Nat) (s : State), s.clk.pllLocked = true →
     exec (.bootResetRouterDie 0xA5 u) s = .next (startBoot (routerReset s) u))
  ∧ (∀ (d : Nat) (s u : State), d < 2 →
     bit s.boot.dieReset d = false →
     s.boot.state = .ready →
     u = resetDie (((List.range 4).filter (touchesDie s d)).foldl (fun v n => if (getPart v n).steps.isEmpty then
       endInstances v n else noteError (endAll v n 0x1003) n 0x1003) s) d →
     exec (.bootResetComputeDie d 0xA5) s = .next
       { u with boot := { forgetTests u.boot d with dieReset := setFld u.boot.dieReset d d 1 } })
  ∧ (∀ (n : Nat) (s : State), n < 4 →
     exec (.bootResetPartition n 0xA5) s = .next (setPart s n { getPart s n with resetPending := some 0x0105 }))
  ∧ (∀ (key d n : Nat) (u : List Nat) (s : State), key ≠ 0xA5 →
     exec (.bootResetRouterDie key u) s = .next (bootRefuse s) ∧ exec (.bootResetComputeDie d key) s = .next
       (bootRefuse s) ∧ exec (.bootResetPartition n key) s = .next (bootRefuse s))
  ∧ (∀ (d : Nat) (chk trn kat : List Nat) (s : State), d < 2 →
     bit s.boot.dieReset d = true →
     s.boot.state = .ready →
     exec (.computeDieBringupDone d chk trn kat) s = .next (dieDone s d chk trn kat))
  ∧ (∀ (n code : Nat) (s : State), (getPart s n).resetPending = some code →
     s.clk.aclk % 64 = 0 →
     exec (.partitionResetTakeEffect n) s = .next (partReset s n code))

/-- RMEM whose list lies in its buffer, whose replies fit theirs, and whose records all pass the issuer's checks opens one
operation on its counter and issues every request in the order of the list; MSGS sends its bytes to the channel of the
device that its descriptor names, or to each member of its mask. The message fields are those of R251; where a reply
lies is R295. -/
def Obligations.RemoteMemoryIssue : Prop :=
  (∀ (i : Issue) (s u : State), u = countEffect s i.tile →
     freshRun s i.tile →
     slotIssues s i 0xFF00FFFFFFFF001F →
     bufOk u i (opHi u i) 0 (rmemBytes (rmemList u i)) = true →
     (((rmemList u i).map (fun r => roundUp r.1.retLen 16)).sum = 0 ∨ bufIn (opMid u i) 0 ((rmemList u i).map (fun r =>
       roundUp r.1.retLen 16)).sum = true) →
     badByte u i.tile (opHi u i) 0 (rmemBytes (rmemList u i)) = none →
     (∀ r ∈ rmemList u i, issueCheck u (fgOf u i.tile).part r.1 = 0) →
     exec (.rmem i) s = .next ((rmemList u i).foldl (fun v r => issueMem v (.tile i.tile false) (fgOf u i.tile).part
       (getPart u (fgOf u i.tile).part).stamp r.1 r.2.1 ⟨(openGroup u i.tile (fgOf u i.tile).part (fld i.w 4 0) (fld
       i.w 31 16)).1, opMid u i, r.2.2⟩) (openGroup u i.tile (fgOf u i.tile).part (fld i.w 4 0) (fld i.w 31 16)).2))
  ∧ (∀ (i : Issue) (s u : State), u = countEffect s i.tile →
     freshRun s i.tile →
     slotIssues s i 0xFFC0FFFFFFFF001F →
     fld (leNat (descOf u i i.doff 16)) 39 33 = 0 →
     fld (leNat (descOf u i i.doff 16)) 63 40 = 0 →
     fld (leNat (descOf u i i.doff 16)) 23 22 = 0 →
     fld i.w 15 5 = 0 →
     (bit (leNat (descOf u i i.doff 16)) 32 = true ∨ fld (leNat (descOf u i i.doff 16)) 127 64 = 0) →
     bufOk u i (opHi u i) 0 (fld i.w 39 16) = true →
     badByte u i.tile (opHi u i) 0 (fld i.w 39 16) = none →
     exec (.msgs i) s = .next (if bit (leNat (descOf u i i.doff 16)) 32 then msgMany u i (leNat (descOf u i i.doff
       16)) else msgOne u i (leNat (descOf u i i.doff 16))))

/-- A response of an outstanding request settles it; with status OK its data are written where the request says, or every
member of a combined request is answered; another status is kept in ATOM_FAULT_INFO when it is the first and fails the
request with 0x0A04. An ACK or NACK settles its message, a NACK with 0x0A06. A request unanswered for the end-to-end
time is sent again or fails with 0x0A03. A combining entry leaves at the end of its window. A tile's fences complete
together once nothing of it is outstanding. An answer to nothing is counted. -/
def Obligations.IssuerEvents : Prop :=
  (∀ (s u v : State) (p : Pkt) (r : Req), takeEjected s (fun p => p.proto == 5) = some (p, u) →
     u.atom.out.find? (fun r => r.proto == 4 && r.arb == p.srcArb && r.dev == p.src && r.id == p.msgId) = some r →
     v = ((r.issuer, r.reply) :: r.members).foldl (fun s m => soilIssuer s p m.1) (settle u r) →
     exec .memRsp s = .next (if fld p.th 123 120 ≠ 0 then issuerError (faultInfo v p.src (fld p.th 123 120)) r 0x0A04
       else if r.members.isEmpty then answer v r.issuer r.reply (p.rest.take (4 * (fld p.th 119 114 + 1))) 5 else
       r.members.foldl (fun s m => answer s m.1 m.2 [] 5) v))
  ∧ (∀ (s u : State) (p : Pkt), takeEjected s (fun p => p.proto == 5) = some (p, u) →
     u.atom.out = [] →
     exec .memRsp s = .next (incSat u (pgAtom + 0x6C) 1))
  ∧ (∀ (s u : State) (p : Pkt) (r : Req), takeEjected s (fun p => p.proto == 6 && fld p.th 31 28 == 1) = some (p, u) →
     msgReq u p = some r →
     exec .msgAck s = .next (answer (soilIssuer (settle u r) p r.issuer) r.issuer r.reply [] 6))
  ∧ (∀ (s u : State) (p : Pkt) (r : Req), takeEjected s (fun p => p.proto == 6 && fld p.th 31 28 == 2) = some (p, u) →
     msgReq u p = some r →
     exec .msgNack s = .next (issuerError (faultInfo (settle u r) p.src (fld p.th 27 24)) r 0x0A06))
  ∧ (∀ (s u : State) (r : Req), s.atom.out.find? (fun r => now s ≥ r.sentAt + 1000 * regN s (pgAtom + 0x10C)) = some r →
     u = soilSteps (incSat (r.pkts.foldl send s) (pgAtom + 0x60) 1) →
     exec .e2eTimeout s = .next (if r.tries < regN s (pgAtom + 0x110) ∧ stampClosing s r.stamp = false then
       { u with atom := { u.atom with out := u.atom.out.map (fun x => if x = r then { r with tries := r.tries + 1, sentAt := now u } else x) } }
       else issuerError (evt (incSat (settle s r) (pgAtom + 0x64) 1) pgAtom 0) r 0x0A03))
  ∧ (∀ (s : State) (c : Comb), s.atom.combs.find? (fun c => fclk s ≥ c.since + regN s (pgAtom + 0x114)) = some c →
     exec .combineWindowExpiry s = .next (sendComb s c))
  ∧ (∀ (t : Nat) (bg : Bool) (s : State) (l : List Fence), l = s.atom.fences.filter (fun f => f.tile == t && f.bg == bg) →
     l ≠ [] →
     outstandingOf s (.tile t bg) = 0 →
     exec (.fenceComplete t bg) s = .next (l.foldl (fun s f => bumpCtr s f.tile f.bg f.ctr 5)
       { s with atom := { s.atom with fences := s.atom.fences.filter (fun f => !(f.tile == t && f.bg == bg)) } }))

/-- The first packet of a message to a bound channel with room for it takes the channel's next slot, and its bytes are
kept; later packets join their message, the last to come completes it; a repeat of a completed message is acknowledged
again, one below the window only counted; a message incomplete for its time-out is discarded and its slot freed. No
binding, or a message that does not fit, is refused (the status is a free value). -/
def Obligations.MessagesIn : Prop :=
  (∀ (s u : State) (p : Pkt) (b : Bind), takeEjected s (fun p => p.proto == 6 && fld p.th 31 28 == 0) = some (p, u) →
     seen u p.srcArb p.src p.msgId = .fresh →
     bindOf u p = some b →
     fld p.th 95 64 + 16 ≤ b.slotBytes →
     u.atom.inMsgs = [] →
     b.unbinding = false →
     exec .msgPacket s = .next (msgTake (msgOpen u b p) (bindTaken b) (msgNew u b p) p))
  ∧ (∀ (s u : State) (p : Pkt) (b : Bind) (m : InMsg), takeEjected s (fun p => p.proto == 6 && fld p.th 31 28 == 0) = some (p, u) →
     seen u p.srcArb p.src p.msgId = .fresh →
     bindOf u p = some b →
     fld p.th 95 64 + 16 ≤ b.slotBytes →
     u.atom.inMsgs.find? (fun m => m.arb == p.srcArb && m.dev == p.src && m.id == p.msgId) = some m →
     exec .msgPacket s = .next (msgTake u b m p))
  ∧ (∀ (s u : State) (p : Pkt), takeEjected s (fun p => p.proto == 6 && fld p.th 31 28 == 0) = some (p, u) →
     (∀ h bs, seen u p.srcArb p.src p.msgId = .dup h bs → exec .msgPacket s = .next (msgAnswer (incSat u (pgAtom +
       0x68) 1) p 1 0)) ∧ (seen u p.srcArb p.src p.msgId = .old → exec .msgPacket s = .next (incSat u (pgAtom + 0x70)
       1)) ∧ (seen u p.srcArb p.src p.msgId = .fresh → bindOf u p = none → exec .msgPacket s = .next (msgRefuse u p)))
  ∧ (∀ (s u : State) (m : InMsg), s.atom.inMsgs.find? (fun m => now s ≥ m.since + 1000 * regN s (pgAtom + 0x118)) = some m →
     u =
       { s with atom := { s.atom with inMsgs := s.atom.inMsgs.erase m }, host := { s.host with binds := s.host.binds.map (fun b => if b.channel = m.channel ∧ b.part = m.part then { b with freed := b.freed ++ [m.slot] } else b) } } →
     exec .msgTimeout s = .next (evt (incSat u (pgAtom + 0x80) 1) pgAtom 3))
  ∧ (∀ (v : Nat) (s : State), takesWrites s pgAtom →
     exec (.ortEntryWrite v) s = .next (setRegN
       { s with atom := { s.atom with ort := NMap.set (fun _ => 0) s.atom.ort (regN s (pgAtom + 0x124) % 1024) (regN s (pgAtom + 0x128) + regN s (pgAtom + 0x12C) * 2 ^ 32 + regN s (pgAtom + 0x130) * 2 ^ 64 + v % 2 ^ 32 * 2 ^ 96) } }
       (pgAtom + 0x124) ((regN s (pgAtom + 0x124) % 1024 + 1) % 1024)))
  ∧ (∀ (v : Nat) (s : State), takesWrites s pgAtom →
     exec (.partModeWrite v) s = .next (if (List.range 4).any (fun n => bit (regN s (pgAtom + 0x108)) n != bit v n &&
       admittedStep s n) then err s pgAtom 0x0A07 else setRegN s (pgAtom + 0x108) (v % 16)))

/-- The home takes the oldest request of the operation that no earlier request to its lines precedes. New to its window,
well formed and placed at a T1 address, it changes the lines that it touches as its operation says, counts, and its
response returns the old bytes where it asks for them; placed at a job address it does so on the job's bytes; placed
in tile SRAM it becomes one arrival unit; one that translation refuses is answered with the status. The lines after a
LOAD are the lines before it. -/
def Obligations.MemoryRequests : Prop :=
  (∀ (c : Nat × Instr) (s u v : State) (p : Pkt) (a : Nat) (old : List Byte), c ∈ [(1, Instr.memLoad false), (2, .memStore false), (3, .memAdd 0 false), (4, .memMin false), (5, .memMax false),
       (6, .memCas false)] →
     memNext s c.1 = some p →
     memFresh s p →
     translate s p (parseMem p.th) = (.direct a, u) →
     a / 64 * 64 + lineBytes (parseMem p.th) ≤ t1Bytes →
     t1Read u (a / 64 * 64) (lineBytes (parseMem p.th)) = (some old, v) →
     exec c.2 s = .next (if c.1 = 1 then memDone (inc64 v (pgAtom + 0x50) (lineBytes (parseMem p.th) / 64)) p
       (returned (parseMem p.th) old) else memDone (t1Write (inc64 v (pgAtom + 0x50) (lineBytes (parseMem p.th) / 64))
       (a / 64 * 64) (newLines (parseMem p.th) p.rest old)).2 p (returned (parseMem p.th) old)))
  ∧ (∀ (c : Nat × Instr) (s : State) (p : Pkt), c ∈ [(1, Instr.memLoad false), (2, .memStore false), (3, .memAdd 0 false), (4, .memMin false), (5, .memMax false),
       (6, .memCas false)] →
     memNext s c.1 = some p →
     memFresh s p →
     (∀ st u, translate s p (parseMem p.th) = (.refused st, u) → exec c.2 s = .next (memRefuse u p st)) ∧ (∀ n t a u,
       translate s p (parseMem p.th) = (.sram n t a, u) → exec c.2 s = performSram u n t a (parseMem p.th) p) ∧ (∀ n a
       u v w old x, translate s p (parseMem p.th) = (.job n a, u) → jobFetch u 0 n (a / 64 * 64) (lineBytes (parseMem
       p.th)) = (.data old, v) → (c.1 = 1 ∨ putRows 0 n (newTag (inc64 v (pgAtom + 0x50) (lineBytes (parseMem p.th) /
       64))).1 false [(a / 64 * 64, newLines (parseMem p.th) p.rest old)] (newTag (inc64 v (pgAtom + 0x50) (lineBytes
       (parseMem p.th) / 64))).2 0 = (.data x, w, 0)) → exec c.2 s = .next (if c.1 = 1 then memDone (inc64 v (pgAtom +
       0x50) (lineBytes (parseMem p.th) / 64)) p (returned (parseMem p.th) old) else memDone w p (returned (parseMem
       p.th) old))))

/-- A RESERVE is answered at once: GRANT where the name already holds slots, DENY where the tree service is off or the
slots would pass 2,048, else the slots are held and GRANT; a wrong descriptor check aborts with 0x0705. The last GRANT
of the outstanding reservations decides for the tree, a DENY falls back; DEC_ACK ends the resending of DECIDE to its
sender; DECIDE, READY and COUNT act on their instance, and are held in the early table where it is not issued; ABORT
ends the instance with the carried code or frees its slots. A packet of no valid communicator is dropped and counted,
and one whose DOR bit is not DET_MODE aborts its instance with 0x070B. -/
def Obligations.CollectiveControl : Prop :=
  (∀ (s u : State) (p : Pkt), collTaken s u p 1 →
     pavFind u p.ccomm p.cseq = none →
     exec .reserve s = .next (if u.pav.slots.any (fun x => x.comm == p.ccomm && x.seq == p.cseq) then collCtl u
       p.stamp p.srcArb p.src 2 p.ccomm p.cseq 0 0 0 [] else if bit (regN u (pgPav + 0x104)) 0 = false ∨ slotsHeld u +
       fld p.cbody 15 0 > 2048 then collCtl (incSat u (pgPav + 0x68) 1) p.stamp p.srcArb p.src 3 p.ccomm p.cseq 0 0 0
       [] else collCtl
       { u with pav := { u.pav with slots := u.pav.slots ++ [⟨p.ccomm, p.cseq, fld p.cbody 15 0, p.ccrc, now u⟩] } }
       p.stamp p.srcArb p.src 2 p.ccomm p.cseq 0 0 0 []))
  ∧ (∀ (s u : State) (p : Pkt) (j : PavInst), collTaken s u p 2 →
     pavFind u p.ccomm p.cseq = some j →
     j.alg = none →
     j.reserves.any (fun a => a.dev == p.src) = true →
     exec .grant s = .next (if (j.reserves.filter (fun a => a.dev != p.src)).isEmpty then rootDecide (pavSet u
       { j with reserves := j.reserves.filter (fun a => a.dev != p.src) })
       { j with reserves := j.reserves.filter (fun a => a.dev != p.src) } 0 0 0 else pavSet u
       { j with reserves := j.reserves.filter (fun a => a.dev != p.src) }))
  ∧ (∀ (s u : State) (p : Pkt) (j : PavInst), collTaken s u p 3 →
     pavFind u p.ccomm p.cseq = some j →
     j.alg = none →
     j.reserves.any (fun a => a.dev == p.src) = true →
     exec .deny s = .next (rootDeny u j))
  ∧ (∀ (s u : State) (p : Pkt) (j : PavInst), collTaken s u p 4 →
     pavFind u p.ccomm p.cseq = some j →
     exec .decide s = .next (onDecide u j p))
  ∧ (∀ (s u : State) (p : Pkt), collTaken s u p 4 →
     pavFind u p.ccomm p.cseq = none →
     exec .decide s = .next (if (if fld p.cbody 3 0 = 0 then u else freeSlots u p.ccomm p.cseq).pav.past.contains
       (p.ccomm, p.cseq) then collCtl (if fld p.cbody 3 0 = 0 then u else freeSlots u p.ccomm p.cseq) p.stamp p.srcArb
       p.src 5 p.ccomm p.cseq 0 p.cstep 0 [] else holdEarly (if fld p.cbody 3 0 = 0 then u else freeSlots u p.ccomm
       p.cseq) p))
  ∧ (∀ (s u : State) (p : Pkt) (j : PavInst), collTaken s u p 5 →
     pavFind u p.ccomm p.cseq = some j →
     exec .decAck s = .next (pavSet u { j with decides := j.decides.filter (fun a => a.dev != p.src) }))
  ∧ (∀ (s u : State) (p : Pkt) (j : PavInst), collTaken s u p 6 →
     pavFind u p.ccomm p.cseq = some j →
     exec .ready s = .next (onReady u j p))
  ∧ (∀ (s u : State) (p : Pkt), collTaken s u p 6 →
     pavFind u p.ccomm p.cseq = none →
     exec .ready s = .next (holdEarly u p))
  ∧ (∀ (s u : State) (p : Pkt) (j : PavInst), collTaken s u p 7 →
     pavFind u p.ccomm p.cseq = some j →
     exec .count s = .next (onCount u j p))
  ∧ (∀ (s u : State) (p : Pkt), collTaken s u p 7 →
     pavFind u p.ccomm p.cseq = none →
     exec .count s = .next (holdEarly u p))
  ∧ (∀ (s u : State) (p : Pkt), collTaken s u p 11 →
     exec .abort s = .next ((pavFind u p.ccomm p.cseq).elim (freeSlots u p.ccomm p.cseq) (fun j => pavEnd u j
       p.ccrc)))
  ∧ (∀ (v : Nat) (s u : State), takesWrites s pgPav →
     u = setRegN s (pgPav + 0x158) v →
     exec (.commEntryWrite v) s = .next (if commBusy u (regN u (pgPav + 0x118) % 4096) then err u pgPav 0x0709 else
       setRegN
       { u with pav := { u.pav with comms := NMap.set (fun _ => 0) u.pav.comms (regN u (pgPav + 0x118) % 4096) (leNat ((List.range 16).flatMap (fun i => leBytes 4 (regN u (pgPav + 0x11C + 4 * i))))) } }
       (pgPav + 0x118) ((regN u (pgPav + 0x118) % 4096 + 1) % 4096)))
  ∧ (∀ (s u : State) (p : Pkt) (k : Nat) (c : Instr) (j : PavInst), (k, c) ∈ [(1, Instr.reserve), (2, .grant), (3, .deny), (4, .decide), (5, .decAck), (6, .ready), (7, .count), (8,
       .chunk false), (9, .chunkAck), (10, .chunkNak), (11, .abort)] →
     takeEjected s (fun p => p.proto == 3 && p.ckind == k) = some (p, u) →
     ceValid (commEntry u p.ccomm) = true →
     p.stamp = ceStamp (commEntry u p.ccomm) →
     pavFind u p.ccomm p.cseq = some j →
     p.dor ≠ detMode u →
     exec c s = .next (pavAbort u j 0x070B))
  ∧ (∀ (s u : State) (p : Pkt) (k : Nat) (c : Instr), (k, c) ∈ [(1, Instr.reserve), (2, .grant), (3, .deny), (4, .decide), (5, .decAck), (6, .ready), (7, .count), (8,
       .chunk false), (9, .chunkAck), (10, .chunkNak), (11, .abort)] →
     takeEjected s (fun p => p.proto == 3 && p.ckind == k) = some (p, u) →
     (ceValid (commEntry u p.ccomm) = false ∨ p.stamp ≠ ceStamp (commEntry u p.ccomm)) →
     exec c s = .next (earlyDrop u))

/-- A chunk packet new to its chunk is kept; with the last packet the chunk is taken by its instance (takeChunk), or
acknowledged where the instance has completed here; of a chunk of no known instance the packet is dropped. CHUNK_ACK
releases the chunk for its sender, CHUNK_NAK and the chunk time-out send it again, an incomplete chunk is answered by
CHUNK_NAK. Unanswered RESERVE, DECIDE, READY and COUNT are sent again. An instance without progress ends with 0x0706
(0x0606 in the Sheaf). A complete instance ends, is counted by its algorithm, and its name is remembered. -/
def Obligations.CollectiveChunks : Prop :=
  (∀ (s u : State) (p : Pkt) (b : Bool), collTaken s u p 8 →
     ((pavFind u p.ccomm p.cseq).isSome = true ∨ u.pav.past.contains (p.ccomm, p.cseq) = true) →
     (chunkBefore u p).got.any (fun g => g.1 == p.cpidx) = false →
     exec (.chunk b) s = .next (if (chunkWith u p).got.length < (chunkWith u p).count then
       { chunkOut u p with pav := { (chunkOut u p).pav with ins := (chunkOut u p).pav.ins ++ [chunkWith u p] } } else
       (pavFind u p.ccomm p.cseq).elim (answerChunk (chunkOut u p) (chunkWith u p) 9) (fun j => takeChunk (chunkOut u
       p) j (chunkWith u p) b)))
  ∧ (∀ (s u : State) (p : Pkt) (b : Bool), collTaken s u p 8 →
     pavFind u p.ccomm p.cseq = none →
     u.pav.past.contains (p.ccomm, p.cseq) = false →
     exec (.chunk b) s = .next (earlyDrop u))
  ∧ (∀ (s u : State) (p : Pkt) (j : PavInst), collTaken s u p 9 →
     pavFind u p.ccomm p.cseq = some j →
     exec .chunkAck s = .next (pavAdvance u (pavTouch u { j with outs := j.outs.map (outAnswered p) })))
  ∧ (∀ (s u : State) (p : Pkt) (j : PavInst) (o : PavOut), collTaken s u p 10 →
     pavFind u p.ccomm p.cseq = some j →
     j.outs.find? (answersOut p) = some o →
     exec .chunkNak s = .next (resendChunk u j o [(p.srcArb, p.src)]))
  ∧ (∀ (s : State) (j : PavInst) (o : PavOut), firstDue s (fun i => i.outs) (fun o => o.sent && !o.dests.isEmpty && now s ≥ o.sentAt + chunkTimeout s) = some (j,
       o) →
     exec .chunkTimeout s = .next (resendChunk s j o (o.dests.map (fun d => (d.1, d.2.1)))))
  ∧ (∀ (s : State) (x : PavIn), s.pav.ins.find? (fun x => now s ≥ x.since + chunkTimeout s) = some x →
     exec .chunkIncompleteTimeout s = .next (answerChunk { s with pav := { s.pav with ins := s.pav.ins.erase x } } x
       10))
  ∧ (∀ (s u : State) (j : PavInst) (a : PavAsk), firstDue s (fun i => i.reserves) (fun a => now s ≥ a.sentAt + chunkTimeout s) = some (j, a) →
     u = pavCtl s j (myArb s) a.dev 1 0 0 j.dchk (leBytes 4 (slotsNeed s)) →
     exec .reserveResendTimeout s = .next (if a.tries ≥ 3 then rootDeny s j else pavSet u
       { j with reserves := j.reserves.map (fun x => if x = a then ⟨a.dev, now u, a.tries + 1⟩ else x) }))
  ∧ (∀ (s u : State) (j : PavInst) (a : PavAsk), firstDue s (fun i => i.decides) (fun a => a.tries < 3 && now s ≥ a.sentAt + chunkTimeout s) = some (j, a) →
     u = pavCtl s j (myArb s) a.dev 4 0 j.decRound 0 (decideBody (j.alg.getD 0) j.fromChunk) →
     exec .decideResendTimeout s = .next (pavSet u
       { j with decides := j.decides.map (fun x => if x = a then ⟨a.dev, now u, a.tries + 1⟩ else x) }))
  ∧ (∀ (s : State) (j : PavInst) (a : Pkt × Nat), firstDue s (fun i => i.asks) (fun a => now s ≥ a.2 + chunkTimeout s) = some (j, a) →
     exec .earlyRecordResend s = .next (pavSet (send s a.1)
       { j with asks := j.asks.map (fun x => if x = a then (a.1, now s) else x) }))
  ∧ (∀ (s : State) (j : PavInst), s.pav.insts.find? (fun i => now s ≥ i.prog + collTimeout s) = some j →
     exec .collTimeout s = .next (pavAbort (evt (incSat s (pgPav + 0x7C) 1) pgPav 3) j 0x0706))
  ∧ (∀ (s : State) (x : ShInst), s.pav.insts = [] →
     s.sheaf.insts.find? (fun i => now s ≥ i.prog + collTimeout s) = some x →
     exec .collTimeout s = .next (shFault s x 0x0606))
  ∧ (∀ (s u : State) (j : PavInst), s.pav.insts.find? (pavDone s) = some j →
     u = pavDrop (if j.usedEnd then inc64 (inc64 s (pgPav + 0x40) 1) (pgPav + 0x50) 1 else if j.usedTree then inc64
       (inc64 s (pgPav + 0x40) 1) (pgPav + 0x48) 1 else inc64 s (pgPav + 0x40) 1) j.comm j.seq →
     exec .instanceComplete s = .next
       { u with pav := { u.pav with past := ((j.comm, j.seq) :: u.pav.past).take 4096 } })
  ∧ (∀ (s u : State) (p : Pkt), takeEjected s (fun p => p.proto == 9) = some (p, u) →
     noticeGood p →
     bit (regN u (pgFab + 0x104)) 2 = true →
     (NMap.find u.fab.links (byteFld p.body 8 8 * 32 + byteFld p.body 9 9)).all (fun x => decide (x.1 < leNat
       (p.body.take 8))) = true →
     exec .linkstate s = .next (execLinkstate.apply u (byteFld p.body 8 8 * 32 + byteFld p.body 9 9) (leNat
       (p.body.take 8)) (byteFld p.body 10 10) (byteFld p.body 8 8) (byteFld p.body 9 9)))

/-- Enabling a disabled port that is not bad, unquarantining a quarantined one, and the end of the back-off of a port that
is down bring it to training; RETRAIN, alignment loss, 10 µs without a flit and eight RETRY_REQ without progress take
an UP port down; more violations than the limit quarantine it with 0x0907; DISABLE leaves a port at its power-on
state. Training that finds the expected peer brings the port up with full credit, and miswired with 0x0906 otherwise. -/
def Obligations.PortEvents : Prop :=
  (∀ (p : Nat) (s : State), takesWrites s (pgPort p) →
     p < 32 →
     (getPort s p).lstate = .disabled →
     portBad s p = false →
     exec (.portEnable p) s = .next (toTraining s p))
  ∧ (∀ (p : Nat) (s : State), takesWrites s (pgPort p) →
     p < 32 →
     (getPort s p).lstate ≠ .disabled →
     exec (.portDisable p) s = .next (setPort (if (getPort s p).lstate = .up then leaveUp s p .disabled else s) p
       { stale := (s.fab.arrived.filter (fun e => e.1 == p)).length }))
  ∧ (∀ (p : Nat) (s : State), takesWrites s (pgPort p) →
     p < 32 →
     (getPort s p).lstate = .up →
     exec (.portRetrain p) s = .next (leaveUp s p .down))
  ∧ (∀ (p : Nat) (s : State), takesWrites s (pgPort p) →
     p < 32 →
     (getPort s p).lstate = .quarantined →
     exec (.portUnquarantine p) s = .next (toTraining s p))
  ∧ (∀ (p : Nat) (s : State), p < 32 →
     (getPort s p).lstate = .up →
     exec (.alignmentLoss p) s = .next (leaveUp s p .down))
  ∧ (∀ (p : Nat) (s : State), p < 32 →
     (getPort s p).lstate = .up →
     (getPort s p).reqCount ≥ 8 →
     exec (.retryLimitDown p) s = .next (leaveUp s p .down))
  ∧ (∀ (p : Nat) (s : State), p < 32 →
     (getPort s p).lstate = .up →
     now s ≥ (getPort s p).lastFlit + 10000 →
     exec (.flitSilenceTimeout p) s = .next (leaveUp s p .down))
  ∧ (∀ (p : Nat) (s : State), p < 32 →
     ((getPort s p).lstate = .down ∨ ((getPort s p).lstate = .training ∧ (getPort s p).tries > 0)) →
     now s ≥ (getPort s p).downAt + backoff (getPort s p).tries →
     exec (.downBackoffRetrain p) s = .next (toTraining (setPort s p
       { getPort s p with tries := (getPort s p).tries + 1 }) p))
  ∧ (∀ (p : Nat) (s : State), p < 32 →
     (getPort s p).lstate = .up →
     (getPort s p).viol > regN s (pgFab + 0x114) →
     exec (.quarantineLimit p) s = .next (sendIdle (err (evt (leaveUp s p .quarantined) (pgPort p) 3) (pgPort p)
       0x0907) p))
  ∧ (∀ (p pol arb dev port : Nat) (s u : State), p < 32 →
     (getPort s p).lstate = .training →
     u = setRegN s (pgPort p + 0x108) (arb % 65536 * 65536 + dev % 64 * 256 + port % 32) →
     exec (.portTrainingDone p pol arb dev port) s = .next (if peerExpected u p arb dev port then portPump
       (sendNotice (evt (setPort u p
       { getPort u p with pol := pol % 16, locked := true, lstate := .up, owed := allCredits, lastFlit := now u, tries := 0 })
       (pgPort p) 0) p 2) p else err (evt (setPort u p
       { getPort u p with pol := pol % 16, locked := true, lstate := .miswired }) (pgPort p) 4) (pgPort p) 0x0906))

/-- Every flit refreshes the time of an UP port's last flit. One that the FEC could not correct or whose CRC fails is
counted and asks for a retry unless one is awaited. A good one is counted; a reserved type or bit is a violation
0x0902 and contradictory fields are 0x0904; its ACK is applied; RETRY_REQ resends from its FSEQ; idle and link
management flits do no more; a sequenced flit is accepted if it is the expected one, and asks for a retry otherwise
unless one is awaited. RETRY_REQ as an event of the transmitter resends, and is repeated every 2 µs while a replay is
awaited. -/
def Obligations.FlitReception : Prop :=
  (∀ (p fec : Nat) (bs : List Byte) (s u : State), p < 32 →
     (getPort s p).lstate = .up →
     u = flitSeen s p fec →
     fec ≠ 2 →
     flitGood bs = true →
     flitReserved (parseFlit bs) = false →
     flitContradicts (parseFlit bs) = false →
     exec (.flitReceive p bs fec) s = .next (if (parseFlit bs).ftype = 3 then resend (flitAcked u p (parseFlit bs)) p
       (parseFlit bs).fseq else if (parseFlit bs).ftype = 0 ∨ (parseFlit bs).ftype = 4 then flitAcked u p (parseFlit
       bs) else if (parseFlit bs).fseq = (getPort (flitAcked u p (parseFlit bs)) p).rxSeq then acceptFlit (flitAcked u
       p (parseFlit bs)) p (parseFlit bs) else if (getPort (flitAcked u p (parseFlit bs)) p).awaiting then flitAcked u
       p (parseFlit bs) else askRetry (flitAcked u p (parseFlit bs)) p))
  ∧ (∀ (p fec : Nat) (bs : List Byte) (s u : State), p < 32 →
     (getPort s p).lstate = .up →
     u = flitSeen s p fec →
     (fec = 2 ∨ flitGood bs = false) →
     exec (.flitReceive p bs fec) s = .next (if (getPort u p).awaiting then incSat u (pgPort p + 0x64) 1 else
       askRetry (incSat u (pgPort p + 0x64) 1) p))
  ∧ (∀ (p fec : Nat) (bs : List Byte) (s u : State), p < 32 →
     (getPort s p).lstate = .up →
     u = flitSeen s p fec →
     fec ≠ 2 →
     flitGood bs = true →
     (flitReserved (parseFlit bs) = true ∨ flitContradicts (parseFlit bs) = true) →
     exec (.flitReceive p bs fec) s = .next (violation (inc64 u (pgPort p + 0x48) 1) p (if flitReserved (parseFlit
       bs) then 0x0902 else 0x0904)))
  ∧ (∀ (p fec : Nat) (bs : List Byte) (s : State), p < 32 →
     (getPort s p).lstate = .training →
     fec ≠ 2 →
     exec (.flitReceive p bs fec) s = .next (trainFlit s p bs))
  ∧ (∀ (p q : Nat) (s : State), p < 32 →
     (getPort s p).lstate = .up →
     exec (.retryReq p q) s = .next (resend s p (q % 4096)))
  ∧ (∀ (p : Nat) (s : State), p < 32 →
     (getPort s p).lstate = .up →
     (getPort s p).awaiting = true →
     now s ≥ (getPort s p).retryAt + 2000 →
     exec (.retryReqRepeat p) s = .next (askRetry s p))

/-- Injection counts the oldest packet that a unit has handed over: one for this device is ejected, one for another device
of the Arbour takes a unicast route, one for another Arbour an outer route, a multicast goes to its first hops and to
this device where it is a member; multicast and memory packets may not leave the Arbour (0x0804). A received packet
holds its buffer until its copies have left; one for this device is ejected; one whose words fail parity is dropped
with 0x0805; others are routed on, counted while they live. -/
def Obligations.PacketRouting : Prop :=
  (∀ (s u v w : State) (p : Pkt) (r : List Pkt), s.fab.inject = p :: r →
     u = inc64 { s with fab := { s.fab with inject := r } } (pgFab + 0x40) 1 →
     (p.outer = false ∨ (p.mcast = false ∧ p.proto ≠ 4 ∧ p.proto ≠ 5 ∧ p.proto ≠ 7)) →
     v = (mcastNote (dropNonMembers u p.mask) (myDev u) p.mask) →
     w = (if bit p.mask (myDev u) ∧ isMember v (myDev u) then eject v p else v) →
     exec .packetInject s = .next (if p.mcast then sendCopies (mcastFirst w (myDev u) p.mask) w p 0 true else if
       p.outer then routeOuter u p 0 true else if p.dst = myDev u then eject u p else routeUnicast u p 0 true))
  ∧ (∀ (s u : State) (p : Pkt) (r : List Pkt), s.fab.inject = p :: r →
     u = inc64 { s with fab := { s.fab with inject := r } } (pgFab + 0x40) 1 →
     p.outer = true →
     (p.mcast = true ∨ p.proto = 4 ∨ p.proto = 5 ∨ p.proto = 7) →
     exec .packetInject s = .next (dropOuter u 0x0804))
  ∧ (∀ (q : Nat) (s u : State) (p : Pkt) (r : List (Nat × Pkt)) (h : Nat × State), s.fab.arrived = (q, p) :: r →
     u = packetTaken s q r →
     h = openHold u q p.vc (owedUnits s q p) 1 →
     exec (.packetReceive 1) s = .next (releaseHold (err (evt (incSat h.2 (pgFab + 0x78) 1) pgFab 0) pgFab 0x0805)
       h.1))
  ∧ (∀ (q : Nat) (s u : State) (p : Pkt) (r : List (Nat × Pkt)) (h : Nat × State), s.fab.arrived = (q, p) :: r →
     u = packetTaken s q r →
     h = openHold u q p.vc (owedUnits s q p) 1 →
     p.mcast = false →
     p.dstArb = myArb u →
     p.dst = myDev u →
     (p.via = false ∨ p.viaDev = myDev u) →
     exec (.packetReceive 0) s = .next (releaseHold (eject h.2 { acrossPort q p with via := false }) h.1))
  ∧ (∀ (q : Nat) (s u : State) (p : Pkt) (r : List (Nat × Pkt)) (h : Nat × State), s.fab.arrived = (q, p) :: r →
     u = packetTaken s q r →
     h = openHold u q p.vc (owedUnits s q p) 1 →
     p.mcast = false →
     (p.dstArb ≠ myArb u ∨ p.dst ≠ myDev u) →
     exec (.packetReceive 0) s = .next (routedOn p h.1 (if p.outer = true ∧ p.dstArb ≠ myArb u then routeOuter h.2
       (acrossPort q p) h.1 (decide (q ≥ 28)) else routeUnicast h.2 (acrossPort q p) h.1 (decide (q ≥ 28)))))
  ∧ (∀ (q : Nat) (s u : State) (p : Pkt) (r : List (Nat × Pkt)) (h : Nat × State) (l : List (Nat × Nat)), s.fab.arrived = (q, p) :: r →
     u = packetTaken s q r →
     p.mcast = true →
     l = mcastRest u p →
     h = openHold (dropNonMembers u p.mask) q p.vc (owedUnits s q p) (l.length + 1) →
     exec (.packetReceive 0) s = .next (releaseHold (sendCopies l (if l.isEmpty then (if bit p.mask (myDev u) then
       eject h.2 p else h.2) else inc64 (inc64 (if bit p.mask (myDev u) then eject h.2 p else h.2) (pgFab + 0x50) 1)
       (pgFab + 0x58) p.size) (acrossPort q p) h.1 false) h.1))

/-- A sample at a multiple of 1,000 TCLK adds the occupancy of every port and VC; at a multiple of 100,000 TCLK the map is
formed with the next sequence number, shown in the registers, the sums restart, and two packets go to the collector
where one is named. A collector keeps a part until its sibling comes and then writes the record, with zeros for a part
missing for 1 ms. A write of the outer table's high word stores an entry and advances the index. -/
def Obligations.CongestionMapAndTables : Prop :=
  (∀ (s : State), now s % 1000 = 0 →
     s.fab.cmapN < 100 →
     s.fab.cmapAt ≠ now s →
     exec .cmapSample s = .next
       { s with fab := { s.fab with cmapN := s.fab.cmapN + 1, cmapAt := now s, cmapSum := (List.range 256).foldl (fun m k => NMap.set (fun _ => 0) m k (NMap.get (fun _ => 0) m k + vcOccupancy s (k / 8) (k % 8))) s.fab.cmapSum } })
  ∧ (∀ (s u : State), now s % 100000 = 0 →
     s.fab.cmapN ≠ 0 →
     u = cmapFormed s →
     exec .cmapIntervalEnd s = .next (if bit (regN u (pgFab + 0x118)) 31 then incSat (send (send u (cmapPkt u ((regN
       s (pgFab + 0x11C) + 1) % 65536) 0 (leBytes 64 (cmapOf s)))) (cmapPkt u ((regN s (pgFab + 0x11C) + 1) % 65536) 1
       (leBytes 64 (cmapOf s)))) (pgFab + 0x7C) 1 else u))
  ∧ (∀ (s u : State) (p : Pkt) (c : CmapPart), takeEjected s (fun p => p.proto == 8) = some (p, u) →
     u.fab.cmapParts.find? (fun c => c.arb == p.srcArb && c.dev == p.src && c.seq == byteFld p.body 8 9 && c.part !=
       byteFld p.body 10 10) = some c →
     exec .cmap s = .next (cmapRecord { u with fab := { u.fab with cmapParts := u.fab.cmapParts.erase c } } p.srcArb
       p.src (byteFld p.body 8 9) c.time false (if byteFld p.body 10 10 = 1 then c.bytes ++ padTo 32 (p.body.drop 16)
       else padTo 32 (p.body.drop 16) ++ c.bytes)))
  ∧ (∀ (s u : State) (p : Pkt), takeEjected s (fun p => p.proto == 8) = some (p, u) →
     u.fab.cmapParts.any (fun c => c.arb == p.srcArb && c.dev == p.src && c.seq == byteFld p.body 8 9) = false →
     exec .cmap s = .next
       { u with fab := { u.fab with cmapParts := u.fab.cmapParts ++ [⟨p.srcArb, p.src, byteFld p.body 8 9, byteFld p.body 0 7, byteFld p.body 10 10, padTo 32 (p.body.drop 16), now u⟩] } })
  ∧ (∀ (s : State) (c : CmapPart), s.fab.cmapParts.find? (fun c => now s ≥ c.since + 1000000) = some c →
     exec .cmapPartTimeout s = .next (cmapRecord
       { s with fab := { s.fab with cmapParts := s.fab.cmapParts.erase c } } c.arb c.dev c.seq c.time true (if c.part
       = 0 then c.bytes ++ List.replicate 32 0 else List.replicate 32 0 ++ c.bytes)))
  ∧ (∀ (v : Nat) (s : State), takesWrites s pgFab →
     exec (.otabEntryWrite v) s = .next (setRegN
       { s with fab := { s.fab with otab := NMap.set (fun _ => 0) s.fab.otab (regN s (pgFab + 0x174) % 65536) (regN s (pgFab + 0x178) + v % 2 ^ 32 * 2 ^ 32) } }
       (pgFab + 0x174) ((regN s (pgFab + 0x174) % 65536 + 1) % 65536)))

/-- On a tile with an EDGE entry FILL and LIST with a good descriptor and an arrival buffer queue one request with the
fields of the descriptor, and the Granary goes on; LIST names the entries of its list. STORE queues its rows under a
tag and is remembered until the acknowledgements have come. HINT asks each grain that it names into a tier, or drops
it and counts it. A STORE that is acknowledged advances its counter. -/
def Obligations.GranaryRequests : Prop :=
  (∀ (i : Issue) (s u : State), u = countEffect s i.tile →
     freshRun s i.tile →
     slotIssues s i grqMask →
     edgeGives s i.tile = true →
     (parseGrn 1 (descOf u i i.doff 32)).bad = false →
     bufIn (NMap.get (fun _ => 0) (fgOf u i.tile).handles (fld i.w 47 40)) 0 64 = true →
     exec (.fill i) s = .next (grnPump (grnQueued u
       { tile := i.tile, bg := false, part := (fgOf u i.tile).part, op := 1, transpose := (parseGrn 1 (descOf u i i.doff 32)).transpose, esize := (parseGrn 1 (descOf u i i.doff 32)).esize, rows := (parseGrn 1 (descOf u i i.doff 32)).rows, rowBytes := (parseGrn 1 (descOf u i i.doff 32)).rowBytes, addr := (parseGrn 1 (descOf u i i.doff 32)).addr, stride := (parseGrn 1 (descOf u i i.doff 32)).stride, unit := (parseGrn 1 (descOf u i i.doff 32)).unit, handle := fld i.w 47 40, list := [], sent := 0 })))
  ∧ (∀ (i : Issue) (s u : State) (q : GReq), u = countEffect s i.tile →
     freshRun s i.tile →
     slotIssues s i grqMask →
     edgeGives s i.tile = true →
     q =
       { tile := i.tile, bg := false, part := (fgOf u i.tile).part, op := 2, transpose := false, esize := 1, rows := 1, rowBytes := (parseGrn 2 (descOf u i i.doff 32)).rowBytes, addr := (parseGrn 2 (descOf u i i.doff 32)).addr, stride := (parseGrn 2 (descOf u i i.doff 32)).stride, unit := 64 * (parseGrn 2 (descOf u i i.doff 32)).rowBytes, handle := fld i.w 47 40, list := execList.codesOfBytes2 (readBuf u i.tile (opMid u i) 0 (2 * listLen u i)), sent := 0 } →
     (parseGrn 2 (descOf u i i.doff 32)).bad = false →
     bufOk u i (opMid u i) 0 (2 * listLen u i) = true →
     bufIn (NMap.get (fun _ => 0) (fgOf u i.tile).handles (fld i.w 47 40)) 0 64 = true →
     badByte u i.tile (opMid u i) 0 (2 * listLen u i) = none →
     exec (.list i) s = .next (if listLen u i = 0 then setFg u i.tile (noteList (fgOf u i.tile) (fld i.w 39 32) q)
       else grnPump (grnQueued (setFg u i.tile (noteList (fgOf u i.tile) (fld i.w 39 32) q)) q)))
  ∧ (∀ (i : Issue) (s u : State) (q : GReq) (x : GStore), u = countEffect s i.tile →
     freshRun s i.tile →
     slotIssues s i grqMask →
     edgeGives s i.tile = true →
     (parseGrn 3 (descOf u i i.doff 32)).bad = false →
     bufOk u i (opHi u i) 0 ((parseGrn 3 (descOf u i i.doff 32)).rows * (parseGrn 3 (descOf u i i.doff 32)).rowBytes) =
       true →
     badByte u i.tile (opHi u i) 0 ((parseGrn 3 (descOf u i i.doff 32)).rows * (parseGrn 3 (descOf u i i.doff
       32)).rowBytes) = none →
     q =
       { tile := i.tile, bg := false, part := (fgOf u i.tile).part, op := 3, transpose := false, esize := 1, rows := (parseGrn 3 (descOf u i i.doff 32)).rows, rowBytes := (parseGrn 3 (descOf u i i.doff 32)).rowBytes, addr := (parseGrn 3 (descOf u i i.doff 32)).addr, stride := (parseGrn 3 (descOf u i i.doff 32)).stride, unit := (parseGrn 3 (descOf u i i.doff 32)).rowBytes, handle := 0, list := [], sent := 0, put := storeRows u i.tile (opHi u i) (parseGrn 3 (descOf u i i.doff 32)), tag := (newTag u).1 } →
     x =
       { tile := i.tile, bg := false, part := (fgOf u i.tile).part, ctr := fld i.w 4 0, acks := 0, tag := (newTag u).1, banks := hMask (opHi u i) } →
     exec (.store i) s = .next (grnPump (storeQueued (newTag u).2 q x)))
  ∧ (∀ (i : Issue) (s u : State), u = countEffect s i.tile →
     freshRun s i.tile →
     slotIssues s i grqMask →
     edgeGives s i.tile = true →
     (parseGrn 4 (descOf u i i.doff 32)).bad = false →
     exec (.hint i) s = .next ((hintGrains (parseGrn 4 (descOf u i i.doff 32))).foldl (hintGrain i.tile (fgOf u
       i.tile).part (parseGrn 4 (descOf u i i.doff 32)).hintTier (parseGrn 4 (descOf u i i.doff 32)).hintStep) u))
  ∧ (∀ (t k : Nat) (s : State) (x : GStore), s.grn.stores.find? (fun x => x.tile == t && x.ctr == k && x.acks == 0 && x.resp.isNone && !s.grn.reqs.any (fun r
       => r.op == 3 && r.tag == x.tag)) = some x →
     exec (.storeComplete t k) s = .next (bumpCtr
       { (if 2 ≤ x.cause then soilCtx s t x.bg else s) with grn := { (if 2 ≤ x.cause then soilCtx s t x.bg else s).grn with stores := (if 2 ≤ x.cause then soilCtx s t x.bg else s).grn.stores.erase x } }
       t x.bg k x.cause))

/-- MAP of an invalid entry of a page homed at another device sets its VALID bit; of one homed here it takes a free frame
within quota, with all grains in T1 (mapTake). UNMAP of a valid entry releases the page at once, or, while requests
for it run, waits with BUSY set and completes when they have ended. The copy that is next (nextCopy) moves its bytes
to T1 or to its mirrors, and flips the grain's state once they are there (flipCopy). The frame taken is the command's
operand (log entry named in NOTES.md). -/
def Obligations.PageCommands : Prop :=
  (∀ (d n f ea w : Nat) (s u : State), takesWrites s (pgGrn d) →
     d < 2 →
     n < 4 →
     u = mapCmd s d n 1 false →
     rawBad u d n (mapAddr u d) = false →
     rawEntry u d n (mapAddr u d) = some (ea, w) →
     bit w 63 = false →
     (peHomeDev w ≠ myDev u ∨ (quotaRoom u (peOwner w) n = true ∧ frameFree u (peOwner w) f = true)) →
     exec (.map d n f) s = .next (if peHomeDev w ≠ myDev u then t1WriteRaw u ea (leBytes 64 (w + 2 ^ 63)) else
       mapTake u d n f ea w))
  ∧ (∀ (d n ea w : Nat) (s : State), takesWrites s (pgGrn d) →
     d < 2 →
     n < 4 →
     rawBad s d n (mapAddr s d) = false →
     rawEntry s d n (mapAddr s d) = some (ea, w) →
     bit w 63 = true →
     exec (.unmap d n) s = .next (if pageBusy s n (mapAddr s d) ea then
       { mapCmd s d n 2 true with grn := { s.grn with unmaps := s.grn.unmaps ++ [⟨d, n, mapAddr s d⟩] } } else
       releasePage (mapCmd s d n 2 false) n ea))
  ∧ (∀ (d ea : Nat) (s : State) (x : PendUnmap), s.grn.unmaps.find? (fun u => u.die == d) = some x →
     entryAddr s d x.part x.addr = some ea →
     pageBusy s x.part x.addr ea = false →
     exec (.unmapComplete d) s = .next (releasePage (mapCmd
       { s with grn := { s.grn with unmaps := s.grn.unmaps.erase x } } d x.part 2 false) x.part ea))
  ∧ (∀ (bs : List Byte) (f : Nat) (s : State) (c : Copy), nextCopy s = some c →
     exec (.grainFlip bs f) s = .next (if c.sent then flipCopy s c else if c.target = 1 then copiedToT1 s c bs f else
       copyToT2 s c bs))
  ∧ (∀ (d n v : Nat) (s : State), takesWrites s (pgGrn d) →
     d < 2 →
     n < 4 →
     exec (.grnQuotaWrite d n v) s = .next (quotaWrite s d n v))

/-- A request for a frame that is recorded with its stamp is served once: a read returns the 256 bytes at its address, a
write writes its payload and is marked; an uncorrectable block answers status 5, a repeat returns the marked response;
a request for another frame is dropped and counted. A response settles its request: a read's bytes are buffered and
the Granary goes on, a write's acknowledgement is counted off, another status loses that grain's copy on that lender. -/
def Obligations.LenderTraffic : Prop :=
  (∀ (s u v : State) (p : Pkt) (bs : List Byte), takeEjected s (fun p => p.proto == 7 && !bit p.th 56) = some (p, u) →
     (NMap.find u.grn.lent (fld p.th 47 0 / 0x200000) = some p.stamp) →
     seen u p.srcArb p.src p.msgId = .fresh →
     fld p.th 127 124 = 1 →
     t1Read u (fld p.th 47 0 / 256 * 256) 256 = (some bs, v) →
     exec .grainRequest s = .next (inc64 (grainAnswer (noteId v p.srcArb p.src p.msgId none) p 1 0 bs) (pgGrn (fld
       p.th 47 0 / 0x200000 % 2) + 0x40) 256))
  ∧ (∀ (s u v : State) (p : Pkt), takeEjected s (fun p => p.proto == 7 && !bit p.th 56) = some (p, u) →
     (NMap.find u.grn.lent (fld p.th 47 0 / 0x200000) = some p.stamp) →
     seen u p.srcArb p.src p.msgId = .fresh →
     fld p.th 127 124 = 2 →
     t1Write u (fld p.th 47 0) p.rest = (true, v) →
     exec .grainRequest s = .next (inc64 (grainAnswer (noteId v p.srcArb p.src p.msgId (some (grainHeader 2 0 4 (p.th
       % 2 ^ 56) true, []))) p 2 0 []) (pgGrn (fld p.th 47 0 / 0x200000 % 2) + 0x48) p.rest.length))
  ∧ (∀ (s u : State) (p : Pkt), takeEjected s (fun p => p.proto == 7 && !bit p.th 56) = some (p, u) →
     (NMap.find u.grn.lent (fld p.th 47 0 / 0x200000) ≠ some p.stamp → exec .grainRequest s = .next (incSat u (pgFab
       + 0x74) 1)) ∧ ((NMap.find u.grn.lent (fld p.th 47 0 / 0x200000) = some p.stamp) → seen u p.srcArb p.src p.msgId
       = .old → exec .grainRequest s = .next (incSat u (pgAtom + 0x70) 1)) ∧ (∀ h bs, (NMap.find u.grn.lent (fld p.th
       47 0 / 0x200000) = some p.stamp) → seen u p.srcArb p.src p.msgId = .dup h bs → exec .grainRequest s = .next
       (send (incSat u (pgAtom + 0x68) 1) { (mkPkt u 7 p.stamp p.srcArb p.src).withTh h bs with msgId := p.msgId })))
  ∧ (∀ (s u v : State) (p : Pkt) (r : Req) (q : T2Req), takeEjected s (fun p => p.proto == 7 && bit p.th 56) = some (p, u) →
     u.atom.out.find? (fun r => r.proto == 7 && r.arb == p.srcArb && r.dev == p.src && r.id == p.msgId) = some r →
     (settle u r).grn.t2.find? (fun q => q.tag == r.reply.group) = some q →
     v = { settle u r with grn := { (settle u r).grn with t2 := (settle u r).grn.t2.erase q } } →
     exec .grainResponse s = .next (if fld p.th 123 120 ≠ 0 then grnPump (loseCopies v q.part q.entry q.lender true
       [q.grain]) else if q.kind = 0 then grnPump
       { v with grn := { v.grn with t2buf := v.grn.t2buf ++ [(q.lender, q.addr, p.rest)] } } else finishStores
       { v with grn := { v.grn with copies := v.grn.copies.map (fun c => if c.sent ∧ c.tag = q.store then { c with acks := c.acks - 1 } else c), stores := v.grn.stores.map (fun x => if x.tag = q.store then { x with acks := x.acks - 1 } else x) } }))

/-- A channel in service counts its refreshes; a scrub slot serves the oldest queued correction, else the block at the
scrub position, which moves on modulo the blocks of the channel. A write of DET_MODE with no work live is stored and
awaits the change of all blocks, which takes it into force, counts it and sets the event; with work live it is ignored
with 0x0101; a digest configuration is stored while its partition has no step, else 0x0102. A good die-to-die flit
with the expected FSEQ advances it; a bad or unexpected one is counted, asks for replay and counts a failure; eight
failures retrain the link, and a failed retraining is a device fault with 0x1002. -/
def Obligations.IntegrityEvents : Prop :=
  (∀ (c : Nat) (s : State), c < 128 →
     (getMch s c).disabled = false →
     exec (.perBankRefresh c) s = .next (incSat s (pgMch c + 0x5C) 1))
  ∧ (∀ (c : Nat) (s : State), c < 128 →
     (getMch s c).scrubbing = true →
     exec (.patrolScrubSlot c) s = .next ((getMch s c).queue.head?.elim (scrubBlock (setMch s c
       { getMch s c with scrubPos := ((getMch s c).scrubPos + 1) % chanBlocks }) c (getMch s c).scrubPos false) (fun b
       => scrubBlock (setMch s c { getMch s c with queue := (getMch s c).queue.tail }) c b true)))
  ∧ (∀ (v : Bool) (s u : State), takesWrites s pgDev →
     anyStep s = false →
     s.sheaf.insts = [] →
     s.pav.insts = [] →
     u = setRegN s (pgDev + 0x100) (b2n v) →
     exec (.detModeWrite v) s = .next (if bit (regN s (pgDev + 0x100)) 0 = v then u else
       { u with det := { u.det with pending := if v = u.det.active then none else some (v, u.clk.root) } }))
  ∧ (∀ (v : Bool) (s : State), takesWrites s pgDev →
     (anyStep s = true ∨ s.sheaf.insts ≠ [] ∨ s.pav.insts ≠ []) →
     exec (.detModeWrite v) s = .next (err s pgDev 0x0101))
  ∧ (∀ (s u : State) (v : Bool) (r : Nat), s.det.pending = some (v, r) →
     u = (List.range 128).foldl (fun s c => setMch s c { getMch s c with detSched := v })
       { s with det := { s.det with active := v, pending := none } } →
     exec .detActiveChange s = .next (evt (incSat u (pgDev + 0x68) 1) pgDev 0))
  ∧ (∀ (n v : Nat) (s : State), takesWrites s pgDev →
     n < 4 →
     exec (.digestCfgWrite n v) s = .next (if (getPart s n).steps = [] then setRegN s (pgDev + 0x120 + 0x20 * n +
       0x14) (v % 2 ^ 17) else err s pgDev 0x0102))
  ∧ (∀ (k : Nat) (b : Bool) (bs : List Byte) (s u : State), k < 3 →
     (getD2d s k).lstate = 2 →
     u = inc64 s (pgD2d k + (if b then 0x40 else 0x48)) 1 →
     exec (.d2dFlitReceive k b bs) s = .next (if d2dCrcOk bs = true ∧ (d2dSeqd bs = false ∨ fld (byteFld bs 0 7) 59
       48 = (if b then (getD2d s k).seqB else (getD2d s k).seqA)) then setD2d u k (d2dTaken (getD2d s k) b (d2dSeqd
       bs) (byteFld bs 0 7)) else setD2d (evt (incSat (if d2dCrcOk bs then u else incSat u (pgD2d k + 0x58) 1) (pgD2d
       k + 0x5C) 1) (pgD2d k) 1) k (d2dFailed (getD2d s k) b)))
  ∧ (∀ (k : Nat) (s : State), k < 3 →
     (getD2d s k).lstate = 2 →
     replaysFailed (getD2d s k) = true →
     exec (.d2dRetrain k) s = .next (evt (incSat (setD2d s k { getD2d s k with lstate := 3 }) (pgD2d k + 0x60) 1)
       (pgD2d k) 2))
  ∧ (∀ (k : Nat) (b : Bool) (s : State), k < 3 →
     (getD2d s k).lstate = 3 →
     exec (.d2dRetrainDone k b) s = .next (if b then edgePump (evt (setD2d s k { lstate := 2 }) (pgD2d k) 0) else
       deviceFault (err (evt (setD2d s k { getD2d s k with lstate := 4 }) (pgD2d k) 3) (pgD2d k) 0x1002) 0x1002))

/-- PART_SET of a good record configures a free or configured partition; PART_FREE releases what it holds; JOB_OPEN opens
it with a live stamp whose tag was free; JOB_EPOCH changes the epoch of an idle one; PART_STOP and PART_RESUME stop
and resume its tiles; PART_RESET and JOB_CLOSE reset its tiles at the next frame boundary, JOB_CLOSE with stamp and
partition CLOSING; JOB_RELEASE frees the stamp once nothing of it is outstanding; SET_QUOTA records the new quotas,
which an idle partition takes at once. Each answers with code 0 in the response registers; the partition in a state
that the command does not allow is refused with 0x1102. -/
def Obligations.MailboxPartitions : Prop :=
  (∀ (req : List Byte) (s u : State) (n : Nat) (p : Part), mboxTakes s 1 80 [5, 6, 7] req →
     u = mboxShown s req →
     mboxPart u req n p [.free, .configured] →
     recordForm ((req.drop 8).take 72) = true →
     recordFits u n (recordNew p req) = true →
     exec (.partSet req) s = .next (mboxAnswer (done (setPart (writeRecord u n (recordNew p req)) n (recordNew p
       req)))))
  ∧ (∀ (req : List Byte) (s u : State) (n : Nat) (p : Part), mboxTakes s 2 5 [] req →
     u = mboxShown s req →
     mboxPart u req n p [.configured] →
     exec (.partFree req) s = .next (mboxAnswer (done (setPart (freePart u n) n
       { getPart (freePart u n) n with state := .free }))))
  ∧ (∀ (req : List Byte) (s u : State) (n : Nat) (p : Part), mboxTakes s 3 8 [5] req →
     u = mboxShown s req →
     mboxPart u req n p [.configured] →
     rq req 6 7 / 16 ≠ 0 →
     fld (stampEntry u (rq req 6 7 / 16)) 15 14 = 0 →
     exec (.jobOpen req) s = .next (mboxAnswer (done (setPart (setStamp u (rq req 6 7 / 16) (stampEnt 1 (rq req 6 7 %
       16) true false n)) n { p with state := .opened, stamp := rq req 6 7, lastNum := none, firstError := 0 }))))
  ∧ (∀ (req : List Byte) (s u : State) (n : Nat) (p : Part), mboxTakes s 4 6 [] req →
     u = mboxShown s req →
     mboxPart u req n p [.opened] →
     rq req 5 5 < 16 →
     partIdle u n = true →
     exec (.jobEpoch req) s = .next (mboxAnswer (done (setPart (setStamp u (p.stamp / 16) (setFld (stampEntry u
       (p.stamp / 16)) 13 10 (rq req 5 5))) n { p with stamp := p.stamp / 16 * 16 + rq req 5 5 }))))
  ∧ (∀ (req : List Byte) (s u : State) (n : Nat) (p : Part), mboxTakes s 5 5 [] req →
     u = mboxShown s req →
     mboxPart u req n p [.opened] →
     exec (.partStop req) s = .next (mboxAnswer (done (requestStop (setPart u n
       { p with state := .stopped, stopCmd := true }) n))))
  ∧ (∀ (req : List Byte) (s u : State) (n : Nat) (p : Part), mboxTakes s 6 5 [] req →
     u = mboxShown s req →
     mboxPart u req n p [.stopped] →
     exec (.partResume req) s = .next (mboxAnswer (done (maybeResume (setPart u n
       { p with state := .opened, stopCmd := false }) n))))
  ∧ (∀ (req : List Byte) (s u : State) (n : Nat) (p : Part), mboxTakes s 7 5 [] req →
     u = mboxShown s req →
     mboxPart u req n p [.opened, .stopped, .faulted] →
     exec (.partReset req) s = .next (mboxAnswer (done (setPart u n
       { p with resetPending := some 0x0105, resetOpens := true }))))
  ∧ (∀ (req : List Byte) (s u : State) (n : Nat) (p : Part), mboxTakes s 8 5 [] req →
     u = mboxShown s req →
     mboxPart u req n p [.opened, .stopped, .faulted] →
     exec (.jobClose req) s = .next (mboxAnswer (done (setPart (setStamp u (p.stamp / 16) (setFld (stampEntry u
       (p.stamp / 16)) 15 14 2)) n { p with state := .closing, resetPending := some 0x0105, resetOpens := false }))))
  ∧ (∀ (req : List Byte) (s u : State) (n : Nat) (p : Part), mboxTakes s 10 5 [] req →
     u = mboxShown s req →
     mboxPart u req n p [.closing] →
     exec (.jobRelease req) s = .next (mboxAnswer (if outstanding u (p.stamp / 16) ≠ 0 then refuse u 0x1104 else done
       (setPart (setStamp u (p.stamp / 16) (dropRole (stampEntry u (p.stamp / 16)) 9)) n
       { p with state := .configured, stamp := 0 }))))
  ∧ (∀ (req : List Byte) (s u : State) (n : Nat) (p : Part), mboxTakes s 11 24 [5, 6, 7, 22, 23] req →
     u = mboxShown s req →
     mboxPart u req n p [.opened, .stopped] →
     rq req 16 17 ≤ 16384 →
     rq req 18 19 ≠ 0 →
     stagingFits u n (rq req 21 21) = true →
     exec (.setQuota req) s = .next (mboxAnswer (done (if partIdle (quotaNoted u req n p) n then takeQuotas
       (quotaNoted u req n p) n else quotaNoted u req n p))))
  ∧ (∀ (req : List Byte) (s u : State) (c : Nat × Nat × List Nat × List PartState × Instr), c ∈ ([(1, 80, [5, 6, 7], [.free, .configured], Instr.partSet req), (2, 5, [], [.configured], .partFree req), (3,
       8, [5], [.configured], .jobOpen req), (4, 6, [], [.opened], .jobEpoch req), (5, 5, [], [.opened], .partStop
       req), (6, 5, [], [.stopped], .partResume req), (7, 5, [], [.opened, .stopped, .faulted], .partReset req), (8,
       5, [], [.opened, .stopped, .faulted], .jobClose req), (10, 5, [], [.closing], .jobRelease req), (11, 24, [5, 6,
       7, 22, 23], [.opened, .stopped], .setQuota req)] : List (Nat × Nat × List Nat × List PartState × Instr)) →
     mboxTakes s c.1 c.2.1 c.2.2.1 req →
     u = mboxShown s req →
     rq req 4 4 < 4 →
     c.2.2.2.1.contains (getPart u (rq req 4 4)).state = false →
     exec c.2.2.2.2 s = .next (mboxAnswer (refuse u 0x1102)))

/-- QUIESCE answers with the outstanding count of the tag, its state and the time; SET_ALLOT writes the limits; LEND
records frames of its offer for a borrower and answers with them; LEND_RELEASE returns recorded frames; LEASE_GRANT
enters leases of another device; LEASE_RECALL marks and vacates them and goes on with BUSY set until LEASE_RECALL_DONE
finds all vacated; LENDER_DOWN is taken; SNAPSHOT asks for a timed snapshot and answers with its tag; READ_CMAP and
READ_DIGEST answer with the map and with one record. The frames that LEND takes are the command's operand (a log
entry). -/
def Obligations.MailboxLendingAndReading : Prop :=
  (∀ (req : List Byte) (s u : State), mboxTakes s 9 6 [] req →
     u = mboxShown s req →
     rq req 4 5 < 4096 →
     exec (.quiesce req) s = .next (mboxAnswer ⟨0, leBytes 4 0 ++ leBytes 4 (outstanding u (rq req 4 5)) ++
       [BitVec.ofNat 8 (fld (stampEntry u (rq req 4 5)) 15 14), 0, 0, 0] ++ leBytes 8 (now u), u⟩))
  ∧ (∀ (req : List Byte) (s u : State), mboxTakes s 12 14 [4, 5, 6, 7] req →
     u = mboxShown s req →
     exec (.setAllot req) s = .next (mboxAnswer (done (writeLimit (writeLimit u (pgGate + 0x108) 10000
       u.fuse.grade.allotMax (rq req 8 11)) (pgGate + 0x10C) 20 (writeLimit u (pgGate + 0x108) 10000
       u.fuse.grade.allotMax (rq req 8 11)).fuse.grade.ilimitMax (rq req 12 13)))))
  ∧ (∀ (req : List Byte) (fs : List Nat) (s u : State) (d k : Nat), mboxTakes s 0x0D 8 [] req →
     u = mboxShown s req →
     d = rq req 4 4 →
     k = min (rq req 5 5) (offerLeft s d) →
     d < 2 →
     rq req 5 5 ≠ 0 →
     rq req 5 5 ≤ 60 →
     16 ≤ rq req 6 7 →
     (fs.length = k ∧ fs.eraseDups.length = k ∧ fs.all (frameFree s d) = true) →
     exec (.lend req fs) s = .next (mboxAnswer ⟨0, leBytes 4 0 ++ [BitVec.ofNat 8 k, 0, 0, 0] ++ fs.flatMap (leBytes
       4), lendFrames u d (rq req 6 7) fs⟩))
  ∧ (∀ (req : List Byte) (s u : State) (l : List Nat), mboxTakes s 0x0E (12 + 4 * rq req 5 5) [4, 8, 9, 10, 11] req →
     u = mboxShown s req →
     l = (reqFrames req (rq req 5 5)).eraseDups →
     l.all (fun f => NMap.find u.grn.lent f == some (rq req 6 7)) = true →
     exec (.lendRelease req) s = .next (mboxAnswer (done (lendReturned u l (rq req 6 7)))))
  ∧ (∀ (req : List Byte) (s u : State) (n : Nat) (p : Part), mboxTakes s 0x0F (12 + 4 * rq req 6 6) [7, 8, 9, 10, 11] req →
     u = mboxShown s req →
     mboxPart u req n p [.opened, .stopped] →
     rq req 5 5 < 64 →
     rq req 5 5 ≠ myDev u →
     exec (.leaseGrant req) s = .next (mboxAnswer (done (grnPump (setLeases
       { u with grn := { u.grn with down := u.grn.down.filter (fun d => d != rq req 5 5) } } (u.grn.leases ++
       (reqFrames req (rq req 6 6)).map (fun f => Lease.mk n (rq req 5 5) f none false false)))))))
  ∧ (∀ (req : List Byte) (s u : State) (n : Nat) (p : Part), mboxTakes s 0x10 (12 + 4 * rq req 6 6) [7, 8, 9, 10, 11] req →
     u = mboxShown s req →
     mboxPart u req n p [.opened, .stopped, .closing] →
     (reqFrames req (rq req 6 6)).all (fun f => !(namedLeases u n (rq req 5 5) [f]).isEmpty) = true →
     exec (.leaseRecall req) s = .next (mboxAnswer (done (((leasesMarked u n req).grn.leases.filter (fun l =>
       l.recalled)).foldl vacate (leasesMarked u n req)))))
  ∧ (∀ (s u : State), s.host.mboxBusy = true →
     (s.grn.leases.filter (fun l => l.recalled)).all (vacated s) = true →
     u = setLeases s (s.grn.leases.filter (fun l => !l.recalled)) →
     exec .leaseRecallDone s = .next (respond (incSat u (pgGrn 0 + 0xE0) (s.grn.leases.filter (fun l =>
       l.recalled)).length) 0 []))
  ∧ (∀ (req : List Byte) (s u : State), mboxTakes s 17 6 [4] req →
     u = mboxShown s req →
     rq req 5 5 < 64 →
     exec (.lenderDown req) s = .next (mboxAnswer (done (lenderLost u (rq req 5 5)))))
  ∧ (∀ (req : List Byte) (s u : State), mboxTakes s 18 16 [4, 5, 6, 7] req →
     u = mboxShown s req →
     ready u = true →
     snapFault u (rq req 8 15) = 0 →
     exec (.snapshot req) s = .next (mboxAnswer ⟨0, leBytes 4 0 ++ leBytes 4 ((regN u (pgLodge + 0x118) + 1) % 2 ^
       24), requestSnap u (rq req 8 15)⟩))
  ∧ (∀ (req : List Byte) (s u : State), mboxTakes s 19 4 [] req →
     u = mboxShown s req →
     exec (.readCmap req) s = .next (mboxAnswer ⟨0, leBytes 4 0 ++ lastMap u ++ leBytes 8 u.fab.cmapEnd ++ leBytes 2
       (regN u (pgFab + 0x11C)), u⟩))
  ∧ (∀ (req : List Byte) (s u v : State) (n : Nat) (bs : List Byte), mboxTakes s 0x14 12 [5, 6, 7] req →
     u = mboxShown s req →
     n = rq req 4 4 →
     n < 4 →
     rq req 8 11 < regN u (pgDev + 0x120 + 0x20 * n + 0x14) % 65536 →
     hostRead u n (pairN u (pgDev + 0x120 + 0x20 * n) + 64 * rq req 8 11) 64 = (.data bs, v) →
     exec (.readDigest req) s = .next (mboxAnswer ⟨0, leBytes 4 0 ++ bs, v⟩))

/-- A rail or temperature sample is taken unit by unit and ends in a power-off with the fault latch set where a rail has
been out ten times in a row or a sensor hot twice, else in the thermal step. An evaluation moves the stretch, enters
or leaves a hold, and admits energy. A window end sets the debt to the millijoules used less the allotment, counts and
reports an overrun, and shows the energy used. Limit writes take the value cut to its field; PACE_CLEAR empties the
pacing list; the coefficient table answers at its index, which advances modulo 32; an idle tile is gated, and sixteen
gated tiles of the step that waits are powered at a time; a step whose load notice has run passes energy admission,
unless a hold refuses it. -/
def Obligations.PowerAndThermal : Prop :=
  (∀ (r : List (List (Nat × Nat))) (s u : State), u = ((List.range 4).zip r).foldl (fun s u => sampleUnit s u.1 u.2) s →
     exec (.railSample r) s = .next (if u.belv.out.any (fun e => decide (e.2 ≥ 10)) then powerOff u true else u))
  ∧ (∀ (r : List (List (Bool × Nat))) (s u : State), u = ((List.range 4).zip r).foldl (fun s u => sampleTemps s u.1 u.2) s →
     exec (.tempSample r) s = .next (if u.belv.hot.any (fun e => decide (e.2 ≥ 2)) then powerOff u true else
       thermalStep u))
  ∧ (∀ (s u v : State), u = controllers s →
     v = (if u.gate.hold then (if holdOver u then leaveHold u else u) else if holdWanted u then enterHold u else u) →
     exec .gateEvaluation s = .next (heavyEnd (admitEnergy v)))
  ∧ (∀ (s u v w : State), u = windowCharged s →
     v = (if regN s (pgGate + 0x108) < s.gate.eUsed / 1000000 then evt (incSat u (pgGate + 0x5C) 1) pgGate 0 else u) →
     w = (if 320 < v.gate.u then evt v pgGate 5 else v) →
     exec .windowEnd s = .next (setRegN
       { w with gate := { w.gate with debt := s.gate.eUsed / 1000000 - regN s (pgGate + 0x108), eUsed := 0, ended := [], winAt := some (now w) } }
       (pgGate + 0x124) (s.gate.eUsed / 1000000)))
  ∧ (∀ (v : Nat) (s : State), takesWrites s pgGate →
     exec (.allotWrite v) s = .next (writeLimit s (pgGate + 0x108) 10000 s.fuse.grade.allotMax (v % 2 ^ 21)))
  ∧ (∀ (v : Nat) (s : State), takesWrites s pgGate →
     exec (.ilimitWrite v) s = .next (writeLimit s (pgGate + 0x10C) 20 s.fuse.grade.ilimitMax (v % 65536)))
  ∧ (∀ (v : Nat) (s : State), takesWrites s pgGate →
     exec (.paceClear v) s = .next { s with gate := { s.gate with pace := if v % 2 = 1 then [] else s.gate.pace } })
  ∧ (∀ (s : State), exec .ectDataRead s = .next (setRegN (regAnswer s (s.gate.ect.getD (regN s (pgGate + 0x13C) % 32) 0)) (pgGate +
       0x13C) ((regN s (pgGate + 0x13C) % 32 + 1) % 32)))
  ∧ (∀ (t : Nat) (s : State), t < 120 →
     regN s (pgGate + 0x104) / 2 % 2 = 1 →
     (getTile s t).powered = true →
     tileWanted s t = false →
     (getTile s t).idleSince + 1000 * (regN s (pgGate + 0x134) % 65536) ≤ now s →
     exec (.idleTileGate t) s = .next (setTile s t { getTile s t with powered := false, gated := true }))
  ∧ (∀ (n : Nat) (s : State) (st : Step), waitingHead s n = some st →
     firstThree s n st = true →
     exec (.ungateWave n) s = .next ((((tilesOf st.tiles).filter (fun t => !(getTile s t).powered)).take 16).foldl
       (fun s t => setTile s t { getTile s t with powered := true, gated := false, idleSince := now s }) s))
  ∧ (∀ (s : State) (n a : Nat) (st : Step), oldestWaiting s = some (n, st) →
     st.notice = some a →
     a ≤ now s →
     exec .loadNoticeEnd s = .next (if s.gate.hold then mapHead s n (fun x => { x with notice := none }) else mapHead
       (passEnergy s n st st.soleAdmit) n (fun x => { x with notice := none, noticeDone := true })))

/-- In READY a snapshot for a time at least 10 microseconds ahead is kept, one too early is refused with 0x1108 and one
beside another with 0x1109; NOW asks for 10 microseconds ahead; a cancel drops it. At its time every counter of a
present block is copied, each page shows the next tag (bit 31 on its first since it was reset), and the Lodge shows
time and tag, counts it and reports it. A W1C write of EVT_PEND clears the bits there and in EVT_RAW; ERR_COUNT and
the peak temperature answer and clear; the end of a hold-off sends a rise that came in it. A function that is there
and not mute reads a register with its read effect and writes it by the register's rule (the model's readBy and
writeBy); a write of a high half takes effect with the low half that the function wrote; a poisoned write of a
function is discarded with 0x0D07. A soft reset resets the page, a function's own page for a virtual function, where
any other page is a violation. -/
def Obligations.RegistersAndSnapshots : Prop :=
  (∀ (s : State), takesWrites s pgLodge →
     s.boot.state = .ready →
     s.lodge.snapAt = none →
     now s + 10000 ≤ pairN s (pgLodge + 0x108) →
     exec .snapAt s = .next { s with lodge := { s.lodge with snapAt := some (pairN s (pgLodge + 0x108)) } })
  ∧ (∀ (s : State), takesWrites s pgLodge →
     s.boot.state = .ready →
     (s.lodge.snapAt.isSome = true ∨ pairN s (pgLodge + 0x108) < now s + 10000) →
     exec .snapAt s = .next (err s pgLodge (if s.lodge.snapAt.isSome then 0x1109 else 0x1108)))
  ∧ (∀ (s : State), takesWrites s pgLodge →
     s.boot.state = .ready →
     exec .snapNow s = .next (if s.lodge.snapAt.isSome then err s pgLodge 0x1109 else
       { s with lodge := { s.lodge with snapAt := some (now s + 10000) } }))
  ∧ (∀ (s : State), takesWrites s pgLodge →
     exec .snapCancel s = .next { s with lodge := { s.lodge with snapAt := none } })
  ∧ (∀ (s u v : State) (t tag : Nat), s.lodge.snapAt = some t →
     t ≤ now s →
     tag = (regN s (pgLodge + 0x118) + 1) % 2 ^ 24 →
     u = copyCounters s →
     v = (allPages.filter (snapPage u)).foldl (fun x p => setRegN x (p + 0x2C) (tag + b2n (x.lodge.fresh.contains p) *
       2 ^ 31)) u →
     exec .snapshotTake s = .next (evt (incSat
       { setRegN (setPair v (pgLodge + 0x110) t) (pgLodge + 0x118) tag with lodge := { v.lodge with snapAt := none, snapTag := tag, snapTs := t, snapUnlocked := !v.tb.locked, fresh := [] } }
       (pgLodge + 0x54) 1) pgLodge 0))
  ∧ (∀ (page bits : Nat) (s u : State), takesWrites s (pageOf page) →
     (blockOf (pageOf page)).1 ≠ 0 →
     u = setRegN s (pageOf page + 0x18) (without (regN s (pageOf page + 0x18)) bits) →
     exec (.evtPendClear page bits) s = .next (setRegN u (pageOf page + 0x10) (without (regN u (pageOf page + 0x10))
       bits)))
  ∧ (∀ (page : Nat) (s : State), exec (.errCountRead page) s = .next (setRegN (regAnswer s (regN s (pageOf page + 0x28))) (pageOf page + 0x28) 0))
  ∧ (∀ (u : Nat) (s : State), u < 4 →
     exec (.tpeakRead u) s = .next (setRegN (regAnswer s (regN s (pgBelv u + 0x108))) (pgBelv u + 0x108) 0))
  ∧ (∀ (s : State), s.lodge.holdRise = true →
     s.lodge.holdUntil ≤ now s →
     exec .irqHoldoffEnd s = .next (irqRise { s with lodge := { s.lodge with holdRise := false } }))
  ∧ (∀ (req addr : Nat) (s : State), mute s req = false →
     exec (.loReadLatch req addr) s = .next (regAnswer (readBy s req addr).2 (readBy s req addr).1))
  ∧ (∀ (req addr v : Nat) (s u : State), mute s req = false →
     (if 1 ≤ req ∧ req ≤ 4 then [0x110, 0x118, 0x138].contains addr = true else isHi (blockOf addr).1 addr = true) →
     writeBy s req addr v = .next u →
     exec (.hiWrite req addr v) s = .next u)
  ∧ (∀ (req addr v : Nat) (s u : State), mute s req = false →
     writeBy s req addr v = .next u →
     exec (.registerWrite req addr v false) s = .next u)
  ∧ (∀ (req addr v : Nat) (s : State), mute s req = false →
     req ≤ 4 →
     exec (.registerWrite req addr v true) s = .next (hostViolation s 0 0x0D07))
  ∧ (∀ (req page : Nat) (s : State), (req = 0 ∨ 4 < req) →
     takesWrites s (pageOf page) →
     exec (.softReset req page) s = .next (softResetPage s (pageOf page)))
  ∧ (∀ (req page : Nat) (s : State), 1 ≤ req →
     req ≤ 4 →
     fnDecodes s req = true →
     exec (.softReset req page) s = .next (if page < 0x1000 then clearPage s (pgVf req) else vfViolation s))

/-- An ARM with a good record sets its counter: armed, value 0, the target from the record or a loop register, its
buffers; the Granary goes on. WAIT of an armed counter that is satisfied, and WAITI of one whose value exceeds the
completed iterations of the loop, count an early arrival; otherwise the sequencer holds at it. A wait whose counter
was satisfied two ACLK ago is released. REL of a ring with a landed element that is not released releases it. FENCE
adds a pending fence. A WAIT, WAITI or REL of a counter that is not armed is 0x0211. -/
def Obligations.SyncInstructions : Prop :=
  (∀ (i : Issue) (s u : State) (r : Nat), slotIssues s i (syncMask 0x00FE0000) →
     freshSync s i.tile →
     u = syncCounted s i.tile →
     r = armRec u i →
     i.dline < 9216 →
     armFields r →
     armRoles u i r →
     armBuffers u i r →
     exec (.arm i) s = .next (grnPump (setFg u i.tile (setCtr (fgOf u i.tile) i.ctr (armedCtr (fgOf u i.tile) r)))))
  ∧ (∀ (i : Issue) (s : State), slotIssues s i (syncMask 0x00F80000) →
     (getCtr (fgOf s i.tile) i.ctr).armed = true →
     exec (.wait i) s = .next (if satisfied s (fgOf s i.tile).part i.tile (getCtr (fgOf s i.tile) i.ctr) = true then
       incSat s (pgTile i.tile + 0xB8) 1 else setTile s i.tile
       { getTile s i.tile with fg := { fgOf s i.tile with waiting := some (i.ctr, none), readyAt := none, held := 0 } }))
  ∧ (∀ (i : Issue) (s : State), slotIssues s i (syncMask 0x00FF0000) →
     (getCtr (fgOf s i.tile) i.ctr).armed = true →
     exec (.waiti i) s = .next (if (getCtr (fgOf s i.tile) i.ctr).value > iterations (fgOf s i.tile) (fld i.w 18 16)
       then incSat s (pgTile i.tile + 0xB8) 1 else setTile s i.tile
       { getTile s i.tile with fg := { fgOf s i.tile with waiting := some (i.ctr, some (fld i.w 18 16)), readyAt := none, held := 0 } }))
  ∧ (∀ (t : Nat) (s : State), waitOver s t = true →
     exec (.waitRelease t) s = .next (releaseWait s t))
  ∧ (∀ (i : Issue) (s u : State) (k : Ctr), slotIssues s i (syncMask 0x00F80000) →
     freshSync s i.tile →
     u = syncCounted s i.tile →
     k = getCtr (fgOf u i.tile) i.ctr →
     k.armed = true →
     k.handleB ≠ 0 →
     k.released < k.value →
     exec (.rel i) s = .next (grnPump (setFg u i.tile (setCtr (fgOf u i.tile) i.ctr
       { k with released := k.released + 1 }))))
  ∧ (∀ (i : Issue) (s : State), slotIssues s i (syncMask 0x00F80000) →
     exec (.fence i) s = .next
       { s with atom := { s.atom with fences := s.atom.fences ++ [⟨i.tile, false, (fgOf s i.tile).part, i.ctr⟩] } })
  ∧ (∀ (i : Issue) (s : State), slotIssues s i (syncMask 0x00F80000) →
     (getCtr (fgOf s i.tile) i.ctr).armed = false →
     exec (.wait i) s = .next (callFault s i.tile 0x0211 0))
  ∧ (∀ (i : Issue) (s : State), slotIssues s i (syncMask 0x00FF0000) →
     (getCtr (fgOf s i.tile) i.ctr).armed = false →
     exec (.waiti i) s = .next (callFault s i.tile 0x0211 0))

/-- SETLC writes a loop count register, from a buffer or from the slot. LOOP with a good count of bundles begins a loop,
or skips it where its register is 0. JUMP and a JNZ whose register is not 0 begin a transfer that takes effect after
two delay bundles; JNZ does nothing where it is 0. COMMIT of a layer above the last begins the commit; it completes
when the tile's operations have, and the layer commits when every tile has completed it. END ends the tile's part. A
step that may commit leaves its partition, with the step boundary's effects. The next T0 fill of a partition whose
data are read is written to its tile's SRAM and is done. A queued step of an open partition whose streams are in T1,
with its fills done, energy admitted, and a role for every program, is admitted: its programs are loaded, its plan
migrates, its slots are registered, and it starts at the next start boundary (startDue); where a condition fails its
grains are asked for. At its start time, in the foreground and with no stop, every tile starts at its entry with loop
registers 0. The quantum of a tile in use ends after QUANTUM milliseconds. A context save that finds no delivery in
progress writes the save area and restores the incoming context. -/
def Obligations.StepLifecycle : Prop :=
  (∀ (i : Issue) (s : State), slotIssues s i (syncMask 0x00FFFFFF) →
     bit i.w 20 = false →
     exec (.setlc i) s = .next (setFg s i.tile (lcSet (fgOf s i.tile) (fld i.w 23 21) (fld i.w 19 0) s.clk.aclk)))
  ∧ (∀ (i : Issue) (s : State) (h : Nat), slotIssues s i (syncMask 0x00FFFFFF) →
     bit i.w 20 = true →
     fld i.w 19 8 = 0 →
     h = resolve (fgOf s i.tile) (fld i.w 7 0) →
     bufOk s i h 0 4 = true →
     exec (.setlc i) s = .next (setFg s i.tile (lcSet (fgOf s i.tile) (fld i.w 23 21) (leNat (readBuf s i.tile h 0
       4)) s.clk.aclk)))
  ∧ (∀ (i : Issue) (s : State) (n : Nat), slotIssues s i (syncMask 0x00FFF000) →
     n = fld i.w 20 12 + 1 →
     loopGood s (fgOf s i.tile) (fld i.w 23 21) n →
     exec (.loop i) s = .next (if lcGet (fgOf s i.tile) (fld i.w 23 21) = 0 then setFg s i.tile
       { fgOf s i.tile with pc := (fgOf s i.tile).pc + n } else setFg s i.tile
       { fgOf s i.tile with loops := { reg := fld i.w 23 21, first := (fgOf s i.tile).pc + 1, last := (fgOf s i.tile).pc + n, done := 0 } :: (fgOf s i.tile).loops }))
  ∧ (∀ (i : Issue) (s : State), slotIssues s i (syncMask 0x00007FFF) →
     targetGood s i.tile (fld i.w 14 0) →
     exec (.jump i) s = .next (setFg s i.tile { fgOf s i.tile with jump := some (fld i.w 14 0, 2) }))
  ∧ (∀ (i : Issue) (s : State), slotIssues s i (syncMask 0x00E07FFF) →
     lcSettled s (fgOf s i.tile) (fld i.w 23 21) = true →
     targetGood s i.tile (fld i.w 14 0) →
     exec (.jnz i) s = .next (if lcGet (fgOf s i.tile) (fld i.w 23 21) = 0 then s else setFg s i.tile
       { fgOf s i.tile with jump := some (fld i.w 14 0, 2) }))
  ∧ (∀ (i : Issue) (s : State), slotIssues s i (syncMask 0x0000FFFF) →
     (fgOf s i.tile).lastLayer.any (fun p => decide (fld i.w 15 0 ≤ p)) = false →
     exec (.commit i) s = .next (setFg s i.tile { fgOf s i.tile with committing := some (fld i.w 15 0) }))
  ∧ (∀ (t l : Nat) (s u : State) (st : Step), (fgOf s t).committing = some l →
     stepOf s t = some st →
     commitMay s t st →
     u = layerCommitted s t l st →
     exec (.commitComplete t) s = .next (if layerDone u (fgOf s t).part l st.tiles = true ∧ st.layersDone.contains l
       = false then publishLayer u (fgOf s t).part l st else u))
  ∧ (∀ (i : Issue) (s : State), slotIssues s i (syncMask 0) →
     exec (.endStep i) s = .next (setFg s i.tile { fgOf s i.tile with ended := true }))
  ∧ (∀ (n : Nat) (s u : State) (st : Step) (r : List Step), (getPart s n).steps = st :: r →
     commitReady s n st = true →
     u = takeQuotas (eptSwap (writeBackPart (stepLeft s n st r) n) n st.num) n →
     exec (.stepCommit n) s = .next (admitEnergy (st.progs.foldl (fun s q => switchTile s q.tile n) u)))
  ∧ (∀ (n : Nat) (s u : State) (st : Step) (q : TileProg) (f : T0Fill) (d : List Byte), nextFill s n = some (st, q, f) →
     t0Data s n f = (.data d, u) →
     exec (.t0FillComplete n) s = .next (fillDone (writeBuf u f.tile (NMap.get (fun _ => 0) q.handles f.handle) (64 *
       f.line) (fillBytes q f d)) n st f))
  ∧ (∀ (n : Nat) (s u v w : State) (st : Step) (r : List Step), (getPart s n).steps = st :: r →
     st.phase = .queued →
     (getPart s n).state = .opened →
     u = st.streams.foldl (fun s e => noteRange s 0 n e.1 e.2) s →
     firstThree u n st = true →
     st.energyOk = true →
     st.progs.all (fun q => (targetRole u n q).isSome) = true →
     progsReady u n st = (none, v) →
     w = registerStep (planMigrate (dropT2 (st.progs.foldl (fun s q => loadProg s n st q ((targetRole s n q).getD
       false)) v) 0 n (st.progs.flatMap (progPieces st))) n st) n st →
     exec (.stepAdmit n) s = .next (mapHead w n (fun x =>
       { x with phase := .admitted, admittedAt := now w, admitAclk := w.clk.aclk, startAt := some (startDue w), unclean := x.unclean || namesAway w n st })))
  ∧ (∀ (n : Nat) (s u : State) (st : Step) (r : List Step), (getPart s n).steps = st :: r →
     st.phase = .queued →
     (getPart s n).state = .opened →
     u = st.streams.foldl (fun s e => noteRange s 0 n e.1 e.2) s →
     (streamStates u n st).all (fun r => r == .data [] || !noWait r) = true →
     (firstThree u n st = false ∨ st.energyOk = false ∨ st.progs.all (fun q => (targetRole u n q).isSome) = false) →
     exec (.stepAdmit n) s = .next (demandFill u n st))
  ∧ (∀ (n a : Nat) (s u : State) (st : Step), (getPart s n).steps.head? = some st →
     st.startAt = some a →
     st.phase = .admitted →
     a ≤ s.clk.aclk →
     (getPart s n).stop = .none →
     inForeground s n st = true →
     u = st.progs.foldl (fun s q => tileStarted s q.tile) s →
     exec (.stepStart n) s = .next (mapHead u n (fun x =>
       { x with phase := .running, startAclk := a, startAt := none, unclean := x.unclean || u.clk.stretch != 0 })))
  ∧ (∀ (t : Nat) (s : State), (fgOf s t).live = true →
     now s ≥ (getTile s t).fgSince + 1000000 * max 1 (getPart s (fgOf s t).part).quantum →
     exec (.quantumExpiry t) s = .next (setTile s t { getTile s t with quantumUp := true }))
  ∧ (∀ (t m n : Nat) (s u v : State) (r o : JobRes), (getTile s t).switchTo = some m →
     pendingCause s t = none →
     n = (fgOf s t).part →
     incoming s t m = (r, u) →
     noWait r = true →
     jobPut u (t / 60) n (areaAddr u t n) (saveArea u t) = (o, v) →
     exec (.contextSaveComplete t) s = .next (contextSaved v t m n r o))
  ∧ (∀ (t m : Nat) (s u : State) (ea g : Nat), (getTile s t).switchTo = some m →
     pendingCause s t = none →
     incoming s t m = (.wait ea g, u) →
     exec (.contextSaveComplete t) s = .next (demandRange u m (areaAddr u t m) saveAreaBytes))

/-- A stop that is asked for takes effect at the next frame boundary F; it is complete when every tile's beds have halted
and written their descriptors; it is resumed at a frame boundary at least 640 ACLK after the resume was asked for,
with every descriptor good, and a bad one is 0x0205. FREEZE of a live tile stops its partition, and the clearing of
the last FREEZE resumes it. Refetched stationary lines are written and reloaded, and the stop for them ends with the
last tile's. A poison halts every tile at its frame boundary; the fourth of a layer ends the step with 0x0214; damaged
units are written again; the replay is admitted on conditions 2 to 4, its wait counted under POISON_REPLAY; at its
start time every tile restarts from its restart record. -/
def Obligations.StopsAndReplays : Prop :=
  (∀ (n : Nat) (s u : State), (getPart s n).stop = .requested →
     poisonBusy (getPart s n) = false →
     u = soilSteps (mapHead (setPart s n
       { getPart s n with stop := .stopping, stopAt := frameAfter s.clk.aclk, resumeReq := none }) n (fun st => if
       stepActive (getPart s n) then { st with stops := st.stops + 1 } else st)) →
     exec (.stopTakeEffect n) s = .next (if stopWanted (getPart s n) then u else maybeResume u n))
  ∧ (∀ (n : Nat) (s u : State), (getPart s n).stop = .stopping →
     (getPart s n).stopAt ≤ s.clk.aclk →
     (stopTiles s n).all (fun t => tileHalted (getTile s t) (getPart s n).stopAt s.clk.aclk) = true →
     u = (stopTiles s n).foldl (stopTile (getPart s n).stopAt) s →
     exec (.stopComplete n) s = .next (setPart u n
       { getPart u n with stop := .stopped, resumeReq := (getPart s n).resumeReq.map (fun _ => u.clk.aclk) }))
  ∧ (∀ (n : Nat) (s : State), (getPart s n).stop = .stopped →
     (getPart s n).resumeReq.isSome = true →
     stopWanted (getPart s n) = false →
     resumeAt (getPart s n) ≤ s.clk.aclk →
     s.clk.aclk % 64 = 0 →
     exec (.resumeTakeEffect n) s = .next (((stopTiles s n).find? (resumeBad s)).elim ((stopTiles s n).foldl
       (resumeTile (getPart s n).stopAt (s.clk.aclk - (getPart s n).stopAt)) (stopCleared s n)) (fun t => callFault
       (stopCleared s n) t 0x0205 0)))
  ∧ (∀ (t n : Nat) (data : List Byte) (s u : State), (getTile s t).refetch ≠ [] →
     n = (fgOf s t).part →
     u = refetchEnded (linesRefetched s t data) t (getTile s t).huskWait →
     exec (.stationaryRefetchDone t data) s = .next (if (partTiles u n).any (fun k => !(getTile u k).refetch.isEmpty)
       then u else maybeResume (setPart u n { getPart u n with stopParity := false }) n))
  ∧ (∀ (t n : Nat) (s u : State), takesWrites s (pgTile t) →
     t < 120 →
     (fgOf s t).live = true →
     n = (fgOf s t).part →
     u = freezeShown s t true →
     exec (.freezeSet t) s = .next (requestStop (setPart u n { getPart u n with stopFreeze := true }) n))
  ∧ (∀ (t n : Nat) (s u : State), takesWrites s (pgTile t) →
     t < 120 →
     n = (fgOf s t).part →
     u = freezeShown s t false →
     exec (.freezeClear t) s = .next (if (fgOf s t).live = true ∧ (partTiles u n).any (fun k => (getTile u k).freeze)
       = false then maybeResume (setPart u n { getPart u n with stopFreeze := false }) n else u))
  ∧ (∀ (n : Nat) (bad : List (Nat × Nat)) (s u v : State) (st : Step), (getPart s n).steps.head? = some st →
     st.phase = .halting →
     poisonHaltAt st ≤ s.clk.aclk →
     st.layerReplays < 3 →
     u = recordsDropped (settleHolds s n) n bad (headStep (settleHolds s n) n st).layersDone →
     v = (fgTiles u n).foldl (tileHaltedForReplay (headStep (settleHolds s n) n st).layersDone) u →
     exec (.poisonHalt ⟨n, bad⟩) s = .next (mapHead v n (fun x =>
       { x with phase := .replayWait, haltAt := poisonHaltAt (headStep (settleHolds s n) n st), redelivered := x.damaged.isEmpty, t0 := if fromEntry u n (headStep (settleHolds s n) n st).layersDone then x.t0.map (fun f => { f with done := false }) else x.t0 })))
  ∧ (∀ (n : Nat) (bad : List (Nat × Nat)) (s : State) (st : Step), (getPart s n).steps.head? = some st →
     st.phase = .halting →
     poisonHaltAt st ≤ s.clk.aclk →
     3 ≤ st.layerReplays →
     exec (.poisonHalt ⟨n, bad⟩) s = .next (endHead (errIn s (pgTile ((fgTiles s n).headD 0)) 0x0214 (some n) st.num)
       n 0x0214))
  ∧ (∀ (n : Nat) (s u : State) (st : Step), (getPart s n).steps.head? = some st →
     st.phase = .replayWait →
     st.redelivered = false →
     u = st.damaged.foldl (fun s d => (unitsAt s d.1 d.2 st.layersDone).foldl writeUnit (reloadProgram s n st d.1 d.2))
       s →
     exec (.redeliveryComplete n) s = .next (mapHead u n (fun x => { x with redelivered := true, damaged := [] })))
  ∧ (∀ (n : Nat) (s u : State) (st : Step), (getPart s n).steps.head? = some st →
     st.phase = .replayWait →
     st.redelivered = true →
     firstThree s n st = true →
     replayEnergy s n st = true →
     u = replayWaited s n (s.clk.aclk - st.poisonAclk) →
     exec (.replayAdmit n) s = .next (mapHead u n (fun x =>
       { x with phase := .restarting, startAt := some (startDue u), replays := x.replays + 1, layerReplays := x.layerReplays + 1, admitWait := x.admitWait.set 10 (x.admitWait.getD 10 0 + (s.clk.aclk - st.poisonAclk)) })))
  ∧ (∀ (n a : Nat) (s u : State) (st : Step), (getPart s n).steps.head? = some st →
     st.startAt = some a →
     st.phase = .restarting →
     a ≤ s.clk.aclk →
     u = (fgTiles s n).foldl (tileRestarted st.layersDone) s →
     exec (.replayRestart n) s = .next (mapHead u n (fun x => { x with phase := .running, startAt := none })))

/-- A call whose descriptor, sizes, share and buffers are good starts in its unit: TOPK and GTOPK of some tokens, KVSORT,
S_PUSH and BIAS_LOAD join the calls in progress and await their chunks or their source; S_OPEN opens its context at
once with the first id of its descriptor; S_FLUSH and S_CLOSE begin the return of the context's entries. TOPK of no
token is over at once (log entry 106). A chunk that comes in a slot its tile does not own, or in one that is used, is
0x0306. In an owned slot the next chunk of a token of a TOPK or GTOPK in progress adds its scores; with the last chunk
the token's selection is made (tokenDone). A chunk out of order is 0x0305, a new token beyond the unit's or the
partition's room 0x0302, and wrong parity poisons the step. In a return slot of the calling tile the next 64 bytes of
a call's output are written, and with the last the call is over; wrong parity of the sort buffer poisons the step.
Decisions whose time has come are written as far as the share has room; the rest is discarded and faults the call with
0x030A; with the last decision of its last token the call is over. -/
def Obligations.ThresherCalls : Prop :=
  (∀ (i : Issue) (s u : State), thrTaken 1 s i →
     u = countEffect s i.tile →
     exec (.topk i) s = .next (if (thrCallOf s i).n = 0 then u else addCall u (thrStarted s i)))
  ∧ (∀ (i : Issue) (s u : State), thrTaken 2 s i →
     u = countEffect s i.tile →
     exec (.gtopk i) s = .next (if (thrCallOf s i).n = 0 then u else addCall u (thrStarted s i)))
  ∧ (∀ (i : Issue) (s : State), thrTaken 3 s i →
     exec (.kvsort i) s = .next (addCall s (thrStarted s i)))
  ∧ (∀ (i : Issue) (s u : State), thrTaken 4 s i →
     u = countEffect s i.tile →
     exec (.sOpen i) s = .next
       ({ u with thr := { u.thr with streams := NMap.put u.thr.streams ((thrCallOf s i).unit * 4 + (thrCallOf s i).ctx) ⟨(thrCallOf s i).part, (thrCallOf s i).tile, (thrCallOf s i).k, fld (thrWord s i) 255 192, []⟩ } }))
  ∧ (∀ (i : Issue) (s u : State), thrTaken 5 s i →
     u = countEffect s i.tile →
     exec (.sPush i) s = .next (addCall u
       { thrStarted s i with endAt := u.clk.aclk + ((thrCallOf s i).n + pushRate (thrCallOf s i).fmt - 1) / pushRate (thrCallOf s i).fmt }))
  ∧ (∀ (i : Issue) (s u : State), thrTaken 6 s i →
     u = countEffect s i.tile →
     exec (.sFlush i) s = .next (startFlush u (thrStarted s i)))
  ∧ (∀ (i : Issue) (s u : State), thrTaken 7 s i →
     u = countEffect s i.tile →
     exec (.sClose i) s = .next (startFlush u (thrStarted s i)))
  ∧ (∀ (i : Issue) (s u : State), thrTaken 8 s i →
     u = countEffect s i.tile →
     exec (.biasLoad i) s = .next (addCall u (thrStarted s i)))
  ∧ (∀ (t tag pos idx par : Nat) (data : List Byte) (s v : State) (c : ThrCall), slotFree s t →
     v = slotMarked s (thrUnit t) →
     (unitCalls v (thrUnit t)).find? (fun c => c.tag == tag && c.op ≤ 2) = some c →
     chunkNext v (thrUnit t) c pos idx →
     par ≠ 1 →
     (par ≠ 2 ∨ c.biasEn = false) →
     exec (.thrIngressChunk t tag pos idx data par) s = .next (if idx * chunkScores c.fmt + chunkPart c idx < c.nExp
       then setCall v { c with toks := tokOthers c pos ++ [tokFed c pos idx data] } else tokenDone (setCall v
       { c with toks := tokOthers c pos, done := c.done ++ [pos] })
       { c with toks := tokOthers c pos, done := c.done ++ [pos] } pos (tokFed c pos idx data).scores))
  ∧ (∀ (t tag pos idx par : Nat) (data : List Byte) (s v : State) (c : ThrCall), slotFree s t →
     v = slotMarked s (thrUnit t) →
     (unitCalls v (thrUnit t)).find? (fun c => c.tag == tag && c.op ≤ 2) = some c →
     chunkNext v (thrUnit t) c pos idx →
     par = 1 →
     exec (.thrIngressChunk t tag pos idx data par) s = .next (thrParity v (thrUnit t) c.part))
  ∧ (∀ (t tag pos idx par : Nat) (data : List Byte) (s v : State), t < 120 →
     (slotTile s.thr.ingress (thrUnit t) s.clk.aclk ≠ t % 15 ∨ s.thr.slotUsed.contains (thrUnit t) = true) →
     v = slotMarked s (thrUnit t) →
     exec (.thrIngressChunk t tag pos idx data par) s = .next (thrFault v (thrUnit t) 0 (fgOf s t).part 0x0306))
  ∧ (∀ (t tag pos idx par : Nat) (data : List Byte) (s v : State) (c : ThrCall), slotFree s t →
     v = slotMarked s (thrUnit t) →
     (unitCalls v (thrUnit t)).find? (fun c => c.tag == tag && c.op ≤ 2) = some c →
     (c.n ≤ pos ∨ c.done.contains pos = true ∨ idx ≠ (tokAt c pos).next) →
     exec (.thrIngressChunk t tag pos idx data par) s = .next (thrFault v (thrUnit t) c.desc c.part 0x0305))
  ∧ (∀ (u tag : Nat) (b : Bool) (s v : State) (c : ThrCall), (unitCalls s u).find? (fun c => c.tag == tag && !c.ret.isEmpty) = some c →
     returnMay s u c →
     (b = false ∨ c.op ≠ 3) →
     v = bytesReturned s u c →
     exec (.thrReturnTransfer u tag b) s = .next (if c.ret.length ≤ 64 then callOver v u c else setCall v
       { c with ret := c.ret.drop 64, retOff := c.retOff + 64 }))
  ∧ (∀ (u tag : Nat) (s : State) (c : ThrCall), (unitCalls s u).find? (fun c => c.tag == tag && !c.ret.isEmpty) = some c →
     returnMay s u c →
     c.op = 3 →
     exec (.thrReturnTransfer u tag true) s = .next (thrParity s u c.part))
  ∧ (∀ (u : Nat) (s v : State) (o : ThrOut) (c : ThrCall), s.thr.outs.find? (fun o => o.unit == u) = some o →
     o.at' ≤ s.clk.aclk →
     v = egressed s o →
     v.thr.calls.find? (fun c => c.unit == u && c.tag == o.tag && c.op ≤ 2) = some c →
     exec (.decisionEgress u) s = .next (if o.recs.length > egressRoom s o then thrFault v u c.desc c.part 0x030A
       else if o.last = false then v else if c.left + 1 ≥ c.n then
       { v with thr := { v.thr with calls := v.thr.calls.erase c } } else setCall v { c with left := c.left + 1 }))
  ∧ (∀ (u : Nat) (s v : State) (o : ThrOut), s.thr.outs.find? (fun o => o.unit == u) = some o →
     o.at' ≤ s.clk.aclk →
     v = egressed s o →
     v.thr.calls.find? (fun c => c.unit == u && c.tag == o.tag && c.op ≤ 2) = none →
     exec (.decisionEgress u) s = .next v)

/-- A control payload of an instance in progress, from a member and with a fresh number, is marked in its sender's window
and has its effect: COUNT_A counts and settles; COUNT_B does once round A is complete, and is held before; GRANT_A and
GRANT_B answer the pairs; ABORT ends the instance with the code it carries. A count or ABORT of an instance not issued
is held, a grant of one is an orphan. -/
def Obligations.SheafRounds : Prop :=
  (∀ (s u : State) (p : Pkt) (i : ShInst) (q : ShPeer), ctlTaken s (ctlOf 1) (fun _ => false) p u i q →
     exec .countA s = .next (shPut u (ctlNoted u i p) (countAndSettle u (ctlNoted u i p) p 0)))
  ∧ (∀ (s u : State) (p : Pkt) (i : ShInst) (q : ShPeer), ctlTaken s (ctlOf 2) (fun _ => false) p u i q →
     exec .countB s = .next (if (ctlNoted u i p).roundADone = true ∨ (ctlNoted u i p).reroute = false then shPut u
       (ctlNoted u i p) (countAndSettle u (ctlNoted u i p) p 1) else shSet u
       { ctlNoted u i p with heldB := (ctlNoted u i p).heldB ++ [p] }))
  ∧ (∀ (s u : State) (p : Pkt) (i : ShInst) (q : ShPeer), ctlTaken s (ctlOf 3) grantBad p u i q →
     exec .grantA s = .next (shPut u (ctlNoted u i p) (grantProc u (ctlNoted u i p) p 0)))
  ∧ (∀ (s u : State) (p : Pkt) (i : ShInst) (q : ShPeer), ctlTaken s (ctlOf 4) grantBad p u i q →
     exec .grantB s = .next (shPut u (ctlNoted u i p) (grantProc u (ctlNoted u i p) p 1)))
  ∧ (∀ (s u : State) (p : Pkt) (i : ShInst) (q : ShPeer), ctlTaken s (fun p => (p.proto == 1 || p.proto == 2) && shKind p == 7) abortBad p u i q →
     exec .sheafAbort s = .next (shEnd u (ctlNoted u i p) ((ctlRecs p).headD 0 % 65536)))
  ∧ (∀ (s u : State) (p : Pkt), ctlAlone s (ctlOf 1) (fun _ => false) p u →
     exec .countA s = .next (holdPayload u p))
  ∧ (∀ (s u : State) (p : Pkt), ctlAlone s (ctlOf 2) (fun _ => false) p u →
     exec .countB s = .next (holdPayload u p))
  ∧ (∀ (s u : State) (p : Pkt), ctlAlone s (ctlOf 3) grantBad p u →
     exec .grantA s = .next (shOrphan u))
  ∧ (∀ (s u : State) (p : Pkt), ctlAlone s (ctlOf 4) grantBad p u →
     exec .grantB s = .next (shOrphan u))
  ∧ (∀ (s u : State) (p : Pkt), ctlAlone s (fun p => (p.proto == 1 || p.proto == 2) && shKind p == 7) abortBad p u →
     exec .sheafAbort s = .next (holdPayload u p))
  ∧ (∀ (s : State) (h : HeldPkt), s.sheaf.held.find? (fun h => now s ≥ h.since + collTimeout s) = some h →
     exec .heldPayloadTimeout s = .next (shOrphan { s with sheaf := { s.sheaf with held := s.sheaf.held.erase h } }))
  ∧ (∀ (s : State) (i : ShInst) (c : Nat × Nat × List (Nat × Nat × Nat)) (r : ShInst × State), s.sheaf.insts.find? (fun i => i.coalesce.any (fun c => decide (s.clk.aclk ≥ c.2.1 + 8))) = some i →
     i.coalesce.find? (fun c => decide (s.clk.aclk ≥ c.2.1 + 8)) = some c →
     r = shRecs s { i with coalesce := i.coalesce.erase c } (myArb s) c.1 1 false (c.2.2.map countRec) →
     exec .countCoalesceExpiry s = .next (shSet r.2 r.1))
  ∧ (∀ (s : State) (f : CtxFetch), s.sheaf.fetches.find? (fun f => (f.since.map (fun a => decide (a + 340 ≤ s.clk.aclk))).getD false) = some f →
     exec .contextFetchComplete s = .next (fetchPump (fetchesRun s f)))

/-- DISPATCH with a good descriptor, communicator, handle and counter arms its combine counter and opens an instance, or
joins the one of its name that another tile of the partition opened. DSEND stages its tokens for the tile's latest
instance (stageTokens). A decision record of the die's egress buffer is binned for the instance that accepts
decisions; wrong parity faults the partition with 0x060E; without an instance it is 0x0605. An instance that is done
frees its contexts and writes its histogram record. The origin sends the next granted pair whose context and token are
in the buffers (sendPair), and asks for what the others need. DATA segments are written to their rows (dataSegs) and
complete slots get their manifests; RETURN sends a slot's outputs to their origins and marks it returned; RETURN
segments are combined into their tokens, and one that needs a spilled accumulator asks for its read-back, which frees
the blocks. Wrong parity faults the partition with 0x060E. The write of SHF_EPT_DATA3 stores an entry and advances the
index; a bulk load begins with its LOAD bit set, is refused with 0x0610 while one is in progress, and ends when its
entries are stored. -/
def Obligations.SheafInstances : Prop :=
  (∀ (i : Issue) (s u : State) (n : ShInst), slotIssues s i 0xFF8000FF0000001F →
     freshRun s i.tile →
     u = countEffect s i.tile →
     parseDispatch u (fgOf u i.tile).part (fgOf u i.tile).step (shDesc u i) = some n →
     dispatchMay u i n →
     shFind u n.comm n.seq = none →
     (dispatchesOf u (fgOf u i.tile).part).length < 4 →
     (dispatchesOf u (fgOf u i.tile).part).any (fun x => x.accepting) = false →
     exec (.dispatch i) s = .next (shOpen (dispatchArmed u i) { n with tiles := [⟨i.tile, shHandle i, shCtr i, 0⟩] }))
  ∧ (∀ (i : Issue) (s u : State) (n x : ShInst), slotIssues s i 0xFF8000FF0000001F →
     freshRun s i.tile →
     u = countEffect s i.tile →
     parseDispatch u (fgOf u i.tile).part (fgOf u i.tile).step (shDesc u i) = some n →
     dispatchMay u i n →
     shFind u n.comm n.seq = some x →
     x.kind = 0 →
     x.part = (fgOf u i.tile).part →
     x.tiles.any (fun y => y.tile == i.tile) = false →
     exec (.dispatch i) s = .next (dispatchArmed (shSet u
       { x with tiles := x.tiles ++ [⟨i.tile, shHandle i, shCtr i, 0⟩] }) i))
  ∧ (∀ (i : Issue) (s u : State) (cq : Nat × Nat) (x : ShInst) (rows : List (Nat × List Byte)), slotIssues s i 0xFF00FFFFFFFFFF00 →
     freshRun s i.tile →
     edgeGives s i.tile = true →
     u = countEffect s i.tile →
     (fgOf u i.tile).dispatch = some cq →
     shFind u cq.1 cq.2 = some x →
     bufOk u i (opHi u i) 0 (dsendBytes u i) = true →
     badByte u i.tile (opHi u i) 0 (dsendBytes u i) = none →
     dsendRows u i.tile (opHi u i) (fld i.w 39 24) (fld i.w 23 8) x.tokenFmt x.width = some rows →
     exec (.dsend i) s = .next (stageTokens u i.tile x (fld i.w 23 8) rows))
  ∧ (∀ (die par : Nat) (s v : State) (e : Egr) (i : ShInst), s.thr.egress.find? (fun e => e.die == die) = some e →
     v = { s with thr := { s.thr with egress := s.thr.egress.erase e } } →
     v.sheaf.insts.find? (fun i => i.kind == 0 && i.part == e.part && i.accepting) = some i →
     par ≠ 1 →
     (par ≠ 2 ∨ i.kUse ≤ fld e.record 83 80) →
     exec (.decisionDrain die par) s = .next (shPut v i (binDecision v i e.record)))
  ∧ (∀ (die : Nat) (s : State) (e : Egr), s.thr.egress.find? (fun e => e.die == die) = some e →
     exec (.decisionDrain die 1) s = .next (shParity s e.part 0x060E))
  ∧ (∀ (die par : Nat) (s v : State) (e : Egr), s.thr.egress.find? (fun e => e.die == die) = some e →
     v = { s with thr := { s.thr with egress := s.thr.egress.erase e } } →
     v.sheaf.insts.find? (fun i => i.kind == 0 && i.part == e.part && i.accepting) = none →
     par ≠ 1 →
     exec (.decisionDrain die par) s = .next (shStray v e.part 0x0605))
  ∧ (∀ (s : State) (i : ShInst), s.sheaf.insts.find? (dispatchDone s) = some i →
     exec .dispatchInstanceComplete s = .next (shDrop (writeHist s i) i.comm i.seq))
  ∧ (∀ (s : State) (i : ShInst) (p : Pair) (t : Staged), (sendReady s).find? (fun i => (headPairs i).any (sendable s i)) = some i →
     (headPairs i).find? (sendable s i) = some p →
     stagedOf i p.token = some t →
     exec (.dataSend false) s = .next (sendPair s i p t) ∧ exec (.dataSend true) s = .next (shParity s i.part 0x060E))
  ∧ (∀ (b : Bool) (s : State), (sendReady s).find? (fun i => (headPairs i).any (sendable s i)) = none →
     exec (.dataSend b) s = .next ((sendReady s).foldl (fun s i => (headPairs i).foldl (fun s p => askFor s i p) s)
       s))
  ∧ (∀ (s u v : State) (p : Pkt) (i : ShInst) (segs : List (Nat × List Byte)), segsTaken s 5 p u i segs →
     v = inc64 u (pgShf + 0x58) p.body.length →
     exec .dataSegment s = .next (shPut v (shTouch u i) (dataWritten segs v (shTouch u i) p)))
  ∧ (∀ (s u v : State) (p : Pkt) (i : ShInst) (segs : List (Nat × List Byte)), shFull s = false →
     returnNeeds s = none →
     segsTaken s 6 p u i segs →
     v = inc64 u (pgShf + 0x58) p.body.length →
     exec (.returnSegment false) s = .next (putReturns (returnsAdded v (shTouch u i) p segs)))
  ∧ (∀ (s : State) (g : SpillGroup), shFull s = false →
     returnNeeds s = some g →
     exec (.returnSegment false) s = .next (wantBack s g))
  ∧ (∀ (s : State) (p : Pkt) (i : ShInst), shFull s = false →
     s.fab.ejected.find? (ctlOf 6) = some p →
     shFind s (shName p).1 (shName p).2 = some i →
     exec (.returnSegment true) s = .next (shParity s i.part 0x060E))
  ∧ (∀ (i : Issue) (s u v : State) (x : ShInst) (h : Hosted), slotIssues s i 0xFF00FFFFFF000000 →
     freshRun s i.tile →
     edgeGives s i.tile = true →
     u = countEffect s i.tile →
     (returnCands u i).find? (fun e => !e.2.returned) = some (x, h) →
     bufOk u i (opHi u i) 0 (h.used * hRow (opHi u i) * 64) = true →
     badByte u i.tile (opHi u i) 0 (h.used * hRow (opHi u i) * 64) = none →
     v = returnRows u x h i.tile (opHi u i) →
     exec (.ret i) s = .next (shSet v (shTouch v (setHosted x { h with returned := true }))))
  ∧ (∀ (s u : State) (g : SpillGroup), s.sheaf.spills.find? (fun g => g.wanted) = some g →
     spillRead s g = (true, u) →
     exec .spillReadbackComplete s = .next (stagePump
       { u with sheaf := { u.sheaf with spills := u.sheaf.spills.erase g } }))
  ∧ (∀ (v : Nat) (s u : State), takesWrites s pgShf →
     u = { s with sheaf := { s.sheaf with eptPart := none } } →
     exec (.eptEntryWrite v) s = .next (setRegN (eptStore u (fld (regN s (pgShf + 0x104)) 13 12) (regN s (pgShf +
       0x108) % 65536) (eptWord s v)) (pgShf + 0x108) ((regN s (pgShf + 0x108) % 65536 + 1) % 65536)))
  ∧ (∀ (v : Nat) (s u : State), takesWrites s pgShf →
     s.sheaf.load = none →
     u = setRegN s (pgShf + 0x104) (eptCtrlLoaded s v) →
     exec (.eptBulkLoad v) s = .next
       { u with sheaf := { u.sheaf with load := some (fld v 13 12, regN u (pgShf + 0x108) % 65536, regN u (pgShf + 0x11C), pairN u (pgShf + 0x120)) } })
  ∧ (∀ (v : Nat) (s : State), takesWrites s pgShf →
     s.sheaf.load.isSome = true →
     exec (.eptBulkLoad v) s = .next (err s pgShf 0x0610))
  ∧ (∀ (s u v : State) (l : Nat × Nat × Nat × Nat) (d : List Byte), s.sheaf.load = some l →
     askPieces (loadPieces l) s 0 l.1 = (none, u) →
     eptCopy (min 65536 l.2.2.1) s l.1 l.2.1 l.2.2.2 = (.data d, v) →
     exec .eptBulkLoadDone s = .next (loadEnd (touchAll (dropT2 v 0 l.1 (loadPieces l)) l.1 (loadPieces l))))

/-- EMBAG and ROWUPD with a good descriptor, communicator, name, request area and counter arm the counter, for the bags or
for one unit, and open their instance. A count names a window of its sender and the last one counts the sender; a
grant lets the window's list leave; a piece of a list is kept until the list is whole, when its rows are known, or it
faults with 0x060C; a piece that is there already is an orphan. The next row of the served window is read and added to
its slots, and the last closes the window; a row that is not in T1 is waited for; wrong parity poisons. Partials and
done words reach their requester. The next contribution is applied to its row. -/
def Obligations.PoolCommands : Prop :=
  (∀ (i : Issue) (s u : State) (n : ShInst), slotIssues s i 0xFF80FFFF0000001F →
     freshRun s i.tile →
     u = countEffect s i.tile →
     parseEmbag u (fgOf u i.tile).part (fgOf u i.tile).step (shDesc u i) = some n →
     poolMay u i false n →
     exec (.embag i) s = .next (poolIssued u i false n))
  ∧ (∀ (i : Issue) (s u : State) (n : ShInst), slotIssues s i 0xFF80FF000000001F →
     freshRun s i.tile →
     u = countEffect s i.tile →
     parseRowupd u (fgOf u i.tile).part (fgOf u i.tile).step (shDesc u i) = some n →
     poolMay u i true n →
     exec (.rowupd i) s = .next (poolIssued u i true n))
  ∧ (∀ (s u : State) (p : Pkt) (i : ShInst) (q : ShPeer), ctlTaken s (poolCtl 0x11) (fun _ => false) p u i q →
     exec .embagCount s = .next (poolGrants (shSet (winNumbered u) (countNoted u (ctlNoted u i p) p))))
  ∧ (∀ (s u : State) (p : Pkt) (i : ShInst) (q : ShPeer), ctlTaken s (poolCtl 0x12) (fun _ => false) p u i q →
     exec .embagWindowGrant s = .next (windowGranted u (ctlNoted u i p) p))
  ∧ (∀ (s u : State) (p : Pkt) (i : ShInst) (w : OwnWin), poolTaken s 0x13 p u i →
     listWindow (shTouch u i) p = some w →
     w.rx.any (fun r => r.1 == listOff p) = false →
     exec .embagRowList s = .next (listTaken u (shTouch u i) w (w.rx ++ [(listOff p, listPiece w p)])))
  ∧ (∀ (s u : State) (p : Pkt) (i : ShInst), poolTaken s 0x13 p u i →
     listWindow (shTouch u i) p = none →
     exec .embagRowList s = .next (shOrphan (shSet u (shTouch u i))))
  ∧ (∀ (s u : State) (i : ShInst) (w : OwnWin) (e : Nat × List (Nat × Nat) × List Byte) (bs : List Byte) (r : ShInst × OwnWin × State), servedWindow s = some (i, w) →
     nextRow s i w = some e →
     readRow s i e.1 (rowBytesOf i.rowFmt i.rowValues) w.here = (.vals bs, u) →
     r = poolRow u i w e bs →
     exec (.poolRowAccess false) s = .next (if r.2.1.rows.isEmpty then closeWindow r.2.2 r.1 r.2.1 else shSet r.2.2
       r.1))
  ∧ (∀ (s u : State) (i : ShInst) (w : OwnWin) (e : Nat × List (Nat × Nat) × List Byte) (o : RowRes), servedWindow s = some (i, w) →
     nextRow s i w = some e →
     readRow s i e.1 (rowBytesOf i.rowFmt i.rowValues) w.here = (o, u) →
     (o = .wait ∨ o = .stop) →
     exec (.poolRowAccess false) s = .next u)
  ∧ (∀ (s : State) (i : ShInst) (w : OwnWin) (e : Nat × List (Nat × Nat) × List Byte), servedWindow s = some (i, w) →
     nextRow s i w = some e →
     exec (.poolRowAccess true) s = .next (poolParity s i w e.1))
  ∧ (∀ (s u : State) (p : Pkt) (i : ShInst), poolTaken s 0x14 p u i →
     s.fab.ejected.any (poolCtl 0x14) = true →
     exec .embagPartial s = .next (partialIn u (shTouch u i) p))
  ∧ (∀ (s u : State) (p : Pkt) (i : ShInst), poolTaken s 0x15 p u i →
     s.fab.ejected.any (poolCtl 0x14) = false →
     s.fab.ejected.any (poolCtl 0x16) = false →
     exec .embagPartial s = .next (doneIn u (shTouch u i) p))
  ∧ (∀ (s u : State) (p : Pkt) (i : ShInst), poolTaken s 0x16 p u i →
     s.fab.ejected.any (poolCtl 0x14) = false →
     s.fab.ejected.any (poolCtl 0x16) = true →
     exec .embagPartial s = .next (poison (shSet u (shTouch u i)) i.part 0x0511))
  ∧ (∀ (s u : State) (i : ShInst) (w : OwnWin) (e : Nat × List (Nat × Nat) × List Byte) (r : List (Nat × List (Nat × Nat) × List Byte)), updateWindow s = some (i, w) →
     w.rows = e :: r →
     applyRow s i e.1 (rowGradient s i e) = (.done, u) →
     exec (.rowupdContribution false) s = .next (afterUpdate (incSat u (rowPage u i e.1 + 0x1A0) (rowWaits u w e.1))
       i w e))
  ∧ (∀ (s : State) (i : ShInst) (w : OwnWin) (e : Nat × List (Nat × Nat) × List Byte) (r : List (Nat × List (Nat × Nat) × List Byte)), updateWindow s = some (i, w) →
     w.rows = e :: r →
     exec (.rowupdContribution true) s = .next (poolParity s i w e.1))

/-- A good SQ doorbell sets the tail and the device fetches; a good CQ doorbell sets the head, held completions are
written, and fetching goes on; a bad one is a violation of the pair. ENABLE of a disabled pair restarts its heads, of
an enabled one it changes nothing; DISABLE of an enabled pair drains it, and the pair is disabled when every entry has
completed. More violations than HOST_VIOL_LIMIT in a millisecond quarantine a pair with 0x0D03, and its own function
releases it. A function that names no pair of its own has a violation. The vector of coalesced completions is sent
TIME microseconds after the first. -/
def Obligations.QueuePairs : Prop :=
  (∀ (fn q k v : Nat) (s : State), namesPair s fn q k →
     exec (.sqDoorbell fn q v) s = .next (if sqBad (getQp s k) (v % 65536) then badDoorbell s k else fetchPair
       (tailSet s k v) k))
  ∧ (∀ (fn q k v : Nat) (s : State), namesPair s fn q k →
     exec (.cqDoorbell fn q v) s = .next (if cqBad (getQp s k) (v % 65536) then badDoorbell s k else fetchPair
       (releaseCompls (getQp s k).held.length (headSet s k v) k) k))
  ∧ (∀ (fn q k : Nat) (s : State), namesPair s fn q k →
     exec (.qpEnable fn q) s = .next (if (getQp s k).enabled then s else setQp s k
       { freshHeads (getQp s k) with enabled := true }))
  ∧ (∀ (fn q k : Nat) (s : State), namesPair s fn q k →
     exec (.qpDisable fn q) s = .next (if (getQp s k).enabled then setQp s k { getQp s k with draining := true } else
       s))
  ∧ (∀ (fn q k : Nat) (s : State), namesPair s fn q k →
     exec (.qpUnquarantine fn q) s = .next (if (getQp s k).quarantined = true ∧ pairFn (getQp s k) = fn then setQp s
       k { freshHeads (getQp s k) with quarantined := false, viol := 0 } else s))
  ∧ (∀ (fn q : Nat) (s : State) (c : Instr), c ∈ ([.sqDoorbell fn q 0, .cqDoorbell fn q 0, .qpEnable fn q, .qpDisable fn q, .qpUnquarantine fn q] : List Instr) →
     fnDecodes s fn = true →
     resolvePair s fn q = none →
     exec c s = .next (vfViolation s))
  ∧ (∀ (q : Nat) (s : State), (getQp s q).draining = true →
     (getQp s q).entries = [] →
     (getQp s q).held = [] →
     exec (.qpDrainDone q) s = .next (setQp s q { getQp s q with enabled := false, draining := false }))
  ∧ (∀ (q : Nat) (s : State), (getQp s q).quarantined = false →
     max 1 (regN s (pgHost + 0x130)) < pairViol s (getQp s q) →
     exec (.qpQuarantine q) s = .next (err (evt (incSat (setQp s q { getQp s q with quarantined := true }) (pgHost +
       0x70) 1) pgHost 1) pgHost 0x0D03))
  ∧ (∀ (q : Nat) (s : State), (getQp s q).coalCount ≠ 0 →
     (getQp s q).coalFirst + 1000 * fld (getQp s q).coal 31 16 ≤ now s →
     exec (.irqCoalesceTimeout q) s = .next (qpIrq s q))

/-- The first entry of an operation that its pair can start is carried out. NOP completes. A STEP that is the first in the
order of fetching, of an open or stopped partition, with a new number and a good input list is queued (queueStep). H2D
writes host bytes to its range, which is mapped, homed here and readable, or waits for its grains; D2H writes the
bytes that it reads to host memory; H2T sends one unit to the die edge of its tile. RECV_BIND binds a channel and
completes; RECV_UNBIND ends a quiet channel at once, and otherwise when it is quiet. A started entry completes when
what it waits for is over. A host read that fails, or that takes 50 ms, ends its entry with the code and is a
violation of the pair. -/
def Obligations.HostTransfers : Prop :=
  (∀ (q n : Nat) (s : State) (e : Entry), entryNext s q 0 e n →
     exec (.nop q) s = .next (finish s q e.seq 0 0 0))
  ∧ (∀ (q n : Nat) (s : State) (e : Entry) (r : List Byte × State), entryNext s q 1 e n →
     stepMay s n e →
     r = fetchHost s (opFld e 24 31) (32 * stepInputs e) →
     inputOk r.1 = true →
     exec (.step q 0) s = .next (queueStep r.2 q n e (inputList r.1)))
  ∧ (∀ (q n : Nat) (s w : State) (e : Entry) (d : List Byte) (k : Nat) (r : List Byte × State), entryNext s q 2 e n →
     h2dMay s n (opFld e 16 23) (opFld e 24 27) →
     r = fetchHost s (opFld e 8 15) (opFld e 24 27) →
     putRows 0 n (newTag r.2).1 true (grainRows (opFld e 16 23) r.1) (newTag r.2).2 0 = (.data d, w, k) →
     exec (.h2d q 0) s = .next (setEntryOf (touchRows w n (grainRows (opFld e 16 23) r.1)) q
       { e with started := true, tag := (newTag r.2).1 }))
  ∧ (∀ (q rd n : Nat) (s : State) (e : Entry), entryNext s q 2 e n →
     (pagesOf (opFld e 16 23) (opFld e 24 27)).all (pageHome s n) = true →
     rangeLost s n (opFld e 16 23) (opFld e 24 27) = false →
     mustWait s n (opFld e 16 23) (opFld e 24 27) = true →
     exec (.h2d q rd) s = .next (demandRange s n (opFld e 16 23) (opFld e 24 27)))
  ∧ (∀ (q n : Nat) (s u : State) (e : Entry) (bs : List Byte), entryNext s q 3 e n →
     hostRead s n (opFld e 16 23) (opFld e 24 27) = (.data bs, u) →
     exec (.d2h q) s = .next (setEntryOf (writeHost u (opFld e 8 15) bs) q { e with started := true }))
  ∧ (∀ (q n : Nat) (s : State) (e : Entry), entryNext s q 4 e n →
     exec (.h2t q 0) s = .next (setEntryOf (toEdge (soilUnit (fetchHost s (opFld e 8 15) (opFld e 24 27)).2 true
       (h2tUnit s q e)) (h2tUnit s q e)) q { e with started := true }))
  ∧ (∀ (q rd n : Nat) (s : State) (e : Entry), entryNext s q 4 e n →
     rd ≠ 0 →
     exec (.h2t q rd) s = .next (failRead s q e (readCode rd)))
  ∧ (∀ (q n : Nat) (s : State) (e : Entry), entryNext s q 5 e n →
     exec (.recvBind q) s = .next (finish (bindSet s n (opFld e 22 22) (boundBy q n e)) q e.seq 0 0 0))
  ∧ (∀ (q n : Nat) (s : State) (e : Entry), entryNext s q 6 e n →
     exec (.recvUnbind q) s = .next (if channelQuiet s n (opFld e 22 22) then finish (dropBind s n (opFld e 22 22)) q
       e.seq 0 0 0 else setEntryOf (unbindMarked s n (opFld e 22 22)) q { e with started := true }))
  ∧ (∀ (q k n : Nat) (s : State) (e : Entry), (getQp s q).entries.find? (fun e => e.seq == k && e.started) = some e →
     n = pairPart (getQp s q) →
     entryDone s n e = true →
     exec (.dmaTransferDone q k) s = .next (if e.bad ≠ 0 then failEntry s q e e.bad else finish (if e.opc = 6 then
       dropBind s n (opFld e 22 22) else s) q k 0 0 0))
  ∧ (∀ (q k : Nat) (s : State) (e : Entry), (getQp s q).entries.find? (fun e => e.seq == k && (e.opc == 1 || e.opc == 2 || e.opc == 4)) = some e →
     mayStart (getQp s q) e = true →
     exec (.hostReadTimeout q k) s = .next (failRead s q e 0x0D04))

/-- A PF FLR resets the device's host side (pfReset); a VF FLR resets the VF's partition, pairs and MSI-X table; hot reset
is a PF FLR with the link down. VF Enable sets the number of VFs, at most 4. A function enters D3hot with its state
kept; leaving it sends what is pending and fetches. A write of an unmasked MSI-X entry sends what is pending. BAR2
reads and writes T1 through the PHYS window, or job memory through the partition's; a disabled window reads zeros and
discards writes; a poisoned write is discarded with 0x0D07. A refresh shows the health status record with the next
number, restarts the interval, and copies it to the host where that is enabled. -/
def Obligations.HostFunctions : Prop :=
  (∀ (s : State), exec .pfFlr s = .next (pfReset s))
  ∧ (∀ (n : Nat) (s : State), 1 ≤ n →
     n ≤ 4 →
     fnExists s n = true →
     exec (.vfFlr n) s = .next (vfReset s n))
  ∧ (∀ (s : State), exec .hotReset s = .next { pfReset s with host := { (pfReset s).host with linkUp := false } })
  ∧ (∀ (n : Nat) (s : State), exec (.vfEnable n) s = .next { s with host := { s.host with numVfs := min n 4 } })
  ∧ (∀ (fn : Nat) (b : Bool) (s : State), fnExists s fn = true →
     exec (.d3hot fn b) s = .next (if b then
       { s with host := { s.host with d3 := s.host.d3.filter (fun f => f != fn) ++ [fn] } } else fetchAll (sendPending
       { s with host := { s.host with d3 := s.host.d3.filter (fun f => f != fn) } } fn)))
  ∧ (∀ (fn v addr data : Nat) (s : State), fnDecodes s fn = true →
     v < vectorCount fn →
     exec (.msixVectorUnmask fn v addr data) s = .next (sendPending
       { s with host := { s.host with msix := NMap.set (fun _ => (0, 0, true)) s.host.msix (fn * 256 + v) (addr, data, false) } }
       fn))
  ∧ (∀ (fn off n a : Nat) (s : State), fnDecodes s fn = true →
     barTarget s fn off = some (none, a) →
     a + n ≤ t1Bytes →
     exec (.bar2Read fn off n) s = .next (physRead s a n))
  ∧ (∀ (fn off n a p : Nat) (s u : State) (bs : List Byte), fnDecodes s fn = true →
     barTarget s fn off = some (some p, a) →
     hostRead s p a n = (.data bs, u) →
     exec (.bar2Read fn off n) s = .next (barAnswer u bs))
  ∧ (∀ (fn off n : Nat) (s : State), fnDecodes s fn = true →
     barTarget s fn off = none →
     exec (.bar2Read fn off n) s = .next (barAnswer s (List.replicate n 0)))
  ∧ (∀ (fn off a : Nat) (bs : List Byte) (s : State), fnDecodes s fn = true →
     bs ≠ [] →
     barTarget s fn off = some (none, a) →
     a + bs.length ≤ t1Bytes →
     exec (.bar2Write fn off bs false) s = .next (physWrite s a bs))
  ∧ (∀ (fn off a p k : Nat) (bs d : List Byte) (s u : State), fnDecodes s fn = true →
     bs ≠ [] →
     barTarget s fn off = some (some p, a) →
     mustWait s p a bs.length = false →
     putRows 0 p (newTag s).1 true (grainRows a bs) (newTag s).2 0 = (.data d, u, k) →
     exec (.bar2Write fn off bs false) s = .next (touchRows u p (grainRows a bs)))
  ∧ (∀ (fn off : Nat) (bs : List Byte) (s : State), fnDecodes s fn = true →
     bs ≠ [] →
     exec (.bar2Write fn off bs true) s = .next (hostViolation s 0 0x0D07))
  ∧ (∀ (q : Nat) (s : State), s.lodge.running = true →
     q = (s.host.hsrSeq + 1) % 2 ^ 32 →
     exec .hsrRefresh s = .next (if bit (regN (hsrShown s q) (pgHost + 0x104)) 1 then writeHost (hsrShown s q) (pairN
       (hsrShown s q) (pgHost + 0x154)) (hsrRecord s q ++ leBytes 8 q) else hsrShown s q))
end

