-- ==== Sys2Proof/Laws/Maps.lean ====
section
/-!
SUPPORT. The laws of the sparse maps: read after write, frame, and that every operation keeps the canonical form.
-/

namespace Sys2Proof.Machine

open Sys2Proof

theorem NMap.find_put {α : Type} (m : NMap α) (k j : Nat) (v : α) :
    NMap.find (NMap.put m k v) j = if k = j then some v else NMap.find m j := by
  induction m with
  | nil => simp [NMap.put, NMap.find]
  | cons e m ih =>
    obtain ⟨a, w⟩ := e
    simp only [NMap.put]
    split_ifs with h1 h2 h3 h4 h5 <;> simp_all [NMap.find]
    all_goals (intro h; omega)

theorem NMap.find_filter {α : Type} (m : NMap α) (p : Nat → Bool) (j : Nat) :
    NMap.find (m.filter (fun e => p e.1)) j = if p j then NMap.find m j else none := by
  induction m with
  | nil => simp [NMap.find]
  | cons e m ih =>
    obtain ⟨a, w⟩ := e
    by_cases h : p a <;> by_cases hj : a = j <;> simp_all [NMap.find, List.filter_cons]

theorem NMap.find_del {α : Type} (m : NMap α) (k j : Nat) :
    NMap.find (NMap.del m k) j = if k = j then none else NMap.find m j := by
  rw [NMap.del, NMap.find_filter m (fun x => x != k) j]
  by_cases h : k = j <;> simp [h]
  intro h'; exact absurd h'.symm h

/-- Read after write of a total map. -/
theorem NMap.get_set {α : Type} [DecidableEq α] (d : Nat → α) (m : NMap α) (k j : Nat) (v : α) :
    NMap.get d (NMap.set d m k v) j = if k = j then v else NMap.get d m j := by
  unfold NMap.get NMap.set
  split_ifs with h1 h2 h2
  · subst h2; simp [NMap.find_del, h1]
  · simp [NMap.find_del, h2]
  · subst h2; simp [NMap.find_put]
  · simp [NMap.find_put, h2]

theorem NMap.get_delIf {α : Type} (d : Nat → α) (m : NMap α) (p : Nat → Bool) (j : Nat) :
    NMap.get d (NMap.delIf m p) j = if p j then d j else NMap.get d m j := by
  unfold NMap.get NMap.delIf
  rw [NMap.find_filter m (fun x => !p x) j]
  by_cases h : p j <;> simp [h]

theorem NMap.mem_put {α : Type} (m : NMap α) (k : Nat) (v : α) (e : Nat × α) :
    e ∈ NMap.put m k v → e = (k, v) ∨ e ∈ m := by
  induction m with
  | nil => simp [NMap.put]
  | cons x m ih =>
    obtain ⟨a, w⟩ := x
    simp only [NMap.put]
    split_ifs <;> simp_all
    · tauto
    · tauto

theorem NMap.sorted_put {α : Type} (m : NMap α) (k : Nat) (v : α) (h : NMap.sorted m) : NMap.sorted (NMap.put m k v) := by
  induction m with
  | nil => simp [NMap.put, NMap.sorted]
  | cons x m ih =>
    obtain ⟨a, w⟩ := x
    simp only [NMap.sorted, List.pairwise_cons] at h
    simp only [NMap.put]
    split_ifs with h1 h2
    · simp only [NMap.sorted, List.pairwise_cons, List.mem_cons, forall_eq_or_imp]
      exact ⟨⟨h1, fun e he => lt_trans h1 (h.1 e he)⟩, h.1, h.2⟩
    · subst h2; simpa only [NMap.sorted, List.pairwise_cons] using h
    · simp only [NMap.sorted, List.pairwise_cons]
      refine ⟨fun e he => ?_, ih h.2⟩
      rcases NMap.mem_put m k v e he with rfl | he
      · show a < k; omega
      · exact h.1 e he

theorem NMap.wf_filter {α : Type} (d : Nat → α) (m : NMap α) (p : Nat × α → Bool) (h : NMap.wf d m) :
    NMap.wf d (m.filter p) :=
  ⟨List.Pairwise.filter p h.1, fun e he => h.2 e (List.mem_of_mem_filter he)⟩

theorem NMap.wf_delIf {α : Type} (d : Nat → α) (m : NMap α) (p : Nat → Bool) (h : NMap.wf d m) :
    NMap.wf d (NMap.delIf m p) := NMap.wf_filter d m _ h

/-- A write keeps the canonical form. -/
theorem NMap.wf_set {α : Type} [DecidableEq α] (d : Nat → α) (m : NMap α) (k : Nat) (v : α) (h : NMap.wf d m) :
    NMap.wf d (NMap.set d m k v) := by
  unfold NMap.set
  split_ifs with hv
  · exact NMap.wf_filter d m _ h
  · refine ⟨NMap.sorted_put m k v h.1, fun e he => ?_⟩
    rcases NMap.mem_put m k v e he with rfl | he
    · exact hv
    · exact h.2 e he

theorem NMap.wf_nil {α : Type} (d : Nat → α) : NMap.wf d [] := ⟨List.Pairwise.nil, by simp⟩

/-- Every memory operation keeps the canonical form: a write of bytes. -/
theorem writeBytes_wf (m : NMap Byte) (a : Nat) (bs : List Byte) (h : NMap.wf (fun _ => 0) m) :
    NMap.wf (fun _ => 0) (writeBytes m a bs) := by
  induction bs generalizing m a with
  | nil => exact h
  | cons b bs ih => exact ih _ _ (NMap.wf_set _ _ _ _ h)

/-- Every memory operation keeps the canonical form: a range cleared. -/
theorem zeroBytes_wf (m : NMap Byte) (lo hi : Nat) (h : NMap.wf (fun _ => 0) m) :
    NMap.wf (fun _ => 0) (zeroBytes m lo hi) := NMap.wf_delIf _ _ _ h

/-- What a write of bytes leaves at every address. -/
theorem get_writeBytes (m : NMap Byte) (a : Nat) (bs : List Byte) (j : Nat) :
    NMap.get (fun _ => 0) (writeBytes m a bs) j
      = if a ≤ j ∧ j < a + bs.length then bs.getD (j - a) 0 else NMap.get (fun _ => 0) m j := by
  induction bs generalizing m a with
  | nil => simp [writeBytes]
  | cons b bs ih =>
    rw [writeBytes, ih, NMap.get_set]
    by_cases h : a = j
    · subst h; simp
    · by_cases h2 : a + 1 ≤ j ∧ j < a + 1 + bs.length
      · obtain ⟨c, rfl⟩ : ∃ c, j = a + 1 + c := ⟨j - (a + 1), by omega⟩
        have e : a + 1 + c - a = c + 1 := by omega
        rw [if_pos h2, if_pos ⟨by omega, by simp; omega⟩, e]
        simp
      · rw [if_neg h2, if_neg h, if_neg]
        simp only [List.length_cons]; omega

end Sys2Proof.Machine
end

