-- ==== Sys2Proof/Laws/State.lean ====
section
/-!
SUPPORT. What each update of the state leaves unchanged, field by field, and what the recording operations can do: the lemmas
that proofs cite in place of unfolding a record update.
-/

namespace Sys2Proof.Machine

open Sys2Proof Sys2Proof.Config

/-! ### setReg -/

@[simp] theorem setReg_pending (s : State) (a : Nat) (v : Word) : (setReg s a v).pending = s.pending := rfl
@[simp] theorem setReg_clk (s : State) (a : Nat) (v : Word) : (setReg s a v).clk = s.clk := rfl
@[simp] theorem setReg_mem (s : State) (a : Nat) (v : Word) : (setReg s a v).mem = s.mem := rfl
@[simp] theorem setReg_tiles (s : State) (a : Nat) (v : Word) : (setReg s a v).tiles = s.tiles := rfl
@[simp] theorem setReg_parts (s : State) (a : Nat) (v : Word) : (setReg s a v).parts = s.parts := rfl
@[simp] theorem setReg_edge (s : State) (a : Nat) (v : Word) : (setReg s a v).edge = s.edge := rfl
@[simp] theorem setReg_mesh (s : State) (a : Nat) (v : Word) : (setReg s a v).mesh = s.mesh := rfl
@[simp] theorem setReg_backlog (s : State) (a : Nat) (v : Word) : (setReg s a v).backlog = s.backlog := rfl
@[simp] theorem setReg_gateUsed (s : State) (a : Nat) (v : Word) : (setReg s a v).gateUsed = s.gateUsed := rfl
@[simp] theorem setReg_kept (s : State) (a : Nat) (v : Word) : (setReg s a v).kept = s.kept := rfl
@[simp] theorem setReg_grn (s : State) (a : Nat) (v : Word) : (setReg s a v).grn = s.grn := rfl
@[simp] theorem setReg_mch (s : State) (a : Nat) (v : Word) : (setReg s a v).mch = s.mch := rfl
@[simp] theorem setReg_host (s : State) (a : Nat) (v : Word) : (setReg s a v).host = s.host := rfl
@[simp] theorem setReg_lodge (s : State) (a : Nat) (v : Word) : (setReg s a v).lodge = s.lodge := rfl
@[simp] theorem setReg_fab (s : State) (a : Nat) (v : Word) : (setReg s a v).fab = s.fab := rfl
@[simp] theorem setReg_thr (s : State) (a : Nat) (v : Word) : (setReg s a v).thr = s.thr := rfl
@[simp] theorem setReg_sheaf (s : State) (a : Nat) (v : Word) : (setReg s a v).sheaf = s.sheaf := rfl
@[simp] theorem setReg_pav (s : State) (a : Nat) (v : Word) : (setReg s a v).pav = s.pav := rfl
@[simp] theorem setReg_atom (s : State) (a : Nat) (v : Word) : (setReg s a v).atom = s.atom := rfl
@[simp] theorem setReg_gate (s : State) (a : Nat) (v : Word) : (setReg s a v).gate = s.gate := rfl
@[simp] theorem setReg_belv (s : State) (a : Nat) (v : Word) : (setReg s a v).belv = s.belv := rfl
@[simp] theorem setReg_fuse (s : State) (a : Nat) (v : Word) : (setReg s a v).fuse = s.fuse := rfl
@[simp] theorem setReg_boot (s : State) (a : Nat) (v : Word) : (setReg s a v).boot = s.boot := rfl
@[simp] theorem setReg_tb (s : State) (a : Nat) (v : Word) : (setReg s a v).tb = s.tb := rfl
@[simp] theorem setReg_det (s : State) (a : Nat) (v : Word) : (setReg s a v).det = s.det := rfl
@[simp] theorem setReg_d2d (s : State) (a : Nat) (v : Word) : (setReg s a v).d2d = s.d2d := rfl
@[simp] theorem setReg_mod (s : State) (a : Nat) (v : Word) : (setReg s a v).mod = s.mod := rfl
@[simp] theorem setReg_freeIdx (s : State) (a : Nat) (v : Word) : (setReg s a v).freeIdx = s.freeIdx := rfl
@[simp] theorem setReg_rdata (s : State) (a : Nat) (v : Word) : (setReg s a v).rdata = s.rdata := rfl

/-! ### setRegN -/

@[simp] theorem setRegN_pending (s : State) (a v : Nat) : (setRegN s a v).pending = s.pending := rfl
@[simp] theorem setRegN_clk (s : State) (a v : Nat) : (setRegN s a v).clk = s.clk := rfl
@[simp] theorem setRegN_mem (s : State) (a v : Nat) : (setRegN s a v).mem = s.mem := rfl
@[simp] theorem setRegN_tiles (s : State) (a v : Nat) : (setRegN s a v).tiles = s.tiles := rfl
@[simp] theorem setRegN_parts (s : State) (a v : Nat) : (setRegN s a v).parts = s.parts := rfl
@[simp] theorem setRegN_edge (s : State) (a v : Nat) : (setRegN s a v).edge = s.edge := rfl
@[simp] theorem setRegN_mesh (s : State) (a v : Nat) : (setRegN s a v).mesh = s.mesh := rfl
@[simp] theorem setRegN_backlog (s : State) (a v : Nat) : (setRegN s a v).backlog = s.backlog := rfl
@[simp] theorem setRegN_gateUsed (s : State) (a v : Nat) : (setRegN s a v).gateUsed = s.gateUsed := rfl
@[simp] theorem setRegN_kept (s : State) (a v : Nat) : (setRegN s a v).kept = s.kept := rfl
@[simp] theorem setRegN_grn (s : State) (a v : Nat) : (setRegN s a v).grn = s.grn := rfl
@[simp] theorem setRegN_mch (s : State) (a v : Nat) : (setRegN s a v).mch = s.mch := rfl
@[simp] theorem setRegN_host (s : State) (a v : Nat) : (setRegN s a v).host = s.host := rfl
@[simp] theorem setRegN_lodge (s : State) (a v : Nat) : (setRegN s a v).lodge = s.lodge := rfl
@[simp] theorem setRegN_fab (s : State) (a v : Nat) : (setRegN s a v).fab = s.fab := rfl
@[simp] theorem setRegN_thr (s : State) (a v : Nat) : (setRegN s a v).thr = s.thr := rfl
@[simp] theorem setRegN_sheaf (s : State) (a v : Nat) : (setRegN s a v).sheaf = s.sheaf := rfl
@[simp] theorem setRegN_pav (s : State) (a v : Nat) : (setRegN s a v).pav = s.pav := rfl
@[simp] theorem setRegN_atom (s : State) (a v : Nat) : (setRegN s a v).atom = s.atom := rfl
@[simp] theorem setRegN_gate (s : State) (a v : Nat) : (setRegN s a v).gate = s.gate := rfl
@[simp] theorem setRegN_belv (s : State) (a v : Nat) : (setRegN s a v).belv = s.belv := rfl
@[simp] theorem setRegN_fuse (s : State) (a v : Nat) : (setRegN s a v).fuse = s.fuse := rfl
@[simp] theorem setRegN_boot (s : State) (a v : Nat) : (setRegN s a v).boot = s.boot := rfl
@[simp] theorem setRegN_tb (s : State) (a v : Nat) : (setRegN s a v).tb = s.tb := rfl
@[simp] theorem setRegN_det (s : State) (a v : Nat) : (setRegN s a v).det = s.det := rfl
@[simp] theorem setRegN_d2d (s : State) (a v : Nat) : (setRegN s a v).d2d = s.d2d := rfl
@[simp] theorem setRegN_mod (s : State) (a v : Nat) : (setRegN s a v).mod = s.mod := rfl
@[simp] theorem setRegN_freeIdx (s : State) (a v : Nat) : (setRegN s a v).freeIdx = s.freeIdx := rfl
@[simp] theorem setRegN_rdata (s : State) (a v : Nat) : (setRegN s a v).rdata = s.rdata := rfl

/-! ### setPair -/

@[simp] theorem setPair_pending (s : State) (lo v : Nat) : (setPair s lo v).pending = s.pending := rfl
@[simp] theorem setPair_clk (s : State) (lo v : Nat) : (setPair s lo v).clk = s.clk := rfl
@[simp] theorem setPair_mem (s : State) (lo v : Nat) : (setPair s lo v).mem = s.mem := rfl
@[simp] theorem setPair_tiles (s : State) (lo v : Nat) : (setPair s lo v).tiles = s.tiles := rfl
@[simp] theorem setPair_parts (s : State) (lo v : Nat) : (setPair s lo v).parts = s.parts := rfl
@[simp] theorem setPair_edge (s : State) (lo v : Nat) : (setPair s lo v).edge = s.edge := rfl
@[simp] theorem setPair_mesh (s : State) (lo v : Nat) : (setPair s lo v).mesh = s.mesh := rfl
@[simp] theorem setPair_backlog (s : State) (lo v : Nat) : (setPair s lo v).backlog = s.backlog := rfl
@[simp] theorem setPair_gateUsed (s : State) (lo v : Nat) : (setPair s lo v).gateUsed = s.gateUsed := rfl
@[simp] theorem setPair_kept (s : State) (lo v : Nat) : (setPair s lo v).kept = s.kept := rfl
@[simp] theorem setPair_grn (s : State) (lo v : Nat) : (setPair s lo v).grn = s.grn := rfl
@[simp] theorem setPair_mch (s : State) (lo v : Nat) : (setPair s lo v).mch = s.mch := rfl
@[simp] theorem setPair_host (s : State) (lo v : Nat) : (setPair s lo v).host = s.host := rfl
@[simp] theorem setPair_lodge (s : State) (lo v : Nat) : (setPair s lo v).lodge = s.lodge := rfl
@[simp] theorem setPair_fab (s : State) (lo v : Nat) : (setPair s lo v).fab = s.fab := rfl
@[simp] theorem setPair_thr (s : State) (lo v : Nat) : (setPair s lo v).thr = s.thr := rfl
@[simp] theorem setPair_sheaf (s : State) (lo v : Nat) : (setPair s lo v).sheaf = s.sheaf := rfl
@[simp] theorem setPair_pav (s : State) (lo v : Nat) : (setPair s lo v).pav = s.pav := rfl
@[simp] theorem setPair_atom (s : State) (lo v : Nat) : (setPair s lo v).atom = s.atom := rfl
@[simp] theorem setPair_gate (s : State) (lo v : Nat) : (setPair s lo v).gate = s.gate := rfl
@[simp] theorem setPair_belv (s : State) (lo v : Nat) : (setPair s lo v).belv = s.belv := rfl
@[simp] theorem setPair_fuse (s : State) (lo v : Nat) : (setPair s lo v).fuse = s.fuse := rfl
@[simp] theorem setPair_boot (s : State) (lo v : Nat) : (setPair s lo v).boot = s.boot := rfl
@[simp] theorem setPair_tb (s : State) (lo v : Nat) : (setPair s lo v).tb = s.tb := rfl
@[simp] theorem setPair_det (s : State) (lo v : Nat) : (setPair s lo v).det = s.det := rfl
@[simp] theorem setPair_d2d (s : State) (lo v : Nat) : (setPair s lo v).d2d = s.d2d := rfl
@[simp] theorem setPair_mod (s : State) (lo v : Nat) : (setPair s lo v).mod = s.mod := rfl
@[simp] theorem setPair_freeIdx (s : State) (lo v : Nat) : (setPair s lo v).freeIdx = s.freeIdx := rfl
@[simp] theorem setPair_rdata (s : State) (lo v : Nat) : (setPair s lo v).rdata = s.rdata := rfl

/-! ### inc64 -/

@[simp] theorem inc64_pending (s : State) (a n : Nat) : (inc64 s a n).pending = s.pending := rfl
@[simp] theorem inc64_clk (s : State) (a n : Nat) : (inc64 s a n).clk = s.clk := rfl
@[simp] theorem inc64_mem (s : State) (a n : Nat) : (inc64 s a n).mem = s.mem := rfl
@[simp] theorem inc64_tiles (s : State) (a n : Nat) : (inc64 s a n).tiles = s.tiles := rfl
@[simp] theorem inc64_parts (s : State) (a n : Nat) : (inc64 s a n).parts = s.parts := rfl
@[simp] theorem inc64_edge (s : State) (a n : Nat) : (inc64 s a n).edge = s.edge := rfl
@[simp] theorem inc64_mesh (s : State) (a n : Nat) : (inc64 s a n).mesh = s.mesh := rfl
@[simp] theorem inc64_backlog (s : State) (a n : Nat) : (inc64 s a n).backlog = s.backlog := rfl
@[simp] theorem inc64_gateUsed (s : State) (a n : Nat) : (inc64 s a n).gateUsed = s.gateUsed := rfl
@[simp] theorem inc64_kept (s : State) (a n : Nat) : (inc64 s a n).kept = s.kept := rfl
@[simp] theorem inc64_grn (s : State) (a n : Nat) : (inc64 s a n).grn = s.grn := rfl
@[simp] theorem inc64_mch (s : State) (a n : Nat) : (inc64 s a n).mch = s.mch := rfl
@[simp] theorem inc64_host (s : State) (a n : Nat) : (inc64 s a n).host = s.host := rfl
@[simp] theorem inc64_lodge (s : State) (a n : Nat) : (inc64 s a n).lodge = s.lodge := rfl
@[simp] theorem inc64_fab (s : State) (a n : Nat) : (inc64 s a n).fab = s.fab := rfl
@[simp] theorem inc64_thr (s : State) (a n : Nat) : (inc64 s a n).thr = s.thr := rfl
@[simp] theorem inc64_sheaf (s : State) (a n : Nat) : (inc64 s a n).sheaf = s.sheaf := rfl
@[simp] theorem inc64_pav (s : State) (a n : Nat) : (inc64 s a n).pav = s.pav := rfl
@[simp] theorem inc64_atom (s : State) (a n : Nat) : (inc64 s a n).atom = s.atom := rfl
@[simp] theorem inc64_gate (s : State) (a n : Nat) : (inc64 s a n).gate = s.gate := rfl
@[simp] theorem inc64_belv (s : State) (a n : Nat) : (inc64 s a n).belv = s.belv := rfl
@[simp] theorem inc64_fuse (s : State) (a n : Nat) : (inc64 s a n).fuse = s.fuse := rfl
@[simp] theorem inc64_boot (s : State) (a n : Nat) : (inc64 s a n).boot = s.boot := rfl
@[simp] theorem inc64_tb (s : State) (a n : Nat) : (inc64 s a n).tb = s.tb := rfl
@[simp] theorem inc64_det (s : State) (a n : Nat) : (inc64 s a n).det = s.det := rfl
@[simp] theorem inc64_d2d (s : State) (a n : Nat) : (inc64 s a n).d2d = s.d2d := rfl
@[simp] theorem inc64_mod (s : State) (a n : Nat) : (inc64 s a n).mod = s.mod := rfl
@[simp] theorem inc64_freeIdx (s : State) (a n : Nat) : (inc64 s a n).freeIdx = s.freeIdx := rfl
@[simp] theorem inc64_rdata (s : State) (a n : Nat) : (inc64 s a n).rdata = s.rdata := rfl

/-! ### incSat -/

@[simp] theorem incSat_pending (s : State) (a n : Nat) : (incSat s a n).pending = s.pending := rfl
@[simp] theorem incSat_clk (s : State) (a n : Nat) : (incSat s a n).clk = s.clk := rfl
@[simp] theorem incSat_mem (s : State) (a n : Nat) : (incSat s a n).mem = s.mem := rfl
@[simp] theorem incSat_tiles (s : State) (a n : Nat) : (incSat s a n).tiles = s.tiles := rfl
@[simp] theorem incSat_parts (s : State) (a n : Nat) : (incSat s a n).parts = s.parts := rfl
@[simp] theorem incSat_edge (s : State) (a n : Nat) : (incSat s a n).edge = s.edge := rfl
@[simp] theorem incSat_mesh (s : State) (a n : Nat) : (incSat s a n).mesh = s.mesh := rfl
@[simp] theorem incSat_backlog (s : State) (a n : Nat) : (incSat s a n).backlog = s.backlog := rfl
@[simp] theorem incSat_gateUsed (s : State) (a n : Nat) : (incSat s a n).gateUsed = s.gateUsed := rfl
@[simp] theorem incSat_kept (s : State) (a n : Nat) : (incSat s a n).kept = s.kept := rfl
@[simp] theorem incSat_grn (s : State) (a n : Nat) : (incSat s a n).grn = s.grn := rfl
@[simp] theorem incSat_mch (s : State) (a n : Nat) : (incSat s a n).mch = s.mch := rfl
@[simp] theorem incSat_host (s : State) (a n : Nat) : (incSat s a n).host = s.host := rfl
@[simp] theorem incSat_lodge (s : State) (a n : Nat) : (incSat s a n).lodge = s.lodge := rfl
@[simp] theorem incSat_fab (s : State) (a n : Nat) : (incSat s a n).fab = s.fab := rfl
@[simp] theorem incSat_thr (s : State) (a n : Nat) : (incSat s a n).thr = s.thr := rfl
@[simp] theorem incSat_sheaf (s : State) (a n : Nat) : (incSat s a n).sheaf = s.sheaf := rfl
@[simp] theorem incSat_pav (s : State) (a n : Nat) : (incSat s a n).pav = s.pav := rfl
@[simp] theorem incSat_atom (s : State) (a n : Nat) : (incSat s a n).atom = s.atom := rfl
@[simp] theorem incSat_gate (s : State) (a n : Nat) : (incSat s a n).gate = s.gate := rfl
@[simp] theorem incSat_belv (s : State) (a n : Nat) : (incSat s a n).belv = s.belv := rfl
@[simp] theorem incSat_fuse (s : State) (a n : Nat) : (incSat s a n).fuse = s.fuse := rfl
@[simp] theorem incSat_boot (s : State) (a n : Nat) : (incSat s a n).boot = s.boot := rfl
@[simp] theorem incSat_tb (s : State) (a n : Nat) : (incSat s a n).tb = s.tb := rfl
@[simp] theorem incSat_det (s : State) (a n : Nat) : (incSat s a n).det = s.det := rfl
@[simp] theorem incSat_d2d (s : State) (a n : Nat) : (incSat s a n).d2d = s.d2d := rfl
@[simp] theorem incSat_mod (s : State) (a n : Nat) : (incSat s a n).mod = s.mod := rfl
@[simp] theorem incSat_freeIdx (s : State) (a n : Nat) : (incSat s a n).freeIdx = s.freeIdx := rfl
@[simp] theorem incSat_rdata (s : State) (a n : Nat) : (incSat s a n).rdata = s.rdata := rfl

/-! ### writeSram -/

@[simp] theorem writeSram_pending (s : State) (t a : Nat) (bs : List Byte) : (writeSram s t a bs).pending = s.pending := rfl
@[simp] theorem writeSram_clk (s : State) (t a : Nat) (bs : List Byte) : (writeSram s t a bs).clk = s.clk := rfl
@[simp] theorem writeSram_regs (s : State) (t a : Nat) (bs : List Byte) : (writeSram s t a bs).regs = s.regs := rfl
@[simp] theorem writeSram_tiles (s : State) (t a : Nat) (bs : List Byte) : (writeSram s t a bs).tiles = s.tiles := rfl
@[simp] theorem writeSram_parts (s : State) (t a : Nat) (bs : List Byte) : (writeSram s t a bs).parts = s.parts := rfl
@[simp] theorem writeSram_edge (s : State) (t a : Nat) (bs : List Byte) : (writeSram s t a bs).edge = s.edge := rfl
@[simp] theorem writeSram_mesh (s : State) (t a : Nat) (bs : List Byte) : (writeSram s t a bs).mesh = s.mesh := rfl
@[simp] theorem writeSram_backlog (s : State) (t a : Nat) (bs : List Byte) : (writeSram s t a bs).backlog = s.backlog := rfl
@[simp] theorem writeSram_gateUsed (s : State) (t a : Nat) (bs : List Byte) : (writeSram s t a bs).gateUsed = s.gateUsed := rfl
@[simp] theorem writeSram_kept (s : State) (t a : Nat) (bs : List Byte) : (writeSram s t a bs).kept = s.kept := rfl
@[simp] theorem writeSram_grn (s : State) (t a : Nat) (bs : List Byte) : (writeSram s t a bs).grn = s.grn := rfl
@[simp] theorem writeSram_mch (s : State) (t a : Nat) (bs : List Byte) : (writeSram s t a bs).mch = s.mch := rfl
@[simp] theorem writeSram_host (s : State) (t a : Nat) (bs : List Byte) : (writeSram s t a bs).host = s.host := rfl
@[simp] theorem writeSram_lodge (s : State) (t a : Nat) (bs : List Byte) : (writeSram s t a bs).lodge = s.lodge := rfl
@[simp] theorem writeSram_fab (s : State) (t a : Nat) (bs : List Byte) : (writeSram s t a bs).fab = s.fab := rfl
@[simp] theorem writeSram_thr (s : State) (t a : Nat) (bs : List Byte) : (writeSram s t a bs).thr = s.thr := rfl
@[simp] theorem writeSram_sheaf (s : State) (t a : Nat) (bs : List Byte) : (writeSram s t a bs).sheaf = s.sheaf := rfl
@[simp] theorem writeSram_pav (s : State) (t a : Nat) (bs : List Byte) : (writeSram s t a bs).pav = s.pav := rfl
@[simp] theorem writeSram_atom (s : State) (t a : Nat) (bs : List Byte) : (writeSram s t a bs).atom = s.atom := rfl
@[simp] theorem writeSram_gate (s : State) (t a : Nat) (bs : List Byte) : (writeSram s t a bs).gate = s.gate := rfl
@[simp] theorem writeSram_belv (s : State) (t a : Nat) (bs : List Byte) : (writeSram s t a bs).belv = s.belv := rfl
@[simp] theorem writeSram_fuse (s : State) (t a : Nat) (bs : List Byte) : (writeSram s t a bs).fuse = s.fuse := rfl
@[simp] theorem writeSram_boot (s : State) (t a : Nat) (bs : List Byte) : (writeSram s t a bs).boot = s.boot := rfl
@[simp] theorem writeSram_tb (s : State) (t a : Nat) (bs : List Byte) : (writeSram s t a bs).tb = s.tb := rfl
@[simp] theorem writeSram_det (s : State) (t a : Nat) (bs : List Byte) : (writeSram s t a bs).det = s.det := rfl
@[simp] theorem writeSram_d2d (s : State) (t a : Nat) (bs : List Byte) : (writeSram s t a bs).d2d = s.d2d := rfl
@[simp] theorem writeSram_mod (s : State) (t a : Nat) (bs : List Byte) : (writeSram s t a bs).mod = s.mod := rfl
@[simp] theorem writeSram_freeIdx (s : State) (t a : Nat) (bs : List Byte) : (writeSram s t a bs).freeIdx = s.freeIdx := rfl
@[simp] theorem writeSram_rdata (s : State) (t a : Nat) (bs : List Byte) : (writeSram s t a bs).rdata = s.rdata := rfl

/-! ### zeroSram -/

@[simp] theorem zeroSram_pending (s : State) (t lo hi : Nat) : (zeroSram s t lo hi).pending = s.pending := rfl
@[simp] theorem zeroSram_clk (s : State) (t lo hi : Nat) : (zeroSram s t lo hi).clk = s.clk := rfl
@[simp] theorem zeroSram_regs (s : State) (t lo hi : Nat) : (zeroSram s t lo hi).regs = s.regs := rfl
@[simp] theorem zeroSram_tiles (s : State) (t lo hi : Nat) : (zeroSram s t lo hi).tiles = s.tiles := rfl
@[simp] theorem zeroSram_parts (s : State) (t lo hi : Nat) : (zeroSram s t lo hi).parts = s.parts := rfl
@[simp] theorem zeroSram_edge (s : State) (t lo hi : Nat) : (zeroSram s t lo hi).edge = s.edge := rfl
@[simp] theorem zeroSram_mesh (s : State) (t lo hi : Nat) : (zeroSram s t lo hi).mesh = s.mesh := rfl
@[simp] theorem zeroSram_backlog (s : State) (t lo hi : Nat) : (zeroSram s t lo hi).backlog = s.backlog := rfl
@[simp] theorem zeroSram_gateUsed (s : State) (t lo hi : Nat) : (zeroSram s t lo hi).gateUsed = s.gateUsed := rfl
@[simp] theorem zeroSram_kept (s : State) (t lo hi : Nat) : (zeroSram s t lo hi).kept = s.kept := rfl
@[simp] theorem zeroSram_grn (s : State) (t lo hi : Nat) : (zeroSram s t lo hi).grn = s.grn := rfl
@[simp] theorem zeroSram_mch (s : State) (t lo hi : Nat) : (zeroSram s t lo hi).mch = s.mch := rfl
@[simp] theorem zeroSram_host (s : State) (t lo hi : Nat) : (zeroSram s t lo hi).host = s.host := rfl
@[simp] theorem zeroSram_lodge (s : State) (t lo hi : Nat) : (zeroSram s t lo hi).lodge = s.lodge := rfl
@[simp] theorem zeroSram_fab (s : State) (t lo hi : Nat) : (zeroSram s t lo hi).fab = s.fab := rfl
@[simp] theorem zeroSram_thr (s : State) (t lo hi : Nat) : (zeroSram s t lo hi).thr = s.thr := rfl
@[simp] theorem zeroSram_sheaf (s : State) (t lo hi : Nat) : (zeroSram s t lo hi).sheaf = s.sheaf := rfl
@[simp] theorem zeroSram_pav (s : State) (t lo hi : Nat) : (zeroSram s t lo hi).pav = s.pav := rfl
@[simp] theorem zeroSram_atom (s : State) (t lo hi : Nat) : (zeroSram s t lo hi).atom = s.atom := rfl
@[simp] theorem zeroSram_gate (s : State) (t lo hi : Nat) : (zeroSram s t lo hi).gate = s.gate := rfl
@[simp] theorem zeroSram_belv (s : State) (t lo hi : Nat) : (zeroSram s t lo hi).belv = s.belv := rfl
@[simp] theorem zeroSram_fuse (s : State) (t lo hi : Nat) : (zeroSram s t lo hi).fuse = s.fuse := rfl
@[simp] theorem zeroSram_boot (s : State) (t lo hi : Nat) : (zeroSram s t lo hi).boot = s.boot := rfl
@[simp] theorem zeroSram_tb (s : State) (t lo hi : Nat) : (zeroSram s t lo hi).tb = s.tb := rfl
@[simp] theorem zeroSram_det (s : State) (t lo hi : Nat) : (zeroSram s t lo hi).det = s.det := rfl
@[simp] theorem zeroSram_d2d (s : State) (t lo hi : Nat) : (zeroSram s t lo hi).d2d = s.d2d := rfl
@[simp] theorem zeroSram_mod (s : State) (t lo hi : Nat) : (zeroSram s t lo hi).mod = s.mod := rfl
@[simp] theorem zeroSram_freeIdx (s : State) (t lo hi : Nat) : (zeroSram s t lo hi).freeIdx = s.freeIdx := rfl
@[simp] theorem zeroSram_rdata (s : State) (t lo hi : Nat) : (zeroSram s t lo hi).rdata = s.rdata := rfl

/-! ### writeHost -/

@[simp] theorem writeHost_pending (s : State) (a : Nat) (bs : List Byte) : (writeHost s a bs).pending = s.pending := rfl
@[simp] theorem writeHost_clk (s : State) (a : Nat) (bs : List Byte) : (writeHost s a bs).clk = s.clk := rfl
@[simp] theorem writeHost_tiles (s : State) (a : Nat) (bs : List Byte) : (writeHost s a bs).tiles = s.tiles := rfl
@[simp] theorem writeHost_parts (s : State) (a : Nat) (bs : List Byte) : (writeHost s a bs).parts = s.parts := rfl
@[simp] theorem writeHost_edge (s : State) (a : Nat) (bs : List Byte) : (writeHost s a bs).edge = s.edge := rfl
@[simp] theorem writeHost_mesh (s : State) (a : Nat) (bs : List Byte) : (writeHost s a bs).mesh = s.mesh := rfl
@[simp] theorem writeHost_backlog (s : State) (a : Nat) (bs : List Byte) : (writeHost s a bs).backlog = s.backlog := rfl
@[simp] theorem writeHost_gateUsed (s : State) (a : Nat) (bs : List Byte) : (writeHost s a bs).gateUsed = s.gateUsed := rfl
@[simp] theorem writeHost_kept (s : State) (a : Nat) (bs : List Byte) : (writeHost s a bs).kept = s.kept := rfl
@[simp] theorem writeHost_grn (s : State) (a : Nat) (bs : List Byte) : (writeHost s a bs).grn = s.grn := rfl
@[simp] theorem writeHost_mch (s : State) (a : Nat) (bs : List Byte) : (writeHost s a bs).mch = s.mch := rfl
@[simp] theorem writeHost_host (s : State) (a : Nat) (bs : List Byte) : (writeHost s a bs).host = s.host := rfl
@[simp] theorem writeHost_lodge (s : State) (a : Nat) (bs : List Byte) : (writeHost s a bs).lodge = s.lodge := rfl
@[simp] theorem writeHost_fab (s : State) (a : Nat) (bs : List Byte) : (writeHost s a bs).fab = s.fab := rfl
@[simp] theorem writeHost_thr (s : State) (a : Nat) (bs : List Byte) : (writeHost s a bs).thr = s.thr := rfl
@[simp] theorem writeHost_sheaf (s : State) (a : Nat) (bs : List Byte) : (writeHost s a bs).sheaf = s.sheaf := rfl
@[simp] theorem writeHost_pav (s : State) (a : Nat) (bs : List Byte) : (writeHost s a bs).pav = s.pav := rfl
@[simp] theorem writeHost_atom (s : State) (a : Nat) (bs : List Byte) : (writeHost s a bs).atom = s.atom := rfl
@[simp] theorem writeHost_gate (s : State) (a : Nat) (bs : List Byte) : (writeHost s a bs).gate = s.gate := rfl
@[simp] theorem writeHost_belv (s : State) (a : Nat) (bs : List Byte) : (writeHost s a bs).belv = s.belv := rfl
@[simp] theorem writeHost_fuse (s : State) (a : Nat) (bs : List Byte) : (writeHost s a bs).fuse = s.fuse := rfl
@[simp] theorem writeHost_boot (s : State) (a : Nat) (bs : List Byte) : (writeHost s a bs).boot = s.boot := rfl
@[simp] theorem writeHost_tb (s : State) (a : Nat) (bs : List Byte) : (writeHost s a bs).tb = s.tb := rfl
@[simp] theorem writeHost_det (s : State) (a : Nat) (bs : List Byte) : (writeHost s a bs).det = s.det := rfl
@[simp] theorem writeHost_d2d (s : State) (a : Nat) (bs : List Byte) : (writeHost s a bs).d2d = s.d2d := rfl
@[simp] theorem writeHost_mod (s : State) (a : Nat) (bs : List Byte) : (writeHost s a bs).mod = s.mod := rfl
@[simp] theorem writeHost_freeIdx (s : State) (a : Nat) (bs : List Byte) : (writeHost s a bs).freeIdx = s.freeIdx := rfl
@[simp] theorem writeHost_rdata (s : State) (a : Nat) (bs : List Byte) : (writeHost s a bs).rdata = s.rdata := rfl

/-! ### t1WriteRaw -/

@[simp] theorem t1WriteRaw_pending (s : State) (a : Nat) (bs : List Byte) : (t1WriteRaw s a bs).pending = s.pending := rfl
@[simp] theorem t1WriteRaw_clk (s : State) (a : Nat) (bs : List Byte) : (t1WriteRaw s a bs).clk = s.clk := rfl
@[simp] theorem t1WriteRaw_regs (s : State) (a : Nat) (bs : List Byte) : (t1WriteRaw s a bs).regs = s.regs := rfl
@[simp] theorem t1WriteRaw_tiles (s : State) (a : Nat) (bs : List Byte) : (t1WriteRaw s a bs).tiles = s.tiles := rfl
@[simp] theorem t1WriteRaw_parts (s : State) (a : Nat) (bs : List Byte) : (t1WriteRaw s a bs).parts = s.parts := rfl
@[simp] theorem t1WriteRaw_edge (s : State) (a : Nat) (bs : List Byte) : (t1WriteRaw s a bs).edge = s.edge := rfl
@[simp] theorem t1WriteRaw_mesh (s : State) (a : Nat) (bs : List Byte) : (t1WriteRaw s a bs).mesh = s.mesh := rfl
@[simp] theorem t1WriteRaw_backlog (s : State) (a : Nat) (bs : List Byte) : (t1WriteRaw s a bs).backlog = s.backlog := rfl
@[simp] theorem t1WriteRaw_gateUsed (s : State) (a : Nat) (bs : List Byte) : (t1WriteRaw s a bs).gateUsed = s.gateUsed := rfl
@[simp] theorem t1WriteRaw_kept (s : State) (a : Nat) (bs : List Byte) : (t1WriteRaw s a bs).kept = s.kept := rfl
@[simp] theorem t1WriteRaw_grn (s : State) (a : Nat) (bs : List Byte) : (t1WriteRaw s a bs).grn = s.grn := rfl
@[simp] theorem t1WriteRaw_mch (s : State) (a : Nat) (bs : List Byte) : (t1WriteRaw s a bs).mch = s.mch := rfl
@[simp] theorem t1WriteRaw_host (s : State) (a : Nat) (bs : List Byte) : (t1WriteRaw s a bs).host = s.host := rfl
@[simp] theorem t1WriteRaw_lodge (s : State) (a : Nat) (bs : List Byte) : (t1WriteRaw s a bs).lodge = s.lodge := rfl
@[simp] theorem t1WriteRaw_fab (s : State) (a : Nat) (bs : List Byte) : (t1WriteRaw s a bs).fab = s.fab := rfl
@[simp] theorem t1WriteRaw_thr (s : State) (a : Nat) (bs : List Byte) : (t1WriteRaw s a bs).thr = s.thr := rfl
@[simp] theorem t1WriteRaw_sheaf (s : State) (a : Nat) (bs : List Byte) : (t1WriteRaw s a bs).sheaf = s.sheaf := rfl
@[simp] theorem t1WriteRaw_pav (s : State) (a : Nat) (bs : List Byte) : (t1WriteRaw s a bs).pav = s.pav := rfl
@[simp] theorem t1WriteRaw_atom (s : State) (a : Nat) (bs : List Byte) : (t1WriteRaw s a bs).atom = s.atom := rfl
@[simp] theorem t1WriteRaw_gate (s : State) (a : Nat) (bs : List Byte) : (t1WriteRaw s a bs).gate = s.gate := rfl
@[simp] theorem t1WriteRaw_belv (s : State) (a : Nat) (bs : List Byte) : (t1WriteRaw s a bs).belv = s.belv := rfl
@[simp] theorem t1WriteRaw_fuse (s : State) (a : Nat) (bs : List Byte) : (t1WriteRaw s a bs).fuse = s.fuse := rfl
@[simp] theorem t1WriteRaw_boot (s : State) (a : Nat) (bs : List Byte) : (t1WriteRaw s a bs).boot = s.boot := rfl
@[simp] theorem t1WriteRaw_tb (s : State) (a : Nat) (bs : List Byte) : (t1WriteRaw s a bs).tb = s.tb := rfl
@[simp] theorem t1WriteRaw_det (s : State) (a : Nat) (bs : List Byte) : (t1WriteRaw s a bs).det = s.det := rfl
@[simp] theorem t1WriteRaw_d2d (s : State) (a : Nat) (bs : List Byte) : (t1WriteRaw s a bs).d2d = s.d2d := rfl
@[simp] theorem t1WriteRaw_mod (s : State) (a : Nat) (bs : List Byte) : (t1WriteRaw s a bs).mod = s.mod := rfl
@[simp] theorem t1WriteRaw_freeIdx (s : State) (a : Nat) (bs : List Byte) : (t1WriteRaw s a bs).freeIdx = s.freeIdx := rfl
@[simp] theorem t1WriteRaw_rdata (s : State) (a : Nat) (bs : List Byte) : (t1WriteRaw s a bs).rdata = s.rdata := rfl

/-! ### setMch -/

@[simp] theorem setMch_pending (s : State) (c : Nat) (m : Mch) : (setMch s c m).pending = s.pending := rfl
@[simp] theorem setMch_clk (s : State) (c : Nat) (m : Mch) : (setMch s c m).clk = s.clk := rfl
@[simp] theorem setMch_regs (s : State) (c : Nat) (m : Mch) : (setMch s c m).regs = s.regs := rfl
@[simp] theorem setMch_mem (s : State) (c : Nat) (m : Mch) : (setMch s c m).mem = s.mem := rfl
@[simp] theorem setMch_tiles (s : State) (c : Nat) (m : Mch) : (setMch s c m).tiles = s.tiles := rfl
@[simp] theorem setMch_parts (s : State) (c : Nat) (m : Mch) : (setMch s c m).parts = s.parts := rfl
@[simp] theorem setMch_edge (s : State) (c : Nat) (m : Mch) : (setMch s c m).edge = s.edge := rfl
@[simp] theorem setMch_mesh (s : State) (c : Nat) (m : Mch) : (setMch s c m).mesh = s.mesh := rfl
@[simp] theorem setMch_backlog (s : State) (c : Nat) (m : Mch) : (setMch s c m).backlog = s.backlog := rfl
@[simp] theorem setMch_gateUsed (s : State) (c : Nat) (m : Mch) : (setMch s c m).gateUsed = s.gateUsed := rfl
@[simp] theorem setMch_kept (s : State) (c : Nat) (m : Mch) : (setMch s c m).kept = s.kept := rfl
@[simp] theorem setMch_grn (s : State) (c : Nat) (m : Mch) : (setMch s c m).grn = s.grn := rfl
@[simp] theorem setMch_host (s : State) (c : Nat) (m : Mch) : (setMch s c m).host = s.host := rfl
@[simp] theorem setMch_lodge (s : State) (c : Nat) (m : Mch) : (setMch s c m).lodge = s.lodge := rfl
@[simp] theorem setMch_fab (s : State) (c : Nat) (m : Mch) : (setMch s c m).fab = s.fab := rfl
@[simp] theorem setMch_thr (s : State) (c : Nat) (m : Mch) : (setMch s c m).thr = s.thr := rfl
@[simp] theorem setMch_sheaf (s : State) (c : Nat) (m : Mch) : (setMch s c m).sheaf = s.sheaf := rfl
@[simp] theorem setMch_pav (s : State) (c : Nat) (m : Mch) : (setMch s c m).pav = s.pav := rfl
@[simp] theorem setMch_atom (s : State) (c : Nat) (m : Mch) : (setMch s c m).atom = s.atom := rfl
@[simp] theorem setMch_gate (s : State) (c : Nat) (m : Mch) : (setMch s c m).gate = s.gate := rfl
@[simp] theorem setMch_belv (s : State) (c : Nat) (m : Mch) : (setMch s c m).belv = s.belv := rfl
@[simp] theorem setMch_fuse (s : State) (c : Nat) (m : Mch) : (setMch s c m).fuse = s.fuse := rfl
@[simp] theorem setMch_boot (s : State) (c : Nat) (m : Mch) : (setMch s c m).boot = s.boot := rfl
@[simp] theorem setMch_tb (s : State) (c : Nat) (m : Mch) : (setMch s c m).tb = s.tb := rfl
@[simp] theorem setMch_det (s : State) (c : Nat) (m : Mch) : (setMch s c m).det = s.det := rfl
@[simp] theorem setMch_d2d (s : State) (c : Nat) (m : Mch) : (setMch s c m).d2d = s.d2d := rfl
@[simp] theorem setMch_mod (s : State) (c : Nat) (m : Mch) : (setMch s c m).mod = s.mod := rfl
@[simp] theorem setMch_freeIdx (s : State) (c : Nat) (m : Mch) : (setMch s c m).freeIdx = s.freeIdx := rfl
@[simp] theorem setMch_rdata (s : State) (c : Nat) (m : Mch) : (setMch s c m).rdata = s.rdata := rfl

/-! ### setTile -/

@[simp] theorem setTile_pending (s : State) (t : Nat) (x : Tile) : (setTile s t x).pending = s.pending := rfl
@[simp] theorem setTile_clk (s : State) (t : Nat) (x : Tile) : (setTile s t x).clk = s.clk := rfl
@[simp] theorem setTile_regs (s : State) (t : Nat) (x : Tile) : (setTile s t x).regs = s.regs := rfl
@[simp] theorem setTile_mem (s : State) (t : Nat) (x : Tile) : (setTile s t x).mem = s.mem := rfl
@[simp] theorem setTile_parts (s : State) (t : Nat) (x : Tile) : (setTile s t x).parts = s.parts := rfl
@[simp] theorem setTile_edge (s : State) (t : Nat) (x : Tile) : (setTile s t x).edge = s.edge := rfl
@[simp] theorem setTile_mesh (s : State) (t : Nat) (x : Tile) : (setTile s t x).mesh = s.mesh := rfl
@[simp] theorem setTile_backlog (s : State) (t : Nat) (x : Tile) : (setTile s t x).backlog = s.backlog := rfl
@[simp] theorem setTile_gateUsed (s : State) (t : Nat) (x : Tile) : (setTile s t x).gateUsed = s.gateUsed := rfl
@[simp] theorem setTile_kept (s : State) (t : Nat) (x : Tile) : (setTile s t x).kept = s.kept := rfl
@[simp] theorem setTile_grn (s : State) (t : Nat) (x : Tile) : (setTile s t x).grn = s.grn := rfl
@[simp] theorem setTile_mch (s : State) (t : Nat) (x : Tile) : (setTile s t x).mch = s.mch := rfl
@[simp] theorem setTile_host (s : State) (t : Nat) (x : Tile) : (setTile s t x).host = s.host := rfl
@[simp] theorem setTile_lodge (s : State) (t : Nat) (x : Tile) : (setTile s t x).lodge = s.lodge := rfl
@[simp] theorem setTile_fab (s : State) (t : Nat) (x : Tile) : (setTile s t x).fab = s.fab := rfl
@[simp] theorem setTile_thr (s : State) (t : Nat) (x : Tile) : (setTile s t x).thr = s.thr := rfl
@[simp] theorem setTile_sheaf (s : State) (t : Nat) (x : Tile) : (setTile s t x).sheaf = s.sheaf := rfl
@[simp] theorem setTile_pav (s : State) (t : Nat) (x : Tile) : (setTile s t x).pav = s.pav := rfl
@[simp] theorem setTile_atom (s : State) (t : Nat) (x : Tile) : (setTile s t x).atom = s.atom := rfl
@[simp] theorem setTile_gate (s : State) (t : Nat) (x : Tile) : (setTile s t x).gate = s.gate := rfl
@[simp] theorem setTile_belv (s : State) (t : Nat) (x : Tile) : (setTile s t x).belv = s.belv := rfl
@[simp] theorem setTile_fuse (s : State) (t : Nat) (x : Tile) : (setTile s t x).fuse = s.fuse := rfl
@[simp] theorem setTile_boot (s : State) (t : Nat) (x : Tile) : (setTile s t x).boot = s.boot := rfl
@[simp] theorem setTile_tb (s : State) (t : Nat) (x : Tile) : (setTile s t x).tb = s.tb := rfl
@[simp] theorem setTile_det (s : State) (t : Nat) (x : Tile) : (setTile s t x).det = s.det := rfl
@[simp] theorem setTile_d2d (s : State) (t : Nat) (x : Tile) : (setTile s t x).d2d = s.d2d := rfl
@[simp] theorem setTile_mod (s : State) (t : Nat) (x : Tile) : (setTile s t x).mod = s.mod := rfl
@[simp] theorem setTile_freeIdx (s : State) (t : Nat) (x : Tile) : (setTile s t x).freeIdx = s.freeIdx := rfl
@[simp] theorem setTile_rdata (s : State) (t : Nat) (x : Tile) : (setTile s t x).rdata = s.rdata := rfl

/-! ### setFg -/

@[simp] theorem setFg_pending (s : State) (t : Nat) (c : Ctx) : (setFg s t c).pending = s.pending := rfl
@[simp] theorem setFg_clk (s : State) (t : Nat) (c : Ctx) : (setFg s t c).clk = s.clk := rfl
@[simp] theorem setFg_regs (s : State) (t : Nat) (c : Ctx) : (setFg s t c).regs = s.regs := rfl
@[simp] theorem setFg_mem (s : State) (t : Nat) (c : Ctx) : (setFg s t c).mem = s.mem := rfl
@[simp] theorem setFg_parts (s : State) (t : Nat) (c : Ctx) : (setFg s t c).parts = s.parts := rfl
@[simp] theorem setFg_edge (s : State) (t : Nat) (c : Ctx) : (setFg s t c).edge = s.edge := rfl
@[simp] theorem setFg_mesh (s : State) (t : Nat) (c : Ctx) : (setFg s t c).mesh = s.mesh := rfl
@[simp] theorem setFg_backlog (s : State) (t : Nat) (c : Ctx) : (setFg s t c).backlog = s.backlog := rfl
@[simp] theorem setFg_gateUsed (s : State) (t : Nat) (c : Ctx) : (setFg s t c).gateUsed = s.gateUsed := rfl
@[simp] theorem setFg_kept (s : State) (t : Nat) (c : Ctx) : (setFg s t c).kept = s.kept := rfl
@[simp] theorem setFg_grn (s : State) (t : Nat) (c : Ctx) : (setFg s t c).grn = s.grn := rfl
@[simp] theorem setFg_mch (s : State) (t : Nat) (c : Ctx) : (setFg s t c).mch = s.mch := rfl
@[simp] theorem setFg_host (s : State) (t : Nat) (c : Ctx) : (setFg s t c).host = s.host := rfl
@[simp] theorem setFg_lodge (s : State) (t : Nat) (c : Ctx) : (setFg s t c).lodge = s.lodge := rfl
@[simp] theorem setFg_fab (s : State) (t : Nat) (c : Ctx) : (setFg s t c).fab = s.fab := rfl
@[simp] theorem setFg_thr (s : State) (t : Nat) (c : Ctx) : (setFg s t c).thr = s.thr := rfl
@[simp] theorem setFg_sheaf (s : State) (t : Nat) (c : Ctx) : (setFg s t c).sheaf = s.sheaf := rfl
@[simp] theorem setFg_pav (s : State) (t : Nat) (c : Ctx) : (setFg s t c).pav = s.pav := rfl
@[simp] theorem setFg_atom (s : State) (t : Nat) (c : Ctx) : (setFg s t c).atom = s.atom := rfl
@[simp] theorem setFg_gate (s : State) (t : Nat) (c : Ctx) : (setFg s t c).gate = s.gate := rfl
@[simp] theorem setFg_belv (s : State) (t : Nat) (c : Ctx) : (setFg s t c).belv = s.belv := rfl
@[simp] theorem setFg_fuse (s : State) (t : Nat) (c : Ctx) : (setFg s t c).fuse = s.fuse := rfl
@[simp] theorem setFg_boot (s : State) (t : Nat) (c : Ctx) : (setFg s t c).boot = s.boot := rfl
@[simp] theorem setFg_tb (s : State) (t : Nat) (c : Ctx) : (setFg s t c).tb = s.tb := rfl
@[simp] theorem setFg_det (s : State) (t : Nat) (c : Ctx) : (setFg s t c).det = s.det := rfl
@[simp] theorem setFg_d2d (s : State) (t : Nat) (c : Ctx) : (setFg s t c).d2d = s.d2d := rfl
@[simp] theorem setFg_mod (s : State) (t : Nat) (c : Ctx) : (setFg s t c).mod = s.mod := rfl
@[simp] theorem setFg_freeIdx (s : State) (t : Nat) (c : Ctx) : (setFg s t c).freeIdx = s.freeIdx := rfl
@[simp] theorem setFg_rdata (s : State) (t : Nat) (c : Ctx) : (setFg s t c).rdata = s.rdata := rfl

/-! ### setPart -/

@[simp] theorem setPart_pending (s : State) (n : Nat) (p : Part) : (setPart s n p).pending = s.pending := rfl
@[simp] theorem setPart_clk (s : State) (n : Nat) (p : Part) : (setPart s n p).clk = s.clk := rfl
@[simp] theorem setPart_regs (s : State) (n : Nat) (p : Part) : (setPart s n p).regs = s.regs := rfl
@[simp] theorem setPart_mem (s : State) (n : Nat) (p : Part) : (setPart s n p).mem = s.mem := rfl
@[simp] theorem setPart_tiles (s : State) (n : Nat) (p : Part) : (setPart s n p).tiles = s.tiles := rfl
@[simp] theorem setPart_edge (s : State) (n : Nat) (p : Part) : (setPart s n p).edge = s.edge := rfl
@[simp] theorem setPart_mesh (s : State) (n : Nat) (p : Part) : (setPart s n p).mesh = s.mesh := rfl
@[simp] theorem setPart_backlog (s : State) (n : Nat) (p : Part) : (setPart s n p).backlog = s.backlog := rfl
@[simp] theorem setPart_gateUsed (s : State) (n : Nat) (p : Part) : (setPart s n p).gateUsed = s.gateUsed := rfl
@[simp] theorem setPart_kept (s : State) (n : Nat) (p : Part) : (setPart s n p).kept = s.kept := rfl
@[simp] theorem setPart_grn (s : State) (n : Nat) (p : Part) : (setPart s n p).grn = s.grn := rfl
@[simp] theorem setPart_mch (s : State) (n : Nat) (p : Part) : (setPart s n p).mch = s.mch := rfl
@[simp] theorem setPart_host (s : State) (n : Nat) (p : Part) : (setPart s n p).host = s.host := rfl
@[simp] theorem setPart_lodge (s : State) (n : Nat) (p : Part) : (setPart s n p).lodge = s.lodge := rfl
@[simp] theorem setPart_fab (s : State) (n : Nat) (p : Part) : (setPart s n p).fab = s.fab := rfl
@[simp] theorem setPart_thr (s : State) (n : Nat) (p : Part) : (setPart s n p).thr = s.thr := rfl
@[simp] theorem setPart_sheaf (s : State) (n : Nat) (p : Part) : (setPart s n p).sheaf = s.sheaf := rfl
@[simp] theorem setPart_pav (s : State) (n : Nat) (p : Part) : (setPart s n p).pav = s.pav := rfl
@[simp] theorem setPart_atom (s : State) (n : Nat) (p : Part) : (setPart s n p).atom = s.atom := rfl
@[simp] theorem setPart_gate (s : State) (n : Nat) (p : Part) : (setPart s n p).gate = s.gate := rfl
@[simp] theorem setPart_belv (s : State) (n : Nat) (p : Part) : (setPart s n p).belv = s.belv := rfl
@[simp] theorem setPart_fuse (s : State) (n : Nat) (p : Part) : (setPart s n p).fuse = s.fuse := rfl
@[simp] theorem setPart_boot (s : State) (n : Nat) (p : Part) : (setPart s n p).boot = s.boot := rfl
@[simp] theorem setPart_tb (s : State) (n : Nat) (p : Part) : (setPart s n p).tb = s.tb := rfl
@[simp] theorem setPart_det (s : State) (n : Nat) (p : Part) : (setPart s n p).det = s.det := rfl
@[simp] theorem setPart_d2d (s : State) (n : Nat) (p : Part) : (setPart s n p).d2d = s.d2d := rfl
@[simp] theorem setPart_mod (s : State) (n : Nat) (p : Part) : (setPart s n p).mod = s.mod := rfl
@[simp] theorem setPart_freeIdx (s : State) (n : Nat) (p : Part) : (setPart s n p).freeIdx = s.freeIdx := rfl
@[simp] theorem setPart_rdata (s : State) (n : Nat) (p : Part) : (setPart s n p).rdata = s.rdata := rfl

/-! ### setPort -/

@[simp] theorem setPort_pending (s : State) (p : Nat) (x : Port) : (setPort s p x).pending = s.pending := rfl
@[simp] theorem setPort_clk (s : State) (p : Nat) (x : Port) : (setPort s p x).clk = s.clk := rfl
@[simp] theorem setPort_regs (s : State) (p : Nat) (x : Port) : (setPort s p x).regs = s.regs := rfl
@[simp] theorem setPort_mem (s : State) (p : Nat) (x : Port) : (setPort s p x).mem = s.mem := rfl
@[simp] theorem setPort_tiles (s : State) (p : Nat) (x : Port) : (setPort s p x).tiles = s.tiles := rfl
@[simp] theorem setPort_parts (s : State) (p : Nat) (x : Port) : (setPort s p x).parts = s.parts := rfl
@[simp] theorem setPort_edge (s : State) (p : Nat) (x : Port) : (setPort s p x).edge = s.edge := rfl
@[simp] theorem setPort_mesh (s : State) (p : Nat) (x : Port) : (setPort s p x).mesh = s.mesh := rfl
@[simp] theorem setPort_backlog (s : State) (p : Nat) (x : Port) : (setPort s p x).backlog = s.backlog := rfl
@[simp] theorem setPort_gateUsed (s : State) (p : Nat) (x : Port) : (setPort s p x).gateUsed = s.gateUsed := rfl
@[simp] theorem setPort_kept (s : State) (p : Nat) (x : Port) : (setPort s p x).kept = s.kept := rfl
@[simp] theorem setPort_grn (s : State) (p : Nat) (x : Port) : (setPort s p x).grn = s.grn := rfl
@[simp] theorem setPort_mch (s : State) (p : Nat) (x : Port) : (setPort s p x).mch = s.mch := rfl
@[simp] theorem setPort_host (s : State) (p : Nat) (x : Port) : (setPort s p x).host = s.host := rfl
@[simp] theorem setPort_lodge (s : State) (p : Nat) (x : Port) : (setPort s p x).lodge = s.lodge := rfl
@[simp] theorem setPort_thr (s : State) (p : Nat) (x : Port) : (setPort s p x).thr = s.thr := rfl
@[simp] theorem setPort_sheaf (s : State) (p : Nat) (x : Port) : (setPort s p x).sheaf = s.sheaf := rfl
@[simp] theorem setPort_pav (s : State) (p : Nat) (x : Port) : (setPort s p x).pav = s.pav := rfl
@[simp] theorem setPort_atom (s : State) (p : Nat) (x : Port) : (setPort s p x).atom = s.atom := rfl
@[simp] theorem setPort_gate (s : State) (p : Nat) (x : Port) : (setPort s p x).gate = s.gate := rfl
@[simp] theorem setPort_belv (s : State) (p : Nat) (x : Port) : (setPort s p x).belv = s.belv := rfl
@[simp] theorem setPort_fuse (s : State) (p : Nat) (x : Port) : (setPort s p x).fuse = s.fuse := rfl
@[simp] theorem setPort_boot (s : State) (p : Nat) (x : Port) : (setPort s p x).boot = s.boot := rfl
@[simp] theorem setPort_tb (s : State) (p : Nat) (x : Port) : (setPort s p x).tb = s.tb := rfl
@[simp] theorem setPort_det (s : State) (p : Nat) (x : Port) : (setPort s p x).det = s.det := rfl
@[simp] theorem setPort_d2d (s : State) (p : Nat) (x : Port) : (setPort s p x).d2d = s.d2d := rfl
@[simp] theorem setPort_mod (s : State) (p : Nat) (x : Port) : (setPort s p x).mod = s.mod := rfl
@[simp] theorem setPort_freeIdx (s : State) (p : Nat) (x : Port) : (setPort s p x).freeIdx = s.freeIdx := rfl
@[simp] theorem setPort_rdata (s : State) (p : Nat) (x : Port) : (setPort s p x).rdata = s.rdata := rfl

/-! ### setD2d -/

@[simp] theorem setD2d_pending (s : State) (k : Nat) (x : D2d) : (setD2d s k x).pending = s.pending := rfl
@[simp] theorem setD2d_clk (s : State) (k : Nat) (x : D2d) : (setD2d s k x).clk = s.clk := rfl
@[simp] theorem setD2d_regs (s : State) (k : Nat) (x : D2d) : (setD2d s k x).regs = s.regs := rfl
@[simp] theorem setD2d_mem (s : State) (k : Nat) (x : D2d) : (setD2d s k x).mem = s.mem := rfl
@[simp] theorem setD2d_tiles (s : State) (k : Nat) (x : D2d) : (setD2d s k x).tiles = s.tiles := rfl
@[simp] theorem setD2d_parts (s : State) (k : Nat) (x : D2d) : (setD2d s k x).parts = s.parts := rfl
@[simp] theorem setD2d_edge (s : State) (k : Nat) (x : D2d) : (setD2d s k x).edge = s.edge := rfl
@[simp] theorem setD2d_mesh (s : State) (k : Nat) (x : D2d) : (setD2d s k x).mesh = s.mesh := rfl
@[simp] theorem setD2d_backlog (s : State) (k : Nat) (x : D2d) : (setD2d s k x).backlog = s.backlog := rfl
@[simp] theorem setD2d_gateUsed (s : State) (k : Nat) (x : D2d) : (setD2d s k x).gateUsed = s.gateUsed := rfl
@[simp] theorem setD2d_kept (s : State) (k : Nat) (x : D2d) : (setD2d s k x).kept = s.kept := rfl
@[simp] theorem setD2d_grn (s : State) (k : Nat) (x : D2d) : (setD2d s k x).grn = s.grn := rfl
@[simp] theorem setD2d_mch (s : State) (k : Nat) (x : D2d) : (setD2d s k x).mch = s.mch := rfl
@[simp] theorem setD2d_host (s : State) (k : Nat) (x : D2d) : (setD2d s k x).host = s.host := rfl
@[simp] theorem setD2d_lodge (s : State) (k : Nat) (x : D2d) : (setD2d s k x).lodge = s.lodge := rfl
@[simp] theorem setD2d_fab (s : State) (k : Nat) (x : D2d) : (setD2d s k x).fab = s.fab := rfl
@[simp] theorem setD2d_thr (s : State) (k : Nat) (x : D2d) : (setD2d s k x).thr = s.thr := rfl
@[simp] theorem setD2d_sheaf (s : State) (k : Nat) (x : D2d) : (setD2d s k x).sheaf = s.sheaf := rfl
@[simp] theorem setD2d_pav (s : State) (k : Nat) (x : D2d) : (setD2d s k x).pav = s.pav := rfl
@[simp] theorem setD2d_atom (s : State) (k : Nat) (x : D2d) : (setD2d s k x).atom = s.atom := rfl
@[simp] theorem setD2d_gate (s : State) (k : Nat) (x : D2d) : (setD2d s k x).gate = s.gate := rfl
@[simp] theorem setD2d_belv (s : State) (k : Nat) (x : D2d) : (setD2d s k x).belv = s.belv := rfl
@[simp] theorem setD2d_fuse (s : State) (k : Nat) (x : D2d) : (setD2d s k x).fuse = s.fuse := rfl
@[simp] theorem setD2d_boot (s : State) (k : Nat) (x : D2d) : (setD2d s k x).boot = s.boot := rfl
@[simp] theorem setD2d_tb (s : State) (k : Nat) (x : D2d) : (setD2d s k x).tb = s.tb := rfl
@[simp] theorem setD2d_det (s : State) (k : Nat) (x : D2d) : (setD2d s k x).det = s.det := rfl
@[simp] theorem setD2d_mod (s : State) (k : Nat) (x : D2d) : (setD2d s k x).mod = s.mod := rfl
@[simp] theorem setD2d_freeIdx (s : State) (k : Nat) (x : D2d) : (setD2d s k x).freeIdx = s.freeIdx := rfl
@[simp] theorem setD2d_rdata (s : State) (k : Nat) (x : D2d) : (setD2d s k x).rdata = s.rdata := rfl

/-! ### msixSend -/

@[simp] theorem msixSend_pending (s : State) (fn v : Nat) : (msixSend s fn v).pending = s.pending := by
  unfold msixSend; dsimp only; split <;> rfl
@[simp] theorem msixSend_clk (s : State) (fn v : Nat) : (msixSend s fn v).clk = s.clk := by
  unfold msixSend; dsimp only; split <;> rfl
@[simp] theorem msixSend_regs (s : State) (fn v : Nat) : (msixSend s fn v).regs = s.regs := by
  unfold msixSend; dsimp only; split <;> rfl
@[simp] theorem msixSend_mem (s : State) (fn v : Nat) : (msixSend s fn v).mem = s.mem := by
  unfold msixSend; dsimp only; split <;> rfl
@[simp] theorem msixSend_tiles (s : State) (fn v : Nat) : (msixSend s fn v).tiles = s.tiles := by
  unfold msixSend; dsimp only; split <;> rfl
@[simp] theorem msixSend_parts (s : State) (fn v : Nat) : (msixSend s fn v).parts = s.parts := by
  unfold msixSend; dsimp only; split <;> rfl
@[simp] theorem msixSend_edge (s : State) (fn v : Nat) : (msixSend s fn v).edge = s.edge := by
  unfold msixSend; dsimp only; split <;> rfl
@[simp] theorem msixSend_mesh (s : State) (fn v : Nat) : (msixSend s fn v).mesh = s.mesh := by
  unfold msixSend; dsimp only; split <;> rfl
@[simp] theorem msixSend_backlog (s : State) (fn v : Nat) : (msixSend s fn v).backlog = s.backlog := by
  unfold msixSend; dsimp only; split <;> rfl
@[simp] theorem msixSend_gateUsed (s : State) (fn v : Nat) : (msixSend s fn v).gateUsed = s.gateUsed := by
  unfold msixSend; dsimp only; split <;> rfl
@[simp] theorem msixSend_kept (s : State) (fn v : Nat) : (msixSend s fn v).kept = s.kept := by
  unfold msixSend; dsimp only; split <;> rfl
@[simp] theorem msixSend_grn (s : State) (fn v : Nat) : (msixSend s fn v).grn = s.grn := by
  unfold msixSend; dsimp only; split <;> rfl
@[simp] theorem msixSend_mch (s : State) (fn v : Nat) : (msixSend s fn v).mch = s.mch := by
  unfold msixSend; dsimp only; split <;> rfl
@[simp] theorem msixSend_lodge (s : State) (fn v : Nat) : (msixSend s fn v).lodge = s.lodge := by
  unfold msixSend; dsimp only; split <;> rfl
@[simp] theorem msixSend_fab (s : State) (fn v : Nat) : (msixSend s fn v).fab = s.fab := by
  unfold msixSend; dsimp only; split <;> rfl
@[simp] theorem msixSend_thr (s : State) (fn v : Nat) : (msixSend s fn v).thr = s.thr := by
  unfold msixSend; dsimp only; split <;> rfl
@[simp] theorem msixSend_sheaf (s : State) (fn v : Nat) : (msixSend s fn v).sheaf = s.sheaf := by
  unfold msixSend; dsimp only; split <;> rfl
@[simp] theorem msixSend_pav (s : State) (fn v : Nat) : (msixSend s fn v).pav = s.pav := by
  unfold msixSend; dsimp only; split <;> rfl
@[simp] theorem msixSend_atom (s : State) (fn v : Nat) : (msixSend s fn v).atom = s.atom := by
  unfold msixSend; dsimp only; split <;> rfl
@[simp] theorem msixSend_gate (s : State) (fn v : Nat) : (msixSend s fn v).gate = s.gate := by
  unfold msixSend; dsimp only; split <;> rfl
@[simp] theorem msixSend_belv (s : State) (fn v : Nat) : (msixSend s fn v).belv = s.belv := by
  unfold msixSend; dsimp only; split <;> rfl
@[simp] theorem msixSend_fuse (s : State) (fn v : Nat) : (msixSend s fn v).fuse = s.fuse := by
  unfold msixSend; dsimp only; split <;> rfl
@[simp] theorem msixSend_boot (s : State) (fn v : Nat) : (msixSend s fn v).boot = s.boot := by
  unfold msixSend; dsimp only; split <;> rfl
@[simp] theorem msixSend_tb (s : State) (fn v : Nat) : (msixSend s fn v).tb = s.tb := by
  unfold msixSend; dsimp only; split <;> rfl
@[simp] theorem msixSend_det (s : State) (fn v : Nat) : (msixSend s fn v).det = s.det := by
  unfold msixSend; dsimp only; split <;> rfl
@[simp] theorem msixSend_d2d (s : State) (fn v : Nat) : (msixSend s fn v).d2d = s.d2d := by
  unfold msixSend; dsimp only; split <;> rfl
@[simp] theorem msixSend_mod (s : State) (fn v : Nat) : (msixSend s fn v).mod = s.mod := by
  unfold msixSend; dsimp only; split <;> rfl
@[simp] theorem msixSend_freeIdx (s : State) (fn v : Nat) : (msixSend s fn v).freeIdx = s.freeIdx := by
  unfold msixSend; dsimp only; split <;> rfl
@[simp] theorem msixSend_rdata (s : State) (fn v : Nat) : (msixSend s fn v).rdata = s.rdata := by
  unfold msixSend; dsimp only; split <;> rfl

/-! ### irqRise -/

@[simp] theorem irqRise_pending (s : State) : (irqRise s).pending = s.pending := by
  unfold irqRise; dsimp only; split
  · rfl
  · split
    · rfl
    · simp
@[simp] theorem irqRise_clk (s : State) : (irqRise s).clk = s.clk := by
  unfold irqRise; dsimp only; split
  · rfl
  · split
    · rfl
    · simp
@[simp] theorem irqRise_regs (s : State) : (irqRise s).regs = s.regs := by
  unfold irqRise; dsimp only; split
  · rfl
  · split
    · rfl
    · simp
@[simp] theorem irqRise_mem (s : State) : (irqRise s).mem = s.mem := by
  unfold irqRise; dsimp only; split
  · rfl
  · split
    · rfl
    · simp
@[simp] theorem irqRise_tiles (s : State) : (irqRise s).tiles = s.tiles := by
  unfold irqRise; dsimp only; split
  · rfl
  · split
    · rfl
    · simp
@[simp] theorem irqRise_parts (s : State) : (irqRise s).parts = s.parts := by
  unfold irqRise; dsimp only; split
  · rfl
  · split
    · rfl
    · simp
@[simp] theorem irqRise_edge (s : State) : (irqRise s).edge = s.edge := by
  unfold irqRise; dsimp only; split
  · rfl
  · split
    · rfl
    · simp
@[simp] theorem irqRise_mesh (s : State) : (irqRise s).mesh = s.mesh := by
  unfold irqRise; dsimp only; split
  · rfl
  · split
    · rfl
    · simp
@[simp] theorem irqRise_backlog (s : State) : (irqRise s).backlog = s.backlog := by
  unfold irqRise; dsimp only; split
  · rfl
  · split
    · rfl
    · simp
@[simp] theorem irqRise_gateUsed (s : State) : (irqRise s).gateUsed = s.gateUsed := by
  unfold irqRise; dsimp only; split
  · rfl
  · split
    · rfl
    · simp
@[simp] theorem irqRise_kept (s : State) : (irqRise s).kept = s.kept := by
  unfold irqRise; dsimp only; split
  · rfl
  · split
    · rfl
    · simp
@[simp] theorem irqRise_grn (s : State) : (irqRise s).grn = s.grn := by
  unfold irqRise; dsimp only; split
  · rfl
  · split
    · rfl
    · simp
@[simp] theorem irqRise_mch (s : State) : (irqRise s).mch = s.mch := by
  unfold irqRise; dsimp only; split
  · rfl
  · split
    · rfl
    · simp
@[simp] theorem irqRise_fab (s : State) : (irqRise s).fab = s.fab := by
  unfold irqRise; dsimp only; split
  · rfl
  · split
    · rfl
    · simp
@[simp] theorem irqRise_thr (s : State) : (irqRise s).thr = s.thr := by
  unfold irqRise; dsimp only; split
  · rfl
  · split
    · rfl
    · simp
@[simp] theorem irqRise_sheaf (s : State) : (irqRise s).sheaf = s.sheaf := by
  unfold irqRise; dsimp only; split
  · rfl
  · split
    · rfl
    · simp
@[simp] theorem irqRise_pav (s : State) : (irqRise s).pav = s.pav := by
  unfold irqRise; dsimp only; split
  · rfl
  · split
    · rfl
    · simp
@[simp] theorem irqRise_atom (s : State) : (irqRise s).atom = s.atom := by
  unfold irqRise; dsimp only; split
  · rfl
  · split
    · rfl
    · simp
@[simp] theorem irqRise_gate (s : State) : (irqRise s).gate = s.gate := by
  unfold irqRise; dsimp only; split
  · rfl
  · split
    · rfl
    · simp
@[simp] theorem irqRise_belv (s : State) : (irqRise s).belv = s.belv := by
  unfold irqRise; dsimp only; split
  · rfl
  · split
    · rfl
    · simp
@[simp] theorem irqRise_fuse (s : State) : (irqRise s).fuse = s.fuse := by
  unfold irqRise; dsimp only; split
  · rfl
  · split
    · rfl
    · simp
@[simp] theorem irqRise_boot (s : State) : (irqRise s).boot = s.boot := by
  unfold irqRise; dsimp only; split
  · rfl
  · split
    · rfl
    · simp
@[simp] theorem irqRise_tb (s : State) : (irqRise s).tb = s.tb := by
  unfold irqRise; dsimp only; split
  · rfl
  · split
    · rfl
    · simp
@[simp] theorem irqRise_det (s : State) : (irqRise s).det = s.det := by
  unfold irqRise; dsimp only; split
  · rfl
  · split
    · rfl
    · simp
@[simp] theorem irqRise_d2d (s : State) : (irqRise s).d2d = s.d2d := by
  unfold irqRise; dsimp only; split
  · rfl
  · split
    · rfl
    · simp
@[simp] theorem irqRise_mod (s : State) : (irqRise s).mod = s.mod := by
  unfold irqRise; dsimp only; split
  · rfl
  · split
    · rfl
    · simp
@[simp] theorem irqRise_freeIdx (s : State) : (irqRise s).freeIdx = s.freeIdx := by
  unfold irqRise; dsimp only; split
  · rfl
  · split
    · rfl
    · simp
@[simp] theorem irqRise_rdata (s : State) : (irqRise s).rdata = s.rdata := by
  unfold irqRise; dsimp only; split
  · rfl
  · split
    · rfl
    · simp

/-! ### evt -/

@[simp] theorem evt_pending (s : State) (page b : Nat) : (evt s page b).pending = s.pending := by
  unfold evt; dsimp only; split
  · split <;> simp
  · simp
@[simp] theorem evt_clk (s : State) (page b : Nat) : (evt s page b).clk = s.clk := by
  unfold evt; dsimp only; split
  · split <;> simp
  · simp
@[simp] theorem evt_mem (s : State) (page b : Nat) : (evt s page b).mem = s.mem := by
  unfold evt; dsimp only; split
  · split <;> simp
  · simp
@[simp] theorem evt_tiles (s : State) (page b : Nat) : (evt s page b).tiles = s.tiles := by
  unfold evt; dsimp only; split
  · split <;> simp
  · simp
@[simp] theorem evt_parts (s : State) (page b : Nat) : (evt s page b).parts = s.parts := by
  unfold evt; dsimp only; split
  · split <;> simp
  · simp
@[simp] theorem evt_edge (s : State) (page b : Nat) : (evt s page b).edge = s.edge := by
  unfold evt; dsimp only; split
  · split <;> simp
  · simp
@[simp] theorem evt_mesh (s : State) (page b : Nat) : (evt s page b).mesh = s.mesh := by
  unfold evt; dsimp only; split
  · split <;> simp
  · simp
@[simp] theorem evt_backlog (s : State) (page b : Nat) : (evt s page b).backlog = s.backlog := by
  unfold evt; dsimp only; split
  · split <;> simp
  · simp
@[simp] theorem evt_gateUsed (s : State) (page b : Nat) : (evt s page b).gateUsed = s.gateUsed := by
  unfold evt; dsimp only; split
  · split <;> simp
  · simp
@[simp] theorem evt_kept (s : State) (page b : Nat) : (evt s page b).kept = s.kept := by
  unfold evt; dsimp only; split
  · split <;> simp
  · simp
@[simp] theorem evt_grn (s : State) (page b : Nat) : (evt s page b).grn = s.grn := by
  unfold evt; dsimp only; split
  · split <;> simp
  · simp
@[simp] theorem evt_mch (s : State) (page b : Nat) : (evt s page b).mch = s.mch := by
  unfold evt; dsimp only; split
  · split <;> simp
  · simp
@[simp] theorem evt_fab (s : State) (page b : Nat) : (evt s page b).fab = s.fab := by
  unfold evt; dsimp only; split
  · split <;> simp
  · simp
@[simp] theorem evt_thr (s : State) (page b : Nat) : (evt s page b).thr = s.thr := by
  unfold evt; dsimp only; split
  · split <;> simp
  · simp
@[simp] theorem evt_sheaf (s : State) (page b : Nat) : (evt s page b).sheaf = s.sheaf := by
  unfold evt; dsimp only; split
  · split <;> simp
  · simp
@[simp] theorem evt_pav (s : State) (page b : Nat) : (evt s page b).pav = s.pav := by
  unfold evt; dsimp only; split
  · split <;> simp
  · simp
@[simp] theorem evt_atom (s : State) (page b : Nat) : (evt s page b).atom = s.atom := by
  unfold evt; dsimp only; split
  · split <;> simp
  · simp
@[simp] theorem evt_gate (s : State) (page b : Nat) : (evt s page b).gate = s.gate := by
  unfold evt; dsimp only; split
  · split <;> simp
  · simp
@[simp] theorem evt_belv (s : State) (page b : Nat) : (evt s page b).belv = s.belv := by
  unfold evt; dsimp only; split
  · split <;> simp
  · simp
@[simp] theorem evt_fuse (s : State) (page b : Nat) : (evt s page b).fuse = s.fuse := by
  unfold evt; dsimp only; split
  · split <;> simp
  · simp
@[simp] theorem evt_boot (s : State) (page b : Nat) : (evt s page b).boot = s.boot := by
  unfold evt; dsimp only; split
  · split <;> simp
  · simp
@[simp] theorem evt_tb (s : State) (page b : Nat) : (evt s page b).tb = s.tb := by
  unfold evt; dsimp only; split
  · split <;> simp
  · simp
@[simp] theorem evt_det (s : State) (page b : Nat) : (evt s page b).det = s.det := by
  unfold evt; dsimp only; split
  · split <;> simp
  · simp
@[simp] theorem evt_d2d (s : State) (page b : Nat) : (evt s page b).d2d = s.d2d := by
  unfold evt; dsimp only; split
  · split <;> simp
  · simp
@[simp] theorem evt_mod (s : State) (page b : Nat) : (evt s page b).mod = s.mod := by
  unfold evt; dsimp only; split
  · split <;> simp
  · simp
@[simp] theorem evt_freeIdx (s : State) (page b : Nat) : (evt s page b).freeIdx = s.freeIdx := by
  unfold evt; dsimp only; split
  · split <;> simp
  · simp
@[simp] theorem evt_rdata (s : State) (page b : Nat) : (evt s page b).rdata = s.rdata := by
  unfold evt; dsimp only; split
  · split <;> simp
  · simp

/-! ### logErr -/

@[simp] theorem writeLog_pending (s : State) (code page : Nat) (part : Option Nat) (step supp : Nat) :
    (logErr.writeLog s code page part step supp).pending = s.pending := by
  unfold logErr.writeLog; dsimp only; split <;> simp
@[simp] theorem writeLog_clk (s : State) (code page : Nat) (part : Option Nat) (step supp : Nat) :
    (logErr.writeLog s code page part step supp).clk = s.clk := by
  unfold logErr.writeLog; dsimp only; split <;> simp
@[simp] theorem writeLog_mem (s : State) (code page : Nat) (part : Option Nat) (step supp : Nat) :
    (logErr.writeLog s code page part step supp).mem = s.mem := by
  unfold logErr.writeLog; dsimp only; split <;> simp
@[simp] theorem writeLog_tiles (s : State) (code page : Nat) (part : Option Nat) (step supp : Nat) :
    (logErr.writeLog s code page part step supp).tiles = s.tiles := by
  unfold logErr.writeLog; dsimp only; split <;> simp
@[simp] theorem writeLog_parts (s : State) (code page : Nat) (part : Option Nat) (step supp : Nat) :
    (logErr.writeLog s code page part step supp).parts = s.parts := by
  unfold logErr.writeLog; dsimp only; split <;> simp
@[simp] theorem writeLog_edge (s : State) (code page : Nat) (part : Option Nat) (step supp : Nat) :
    (logErr.writeLog s code page part step supp).edge = s.edge := by
  unfold logErr.writeLog; dsimp only; split <;> simp
@[simp] theorem writeLog_mesh (s : State) (code page : Nat) (part : Option Nat) (step supp : Nat) :
    (logErr.writeLog s code page part step supp).mesh = s.mesh := by
  unfold logErr.writeLog; dsimp only; split <;> simp
@[simp] theorem writeLog_backlog (s : State) (code page : Nat) (part : Option Nat) (step supp : Nat) :
    (logErr.writeLog s code page part step supp).backlog = s.backlog := by
  unfold logErr.writeLog; dsimp only; split <;> simp
@[simp] theorem writeLog_gateUsed (s : State) (code page : Nat) (part : Option Nat) (step supp : Nat) :
    (logErr.writeLog s code page part step supp).gateUsed = s.gateUsed := by
  unfold logErr.writeLog; dsimp only; split <;> simp
@[simp] theorem writeLog_kept (s : State) (code page : Nat) (part : Option Nat) (step supp : Nat) :
    (logErr.writeLog s code page part step supp).kept = s.kept := by
  unfold logErr.writeLog; dsimp only; split <;> simp
@[simp] theorem writeLog_grn (s : State) (code page : Nat) (part : Option Nat) (step supp : Nat) :
    (logErr.writeLog s code page part step supp).grn = s.grn := by
  unfold logErr.writeLog; dsimp only; split <;> simp
@[simp] theorem writeLog_mch (s : State) (code page : Nat) (part : Option Nat) (step supp : Nat) :
    (logErr.writeLog s code page part step supp).mch = s.mch := by
  unfold logErr.writeLog; dsimp only; split <;> simp
@[simp] theorem writeLog_fab (s : State) (code page : Nat) (part : Option Nat) (step supp : Nat) :
    (logErr.writeLog s code page part step supp).fab = s.fab := by
  unfold logErr.writeLog; dsimp only; split <;> simp
@[simp] theorem writeLog_thr (s : State) (code page : Nat) (part : Option Nat) (step supp : Nat) :
    (logErr.writeLog s code page part step supp).thr = s.thr := by
  unfold logErr.writeLog; dsimp only; split <;> simp
@[simp] theorem writeLog_sheaf (s : State) (code page : Nat) (part : Option Nat) (step supp : Nat) :
    (logErr.writeLog s code page part step supp).sheaf = s.sheaf := by
  unfold logErr.writeLog; dsimp only; split <;> simp
@[simp] theorem writeLog_pav (s : State) (code page : Nat) (part : Option Nat) (step supp : Nat) :
    (logErr.writeLog s code page part step supp).pav = s.pav := by
  unfold logErr.writeLog; dsimp only; split <;> simp
@[simp] theorem writeLog_atom (s : State) (code page : Nat) (part : Option Nat) (step supp : Nat) :
    (logErr.writeLog s code page part step supp).atom = s.atom := by
  unfold logErr.writeLog; dsimp only; split <;> simp
@[simp] theorem writeLog_gate (s : State) (code page : Nat) (part : Option Nat) (step supp : Nat) :
    (logErr.writeLog s code page part step supp).gate = s.gate := by
  unfold logErr.writeLog; dsimp only; split <;> simp
@[simp] theorem writeLog_belv (s : State) (code page : Nat) (part : Option Nat) (step supp : Nat) :
    (logErr.writeLog s code page part step supp).belv = s.belv := by
  unfold logErr.writeLog; dsimp only; split <;> simp
@[simp] theorem writeLog_fuse (s : State) (code page : Nat) (part : Option Nat) (step supp : Nat) :
    (logErr.writeLog s code page part step supp).fuse = s.fuse := by
  unfold logErr.writeLog; dsimp only; split <;> simp
@[simp] theorem writeLog_boot (s : State) (code page : Nat) (part : Option Nat) (step supp : Nat) :
    (logErr.writeLog s code page part step supp).boot = s.boot := by
  unfold logErr.writeLog; dsimp only; split <;> simp
@[simp] theorem writeLog_tb (s : State) (code page : Nat) (part : Option Nat) (step supp : Nat) :
    (logErr.writeLog s code page part step supp).tb = s.tb := by
  unfold logErr.writeLog; dsimp only; split <;> simp
@[simp] theorem writeLog_det (s : State) (code page : Nat) (part : Option Nat) (step supp : Nat) :
    (logErr.writeLog s code page part step supp).det = s.det := by
  unfold logErr.writeLog; dsimp only; split <;> simp
@[simp] theorem writeLog_d2d (s : State) (code page : Nat) (part : Option Nat) (step supp : Nat) :
    (logErr.writeLog s code page part step supp).d2d = s.d2d := by
  unfold logErr.writeLog; dsimp only; split <;> simp
@[simp] theorem writeLog_mod (s : State) (code page : Nat) (part : Option Nat) (step supp : Nat) :
    (logErr.writeLog s code page part step supp).mod = s.mod := by
  unfold logErr.writeLog; dsimp only; split <;> simp
@[simp] theorem writeLog_freeIdx (s : State) (code page : Nat) (part : Option Nat) (step supp : Nat) :
    (logErr.writeLog s code page part step supp).freeIdx = s.freeIdx := by
  unfold logErr.writeLog; dsimp only; split <;> simp
@[simp] theorem writeLog_rdata (s : State) (code page : Nat) (part : Option Nat) (step supp : Nat) :
    (logErr.writeLog s code page part step supp).rdata = s.rdata := by
  unfold logErr.writeLog; dsimp only; split <;> simp
@[simp] theorem logErr_pending (s : State) (page code : Nat) (part : Option Nat) (step : Nat) : (logErr s page code part step).pending = s.pending := by
  unfold logErr; dsimp only; split
  · rfl
  · split
    · split <;> simp
    · simp
@[simp] theorem logErr_clk (s : State) (page code : Nat) (part : Option Nat) (step : Nat) : (logErr s page code part step).clk = s.clk := by
  unfold logErr; dsimp only; split
  · rfl
  · split
    · split <;> simp
    · simp
@[simp] theorem logErr_mem (s : State) (page code : Nat) (part : Option Nat) (step : Nat) : (logErr s page code part step).mem = s.mem := by
  unfold logErr; dsimp only; split
  · rfl
  · split
    · split <;> simp
    · simp
@[simp] theorem logErr_tiles (s : State) (page code : Nat) (part : Option Nat) (step : Nat) : (logErr s page code part step).tiles = s.tiles := by
  unfold logErr; dsimp only; split
  · rfl
  · split
    · split <;> simp
    · simp
@[simp] theorem logErr_parts (s : State) (page code : Nat) (part : Option Nat) (step : Nat) : (logErr s page code part step).parts = s.parts := by
  unfold logErr; dsimp only; split
  · rfl
  · split
    · split <;> simp
    · simp
@[simp] theorem logErr_edge (s : State) (page code : Nat) (part : Option Nat) (step : Nat) : (logErr s page code part step).edge = s.edge := by
  unfold logErr; dsimp only; split
  · rfl
  · split
    · split <;> simp
    · simp
@[simp] theorem logErr_mesh (s : State) (page code : Nat) (part : Option Nat) (step : Nat) : (logErr s page code part step).mesh = s.mesh := by
  unfold logErr; dsimp only; split
  · rfl
  · split
    · split <;> simp
    · simp
@[simp] theorem logErr_backlog (s : State) (page code : Nat) (part : Option Nat) (step : Nat) : (logErr s page code part step).backlog = s.backlog := by
  unfold logErr; dsimp only; split
  · rfl
  · split
    · split <;> simp
    · simp
@[simp] theorem logErr_gateUsed (s : State) (page code : Nat) (part : Option Nat) (step : Nat) : (logErr s page code part step).gateUsed = s.gateUsed := by
  unfold logErr; dsimp only; split
  · rfl
  · split
    · split <;> simp
    · simp
@[simp] theorem logErr_kept (s : State) (page code : Nat) (part : Option Nat) (step : Nat) : (logErr s page code part step).kept = s.kept := by
  unfold logErr; dsimp only; split
  · rfl
  · split
    · split <;> simp
    · simp
@[simp] theorem logErr_grn (s : State) (page code : Nat) (part : Option Nat) (step : Nat) : (logErr s page code part step).grn = s.grn := by
  unfold logErr; dsimp only; split
  · rfl
  · split
    · split <;> simp
    · simp
@[simp] theorem logErr_mch (s : State) (page code : Nat) (part : Option Nat) (step : Nat) : (logErr s page code part step).mch = s.mch := by
  unfold logErr; dsimp only; split
  · rfl
  · split
    · split <;> simp
    · simp
@[simp] theorem logErr_fab (s : State) (page code : Nat) (part : Option Nat) (step : Nat) : (logErr s page code part step).fab = s.fab := by
  unfold logErr; dsimp only; split
  · rfl
  · split
    · split <;> simp
    · simp
@[simp] theorem logErr_thr (s : State) (page code : Nat) (part : Option Nat) (step : Nat) : (logErr s page code part step).thr = s.thr := by
  unfold logErr; dsimp only; split
  · rfl
  · split
    · split <;> simp
    · simp
@[simp] theorem logErr_sheaf (s : State) (page code : Nat) (part : Option Nat) (step : Nat) : (logErr s page code part step).sheaf = s.sheaf := by
  unfold logErr; dsimp only; split
  · rfl
  · split
    · split <;> simp
    · simp
@[simp] theorem logErr_pav (s : State) (page code : Nat) (part : Option Nat) (step : Nat) : (logErr s page code part step).pav = s.pav := by
  unfold logErr; dsimp only; split
  · rfl
  · split
    · split <;> simp
    · simp
@[simp] theorem logErr_atom (s : State) (page code : Nat) (part : Option Nat) (step : Nat) : (logErr s page code part step).atom = s.atom := by
  unfold logErr; dsimp only; split
  · rfl
  · split
    · split <;> simp
    · simp
@[simp] theorem logErr_gate (s : State) (page code : Nat) (part : Option Nat) (step : Nat) : (logErr s page code part step).gate = s.gate := by
  unfold logErr; dsimp only; split
  · rfl
  · split
    · split <;> simp
    · simp
@[simp] theorem logErr_belv (s : State) (page code : Nat) (part : Option Nat) (step : Nat) : (logErr s page code part step).belv = s.belv := by
  unfold logErr; dsimp only; split
  · rfl
  · split
    · split <;> simp
    · simp
@[simp] theorem logErr_fuse (s : State) (page code : Nat) (part : Option Nat) (step : Nat) : (logErr s page code part step).fuse = s.fuse := by
  unfold logErr; dsimp only; split
  · rfl
  · split
    · split <;> simp
    · simp
@[simp] theorem logErr_boot (s : State) (page code : Nat) (part : Option Nat) (step : Nat) : (logErr s page code part step).boot = s.boot := by
  unfold logErr; dsimp only; split
  · rfl
  · split
    · split <;> simp
    · simp
@[simp] theorem logErr_tb (s : State) (page code : Nat) (part : Option Nat) (step : Nat) : (logErr s page code part step).tb = s.tb := by
  unfold logErr; dsimp only; split
  · rfl
  · split
    · split <;> simp
    · simp
@[simp] theorem logErr_det (s : State) (page code : Nat) (part : Option Nat) (step : Nat) : (logErr s page code part step).det = s.det := by
  unfold logErr; dsimp only; split
  · rfl
  · split
    · split <;> simp
    · simp
@[simp] theorem logErr_d2d (s : State) (page code : Nat) (part : Option Nat) (step : Nat) : (logErr s page code part step).d2d = s.d2d := by
  unfold logErr; dsimp only; split
  · rfl
  · split
    · split <;> simp
    · simp
@[simp] theorem logErr_mod (s : State) (page code : Nat) (part : Option Nat) (step : Nat) : (logErr s page code part step).mod = s.mod := by
  unfold logErr; dsimp only; split
  · rfl
  · split
    · split <;> simp
    · simp
@[simp] theorem logErr_freeIdx (s : State) (page code : Nat) (part : Option Nat) (step : Nat) : (logErr s page code part step).freeIdx = s.freeIdx := by
  unfold logErr; dsimp only; split
  · rfl
  · split
    · split <;> simp
    · simp
@[simp] theorem logErr_rdata (s : State) (page code : Nat) (part : Option Nat) (step : Nat) : (logErr s page code part step).rdata = s.rdata := by
  unfold logErr; dsimp only; split
  · rfl
  · split
    · split <;> simp
    · simp

/-! ### errIn -/

@[simp] theorem errIn_pending (s : State) (page code : Nat) (part : Option Nat) (step : Nat) : (errIn s page code part step).pending = s.pending := by
  unfold errIn; dsimp only; rw [logErr_pending]; split
  · simp
  · split <;> simp
@[simp] theorem errIn_clk (s : State) (page code : Nat) (part : Option Nat) (step : Nat) : (errIn s page code part step).clk = s.clk := by
  unfold errIn; dsimp only; rw [logErr_clk]; split
  · simp
  · split <;> simp
@[simp] theorem errIn_mem (s : State) (page code : Nat) (part : Option Nat) (step : Nat) : (errIn s page code part step).mem = s.mem := by
  unfold errIn; dsimp only; rw [logErr_mem]; split
  · simp
  · split <;> simp
@[simp] theorem errIn_tiles (s : State) (page code : Nat) (part : Option Nat) (step : Nat) : (errIn s page code part step).tiles = s.tiles := by
  unfold errIn; dsimp only; rw [logErr_tiles]; split
  · simp
  · split <;> simp
@[simp] theorem errIn_parts (s : State) (page code : Nat) (part : Option Nat) (step : Nat) : (errIn s page code part step).parts = s.parts := by
  unfold errIn; dsimp only; rw [logErr_parts]; split
  · simp
  · split <;> simp
@[simp] theorem errIn_edge (s : State) (page code : Nat) (part : Option Nat) (step : Nat) : (errIn s page code part step).edge = s.edge := by
  unfold errIn; dsimp only; rw [logErr_edge]; split
  · simp
  · split <;> simp
@[simp] theorem errIn_mesh (s : State) (page code : Nat) (part : Option Nat) (step : Nat) : (errIn s page code part step).mesh = s.mesh := by
  unfold errIn; dsimp only; rw [logErr_mesh]; split
  · simp
  · split <;> simp
@[simp] theorem errIn_backlog (s : State) (page code : Nat) (part : Option Nat) (step : Nat) : (errIn s page code part step).backlog = s.backlog := by
  unfold errIn; dsimp only; rw [logErr_backlog]; split
  · simp
  · split <;> simp
@[simp] theorem errIn_gateUsed (s : State) (page code : Nat) (part : Option Nat) (step : Nat) : (errIn s page code part step).gateUsed = s.gateUsed := by
  unfold errIn; dsimp only; rw [logErr_gateUsed]; split
  · simp
  · split <;> simp
@[simp] theorem errIn_kept (s : State) (page code : Nat) (part : Option Nat) (step : Nat) : (errIn s page code part step).kept = s.kept := by
  unfold errIn; dsimp only; rw [logErr_kept]; split
  · simp
  · split <;> simp
@[simp] theorem errIn_grn (s : State) (page code : Nat) (part : Option Nat) (step : Nat) : (errIn s page code part step).grn = s.grn := by
  unfold errIn; dsimp only; rw [logErr_grn]; split
  · simp
  · split <;> simp
@[simp] theorem errIn_mch (s : State) (page code : Nat) (part : Option Nat) (step : Nat) : (errIn s page code part step).mch = s.mch := by
  unfold errIn; dsimp only; rw [logErr_mch]; split
  · simp
  · split <;> simp
@[simp] theorem errIn_fab (s : State) (page code : Nat) (part : Option Nat) (step : Nat) : (errIn s page code part step).fab = s.fab := by
  unfold errIn; dsimp only; rw [logErr_fab]; split
  · simp
  · split <;> simp
@[simp] theorem errIn_thr (s : State) (page code : Nat) (part : Option Nat) (step : Nat) : (errIn s page code part step).thr = s.thr := by
  unfold errIn; dsimp only; rw [logErr_thr]; split
  · simp
  · split <;> simp
@[simp] theorem errIn_sheaf (s : State) (page code : Nat) (part : Option Nat) (step : Nat) : (errIn s page code part step).sheaf = s.sheaf := by
  unfold errIn; dsimp only; rw [logErr_sheaf]; split
  · simp
  · split <;> simp
@[simp] theorem errIn_pav (s : State) (page code : Nat) (part : Option Nat) (step : Nat) : (errIn s page code part step).pav = s.pav := by
  unfold errIn; dsimp only; rw [logErr_pav]; split
  · simp
  · split <;> simp
@[simp] theorem errIn_atom (s : State) (page code : Nat) (part : Option Nat) (step : Nat) : (errIn s page code part step).atom = s.atom := by
  unfold errIn; dsimp only; rw [logErr_atom]; split
  · simp
  · split <;> simp
@[simp] theorem errIn_gate (s : State) (page code : Nat) (part : Option Nat) (step : Nat) : (errIn s page code part step).gate = s.gate := by
  unfold errIn; dsimp only; rw [logErr_gate]; split
  · simp
  · split <;> simp
@[simp] theorem errIn_belv (s : State) (page code : Nat) (part : Option Nat) (step : Nat) : (errIn s page code part step).belv = s.belv := by
  unfold errIn; dsimp only; rw [logErr_belv]; split
  · simp
  · split <;> simp
@[simp] theorem errIn_fuse (s : State) (page code : Nat) (part : Option Nat) (step : Nat) : (errIn s page code part step).fuse = s.fuse := by
  unfold errIn; dsimp only; rw [logErr_fuse]; split
  · simp
  · split <;> simp
@[simp] theorem errIn_boot (s : State) (page code : Nat) (part : Option Nat) (step : Nat) : (errIn s page code part step).boot = s.boot := by
  unfold errIn; dsimp only; rw [logErr_boot]; split
  · simp
  · split <;> simp
@[simp] theorem errIn_tb (s : State) (page code : Nat) (part : Option Nat) (step : Nat) : (errIn s page code part step).tb = s.tb := by
  unfold errIn; dsimp only; rw [logErr_tb]; split
  · simp
  · split <;> simp
@[simp] theorem errIn_det (s : State) (page code : Nat) (part : Option Nat) (step : Nat) : (errIn s page code part step).det = s.det := by
  unfold errIn; dsimp only; rw [logErr_det]; split
  · simp
  · split <;> simp
@[simp] theorem errIn_d2d (s : State) (page code : Nat) (part : Option Nat) (step : Nat) : (errIn s page code part step).d2d = s.d2d := by
  unfold errIn; dsimp only; rw [logErr_d2d]; split
  · simp
  · split <;> simp
@[simp] theorem errIn_mod (s : State) (page code : Nat) (part : Option Nat) (step : Nat) : (errIn s page code part step).mod = s.mod := by
  unfold errIn; dsimp only; rw [logErr_mod]; split
  · simp
  · split <;> simp
@[simp] theorem errIn_freeIdx (s : State) (page code : Nat) (part : Option Nat) (step : Nat) : (errIn s page code part step).freeIdx = s.freeIdx := by
  unfold errIn; dsimp only; rw [logErr_freeIdx]; split
  · simp
  · split <;> simp
@[simp] theorem errIn_rdata (s : State) (page code : Nat) (part : Option Nat) (step : Nat) : (errIn s page code part step).rdata = s.rdata := by
  unfold errIn; dsimp only; rw [logErr_rdata]; split
  · simp
  · split <;> simp

/-! ### err -/

@[simp] theorem err_pending (s : State) (page code : Nat) : (err s page code).pending = s.pending := errIn_pending s page code none 0
@[simp] theorem err_clk (s : State) (page code : Nat) : (err s page code).clk = s.clk := errIn_clk s page code none 0
@[simp] theorem err_mem (s : State) (page code : Nat) : (err s page code).mem = s.mem := errIn_mem s page code none 0
@[simp] theorem err_tiles (s : State) (page code : Nat) : (err s page code).tiles = s.tiles := errIn_tiles s page code none 0
@[simp] theorem err_parts (s : State) (page code : Nat) : (err s page code).parts = s.parts := errIn_parts s page code none 0
@[simp] theorem err_edge (s : State) (page code : Nat) : (err s page code).edge = s.edge := errIn_edge s page code none 0
@[simp] theorem err_mesh (s : State) (page code : Nat) : (err s page code).mesh = s.mesh := errIn_mesh s page code none 0
@[simp] theorem err_backlog (s : State) (page code : Nat) : (err s page code).backlog = s.backlog := errIn_backlog s page code none 0
@[simp] theorem err_gateUsed (s : State) (page code : Nat) : (err s page code).gateUsed = s.gateUsed := errIn_gateUsed s page code none 0
@[simp] theorem err_kept (s : State) (page code : Nat) : (err s page code).kept = s.kept := errIn_kept s page code none 0
@[simp] theorem err_grn (s : State) (page code : Nat) : (err s page code).grn = s.grn := errIn_grn s page code none 0
@[simp] theorem err_mch (s : State) (page code : Nat) : (err s page code).mch = s.mch := errIn_mch s page code none 0
@[simp] theorem err_fab (s : State) (page code : Nat) : (err s page code).fab = s.fab := errIn_fab s page code none 0
@[simp] theorem err_thr (s : State) (page code : Nat) : (err s page code).thr = s.thr := errIn_thr s page code none 0
@[simp] theorem err_sheaf (s : State) (page code : Nat) : (err s page code).sheaf = s.sheaf := errIn_sheaf s page code none 0
@[simp] theorem err_pav (s : State) (page code : Nat) : (err s page code).pav = s.pav := errIn_pav s page code none 0
@[simp] theorem err_atom (s : State) (page code : Nat) : (err s page code).atom = s.atom := errIn_atom s page code none 0
@[simp] theorem err_gate (s : State) (page code : Nat) : (err s page code).gate = s.gate := errIn_gate s page code none 0
@[simp] theorem err_belv (s : State) (page code : Nat) : (err s page code).belv = s.belv := errIn_belv s page code none 0
@[simp] theorem err_fuse (s : State) (page code : Nat) : (err s page code).fuse = s.fuse := errIn_fuse s page code none 0
@[simp] theorem err_boot (s : State) (page code : Nat) : (err s page code).boot = s.boot := errIn_boot s page code none 0
@[simp] theorem err_tb (s : State) (page code : Nat) : (err s page code).tb = s.tb := errIn_tb s page code none 0
@[simp] theorem err_det (s : State) (page code : Nat) : (err s page code).det = s.det := errIn_det s page code none 0
@[simp] theorem err_d2d (s : State) (page code : Nat) : (err s page code).d2d = s.d2d := errIn_d2d s page code none 0
@[simp] theorem err_mod (s : State) (page code : Nat) : (err s page code).mod = s.mod := errIn_mod s page code none 0
@[simp] theorem err_freeIdx (s : State) (page code : Nat) : (err s page code).freeIdx = s.freeIdx := errIn_freeIdx s page code none 0
@[simp] theorem err_rdata (s : State) (page code : Nat) : (err s page code).rdata = s.rdata := errIn_rdata s page code none 0

/-! ### send -/

@[simp] theorem send_pending (s : State) (p : Pkt) : (send s p).pending = s.pending := by
  unfold send; split <;> rfl
@[simp] theorem send_clk (s : State) (p : Pkt) : (send s p).clk = s.clk := by
  unfold send; split <;> rfl
@[simp] theorem send_regs (s : State) (p : Pkt) : (send s p).regs = s.regs := by
  unfold send; split <;> rfl
@[simp] theorem send_mem (s : State) (p : Pkt) : (send s p).mem = s.mem := by
  unfold send; split <;> rfl
@[simp] theorem send_tiles (s : State) (p : Pkt) : (send s p).tiles = s.tiles := by
  unfold send; split <;> rfl
@[simp] theorem send_parts (s : State) (p : Pkt) : (send s p).parts = s.parts := by
  unfold send; split <;> rfl
@[simp] theorem send_edge (s : State) (p : Pkt) : (send s p).edge = s.edge := by
  unfold send; split <;> rfl
@[simp] theorem send_mesh (s : State) (p : Pkt) : (send s p).mesh = s.mesh := by
  unfold send; split <;> rfl
@[simp] theorem send_backlog (s : State) (p : Pkt) : (send s p).backlog = s.backlog := by
  unfold send; split <;> rfl
@[simp] theorem send_gateUsed (s : State) (p : Pkt) : (send s p).gateUsed = s.gateUsed := by
  unfold send; split <;> rfl
@[simp] theorem send_kept (s : State) (p : Pkt) : (send s p).kept = s.kept := by
  unfold send; split <;> rfl
@[simp] theorem send_grn (s : State) (p : Pkt) : (send s p).grn = s.grn := by
  unfold send; split <;> rfl
@[simp] theorem send_mch (s : State) (p : Pkt) : (send s p).mch = s.mch := by
  unfold send; split <;> rfl
@[simp] theorem send_host (s : State) (p : Pkt) : (send s p).host = s.host := by
  unfold send; split <;> rfl
@[simp] theorem send_lodge (s : State) (p : Pkt) : (send s p).lodge = s.lodge := by
  unfold send; split <;> rfl
@[simp] theorem send_thr (s : State) (p : Pkt) : (send s p).thr = s.thr := by
  unfold send; split <;> rfl
@[simp] theorem send_sheaf (s : State) (p : Pkt) : (send s p).sheaf = s.sheaf := by
  unfold send; split <;> rfl
@[simp] theorem send_pav (s : State) (p : Pkt) : (send s p).pav = s.pav := by
  unfold send; split <;> rfl
@[simp] theorem send_atom (s : State) (p : Pkt) : (send s p).atom = s.atom := by
  unfold send; split <;> rfl
@[simp] theorem send_gate (s : State) (p : Pkt) : (send s p).gate = s.gate := by
  unfold send; split <;> rfl
@[simp] theorem send_belv (s : State) (p : Pkt) : (send s p).belv = s.belv := by
  unfold send; split <;> rfl
@[simp] theorem send_fuse (s : State) (p : Pkt) : (send s p).fuse = s.fuse := by
  unfold send; split <;> rfl
@[simp] theorem send_boot (s : State) (p : Pkt) : (send s p).boot = s.boot := by
  unfold send; split <;> rfl
@[simp] theorem send_tb (s : State) (p : Pkt) : (send s p).tb = s.tb := by
  unfold send; split <;> rfl
@[simp] theorem send_det (s : State) (p : Pkt) : (send s p).det = s.det := by
  unfold send; split <;> rfl
@[simp] theorem send_d2d (s : State) (p : Pkt) : (send s p).d2d = s.d2d := by
  unfold send; split <;> rfl
@[simp] theorem send_mod (s : State) (p : Pkt) : (send s p).mod = s.mod := by
  unfold send; split <;> rfl
@[simp] theorem send_freeIdx (s : State) (p : Pkt) : (send s p).freeIdx = s.freeIdx := by
  unfold send; split <;> rfl
@[simp] theorem send_rdata (s : State) (p : Pkt) : (send s p).rdata = s.rdata := by
  unfold send; split <;> rfl

/-! ### What the updates do -/

@[simp] theorem getReg_setReg (s : State) (a b : Nat) (v : Word) :
    getReg (setReg s a v) b = if a = b then v else getReg s b := NMap.get_set ..

@[simp] theorem ctr64_inc64 (s : State) (a b n : Nat) :
    ctr64 (inc64 s a n) b = if a = b then ctr64 s a + BitVec.ofNat 64 n else ctr64 s b := NMap.get_set ..

@[simp] theorem ctr32_incSat (s : State) (a b n : Nat) :
    ctr32 (incSat s a n) b = if a = b then satAdd (ctr32 s a) n else ctr32 s b := NMap.get_set ..

@[simp] theorem ctr64_setReg (s : State) (a b : Nat) (v : Word) : ctr64 (setReg s a v) b = ctr64 s b := rfl

@[simp] theorem ctr32_setReg (s : State) (a b : Nat) (v : Word) : ctr32 (setReg s a v) b = ctr32 s b := rfl

@[simp] theorem ctr32_inc64 (s : State) (a b n : Nat) : ctr32 (inc64 s a n) b = ctr32 s b := rfl

@[simp] theorem ctr64_incSat (s : State) (a b n : Nat) : ctr64 (incSat s a n) b = ctr64 s b := rfl

@[simp] theorem getTile_setTile (s : State) (t u : Nat) (x : Tile) :
    getTile (setTile s t x) u = if t = u then x else getTile s u := NMap.get_set ..

@[simp] theorem getMch_setMch (s : State) (c d : Nat) (m : Mch) :
    getMch (setMch s c m) d = if c = d then m else getMch s d := NMap.get_set ..

@[simp] theorem getPart_setPart (s : State) (n m : Nat) (p : Part) :
    getPart (setPart s n p) m = if n = m then p else getPart s m := NMap.get_set ..

/-- Every memory operation keeps the canonical form: bytes written to SRAM. -/
theorem writeSram_wf (s : State) (t a : Nat) (bs : List Byte) (h : NMap.wf (fun _ => 0) s.mem.sram)
    (g : NMap.wf (fun _ => false) s.mem.sramBad) :
    NMap.wf (fun _ => 0) (writeSram s t a bs).mem.sram ∧ NMap.wf (fun _ => false) (writeSram s t a bs).mem.sramBad :=
  ⟨writeBytes_wf _ _ _ h, NMap.wf_filter _ _ _ g⟩

/-- Every memory operation keeps the canonical form: a range of SRAM cleared. -/
theorem zeroSram_wf (s : State) (t lo hi : Nat) (h : NMap.wf (fun _ => 0) s.mem.sram)
    (g : NMap.wf (fun _ => false) s.mem.sramBad) :
    NMap.wf (fun _ => 0) (zeroSram s t lo hi).mem.sram ∧ NMap.wf (fun _ => false) (zeroSram s t lo hi).mem.sramBad :=
  ⟨zeroBytes_wf _ _ _ h, NMap.wf_filter _ _ _ g⟩

/-- Every memory operation keeps the canonical form: bytes written to host memory. -/
theorem writeHost_wf (s : State) (a : Nat) (bs : List Byte) (h : NMap.wf (fun _ => 0) s.mem.host) :
    NMap.wf (fun _ => 0) (writeHost s a bs).mem.host := writeBytes_wf _ _ _ h

/-- Every memory operation keeps the canonical form: bytes written to T1. -/
theorem t1WriteRaw_wf (s : State) (a : Nat) (bs : List Byte) (h : NMap.wf (fun _ => 0) s.mem.t1)
    (g : NMap.wf (fun _ => 0) s.mem.t1err) :
    NMap.wf (fun _ => 0) (t1WriteRaw s a bs).mem.t1 ∧ NMap.wf (fun _ => 0) (t1WriteRaw s a bs).mem.t1err :=
  ⟨writeBytes_wf _ _ _ h, NMap.wf_filter _ _ _ g⟩

/-- A tile instruction has no effect on a tile that does not issue, is a call fault where a reserved bit of its slot is set or its
descriptor is missing, and else has its effect. -/
theorem issued_cases (s : State) (i : Issue) (used : Nat) (eff : State → State) :
    (issues s i.tile = false ∧ issued s i used eff = .next s)
    ∨ (issues s i.tile = true ∧ (Nat.land i.w (2 ^ 64 - 1 - used) ≠ 0 ∨ (bit used 55 = true ∧ 9216 ≤ i.dline)) ∧
      issued s i used eff = .next (callFault s i.tile 0x0206 0))
    ∨ (issues s i.tile = true ∧ ¬ (Nat.land i.w (2 ^ 64 - 1 - used) ≠ 0 ∨ (bit used 55 = true ∧ 9216 ≤ i.dline)) ∧
      issued s i used eff = .next (eff s)) := by
  unfold issued
  cases h : issues s i.tile
  · exact .inl ⟨rfl, by simp⟩
  · by_cases g : Nat.land i.w (2 ^ 64 - 1 - used) ≠ 0 ∨ (bit used 55 = true ∧ 9216 ≤ i.dline)
    · exact .inr (.inl ⟨rfl, g, by rw [if_neg (by simp), if_pos g]⟩)
    · exact .inr (.inr ⟨rfl, g, by rw [if_neg (by simp), if_neg g]⟩)

/-- A write to a page is ignored with an error before READY, ignored where the page is not alive, and else done. -/
theorem guardWrite_cases (s : State) (page : Nat) (k : Out) :
    guardWrite s page k = .next (err s pgBoot 0x0F09) ∨ guardWrite s page k = .next s ∨ guardWrite s page k = k := by
  unfold guardWrite; dsimp only; split
  · exact .inl rfl
  · split
    · exact .inr (.inl rfl)
    · exact .inr (.inr rfl)

end Sys2Proof.Machine
end

