-- ==== Sys2Proof/Laws/Exec.lean ====
section
/-!
SUPPORT. What the frames of commands do under their conditions: an instruction that issues has its effect, a write that a page
takes is done, a mailbox command that is taken answers. Proofs about a command cite these in place of unfolding the frame.
-/

namespace Sys2Proof.Machine

open Sys2Proof Sys2Proof.Config

/-- An instruction that issues has its effect. -/
theorem issued_ok {s : State} {i : Issue} {used : Nat} (eff : State → State) (h : slotIssues s i used) :
    issued s i used eff = .next (eff s) := by
  obtain ⟨h1, h2, h3⟩ := h
  unfold issued
  rw [if_neg (by simp [h1]), if_neg (by rintro (a | a); exacts [a h2, h3 a])]

/-- A dynamic effect outside a replay is counted and done. -/
theorem dynamic_ok {s : State} {t : Nat} (eff : State → State) (h : freshRun s t) : dynamic s t eff = eff (countEffect s t) := by
  unfold dynamic
  have h' : (getTile s t).fg.matched = 0 := h
  simp [h']

/-- Counting an effect leaves what the FRAME schedule gives. -/
theorem edgeGives_countEffect (s : State) (t u : Nat) : edgeGives (countEffect s t) u = edgeGives s u := by
  have h : stepOf (countEffect s t) u = stepOf s u := by
    have e : (getTile (countEffect s t) u).fg.part = (getTile s u).fg.part := by
      unfold countEffect setFg
      rw [getTile_setTile]
      split_ifs with hu
      · subst hu; rfl
      · rfl
    unfold stepOf
    rw [e]
    rfl
  unfold edgeGives
  rw [h]

/-- A dynamic effect over the die edge outside a replay, on a tile with an EDGE entry, is counted and done. -/
theorem overEdge_ok {s : State} {t : Nat} (eff : State → State) (h : freshRun s t) (g : edgeGives s t = true) :
    overEdge s t eff = eff (countEffect s t) := by
  unfold overEdge
  rw [dynamic_ok _ h, edgeGives_countEffect, g]
  simp

/-- An ARM or REL that no replay matches is counted and done. -/
theorem counterEvent_ok {s : State} {t : Nat} (eff : State → State) (h : freshSync s t) :
    counterEvent s t eff = eff (syncCounted s t) := by
  unfold counterEvent
  have h' : (getTile s t).fg.syncMatched = 0 := h
  have h2 : ¬ (getTile s t).fg.syncMatched > 0 := by omega
  simp only [if_neg h2]

/-- The end of a bundle leaves the context's partition. -/
theorem closeLoops_part (a : Nat) (ls : List Loop) (c : Ctx) : (closeLoops a ls c).part = c.part := by
  induction ls generalizing c with
  | nil => rfl
  | cons l ls ih =>
    simp only [closeLoops]
    split_ifs
    · rfl
    · rw [ih]; rfl
    · rfl

/-- The sequencer's next bundle leaves the context's partition. -/
theorem advance_part (c : Ctx) (d : Option (Nat × Nat)) (a : Nat) : (advance c d a).part = c.part := by
  rcases d with _ | ⟨t, k⟩
  · exact closeLoops_part a _ c
  · simp only [advance]
    split_ifs
    · rfl
    · exact closeLoops_part a _ c

/-- A vector instruction that finds its operands writes its results. -/
theorem vecOp_ok {s : State} {i : Issue} (k : VecReads) (src dst : Nat → Fmt → Option Fmt)
    (f : State → Ctx → Fmt → List Val → List Val → List Val → List (Option Val)) {fm sf df : Fmt}
    (h0 : i.fmt = some fm) (h1 : src i.w fm = some sf) (h2 : dst i.w fm = some df) (h : vecReady s i k sf df) :
    issued s i vecMask (vecOp i k src dst f) = .next (vecWrite s i df (f s (fgOf s i.tile) df (vecA s i sf)
      (if k.b.isSome then vecB s i sf else []) (vecD s i df))) := by
  obtain ⟨g1, g2, g3, g4⟩ := h
  rw [issued_ok _ g1]
  unfold vecOp
  dsimp only [vecLen] at g3 g4
  have g5 : ¬ (k.b.isNone = true ∧ fld i.w 31 24 ≠ 0) := by
    rintro ⟨a, b⟩
    exact b (g2 (by simpa using a))
  simp only [h0, h1, h2, g3, g4, if_neg g5]
  simp

/-- A Thresher call that R82 takes starts; in a replay-free run it is counted as a dynamic effect, KVSORT apart (R334). -/
theorem thrCall_ok {op : Nat} {s : State} {i : Issue} (start : State → ThrCall → Nat → State) (h : thrTaken op s i) :
    thrCall op i s start = .next (start (if op = 3 then s else countEffect s i.tile) (thrStarted s i) (thrWord s i)) := by
  obtain ⟨h1, h2, h3, h4, h5, h6, h7, h8, h9⟩ := h
  unfold thrCall
  rw [issued_ok _ h1]
  show Host.Outcome.next (if (thrCallOf s i).op ≠ op ∧ 1 ≤ (thrCallOf s i).op ∧ (thrCallOf s i).op ≤ 8 then s
    else if thrBad s (thrCallOf s i).unit then thrFault s (thrCallOf s i).unit (thrCallOf s i).desc (thrCallOf s i).part 0x030B
    else if callMalformed (thrCallOf s i) (thrWord s i) then thrFault s (thrCallOf s i).unit (thrCallOf s i).desc (thrCallOf s i).part 0x0301
    else if callSizes (thrCallOf s i) ≠ 0 then thrFault s (thrCallOf s i).unit (thrCallOf s i).desc (thrCallOf s i).part (callSizes (thrCallOf s i))
    else if callShares s (thrCallOf s i) ≠ 0 then thrFault s (thrCallOf s i).unit (thrCallOf s i).desc (thrCallOf s i).part (callShares s (thrCallOf s i))
    else if !callBufsOk s i (thrCallOf s i) then callFault s i.tile 0x0201 0
    else
      match badByte s i.tile (thrCallOf s i).src 0 (srcBytes (thrCallOf s i)) with
      | some a => parityPoison s i.tile a
      | none => if op = 3 then start s (thrStarted s i) (thrWord s i) else dynamic s i.tile (fun s' => start s' (thrStarted s i) (thrWord s i))) = _
  rw [if_neg (fun a => a.1 h2), if_neg (by simp [h3]), if_neg (by simp [h4]), if_neg (by simp [h5]), if_neg (by simp [h6]), if_neg (by simp [h7]), h8]
  by_cases ho : op = 3
  · simp only [if_pos ho]
  · simp only [if_neg ho, dynamic_ok _ (Or.resolve_left h9 ho)]

/-- A control payload that is taken has its effect, with its number marked (R95). -/
theorem withCtl_ok {s u : State} {take bad : Pkt → Bool} {p : Pkt} {i : ShInst} {q : ShPeer} (hold : Bool)
    (f : State → ShInst → Pkt → State) (h : ctlTaken s take bad p u i q) : withCtl s take bad hold f = .next (f u (ctlNoted u i p) p) := by
  obtain ⟨h1, h2, h3, h4, h5, h6⟩ := h
  unfold withCtl
  simp only [h1, h2, h3, h4, h5, h6]
  simp

/-- A control payload of no instance in progress is held, or is an orphan (R475). -/
theorem withCtl_none {s u : State} {take bad : Pkt → Bool} {p : Pkt} (hold : Bool) (f : State → ShInst → Pkt → State)
    (h : ctlAlone s take bad p u) : withCtl s take bad hold f = .next (if hold then holdPayload u p else shOrphan u) := by
  obtain ⟨h1, h2, h3⟩ := h
  unfold withCtl
  simp only [h1, h2, h3]
  cases hold <;> simp

/-- A DATA or RETURN payload that is taken has its effect. -/
theorem withSegs_ok {s u : State} {kind : Nat} {p : Pkt} {i : ShInst} {segs : List (Nat × List Byte)}
    (f : State → ShInst → Pkt → List (Nat × List Byte) → State) (h : segsTaken s kind p u i segs) :
    withSegs s kind f = .next (f (inc64 u (pgShf + 0x58) p.body.length) (shTouch u i) p segs) := by
  obtain ⟨h1, h2, h3, h4, h5, h6, h7, h8⟩ := h
  unfold withSegs
  simp only [h1, h2]
  rw [if_neg (by rintro (a | a | a); exacts [a h3, by omega, absurd a (by simp only [segBad] at h5; rw [h5]; simp)])]
  simp only [h6]
  rw [if_neg (fun a => a h7), if_neg (fun a => a h8)]

/-- A POOL data payload that is taken has its effect. -/
theorem withPool_ok {s u : State} {kind : Nat} {p : Pkt} {i : ShInst} (f : State → ShInst → Pkt → State) (h : poolTaken s kind p u i) :
    withPool s kind f = .next (f u (shTouch u i) p) := by
  obtain ⟨h1, h2, h3, h4⟩ := h
  unfold withPool
  simp only [h1, h2]
  rw [if_neg (fun a => a h3), if_neg h4]

/-- An EMBAG or ROWUPD that may issue opens its instance. -/
theorem poolIssue_ok {s : State} {i : Issue} {rowupd : Bool} {n : ShInst} (parse : State → Nat → Nat → List Byte → Option ShInst)
    (h1 : slotIssues s i (if rowupd then 0xFF80FF000000001F else 0xFF80FFFF0000001F)) (h2 : freshRun s i.tile)
    (h3 : parse (countEffect s i.tile) (fgOf (countEffect s i.tile) i.tile).part (fgOf (countEffect s i.tile) i.tile).step
      (shDesc (countEffect s i.tile) i) = some n) (h4 : poolMay (countEffect s i.tile) i rowupd n) :
    poolIssue i s parse rowupd = .next (poolIssued (countEffect s i.tile) i rowupd n) := by
  unfold poolIssue
  rw [issued_ok _ h1, dynamic_ok _ h2]
  generalize countEffect s i.tile = u at *
  obtain ⟨a, b, c, d, e, f⟩ := h4
  simp only [shHandle, shCtr, rawHandle, fgOf, opHi, shDesc] at *
  simp only [h3]
  rw [if_neg (by simp [a]), if_neg (by simp [b]), if_neg (by rintro (x | x); exacts [by simp [c] at x, by rcases d with d | d <;> simp [d] at x]),
    if_neg (by simp [e])]
  simp only [f]

/-- A command of HOST_QP_CMD acts on the pair that its function names. -/
theorem onPair_ok {s : State} {fn q k : Nat} (f : Nat → Qp → State) (h : namesPair s fn q k) : onPair s fn q f = .next (f k (getQp s k)) := by
  unfold onPair
  simp only [h.1, h.2]
  simp

/-- A command of HOST_QP_CMD that names no pair of its function is a violation of the function. -/
theorem onPair_none {s : State} {fn q : Nat} (f : Nat → Qp → State) (h1 : fnDecodes s fn = true) (h2 : resolvePair s fn q = none) :
    onPair s fn q f = .next (vfViolation s) := by
  unfold onPair
  simp only [h1, h2]
  simp

/-- A write that a page takes is done (R373, R451). -/
theorem guardWrite_ok (s : State) (page : Nat) (k : Out) (h : takesWrites s page) : guardWrite s page k = k := by
  obtain ⟨h1, h2, h3, h4⟩ := h
  have e : ((beforeReady s && !earlyType (blockOf page).1) || (s.boot.state == .fuseFault && (blockOf page).1 != 0xF)) = false := by rw [h1, h2]; rfl
  have e2 : ((bit s.boot.cls 4 && !coreType (blockOf page).1) || pageInReset s page) = false := by rw [h3, h4]; rfl
  unfold guardWrite
  dsimp only
  rw [e, e2]
  simp

/-- A mailbox command that is taken answers as its body says (R405, R425). -/
theorem mailbox_ok (s u : State) (opc n : Nat) (rsv : List Nat) (req : List Byte) (k : State → MboxAns) (h : mboxTakes s opc n rsv req) (hu : u = mboxShown s req) :
    mailbox s opc n rsv req k = .next (mboxAnswer (k u)) := by
  obtain ⟨a1, a2, a3, a4, a5, a6⟩ := h
  subst hu
  have b1 : ¬ (byteFld req 0 0 ≠ opc ∨ req.length < n ∨ 256 < req.length ∨ (!reservedZero req n rsv) = true) := by
    simp only [rq] at a3
    simp [a3, a6]; omega
  unfold mailbox
  simp only [a1, a2]
  rw [if_neg (by simp), if_neg (by simp)]
  rw [if_neg b1]

/-- A mailbox command whose partition is in a state that it allows acts on it (R425). -/
theorem onPart_ok (u : State) (req : List Byte) (n : Nat) (p : Part) (l : List PartState) (k : Nat → Part → MboxAns) (h : mboxPart u req n p l) :
    onPart req l u k = k n p := by
  obtain ⟨rfl, h2, rfl, h4⟩ := h
  unfold onPart
  simp only []
  rw [if_neg (by omega), if_pos h4]

/-- A COLL packet that is taken has its effect (R262, R312). -/
theorem withColl_ok {s u : State} {p : Pkt} {k : Nat} (f : State → Pkt → State) (h : collTaken s u p k) :
    withColl s k f = .next (f u p) := by
  obtain ⟨h1, h2, h3, h4⟩ := h
  unfold withColl
  simp only [h1, h2, h3]
  rcases h5 : pavFind u p.ccomm p.cseq with _ | j
  · simp
  · have h6 : p.dor = detMode u := h4.resolve_left (by simp [h5])
    simp [h6]

/-- What happens to a packet whose instance is in progress. -/
theorem withInst_some {s : State} {p : Pkt} {j : PavInst} (f : PavInst → State) (o : State) (h : pavFind s p.ccomm p.cseq = some j) :
    withInst s p f o = f j := by
  simp [withInst, h]

/-- What happens to a packet of no instance in progress. -/
theorem withInst_none {s : State} {p : Pkt} (f : PavInst → State) (o : State) (h : pavFind s p.ccomm p.cseq = none) :
    withInst s p f o = o := by
  simp [withInst, h]

end Sys2Proof.Machine
end

