-- ==== Sys2Proof/WellFormed.lean ====
section
/-!
DEFINITION. Well-formed commands: the operands that a sender can name. A meaning answers for every operand; these checks say
which commands the device's interfaces can carry.
-/

namespace Sys2Proof.WellFormed

open Sys2Proof

/-- A logical tile (R382). -/
def tileOk (t : Nat) : Bool := decide (t < 120)

/-- A local partition (R413). -/
def partOk (n : Nat) : Bool := decide (n < 4)

/-- A compute die. -/
def dieOk (d : Nat) : Bool := decide (d < 2)

/-- A Thresher. -/
def unitOk (u : Nat) : Bool := decide (u < 8)

/-- A Belvedere: three dies and the module. -/
def railOk (u : Nat) : Bool := decide (u < 4)

/-- A fabric port. -/
def portOk (p : Nat) : Bool := decide (p < 32)

/-- A die-to-die link. -/
def linkOk (k : Nat) : Bool := decide (k < 3)

/-- A memory channel. -/
def chanOk (c : Nat) : Bool := decide (c < 128)

/-- A PCIe function: the PF and four VFs (R389). -/
def fnOk (f : Nat) : Bool := decide (f < 5)

/-- A VF. -/
def vfOk (n : Nat) : Bool := decide (1 ≤ n) && decide (n ≤ 4)

/-- A queue pair (R393). -/
def pairOk (q : Nat) : Bool := decide (q < 256)

/-- A 32-bit value. -/
def wordOk (v : Nat) : Bool := decide (v < 2 ^ 32)

/-- The address of a register: four bytes of BAR0 (R4, R446). -/
def regOk (a : Nat) : Bool := decide (a < 2 ^ 26) && decide (a % 4 = 0)

/-- A requester of registers: the PF, a VF, the Lodge, or a device of an Arbour. -/
def reqOk (r : Nat) : Bool := decide (r < 6 + 65536 * 64)

/-- A mailbox request: at most 256 bytes (R424, R425). -/
def mailboxOk (r : List Byte) : Bool := decide (r.length ≤ 256)

/-- A link flit: 256 bytes (R211). -/
def flitOk (b : List Byte) : Bool := decide (b.length = 256)

/-- An issued slot: a tile, a descriptor line or none, and a mask of banks. -/
def issueOk (i : Issue) : Bool := tileOk i.tile && decide (i.dline < 0x4000) && decide (i.live < 2 ^ 16)

/-- A command is well formed. -/
def ok : Instr → Bool
  | .arrivalUnitLanded tile _ => tileOk tile
  | .waitRelease tile => tileOk tile
  | .gateSlotDelivery tile => tileOk tile
  | .apass i => issueOk i
  | .aload i => issueOk i
  | .aos i => issueOk i
  | .abed i => issueOk i
  | .mmrs i => issueOk i
  | .mmag i => issueOk i
  | .husk i => issueOk i
  | .expertLastChunkDone tile hidden => tileOk tile && decide (∀ l ∈ hidden, ∀ v ∈ l, v < 2 ^ 32)
  | .vadd i => issueOk i
  | .vsub i => issueOk i
  | .vmul i => issueOk i
  | .vfma i => issueOk i
  | .vmax i => issueOk i
  | .vmin i => issueOk i
  | .vabs i => issueOk i
  | .vneg i => issueOk i
  | .vscale i => issueOk i
  | .vselect i => issueOk i
  | .vexp i => issueOk i
  | .vexp2 i => issueOk i
  | .vlog2 i => issueOk i
  | .vsigm i => issueOk i
  | .vtanh i => issueOk i
  | .vrcp i => issueOk i
  | .vrsqrt i => issueOk i
  | .vcvt i => issueOk i
  | .vcvtb i => issueOk i
  | .vrsum i => issueOk i
  | .vrmax i => issueOk i
  | .vrmin i => issueOk i
  | .vrnorm2 i => issueOk i
  | .chaff i => issueOk i
  | .copy i => issueOk i
  | .tcopy i => issueOk i
  | .send i => issueOk i
  | .recv i => issueOk i
  | .fill i => issueOk i
  | .list i => issueOk i
  | .store i => issueOk i
  | .storeComplete tile ctr => tileOk tile && decide (ctr < 32)
  | .hint i => issueOk i
  | .topk i => issueOk i
  | .gtopk i => issueOk i
  | .kvsort i => issueOk i
  | .sOpen i => issueOk i
  | .sPush i => issueOk i
  | .sFlush i => issueOk i
  | .sClose i => issueOk i
  | .biasLoad i => issueOk i
  | .rmem i => issueOk i
  | .msgs i => issueOk i
  | .thrIngressChunk t _ _ _ data parity => tileOk t && decide (data.length ≤ 264) && decide (parity < 3)
  | .thrReturnTransfer u _ _ => unitOk u
  | .decisionEgress u => unitOk u
  | .dispatch i => issueOk i
  | .dsend i => issueOk i
  | .ret i => issueOk i
  | .embag i => issueOk i
  | .rowupd i => issueOk i
  | .allreduce i => issueOk i
  | .reduceScatter i => issueOk i
  | .allgather i => issueOk i
  | .broadcast i => issueOk i
  | .alltoall i => issueOk i
  | .alltoallv i => issueOk i
  | .arm i => issueOk i
  | .wait i => issueOk i
  | .waiti i => issueOk i
  | .rel i => issueOk i
  | .fence i => issueOk i
  | .fenceComplete t _ => tileOk t
  | .setlc i => issueOk i
  | .loop i => issueOk i
  | .jump i => issueOk i
  | .jnz i => issueOk i
  | .commit i => issueOk i
  | .commitComplete t => tileOk t
  | .endStep i => issueOk i
  | .stepCommit n => partOk n
  | .contextSaveComplete t => tileOk t
  | .quantumExpiry t => tileOk t
  | .t0FillComplete n => partOk n
  | .stepAdmit n => partOk n
  | .stepStart n => partOk n
  | .stopTakeEffect n => partOk n
  | .stopComplete n => partOk n
  | .resumeTakeEffect n => partOk n
  | .stationaryRefetchDone t _ => tileOk t
  | .freezeSet t => tileOk t
  | .freezeClear t => tileOk t
  | .poisonHalt h => partOk h.part && decide (∀ e ∈ h.bad, e.1 < 120)
  | .redeliveryComplete n => partOk n
  | .replayAdmit n => partOk n
  | .replayRestart n => partOk n
  | .decisionDrain die parity => dieOk die && decide (parity < 3)
  | .contextFetchComplete => true
  | .countCoalesceExpiry => true
  | .countA => true
  | .countB => true
  | .grantA => true
  | .grantB => true
  | .dataSend _ => true
  | .dataSegment => true
  | .returnSegment _ => true
  | .sheafAbort => true
  | .heldPayloadTimeout => true
  | .spillReadbackComplete => true
  | .dispatchInstanceComplete => true
  | .eptEntryWrite v => wordOk v
  | .eptBulkLoad v => wordOk v
  | .eptBulkLoadDone => true
  | .embagCount => true
  | .embagWindowGrant => true
  | .embagRowList => true
  | .poolRowAccess _ => true
  | .embagPartial => true
  | .rowupdContribution _ => true
  | .map die n frame => dieOk die && partOk n && decide (frame < 786432)
  | .unmap die n => dieOk die && partOk n
  | .unmapComplete die => dieOk die
  | .grainFlip _ frame => decide (frame < 786432)
  | .grnQuotaWrite die n v => dieOk die && partOk n && wordOk v
  | .grainRequest => true
  | .grainResponse => true
  | .perBankRefresh c => chanOk c
  | .patrolScrubSlot c => chanOk c
  | .flitReceive p bytes fec => portOk p && flitOk bytes && decide (fec < 3)
  | .retryReq p q => portOk p && decide (q < 4096)
  | .retryReqRepeat p => portOk p
  | .retryLimitDown p => portOk p
  | .portEnable p => portOk p
  | .portDisable p => portOk p
  | .portRetrain p => portOk p
  | .portUnquarantine p => portOk p
  | .portTrainingDone p pol arb dev port => portOk p && decide (pol < 16) && decide (arb < 65536) && decide (dev < 64) && portOk port
  | .alignmentLoss p => portOk p
  | .flitSilenceTimeout p => portOk p
  | .downBackoffRetrain p => portOk p
  | .quarantineLimit p => portOk p
  | .packetInject => true
  | .packetReceive parity => decide (parity < 3)
  | .linkstate => true
  | .cmapSample => true
  | .cmapIntervalEnd => true
  | .cmap => true
  | .cmapPartTimeout => true
  | .otabEntryWrite hi => wordOk hi
  | .memLoad _ => true
  | .memStore _ => true
  | .memAdd _ _ => true
  | .memMin _ => true
  | .memMax _ => true
  | .memCas _ => true
  | .memRsp => true
  | .e2eTimeout => true
  | .combineWindowExpiry => true
  | .msgPacket => true
  | .msgAck => true
  | .msgNack => true
  | .msgTimeout => true
  | .ortEntryWrite v => wordOk v
  | .partModeWrite v => wordOk v
  | .commEntryWrite v => wordOk v
  | .reserve => true
  | .grant => true
  | .deny => true
  | .decide => true
  | .decAck => true
  | .ready => true
  | .count => true
  | .chunk _ => true
  | .chunkAck => true
  | .chunkNak => true
  | .abort => true
  | .chunkTimeout => true
  | .chunkIncompleteTimeout => true
  | .reserveResendTimeout => true
  | .decideResendTimeout => true
  | .earlyRecordResend => true
  | .collTimeout => true
  | .instanceComplete => true
  | .detModeWrite _ => true
  | .detActiveChange => true
  | .digestCfgWrite n v => partOk n && wordOk v
  | .d2dFlitReceive k _ bs => linkOk k && flitOk bs
  | .d2dRetrain k => linkOk k
  | .d2dRetrainDone k _ => linkOk k
  | .railSample _ => true
  | .tempSample _ => true
  | .gateEvaluation => true
  | .windowEnd => true
  | .allotWrite v => wordOk v
  | .ilimitWrite v => wordOk v
  | .paceClear v => wordOk v
  | .ectDataRead => true
  | .idleTileGate t => tileOk t
  | .ungateWave n => partOk n
  | .loadNoticeEnd => true
  | .pllLock _ => true
  | .pllLockRetry => true
  | .referenceLoss => true
  | .tbSet => true
  | .tbPeriodExpiry => true
  | .timeRequest => true
  | .timeResponse => true
  | .tbLockLoss => true
  | .perstAssert => true
  | .perstDeassert _ => true
  | .bootResetRouterDie key _ => wordOk key
  | .bootResetComputeDie d key => dieOk d && wordOk key
  | .bootResetPartition n key => partOk n && wordOk key
  | .partitionResetTakeEffect n => partOk n
  | .computeDieBringupDone d _ _ _ => dieOk d
  | .trainingComplete _ _ _ => true
  | .t1InitDone c => chanOk c
  | .load => true
  | .broadcastImage => true
  | .bootPacket => true
  | .broadcastIncompleteTimeout => true
  | .imageReceived => true
  | .attest => true
  | .tilePowerUpWave => true
  | .katComplete _ _ => true
  | .sqDoorbell fn q v => fnOk fn && pairOk q && wordOk v
  | .qpQuarantine q => pairOk q
  | .cqDoorbell fn q v => fnOk fn && pairOk q && wordOk v
  | .nop q => pairOk q
  | .step q rd => pairOk q && decide (rd < 3)
  | .h2d q rd => pairOk q && decide (rd < 3)
  | .d2h q => pairOk q
  | .h2t q rd => pairOk q && decide (rd < 3)
  | .recvBind q => pairOk q
  | .recvUnbind q => pairOk q
  | .dmaTransferDone q _ => pairOk q
  | .hostReadTimeout q _ => pairOk q
  | .irqCoalesceTimeout q => pairOk q
  | .qpEnable fn q => fnOk fn && pairOk q
  | .qpDisable fn q => fnOk fn && pairOk q
  | .qpDrainDone q => pairOk q
  | .qpUnquarantine fn q => fnOk fn && pairOk q
  | .pfFlr => true
  | .vfFlr n => vfOk n
  | .hotReset => true
  | .bar2Read fn _ _ => fnOk fn
  | .bar2Write fn _ _ _ => fnOk fn
  | .hsrRefresh => true
  | .partSet req => mailboxOk req
  | .partFree req => mailboxOk req
  | .jobOpen req => mailboxOk req
  | .jobEpoch req => mailboxOk req
  | .partStop req => mailboxOk req
  | .partResume req => mailboxOk req
  | .partReset req => mailboxOk req
  | .jobClose req => mailboxOk req
  | .quiesce req => mailboxOk req
  | .jobRelease req => mailboxOk req
  | .setQuota req => mailboxOk req
  | .setAllot req => mailboxOk req
  | .lend req _ => mailboxOk req
  | .lendRelease req => mailboxOk req
  | .leaseGrant req => mailboxOk req
  | .leaseRecall req => mailboxOk req
  | .leaseRecallDone => true
  | .lenderDown req => mailboxOk req
  | .snapshot req => mailboxOk req
  | .readCmap req => mailboxOk req
  | .readDigest req => mailboxOk req
  | .snapAt => true
  | .snapNow => true
  | .snapCancel => true
  | .snapshotTake => true
  | .evtPendClear page bits => regOk page && wordOk bits
  | .errCountRead page => regOk page
  | .tpeakRead u => railOk u
  | .irqHoldoffEnd => true
  | .loReadLatch req addr => reqOk req && regOk addr
  | .hiWrite req addr v => reqOk req && regOk addr && wordOk v
  | .softReset req page => reqOk req && regOk page
  | .registerWrite req addr v _ => reqOk req && regOk addr && wordOk v
  | .vinTurnOn => true
  | .railSettled => true
  | .railSequenceTimeout => true
  | .vinTurnOff => true
  | .vinOvervoltage => true
  | .faultLatchClear => true
  | .pcieLinkUp _ _ => true
  | .vfEnable n => decide (n ≤ 4)
  | .d3hot fn _ => fnOk fn
  | .msixVectorUnmask fn v addr data => fnOk fn && wordOk v && decide (addr < 2 ^ 64) && wordOk data

end Sys2Proof.WellFormed
end

