-- ==== Sys2Proof/Laws/PerInstr.lean ====
section
/-!
SUPPORT. What a well-formed command is, command by command: the checks of WellFormed as plain bounds on its operands.
-/

set_option Elab.async false

namespace Sys2Proof.Laws

open Sys2Proof Sys2Proof.WellFormed

/-- The bounds on the operands of a command. -/
def Shape.Bounds : Instr → Prop
  | .arrivalUnitLanded tile _ => tile < 120
  | .waitRelease tile => tile < 120
  | .gateSlotDelivery tile => tile < 120
  | .apass i => i.tile < 120 ∧ i.dline < 0x4000 ∧ i.live < 2 ^ 16
  | .aload i => i.tile < 120 ∧ i.dline < 0x4000 ∧ i.live < 2 ^ 16
  | .aos i => i.tile < 120 ∧ i.dline < 0x4000 ∧ i.live < 2 ^ 16
  | .abed i => i.tile < 120 ∧ i.dline < 0x4000 ∧ i.live < 2 ^ 16
  | .mmrs i => i.tile < 120 ∧ i.dline < 0x4000 ∧ i.live < 2 ^ 16
  | .mmag i => i.tile < 120 ∧ i.dline < 0x4000 ∧ i.live < 2 ^ 16
  | .husk i => i.tile < 120 ∧ i.dline < 0x4000 ∧ i.live < 2 ^ 16
  | .expertLastChunkDone tile hidden => tile < 120 ∧ ∀ l ∈ hidden, ∀ v ∈ l, v < 2 ^ 32
  | .vadd i => i.tile < 120 ∧ i.dline < 0x4000 ∧ i.live < 2 ^ 16
  | .vsub i => i.tile < 120 ∧ i.dline < 0x4000 ∧ i.live < 2 ^ 16
  | .vmul i => i.tile < 120 ∧ i.dline < 0x4000 ∧ i.live < 2 ^ 16
  | .vfma i => i.tile < 120 ∧ i.dline < 0x4000 ∧ i.live < 2 ^ 16
  | .vmax i => i.tile < 120 ∧ i.dline < 0x4000 ∧ i.live < 2 ^ 16
  | .vmin i => i.tile < 120 ∧ i.dline < 0x4000 ∧ i.live < 2 ^ 16
  | .vabs i => i.tile < 120 ∧ i.dline < 0x4000 ∧ i.live < 2 ^ 16
  | .vneg i => i.tile < 120 ∧ i.dline < 0x4000 ∧ i.live < 2 ^ 16
  | .vscale i => i.tile < 120 ∧ i.dline < 0x4000 ∧ i.live < 2 ^ 16
  | .vselect i => i.tile < 120 ∧ i.dline < 0x4000 ∧ i.live < 2 ^ 16
  | .vexp i => i.tile < 120 ∧ i.dline < 0x4000 ∧ i.live < 2 ^ 16
  | .vexp2 i => i.tile < 120 ∧ i.dline < 0x4000 ∧ i.live < 2 ^ 16
  | .vlog2 i => i.tile < 120 ∧ i.dline < 0x4000 ∧ i.live < 2 ^ 16
  | .vsigm i => i.tile < 120 ∧ i.dline < 0x4000 ∧ i.live < 2 ^ 16
  | .vtanh i => i.tile < 120 ∧ i.dline < 0x4000 ∧ i.live < 2 ^ 16
  | .vrcp i => i.tile < 120 ∧ i.dline < 0x4000 ∧ i.live < 2 ^ 16
  | .vrsqrt i => i.tile < 120 ∧ i.dline < 0x4000 ∧ i.live < 2 ^ 16
  | .vcvt i => i.tile < 120 ∧ i.dline < 0x4000 ∧ i.live < 2 ^ 16
  | .vcvtb i => i.tile < 120 ∧ i.dline < 0x4000 ∧ i.live < 2 ^ 16
  | .vrsum i => i.tile < 120 ∧ i.dline < 0x4000 ∧ i.live < 2 ^ 16
  | .vrmax i => i.tile < 120 ∧ i.dline < 0x4000 ∧ i.live < 2 ^ 16
  | .vrmin i => i.tile < 120 ∧ i.dline < 0x4000 ∧ i.live < 2 ^ 16
  | .vrnorm2 i => i.tile < 120 ∧ i.dline < 0x4000 ∧ i.live < 2 ^ 16
  | .chaff i => i.tile < 120 ∧ i.dline < 0x4000 ∧ i.live < 2 ^ 16
  | .copy i => i.tile < 120 ∧ i.dline < 0x4000 ∧ i.live < 2 ^ 16
  | .tcopy i => i.tile < 120 ∧ i.dline < 0x4000 ∧ i.live < 2 ^ 16
  | .send i => i.tile < 120 ∧ i.dline < 0x4000 ∧ i.live < 2 ^ 16
  | .recv i => i.tile < 120 ∧ i.dline < 0x4000 ∧ i.live < 2 ^ 16
  | .fill i => i.tile < 120 ∧ i.dline < 0x4000 ∧ i.live < 2 ^ 16
  | .list i => i.tile < 120 ∧ i.dline < 0x4000 ∧ i.live < 2 ^ 16
  | .store i => i.tile < 120 ∧ i.dline < 0x4000 ∧ i.live < 2 ^ 16
  | .storeComplete tile ctr => tile < 120 ∧ ctr < 32
  | .hint i => i.tile < 120 ∧ i.dline < 0x4000 ∧ i.live < 2 ^ 16
  | .topk i => i.tile < 120 ∧ i.dline < 0x4000 ∧ i.live < 2 ^ 16
  | .gtopk i => i.tile < 120 ∧ i.dline < 0x4000 ∧ i.live < 2 ^ 16
  | .kvsort i => i.tile < 120 ∧ i.dline < 0x4000 ∧ i.live < 2 ^ 16
  | .sOpen i => i.tile < 120 ∧ i.dline < 0x4000 ∧ i.live < 2 ^ 16
  | .sPush i => i.tile < 120 ∧ i.dline < 0x4000 ∧ i.live < 2 ^ 16
  | .sFlush i => i.tile < 120 ∧ i.dline < 0x4000 ∧ i.live < 2 ^ 16
  | .sClose i => i.tile < 120 ∧ i.dline < 0x4000 ∧ i.live < 2 ^ 16
  | .biasLoad i => i.tile < 120 ∧ i.dline < 0x4000 ∧ i.live < 2 ^ 16
  | .rmem i => i.tile < 120 ∧ i.dline < 0x4000 ∧ i.live < 2 ^ 16
  | .msgs i => i.tile < 120 ∧ i.dline < 0x4000 ∧ i.live < 2 ^ 16
  | .thrIngressChunk t _ _ _ data parity => t < 120 ∧ data.length ≤ 264 ∧ parity < 3
  | .thrReturnTransfer u _ _ => u < 8
  | .decisionEgress u => u < 8
  | .dispatch i => i.tile < 120 ∧ i.dline < 0x4000 ∧ i.live < 2 ^ 16
  | .dsend i => i.tile < 120 ∧ i.dline < 0x4000 ∧ i.live < 2 ^ 16
  | .ret i => i.tile < 120 ∧ i.dline < 0x4000 ∧ i.live < 2 ^ 16
  | .embag i => i.tile < 120 ∧ i.dline < 0x4000 ∧ i.live < 2 ^ 16
  | .rowupd i => i.tile < 120 ∧ i.dline < 0x4000 ∧ i.live < 2 ^ 16
  | .allreduce i => i.tile < 120 ∧ i.dline < 0x4000 ∧ i.live < 2 ^ 16
  | .reduceScatter i => i.tile < 120 ∧ i.dline < 0x4000 ∧ i.live < 2 ^ 16
  | .allgather i => i.tile < 120 ∧ i.dline < 0x4000 ∧ i.live < 2 ^ 16
  | .broadcast i => i.tile < 120 ∧ i.dline < 0x4000 ∧ i.live < 2 ^ 16
  | .alltoall i => i.tile < 120 ∧ i.dline < 0x4000 ∧ i.live < 2 ^ 16
  | .alltoallv i => i.tile < 120 ∧ i.dline < 0x4000 ∧ i.live < 2 ^ 16
  | .arm i => i.tile < 120 ∧ i.dline < 0x4000 ∧ i.live < 2 ^ 16
  | .wait i => i.tile < 120 ∧ i.dline < 0x4000 ∧ i.live < 2 ^ 16
  | .waiti i => i.tile < 120 ∧ i.dline < 0x4000 ∧ i.live < 2 ^ 16
  | .rel i => i.tile < 120 ∧ i.dline < 0x4000 ∧ i.live < 2 ^ 16
  | .fence i => i.tile < 120 ∧ i.dline < 0x4000 ∧ i.live < 2 ^ 16
  | .fenceComplete t _ => t < 120
  | .setlc i => i.tile < 120 ∧ i.dline < 0x4000 ∧ i.live < 2 ^ 16
  | .loop i => i.tile < 120 ∧ i.dline < 0x4000 ∧ i.live < 2 ^ 16
  | .jump i => i.tile < 120 ∧ i.dline < 0x4000 ∧ i.live < 2 ^ 16
  | .jnz i => i.tile < 120 ∧ i.dline < 0x4000 ∧ i.live < 2 ^ 16
  | .commit i => i.tile < 120 ∧ i.dline < 0x4000 ∧ i.live < 2 ^ 16
  | .commitComplete t => t < 120
  | .endStep i => i.tile < 120 ∧ i.dline < 0x4000 ∧ i.live < 2 ^ 16
  | .stepCommit n => n < 4
  | .contextSaveComplete t => t < 120
  | .quantumExpiry t => t < 120
  | .t0FillComplete n => n < 4
  | .stepAdmit n => n < 4
  | .stepStart n => n < 4
  | .stopTakeEffect n => n < 4
  | .stopComplete n => n < 4
  | .resumeTakeEffect n => n < 4
  | .stationaryRefetchDone t _ => t < 120
  | .freezeSet t => t < 120
  | .freezeClear t => t < 120
  | .poisonHalt h => h.part < 4 ∧ ∀ e ∈ h.bad, e.1 < 120
  | .redeliveryComplete n => n < 4
  | .replayAdmit n => n < 4
  | .replayRestart n => n < 4
  | .decisionDrain die parity => die < 2 ∧ parity < 3
  | .contextFetchComplete => True
  | .countCoalesceExpiry => True
  | .countA => True
  | .countB => True
  | .grantA => True
  | .grantB => True
  | .dataSend _ => True
  | .dataSegment => True
  | .returnSegment _ => True
  | .sheafAbort => True
  | .heldPayloadTimeout => True
  | .spillReadbackComplete => True
  | .dispatchInstanceComplete => True
  | .eptEntryWrite v => v < 2 ^ 32
  | .eptBulkLoad v => v < 2 ^ 32
  | .eptBulkLoadDone => True
  | .embagCount => True
  | .embagWindowGrant => True
  | .embagRowList => True
  | .poolRowAccess _ => True
  | .embagPartial => True
  | .rowupdContribution _ => True
  | .map die n frame => die < 2 ∧ n < 4 ∧ frame < 786432
  | .unmap die n => die < 2 ∧ n < 4
  | .unmapComplete die => die < 2
  | .grainFlip _ frame => frame < 786432
  | .grnQuotaWrite die n v => die < 2 ∧ n < 4 ∧ v < 2 ^ 32
  | .grainRequest => True
  | .grainResponse => True
  | .perBankRefresh c => c < 128
  | .patrolScrubSlot c => c < 128
  | .flitReceive p bytes fec => p < 32 ∧ bytes.length = 256 ∧ fec < 3
  | .retryReq p q => p < 32 ∧ q < 4096
  | .retryReqRepeat p => p < 32
  | .retryLimitDown p => p < 32
  | .portEnable p => p < 32
  | .portDisable p => p < 32
  | .portRetrain p => p < 32
  | .portUnquarantine p => p < 32
  | .portTrainingDone p pol arb dev port => p < 32 ∧ pol < 16 ∧ arb < 65536 ∧ dev < 64 ∧ port < 32
  | .alignmentLoss p => p < 32
  | .flitSilenceTimeout p => p < 32
  | .downBackoffRetrain p => p < 32
  | .quarantineLimit p => p < 32
  | .packetInject => True
  | .packetReceive parity => parity < 3
  | .linkstate => True
  | .cmapSample => True
  | .cmapIntervalEnd => True
  | .cmap => True
  | .cmapPartTimeout => True
  | .otabEntryWrite hi => hi < 2 ^ 32
  | .memLoad _ => True
  | .memStore _ => True
  | .memAdd _ _ => True
  | .memMin _ => True
  | .memMax _ => True
  | .memCas _ => True
  | .memRsp => True
  | .e2eTimeout => True
  | .combineWindowExpiry => True
  | .msgPacket => True
  | .msgAck => True
  | .msgNack => True
  | .msgTimeout => True
  | .ortEntryWrite v => v < 2 ^ 32
  | .partModeWrite v => v < 2 ^ 32
  | .commEntryWrite v => v < 2 ^ 32
  | .reserve => True
  | .grant => True
  | .deny => True
  | .decide => True
  | .decAck => True
  | .ready => True
  | .count => True
  | .chunk _ => True
  | .chunkAck => True
  | .chunkNak => True
  | .abort => True
  | .chunkTimeout => True
  | .chunkIncompleteTimeout => True
  | .reserveResendTimeout => True
  | .decideResendTimeout => True
  | .earlyRecordResend => True
  | .collTimeout => True
  | .instanceComplete => True
  | .detModeWrite _ => True
  | .detActiveChange => True
  | .digestCfgWrite n v => n < 4 ∧ v < 2 ^ 32
  | .d2dFlitReceive k _ bs => k < 3 ∧ bs.length = 256
  | .d2dRetrain k => k < 3
  | .d2dRetrainDone k _ => k < 3
  | .railSample _ => True
  | .tempSample _ => True
  | .gateEvaluation => True
  | .windowEnd => True
  | .allotWrite v => v < 2 ^ 32
  | .ilimitWrite v => v < 2 ^ 32
  | .paceClear v => v < 2 ^ 32
  | .ectDataRead => True
  | .idleTileGate t => t < 120
  | .ungateWave n => n < 4
  | .loadNoticeEnd => True
  | .pllLock _ => True
  | .pllLockRetry => True
  | .referenceLoss => True
  | .tbSet => True
  | .tbPeriodExpiry => True
  | .timeRequest => True
  | .timeResponse => True
  | .tbLockLoss => True
  | .perstAssert => True
  | .perstDeassert _ => True
  | .bootResetRouterDie key _ => key < 2 ^ 32
  | .bootResetComputeDie d key => d < 2 ∧ key < 2 ^ 32
  | .bootResetPartition n key => n < 4 ∧ key < 2 ^ 32
  | .partitionResetTakeEffect n => n < 4
  | .computeDieBringupDone d _ _ _ => d < 2
  | .trainingComplete _ _ _ => True
  | .t1InitDone c => c < 128
  | .load => True
  | .broadcastImage => True
  | .bootPacket => True
  | .broadcastIncompleteTimeout => True
  | .imageReceived => True
  | .attest => True
  | .tilePowerUpWave => True
  | .katComplete _ _ => True
  | .sqDoorbell fn q v => fn < 5 ∧ q < 256 ∧ v < 2 ^ 32
  | .qpQuarantine q => q < 256
  | .cqDoorbell fn q v => fn < 5 ∧ q < 256 ∧ v < 2 ^ 32
  | .nop q => q < 256
  | .step q rd => q < 256 ∧ rd < 3
  | .h2d q rd => q < 256 ∧ rd < 3
  | .d2h q => q < 256
  | .h2t q rd => q < 256 ∧ rd < 3
  | .recvBind q => q < 256
  | .recvUnbind q => q < 256
  | .dmaTransferDone q _ => q < 256
  | .hostReadTimeout q _ => q < 256
  | .irqCoalesceTimeout q => q < 256
  | .qpEnable fn q => fn < 5 ∧ q < 256
  | .qpDisable fn q => fn < 5 ∧ q < 256
  | .qpDrainDone q => q < 256
  | .qpUnquarantine fn q => fn < 5 ∧ q < 256
  | .pfFlr => True
  | .vfFlr n => 1 ≤ n ∧ n ≤ 4
  | .hotReset => True
  | .bar2Read fn _ _ => fn < 5
  | .bar2Write fn _ _ _ => fn < 5
  | .hsrRefresh => True
  | .partSet req => req.length ≤ 256
  | .partFree req => req.length ≤ 256
  | .jobOpen req => req.length ≤ 256
  | .jobEpoch req => req.length ≤ 256
  | .partStop req => req.length ≤ 256
  | .partResume req => req.length ≤ 256
  | .partReset req => req.length ≤ 256
  | .jobClose req => req.length ≤ 256
  | .quiesce req => req.length ≤ 256
  | .jobRelease req => req.length ≤ 256
  | .setQuota req => req.length ≤ 256
  | .setAllot req => req.length ≤ 256
  | .lend req _ => req.length ≤ 256
  | .lendRelease req => req.length ≤ 256
  | .leaseGrant req => req.length ≤ 256
  | .leaseRecall req => req.length ≤ 256
  | .leaseRecallDone => True
  | .lenderDown req => req.length ≤ 256
  | .snapshot req => req.length ≤ 256
  | .readCmap req => req.length ≤ 256
  | .readDigest req => req.length ≤ 256
  | .snapAt => True
  | .snapNow => True
  | .snapCancel => True
  | .snapshotTake => True
  | .evtPendClear page bits => page < 2 ^ 26 ∧ page % 4 = 0 ∧ bits < 2 ^ 32
  | .errCountRead page => page < 2 ^ 26 ∧ page % 4 = 0
  | .tpeakRead u => u < 4
  | .irqHoldoffEnd => True
  | .loReadLatch req addr => req < 6 + 65536 * 64 ∧ addr < 2 ^ 26 ∧ addr % 4 = 0
  | .hiWrite req addr v => req < 6 + 65536 * 64 ∧ addr < 2 ^ 26 ∧ addr % 4 = 0 ∧ v < 2 ^ 32
  | .softReset req page => req < 6 + 65536 * 64 ∧ page < 2 ^ 26 ∧ page % 4 = 0
  | .registerWrite req addr v _ => req < 6 + 65536 * 64 ∧ addr < 2 ^ 26 ∧ addr % 4 = 0 ∧ v < 2 ^ 32
  | .vinTurnOn => True
  | .railSettled => True
  | .railSequenceTimeout => True
  | .vinTurnOff => True
  | .vinOvervoltage => True
  | .faultLatchClear => True
  | .pcieLinkUp _ _ => True
  | .vfEnable n => n ≤ 4
  | .d3hot fn _ => fn < 5
  | .msixVectorUnmask fn v addr data => fn < 5 ∧ v < 2 ^ 32 ∧ addr < 2 ^ 64 ∧ data < 2 ^ 32

/-- A command is well formed exactly when its operands lie in their bounds. -/
def Shape.Statement (i : Instr) : Prop := ok i = true ↔ Shape.Bounds i

theorem Shape.arrivalUnitLanded (tile : Nat) (parityBad : Bool) : Shape.Statement (.arrivalUnitLanded tile parityBad) := by
  simp [Shape.Statement, Shape.Bounds, WellFormed.ok, tileOk]

theorem Shape.waitRelease (tile : Nat) : Shape.Statement (.waitRelease tile) := by
  simp [Shape.Statement, Shape.Bounds, WellFormed.ok, tileOk]

theorem Shape.gateSlotDelivery (tile : Nat) : Shape.Statement (.gateSlotDelivery tile) := by
  simp [Shape.Statement, Shape.Bounds, WellFormed.ok, tileOk]

theorem Shape.apass (i : Issue) : Shape.Statement (.apass i) := by
  simp [Shape.Statement, Shape.Bounds, WellFormed.ok, issueOk, tileOk, and_assoc]

theorem Shape.aload (i : Issue) : Shape.Statement (.aload i) := by
  simp [Shape.Statement, Shape.Bounds, WellFormed.ok, issueOk, tileOk, and_assoc]

theorem Shape.aos (i : Issue) : Shape.Statement (.aos i) := by
  simp [Shape.Statement, Shape.Bounds, WellFormed.ok, issueOk, tileOk, and_assoc]

theorem Shape.abed (i : Issue) : Shape.Statement (.abed i) := by
  simp [Shape.Statement, Shape.Bounds, WellFormed.ok, issueOk, tileOk, and_assoc]

theorem Shape.mmrs (i : Issue) : Shape.Statement (.mmrs i) := by
  simp [Shape.Statement, Shape.Bounds, WellFormed.ok, issueOk, tileOk, and_assoc]

theorem Shape.mmag (i : Issue) : Shape.Statement (.mmag i) := by
  simp [Shape.Statement, Shape.Bounds, WellFormed.ok, issueOk, tileOk, and_assoc]

theorem Shape.husk (i : Issue) : Shape.Statement (.husk i) := by
  simp [Shape.Statement, Shape.Bounds, WellFormed.ok, issueOk, tileOk, and_assoc]

theorem Shape.expertLastChunkDone (tile : Nat) (hidden : List (List Nat)) : Shape.Statement (.expertLastChunkDone tile hidden) := by
  simp [Shape.Statement, Shape.Bounds, WellFormed.ok, tileOk, and_assoc]

theorem Shape.vadd (i : Issue) : Shape.Statement (.vadd i) := by
  simp [Shape.Statement, Shape.Bounds, WellFormed.ok, issueOk, tileOk, and_assoc]

theorem Shape.vsub (i : Issue) : Shape.Statement (.vsub i) := by
  simp [Shape.Statement, Shape.Bounds, WellFormed.ok, issueOk, tileOk, and_assoc]

theorem Shape.vmul (i : Issue) : Shape.Statement (.vmul i) := by
  simp [Shape.Statement, Shape.Bounds, WellFormed.ok, issueOk, tileOk, and_assoc]

theorem Shape.vfma (i : Issue) : Shape.Statement (.vfma i) := by
  simp [Shape.Statement, Shape.Bounds, WellFormed.ok, issueOk, tileOk, and_assoc]

theorem Shape.vmax (i : Issue) : Shape.Statement (.vmax i) := by
  simp [Shape.Statement, Shape.Bounds, WellFormed.ok, issueOk, tileOk, and_assoc]

theorem Shape.vmin (i : Issue) : Shape.Statement (.vmin i) := by
  simp [Shape.Statement, Shape.Bounds, WellFormed.ok, issueOk, tileOk, and_assoc]

theorem Shape.vabs (i : Issue) : Shape.Statement (.vabs i) := by
  simp [Shape.Statement, Shape.Bounds, WellFormed.ok, issueOk, tileOk, and_assoc]

theorem Shape.vneg (i : Issue) : Shape.Statement (.vneg i) := by
  simp [Shape.Statement, Shape.Bounds, WellFormed.ok, issueOk, tileOk, and_assoc]

theorem Shape.vscale (i : Issue) : Shape.Statement (.vscale i) := by
  simp [Shape.Statement, Shape.Bounds, WellFormed.ok, issueOk, tileOk, and_assoc]

theorem Shape.vselect (i : Issue) : Shape.Statement (.vselect i) := by
  simp [Shape.Statement, Shape.Bounds, WellFormed.ok, issueOk, tileOk, and_assoc]

theorem Shape.vexp (i : Issue) : Shape.Statement (.vexp i) := by
  simp [Shape.Statement, Shape.Bounds, WellFormed.ok, issueOk, tileOk, and_assoc]

theorem Shape.vexp2 (i : Issue) : Shape.Statement (.vexp2 i) := by
  simp [Shape.Statement, Shape.Bounds, WellFormed.ok, issueOk, tileOk, and_assoc]

theorem Shape.vlog2 (i : Issue) : Shape.Statement (.vlog2 i) := by
  simp [Shape.Statement, Shape.Bounds, WellFormed.ok, issueOk, tileOk, and_assoc]

theorem Shape.vsigm (i : Issue) : Shape.Statement (.vsigm i) := by
  simp [Shape.Statement, Shape.Bounds, WellFormed.ok, issueOk, tileOk, and_assoc]

theorem Shape.vtanh (i : Issue) : Shape.Statement (.vtanh i) := by
  simp [Shape.Statement, Shape.Bounds, WellFormed.ok, issueOk, tileOk, and_assoc]

theorem Shape.vrcp (i : Issue) : Shape.Statement (.vrcp i) := by
  simp [Shape.Statement, Shape.Bounds, WellFormed.ok, issueOk, tileOk, and_assoc]

theorem Shape.vrsqrt (i : Issue) : Shape.Statement (.vrsqrt i) := by
  simp [Shape.Statement, Shape.Bounds, WellFormed.ok, issueOk, tileOk, and_assoc]

theorem Shape.vcvt (i : Issue) : Shape.Statement (.vcvt i) := by
  simp [Shape.Statement, Shape.Bounds, WellFormed.ok, issueOk, tileOk, and_assoc]

theorem Shape.vcvtb (i : Issue) : Shape.Statement (.vcvtb i) := by
  simp [Shape.Statement, Shape.Bounds, WellFormed.ok, issueOk, tileOk, and_assoc]

theorem Shape.vrsum (i : Issue) : Shape.Statement (.vrsum i) := by
  simp [Shape.Statement, Shape.Bounds, WellFormed.ok, issueOk, tileOk, and_assoc]

theorem Shape.vrmax (i : Issue) : Shape.Statement (.vrmax i) := by
  simp [Shape.Statement, Shape.Bounds, WellFormed.ok, issueOk, tileOk, and_assoc]

theorem Shape.vrmin (i : Issue) : Shape.Statement (.vrmin i) := by
  simp [Shape.Statement, Shape.Bounds, WellFormed.ok, issueOk, tileOk, and_assoc]

theorem Shape.vrnorm2 (i : Issue) : Shape.Statement (.vrnorm2 i) := by
  simp [Shape.Statement, Shape.Bounds, WellFormed.ok, issueOk, tileOk, and_assoc]

theorem Shape.chaff (i : Issue) : Shape.Statement (.chaff i) := by
  simp [Shape.Statement, Shape.Bounds, WellFormed.ok, issueOk, tileOk, and_assoc]

theorem Shape.copy (i : Issue) : Shape.Statement (.copy i) := by
  simp [Shape.Statement, Shape.Bounds, WellFormed.ok, issueOk, tileOk, and_assoc]

theorem Shape.tcopy (i : Issue) : Shape.Statement (.tcopy i) := by
  simp [Shape.Statement, Shape.Bounds, WellFormed.ok, issueOk, tileOk, and_assoc]

theorem Shape.send (i : Issue) : Shape.Statement (.send i) := by
  simp [Shape.Statement, Shape.Bounds, WellFormed.ok, issueOk, tileOk, and_assoc]

theorem Shape.recv (i : Issue) : Shape.Statement (.recv i) := by
  simp [Shape.Statement, Shape.Bounds, WellFormed.ok, issueOk, tileOk, and_assoc]

theorem Shape.fill (i : Issue) : Shape.Statement (.fill i) := by
  simp [Shape.Statement, Shape.Bounds, WellFormed.ok, issueOk, tileOk, and_assoc]

theorem Shape.list (i : Issue) : Shape.Statement (.list i) := by
  simp [Shape.Statement, Shape.Bounds, WellFormed.ok, issueOk, tileOk, and_assoc]

theorem Shape.store (i : Issue) : Shape.Statement (.store i) := by
  simp [Shape.Statement, Shape.Bounds, WellFormed.ok, issueOk, tileOk, and_assoc]

theorem Shape.storeComplete (tile ctr : Nat) : Shape.Statement (.storeComplete tile ctr) := by
  simp [Shape.Statement, Shape.Bounds, WellFormed.ok, tileOk, and_assoc]

theorem Shape.hint (i : Issue) : Shape.Statement (.hint i) := by
  simp [Shape.Statement, Shape.Bounds, WellFormed.ok, issueOk, tileOk, and_assoc]

theorem Shape.topk (i : Issue) : Shape.Statement (.topk i) := by
  simp [Shape.Statement, Shape.Bounds, WellFormed.ok, issueOk, tileOk, and_assoc]

theorem Shape.gtopk (i : Issue) : Shape.Statement (.gtopk i) := by
  simp [Shape.Statement, Shape.Bounds, WellFormed.ok, issueOk, tileOk, and_assoc]

theorem Shape.kvsort (i : Issue) : Shape.Statement (.kvsort i) := by
  simp [Shape.Statement, Shape.Bounds, WellFormed.ok, issueOk, tileOk, and_assoc]

theorem Shape.sOpen (i : Issue) : Shape.Statement (.sOpen i) := by
  simp [Shape.Statement, Shape.Bounds, WellFormed.ok, issueOk, tileOk, and_assoc]

theorem Shape.sPush (i : Issue) : Shape.Statement (.sPush i) := by
  simp [Shape.Statement, Shape.Bounds, WellFormed.ok, issueOk, tileOk, and_assoc]

theorem Shape.sFlush (i : Issue) : Shape.Statement (.sFlush i) := by
  simp [Shape.Statement, Shape.Bounds, WellFormed.ok, issueOk, tileOk, and_assoc]

theorem Shape.sClose (i : Issue) : Shape.Statement (.sClose i) := by
  simp [Shape.Statement, Shape.Bounds, WellFormed.ok, issueOk, tileOk, and_assoc]

theorem Shape.biasLoad (i : Issue) : Shape.Statement (.biasLoad i) := by
  simp [Shape.Statement, Shape.Bounds, WellFormed.ok, issueOk, tileOk, and_assoc]

theorem Shape.rmem (i : Issue) : Shape.Statement (.rmem i) := by
  simp [Shape.Statement, Shape.Bounds, WellFormed.ok, issueOk, tileOk, and_assoc]

theorem Shape.msgs (i : Issue) : Shape.Statement (.msgs i) := by
  simp [Shape.Statement, Shape.Bounds, WellFormed.ok, issueOk, tileOk, and_assoc]

theorem Shape.thrIngressChunk (t tag pos idx : Nat) (data : List Byte) (parity : Nat) : Shape.Statement (.thrIngressChunk t tag pos idx data parity) := by
  simp [Shape.Statement, Shape.Bounds, WellFormed.ok, tileOk, and_assoc]

theorem Shape.thrReturnTransfer (u tag : Nat) (parityBad : Bool) : Shape.Statement (.thrReturnTransfer u tag parityBad) := by
  simp [Shape.Statement, Shape.Bounds, WellFormed.ok, unitOk]

theorem Shape.decisionEgress (u : Nat) : Shape.Statement (.decisionEgress u) := by
  simp [Shape.Statement, Shape.Bounds, WellFormed.ok, unitOk]

theorem Shape.dispatch (i : Issue) : Shape.Statement (.dispatch i) := by
  simp [Shape.Statement, Shape.Bounds, WellFormed.ok, issueOk, tileOk, and_assoc]

theorem Shape.dsend (i : Issue) : Shape.Statement (.dsend i) := by
  simp [Shape.Statement, Shape.Bounds, WellFormed.ok, issueOk, tileOk, and_assoc]

theorem Shape.ret (i : Issue) : Shape.Statement (.ret i) := by
  simp [Shape.Statement, Shape.Bounds, WellFormed.ok, issueOk, tileOk, and_assoc]

theorem Shape.embag (i : Issue) : Shape.Statement (.embag i) := by
  simp [Shape.Statement, Shape.Bounds, WellFormed.ok, issueOk, tileOk, and_assoc]

theorem Shape.rowupd (i : Issue) : Shape.Statement (.rowupd i) := by
  simp [Shape.Statement, Shape.Bounds, WellFormed.ok, issueOk, tileOk, and_assoc]

theorem Shape.allreduce (i : Issue) : Shape.Statement (.allreduce i) := by
  simp [Shape.Statement, Shape.Bounds, WellFormed.ok, issueOk, tileOk, and_assoc]

theorem Shape.reduceScatter (i : Issue) : Shape.Statement (.reduceScatter i) := by
  simp [Shape.Statement, Shape.Bounds, WellFormed.ok, issueOk, tileOk, and_assoc]

theorem Shape.allgather (i : Issue) : Shape.Statement (.allgather i) := by
  simp [Shape.Statement, Shape.Bounds, WellFormed.ok, issueOk, tileOk, and_assoc]

theorem Shape.broadcast (i : Issue) : Shape.Statement (.broadcast i) := by
  simp [Shape.Statement, Shape.Bounds, WellFormed.ok, issueOk, tileOk, and_assoc]

theorem Shape.alltoall (i : Issue) : Shape.Statement (.alltoall i) := by
  simp [Shape.Statement, Shape.Bounds, WellFormed.ok, issueOk, tileOk, and_assoc]

theorem Shape.alltoallv (i : Issue) : Shape.Statement (.alltoallv i) := by
  simp [Shape.Statement, Shape.Bounds, WellFormed.ok, issueOk, tileOk, and_assoc]

theorem Shape.arm (i : Issue) : Shape.Statement (.arm i) := by
  simp [Shape.Statement, Shape.Bounds, WellFormed.ok, issueOk, tileOk, and_assoc]

theorem Shape.wait (i : Issue) : Shape.Statement (.wait i) := by
  simp [Shape.Statement, Shape.Bounds, WellFormed.ok, issueOk, tileOk, and_assoc]

theorem Shape.waiti (i : Issue) : Shape.Statement (.waiti i) := by
  simp [Shape.Statement, Shape.Bounds, WellFormed.ok, issueOk, tileOk, and_assoc]

theorem Shape.rel (i : Issue) : Shape.Statement (.rel i) := by
  simp [Shape.Statement, Shape.Bounds, WellFormed.ok, issueOk, tileOk, and_assoc]

theorem Shape.fence (i : Issue) : Shape.Statement (.fence i) := by
  simp [Shape.Statement, Shape.Bounds, WellFormed.ok, issueOk, tileOk, and_assoc]

theorem Shape.fenceComplete (t : Nat) (bg : Bool) : Shape.Statement (.fenceComplete t bg) := by
  simp [Shape.Statement, Shape.Bounds, WellFormed.ok, tileOk]

theorem Shape.setlc (i : Issue) : Shape.Statement (.setlc i) := by
  simp [Shape.Statement, Shape.Bounds, WellFormed.ok, issueOk, tileOk, and_assoc]

theorem Shape.loop (i : Issue) : Shape.Statement (.loop i) := by
  simp [Shape.Statement, Shape.Bounds, WellFormed.ok, issueOk, tileOk, and_assoc]

theorem Shape.jump (i : Issue) : Shape.Statement (.jump i) := by
  simp [Shape.Statement, Shape.Bounds, WellFormed.ok, issueOk, tileOk, and_assoc]

theorem Shape.jnz (i : Issue) : Shape.Statement (.jnz i) := by
  simp [Shape.Statement, Shape.Bounds, WellFormed.ok, issueOk, tileOk, and_assoc]

theorem Shape.commit (i : Issue) : Shape.Statement (.commit i) := by
  simp [Shape.Statement, Shape.Bounds, WellFormed.ok, issueOk, tileOk, and_assoc]

theorem Shape.commitComplete (t : Nat) : Shape.Statement (.commitComplete t) := by
  simp [Shape.Statement, Shape.Bounds, WellFormed.ok, tileOk]

theorem Shape.endStep (i : Issue) : Shape.Statement (.endStep i) := by
  simp [Shape.Statement, Shape.Bounds, WellFormed.ok, issueOk, tileOk, and_assoc]

theorem Shape.stepCommit (n : Nat) : Shape.Statement (.stepCommit n) := by
  simp [Shape.Statement, Shape.Bounds, WellFormed.ok, partOk]

theorem Shape.contextSaveComplete (t : Nat) : Shape.Statement (.contextSaveComplete t) := by
  simp [Shape.Statement, Shape.Bounds, WellFormed.ok, tileOk]

theorem Shape.quantumExpiry (t : Nat) : Shape.Statement (.quantumExpiry t) := by
  simp [Shape.Statement, Shape.Bounds, WellFormed.ok, tileOk]

theorem Shape.t0FillComplete (n : Nat) : Shape.Statement (.t0FillComplete n) := by
  simp [Shape.Statement, Shape.Bounds, WellFormed.ok, partOk]

theorem Shape.stepAdmit (n : Nat) : Shape.Statement (.stepAdmit n) := by
  simp [Shape.Statement, Shape.Bounds, WellFormed.ok, partOk]

theorem Shape.stepStart (n : Nat) : Shape.Statement (.stepStart n) := by
  simp [Shape.Statement, Shape.Bounds, WellFormed.ok, partOk]

theorem Shape.stopTakeEffect (n : Nat) : Shape.Statement (.stopTakeEffect n) := by
  simp [Shape.Statement, Shape.Bounds, WellFormed.ok, partOk]

theorem Shape.stopComplete (n : Nat) : Shape.Statement (.stopComplete n) := by
  simp [Shape.Statement, Shape.Bounds, WellFormed.ok, partOk]

theorem Shape.resumeTakeEffect (n : Nat) : Shape.Statement (.resumeTakeEffect n) := by
  simp [Shape.Statement, Shape.Bounds, WellFormed.ok, partOk]

theorem Shape.stationaryRefetchDone (t : Nat) (data : List Byte) : Shape.Statement (.stationaryRefetchDone t data) := by
  simp [Shape.Statement, Shape.Bounds, WellFormed.ok, tileOk]

theorem Shape.freezeSet (t : Nat) : Shape.Statement (.freezeSet t) := by
  simp [Shape.Statement, Shape.Bounds, WellFormed.ok, tileOk]

theorem Shape.freezeClear (t : Nat) : Shape.Statement (.freezeClear t) := by
  simp [Shape.Statement, Shape.Bounds, WellFormed.ok, tileOk]

theorem Shape.poisonHalt (h : PoisonedPart) : Shape.Statement (.poisonHalt h) := by
  simp [Shape.Statement, Shape.Bounds, WellFormed.ok, partOk, and_assoc]

theorem Shape.redeliveryComplete (n : Nat) : Shape.Statement (.redeliveryComplete n) := by
  simp [Shape.Statement, Shape.Bounds, WellFormed.ok, partOk]

theorem Shape.replayAdmit (n : Nat) : Shape.Statement (.replayAdmit n) := by
  simp [Shape.Statement, Shape.Bounds, WellFormed.ok, partOk]

theorem Shape.replayRestart (n : Nat) : Shape.Statement (.replayRestart n) := by
  simp [Shape.Statement, Shape.Bounds, WellFormed.ok, partOk]

theorem Shape.decisionDrain (die parity : Nat) : Shape.Statement (.decisionDrain die parity) := by
  simp [Shape.Statement, Shape.Bounds, WellFormed.ok, dieOk, and_assoc]

theorem Shape.contextFetchComplete : Shape.Statement .contextFetchComplete := by
  simp [Shape.Statement, Shape.Bounds, WellFormed.ok]

theorem Shape.countCoalesceExpiry : Shape.Statement .countCoalesceExpiry := by
  simp [Shape.Statement, Shape.Bounds, WellFormed.ok]

theorem Shape.countA : Shape.Statement .countA := by
  simp [Shape.Statement, Shape.Bounds, WellFormed.ok]

theorem Shape.countB : Shape.Statement .countB := by
  simp [Shape.Statement, Shape.Bounds, WellFormed.ok]

theorem Shape.grantA : Shape.Statement .grantA := by
  simp [Shape.Statement, Shape.Bounds, WellFormed.ok]

theorem Shape.grantB : Shape.Statement .grantB := by
  simp [Shape.Statement, Shape.Bounds, WellFormed.ok]

theorem Shape.dataSend (parityBad : Bool) : Shape.Statement (.dataSend parityBad) := by
  simp [Shape.Statement, Shape.Bounds, WellFormed.ok]

theorem Shape.dataSegment : Shape.Statement .dataSegment := by
  simp [Shape.Statement, Shape.Bounds, WellFormed.ok]

theorem Shape.returnSegment (parityBad : Bool) : Shape.Statement (.returnSegment parityBad) := by
  simp [Shape.Statement, Shape.Bounds, WellFormed.ok]

theorem Shape.sheafAbort : Shape.Statement .sheafAbort := by
  simp [Shape.Statement, Shape.Bounds, WellFormed.ok]

theorem Shape.heldPayloadTimeout : Shape.Statement .heldPayloadTimeout := by
  simp [Shape.Statement, Shape.Bounds, WellFormed.ok]

theorem Shape.spillReadbackComplete : Shape.Statement .spillReadbackComplete := by
  simp [Shape.Statement, Shape.Bounds, WellFormed.ok]

theorem Shape.dispatchInstanceComplete : Shape.Statement .dispatchInstanceComplete := by
  simp [Shape.Statement, Shape.Bounds, WellFormed.ok]

theorem Shape.eptEntryWrite (v : Nat) : Shape.Statement (.eptEntryWrite v) := by
  simp [Shape.Statement, Shape.Bounds, WellFormed.ok, wordOk]

theorem Shape.eptBulkLoad (v : Nat) : Shape.Statement (.eptBulkLoad v) := by
  simp [Shape.Statement, Shape.Bounds, WellFormed.ok, wordOk]

theorem Shape.eptBulkLoadDone : Shape.Statement .eptBulkLoadDone := by
  simp [Shape.Statement, Shape.Bounds, WellFormed.ok]

theorem Shape.embagCount : Shape.Statement .embagCount := by
  simp [Shape.Statement, Shape.Bounds, WellFormed.ok]

theorem Shape.embagWindowGrant : Shape.Statement .embagWindowGrant := by
  simp [Shape.Statement, Shape.Bounds, WellFormed.ok]

theorem Shape.embagRowList : Shape.Statement .embagRowList := by
  simp [Shape.Statement, Shape.Bounds, WellFormed.ok]

theorem Shape.poolRowAccess (parityBad : Bool) : Shape.Statement (.poolRowAccess parityBad) := by
  simp [Shape.Statement, Shape.Bounds, WellFormed.ok]

theorem Shape.embagPartial : Shape.Statement .embagPartial := by
  simp [Shape.Statement, Shape.Bounds, WellFormed.ok]

theorem Shape.rowupdContribution (parityBad : Bool) : Shape.Statement (.rowupdContribution parityBad) := by
  simp [Shape.Statement, Shape.Bounds, WellFormed.ok]

theorem Shape.map (die n frame : Nat) : Shape.Statement (.map die n frame) := by
  simp [Shape.Statement, Shape.Bounds, WellFormed.ok, dieOk, partOk, and_assoc]

theorem Shape.unmap (die n : Nat) : Shape.Statement (.unmap die n) := by
  simp [Shape.Statement, Shape.Bounds, WellFormed.ok, dieOk, partOk, and_assoc]

theorem Shape.unmapComplete (die : Nat) : Shape.Statement (.unmapComplete die) := by
  simp [Shape.Statement, Shape.Bounds, WellFormed.ok, dieOk]

theorem Shape.grainFlip (data : List Byte) (frame : Nat) : Shape.Statement (.grainFlip data frame) := by
  simp [Shape.Statement, Shape.Bounds, WellFormed.ok]

theorem Shape.grnQuotaWrite (die n v : Nat) : Shape.Statement (.grnQuotaWrite die n v) := by
  simp [Shape.Statement, Shape.Bounds, WellFormed.ok, dieOk, partOk, wordOk, and_assoc]

theorem Shape.grainRequest : Shape.Statement .grainRequest := by
  simp [Shape.Statement, Shape.Bounds, WellFormed.ok]

theorem Shape.grainResponse : Shape.Statement .grainResponse := by
  simp [Shape.Statement, Shape.Bounds, WellFormed.ok]

theorem Shape.perBankRefresh (c : Nat) : Shape.Statement (.perBankRefresh c) := by
  simp [Shape.Statement, Shape.Bounds, WellFormed.ok, chanOk]

theorem Shape.patrolScrubSlot (c : Nat) : Shape.Statement (.patrolScrubSlot c) := by
  simp [Shape.Statement, Shape.Bounds, WellFormed.ok, chanOk]

theorem Shape.flitReceive (p : Nat) (bytes : List Byte) (fec : Nat) : Shape.Statement (.flitReceive p bytes fec) := by
  simp [Shape.Statement, Shape.Bounds, WellFormed.ok, flitOk, portOk, and_assoc]

theorem Shape.retryReq (p q : Nat) : Shape.Statement (.retryReq p q) := by
  simp [Shape.Statement, Shape.Bounds, WellFormed.ok, portOk, and_assoc]

theorem Shape.retryReqRepeat (p : Nat) : Shape.Statement (.retryReqRepeat p) := by
  simp [Shape.Statement, Shape.Bounds, WellFormed.ok, portOk]

theorem Shape.retryLimitDown (p : Nat) : Shape.Statement (.retryLimitDown p) := by
  simp [Shape.Statement, Shape.Bounds, WellFormed.ok, portOk]

theorem Shape.portEnable (p : Nat) : Shape.Statement (.portEnable p) := by
  simp [Shape.Statement, Shape.Bounds, WellFormed.ok, portOk]

theorem Shape.portDisable (p : Nat) : Shape.Statement (.portDisable p) := by
  simp [Shape.Statement, Shape.Bounds, WellFormed.ok, portOk]

theorem Shape.portRetrain (p : Nat) : Shape.Statement (.portRetrain p) := by
  simp [Shape.Statement, Shape.Bounds, WellFormed.ok, portOk]

theorem Shape.portUnquarantine (p : Nat) : Shape.Statement (.portUnquarantine p) := by
  simp [Shape.Statement, Shape.Bounds, WellFormed.ok, portOk]

theorem Shape.portTrainingDone (p pol arb dev port : Nat) : Shape.Statement (.portTrainingDone p pol arb dev port) := by
  simp [Shape.Statement, Shape.Bounds, WellFormed.ok, portOk, and_assoc]

theorem Shape.alignmentLoss (p : Nat) : Shape.Statement (.alignmentLoss p) := by
  simp [Shape.Statement, Shape.Bounds, WellFormed.ok, portOk]

theorem Shape.flitSilenceTimeout (p : Nat) : Shape.Statement (.flitSilenceTimeout p) := by
  simp [Shape.Statement, Shape.Bounds, WellFormed.ok, portOk]

theorem Shape.downBackoffRetrain (p : Nat) : Shape.Statement (.downBackoffRetrain p) := by
  simp [Shape.Statement, Shape.Bounds, WellFormed.ok, portOk]

theorem Shape.quarantineLimit (p : Nat) : Shape.Statement (.quarantineLimit p) := by
  simp [Shape.Statement, Shape.Bounds, WellFormed.ok, portOk]

theorem Shape.packetInject : Shape.Statement .packetInject := by
  simp [Shape.Statement, Shape.Bounds, WellFormed.ok]

theorem Shape.packetReceive (parity : Nat) : Shape.Statement (.packetReceive parity) := by
  simp [Shape.Statement, Shape.Bounds, WellFormed.ok]

theorem Shape.linkstate : Shape.Statement .linkstate := by
  simp [Shape.Statement, Shape.Bounds, WellFormed.ok]

theorem Shape.cmapSample : Shape.Statement .cmapSample := by
  simp [Shape.Statement, Shape.Bounds, WellFormed.ok]

theorem Shape.cmapIntervalEnd : Shape.Statement .cmapIntervalEnd := by
  simp [Shape.Statement, Shape.Bounds, WellFormed.ok]

theorem Shape.cmap : Shape.Statement .cmap := by
  simp [Shape.Statement, Shape.Bounds, WellFormed.ok]

theorem Shape.cmapPartTimeout : Shape.Statement .cmapPartTimeout := by
  simp [Shape.Statement, Shape.Bounds, WellFormed.ok]

theorem Shape.otabEntryWrite (hi : Nat) : Shape.Statement (.otabEntryWrite hi) := by
  simp [Shape.Statement, Shape.Bounds, WellFormed.ok, wordOk]

theorem Shape.memLoad (parityBad : Bool) : Shape.Statement (.memLoad parityBad) := by
  simp [Shape.Statement, Shape.Bounds, WellFormed.ok]

theorem Shape.memStore (parityBad : Bool) : Shape.Statement (.memStore parityBad) := by
  simp [Shape.Statement, Shape.Bounds, WellFormed.ok]

theorem Shape.memAdd (merge : Nat) (parityBad : Bool) : Shape.Statement (.memAdd merge parityBad) := by
  simp [Shape.Statement, Shape.Bounds, WellFormed.ok]

theorem Shape.memMin (parityBad : Bool) : Shape.Statement (.memMin parityBad) := by
  simp [Shape.Statement, Shape.Bounds, WellFormed.ok]

theorem Shape.memMax (parityBad : Bool) : Shape.Statement (.memMax parityBad) := by
  simp [Shape.Statement, Shape.Bounds, WellFormed.ok]

theorem Shape.memCas (parityBad : Bool) : Shape.Statement (.memCas parityBad) := by
  simp [Shape.Statement, Shape.Bounds, WellFormed.ok]

theorem Shape.memRsp : Shape.Statement .memRsp := by
  simp [Shape.Statement, Shape.Bounds, WellFormed.ok]

theorem Shape.e2eTimeout : Shape.Statement .e2eTimeout := by
  simp [Shape.Statement, Shape.Bounds, WellFormed.ok]

theorem Shape.combineWindowExpiry : Shape.Statement .combineWindowExpiry := by
  simp [Shape.Statement, Shape.Bounds, WellFormed.ok]

theorem Shape.msgPacket : Shape.Statement .msgPacket := by
  simp [Shape.Statement, Shape.Bounds, WellFormed.ok]

theorem Shape.msgAck : Shape.Statement .msgAck := by
  simp [Shape.Statement, Shape.Bounds, WellFormed.ok]

theorem Shape.msgNack : Shape.Statement .msgNack := by
  simp [Shape.Statement, Shape.Bounds, WellFormed.ok]

theorem Shape.msgTimeout : Shape.Statement .msgTimeout := by
  simp [Shape.Statement, Shape.Bounds, WellFormed.ok]

theorem Shape.ortEntryWrite (v : Nat) : Shape.Statement (.ortEntryWrite v) := by
  simp [Shape.Statement, Shape.Bounds, WellFormed.ok, wordOk]

theorem Shape.partModeWrite (v : Nat) : Shape.Statement (.partModeWrite v) := by
  simp [Shape.Statement, Shape.Bounds, WellFormed.ok, wordOk]

theorem Shape.commEntryWrite (v : Nat) : Shape.Statement (.commEntryWrite v) := by
  simp [Shape.Statement, Shape.Bounds, WellFormed.ok, wordOk]

theorem Shape.reserve : Shape.Statement .reserve := by
  simp [Shape.Statement, Shape.Bounds, WellFormed.ok]

theorem Shape.grant : Shape.Statement .grant := by
  simp [Shape.Statement, Shape.Bounds, WellFormed.ok]

theorem Shape.deny : Shape.Statement .deny := by
  simp [Shape.Statement, Shape.Bounds, WellFormed.ok]

theorem Shape.decide : Shape.Statement .decide := by
  simp [Shape.Statement, Shape.Bounds, WellFormed.ok]

theorem Shape.decAck : Shape.Statement .decAck := by
  simp [Shape.Statement, Shape.Bounds, WellFormed.ok]

theorem Shape.ready : Shape.Statement .ready := by
  simp [Shape.Statement, Shape.Bounds, WellFormed.ok]

theorem Shape.count : Shape.Statement .count := by
  simp [Shape.Statement, Shape.Bounds, WellFormed.ok]

theorem Shape.chunk (parityBad : Bool) : Shape.Statement (.chunk parityBad) := by
  simp [Shape.Statement, Shape.Bounds, WellFormed.ok]

theorem Shape.chunkAck : Shape.Statement .chunkAck := by
  simp [Shape.Statement, Shape.Bounds, WellFormed.ok]

theorem Shape.chunkNak : Shape.Statement .chunkNak := by
  simp [Shape.Statement, Shape.Bounds, WellFormed.ok]

theorem Shape.abort : Shape.Statement .abort := by
  simp [Shape.Statement, Shape.Bounds, WellFormed.ok]

theorem Shape.chunkTimeout : Shape.Statement .chunkTimeout := by
  simp [Shape.Statement, Shape.Bounds, WellFormed.ok]

theorem Shape.chunkIncompleteTimeout : Shape.Statement .chunkIncompleteTimeout := by
  simp [Shape.Statement, Shape.Bounds, WellFormed.ok]

theorem Shape.reserveResendTimeout : Shape.Statement .reserveResendTimeout := by
  simp [Shape.Statement, Shape.Bounds, WellFormed.ok]

theorem Shape.decideResendTimeout : Shape.Statement .decideResendTimeout := by
  simp [Shape.Statement, Shape.Bounds, WellFormed.ok]

theorem Shape.earlyRecordResend : Shape.Statement .earlyRecordResend := by
  simp [Shape.Statement, Shape.Bounds, WellFormed.ok]

theorem Shape.collTimeout : Shape.Statement .collTimeout := by
  simp [Shape.Statement, Shape.Bounds, WellFormed.ok]

theorem Shape.instanceComplete : Shape.Statement .instanceComplete := by
  simp [Shape.Statement, Shape.Bounds, WellFormed.ok]

theorem Shape.detModeWrite (v : Bool) : Shape.Statement (.detModeWrite v) := by
  simp [Shape.Statement, Shape.Bounds, WellFormed.ok]

theorem Shape.detActiveChange : Shape.Statement .detActiveChange := by
  simp [Shape.Statement, Shape.Bounds, WellFormed.ok]

theorem Shape.digestCfgWrite (n v : Nat) : Shape.Statement (.digestCfgWrite n v) := by
  simp [Shape.Statement, Shape.Bounds, WellFormed.ok, partOk, wordOk, and_assoc]

theorem Shape.d2dFlitReceive (k : Nat) (toB : Bool) (bs : List Byte) : Shape.Statement (.d2dFlitReceive k toB bs) := by
  simp [Shape.Statement, Shape.Bounds, WellFormed.ok, flitOk, linkOk, and_assoc]

theorem Shape.d2dRetrain (k : Nat) : Shape.Statement (.d2dRetrain k) := by
  simp [Shape.Statement, Shape.Bounds, WellFormed.ok, linkOk]

theorem Shape.d2dRetrainDone (k : Nat) (ok : Bool) : Shape.Statement (.d2dRetrainDone k ok) := by
  simp [Shape.Statement, Shape.Bounds, WellFormed.ok, linkOk]

theorem Shape.railSample (rails : List (List (Nat × Nat))) : Shape.Statement (.railSample rails) := by
  simp [Shape.Statement, Shape.Bounds, WellFormed.ok]

theorem Shape.tempSample (temps : List (List (Bool × Nat))) : Shape.Statement (.tempSample temps) := by
  simp [Shape.Statement, Shape.Bounds, WellFormed.ok]

theorem Shape.gateEvaluation : Shape.Statement .gateEvaluation := by
  simp [Shape.Statement, Shape.Bounds, WellFormed.ok]

theorem Shape.windowEnd : Shape.Statement .windowEnd := by
  simp [Shape.Statement, Shape.Bounds, WellFormed.ok]

theorem Shape.allotWrite (v : Nat) : Shape.Statement (.allotWrite v) := by
  simp [Shape.Statement, Shape.Bounds, WellFormed.ok, wordOk]

theorem Shape.ilimitWrite (v : Nat) : Shape.Statement (.ilimitWrite v) := by
  simp [Shape.Statement, Shape.Bounds, WellFormed.ok, wordOk]

theorem Shape.paceClear (v : Nat) : Shape.Statement (.paceClear v) := by
  simp [Shape.Statement, Shape.Bounds, WellFormed.ok, wordOk]

theorem Shape.ectDataRead : Shape.Statement .ectDataRead := by
  simp [Shape.Statement, Shape.Bounds, WellFormed.ok]

theorem Shape.idleTileGate (t : Nat) : Shape.Statement (.idleTileGate t) := by
  simp [Shape.Statement, Shape.Bounds, WellFormed.ok, tileOk]

theorem Shape.ungateWave (n : Nat) : Shape.Statement (.ungateWave n) := by
  simp [Shape.Statement, Shape.Bounds, WellFormed.ok, partOk]

theorem Shape.loadNoticeEnd : Shape.Statement .loadNoticeEnd := by
  simp [Shape.Statement, Shape.Bounds, WellFormed.ok]

theorem Shape.pllLock (u : List Nat) : Shape.Statement (.pllLock u) := by
  simp [Shape.Statement, Shape.Bounds, WellFormed.ok]

theorem Shape.pllLockRetry : Shape.Statement .pllLockRetry := by
  simp [Shape.Statement, Shape.Bounds, WellFormed.ok]

theorem Shape.referenceLoss : Shape.Statement .referenceLoss := by
  simp [Shape.Statement, Shape.Bounds, WellFormed.ok]

theorem Shape.tbSet : Shape.Statement .tbSet := by
  simp [Shape.Statement, Shape.Bounds, WellFormed.ok]

theorem Shape.tbPeriodExpiry : Shape.Statement .tbPeriodExpiry := by
  simp [Shape.Statement, Shape.Bounds, WellFormed.ok]

theorem Shape.timeRequest : Shape.Statement .timeRequest := by
  simp [Shape.Statement, Shape.Bounds, WellFormed.ok]

theorem Shape.timeResponse : Shape.Statement .timeResponse := by
  simp [Shape.Statement, Shape.Bounds, WellFormed.ok]

theorem Shape.tbLockLoss : Shape.Statement .tbLockLoss := by
  simp [Shape.Statement, Shape.Bounds, WellFormed.ok]

theorem Shape.perstAssert : Shape.Statement .perstAssert := by
  simp [Shape.Statement, Shape.Bounds, WellFormed.ok]

theorem Shape.perstDeassert (u : List Nat) : Shape.Statement (.perstDeassert u) := by
  simp [Shape.Statement, Shape.Bounds, WellFormed.ok]

theorem Shape.bootResetRouterDie (key : Nat) (u : List Nat) : Shape.Statement (.bootResetRouterDie key u) := by
  simp [Shape.Statement, Shape.Bounds, WellFormed.ok, wordOk]

theorem Shape.bootResetComputeDie (d key : Nat) : Shape.Statement (.bootResetComputeDie d key) := by
  simp [Shape.Statement, Shape.Bounds, WellFormed.ok, dieOk, wordOk, and_assoc]

theorem Shape.bootResetPartition (n key : Nat) : Shape.Statement (.bootResetPartition n key) := by
  simp [Shape.Statement, Shape.Bounds, WellFormed.ok, partOk, wordOk, and_assoc]

theorem Shape.partitionResetTakeEffect (n : Nat) : Shape.Statement (.partitionResetTakeEffect n) := by
  simp [Shape.Statement, Shape.Bounds, WellFormed.ok, partOk]

theorem Shape.computeDieBringupDone (d : Nat) (chk trn kat : List Nat) : Shape.Statement (.computeDieBringupDone d chk trn kat) := by
  simp [Shape.Statement, Shape.Bounds, WellFormed.ok, dieOk]

theorem Shape.trainingComplete (u : List Nat) (ms us : Nat) : Shape.Statement (.trainingComplete u ms us) := by
  simp [Shape.Statement, Shape.Bounds, WellFormed.ok]

theorem Shape.t1InitDone (c : Nat) : Shape.Statement (.t1InitDone c) := by
  simp [Shape.Statement, Shape.Bounds, WellFormed.ok, chanOk]

theorem Shape.load : Shape.Statement .load := by
  simp [Shape.Statement, Shape.Bounds, WellFormed.ok]

theorem Shape.broadcastImage : Shape.Statement .broadcastImage := by
  simp [Shape.Statement, Shape.Bounds, WellFormed.ok]

theorem Shape.bootPacket : Shape.Statement .bootPacket := by
  simp [Shape.Statement, Shape.Bounds, WellFormed.ok]

theorem Shape.broadcastIncompleteTimeout : Shape.Statement .broadcastIncompleteTimeout := by
  simp [Shape.Statement, Shape.Bounds, WellFormed.ok]

theorem Shape.imageReceived : Shape.Statement .imageReceived := by
  simp [Shape.Statement, Shape.Bounds, WellFormed.ok]

theorem Shape.attest : Shape.Statement .attest := by
  simp [Shape.Statement, Shape.Bounds, WellFormed.ok]

theorem Shape.tilePowerUpWave : Shape.Statement .tilePowerUpWave := by
  simp [Shape.Statement, Shape.Bounds, WellFormed.ok]

theorem Shape.katComplete (u meas : List Nat) : Shape.Statement (.katComplete u meas) := by
  simp [Shape.Statement, Shape.Bounds, WellFormed.ok]

theorem Shape.sqDoorbell (fn q v : Nat) : Shape.Statement (.sqDoorbell fn q v) := by
  simp [Shape.Statement, Shape.Bounds, WellFormed.ok, fnOk, pairOk, wordOk, and_assoc]

theorem Shape.qpQuarantine (q : Nat) : Shape.Statement (.qpQuarantine q) := by
  simp [Shape.Statement, Shape.Bounds, WellFormed.ok, pairOk]

theorem Shape.cqDoorbell (fn q v : Nat) : Shape.Statement (.cqDoorbell fn q v) := by
  simp [Shape.Statement, Shape.Bounds, WellFormed.ok, fnOk, pairOk, wordOk, and_assoc]

theorem Shape.nop (q : Nat) : Shape.Statement (.nop q) := by
  simp [Shape.Statement, Shape.Bounds, WellFormed.ok, pairOk]

theorem Shape.step (q rd : Nat) : Shape.Statement (.step q rd) := by
  simp [Shape.Statement, Shape.Bounds, WellFormed.ok, pairOk, and_assoc]

theorem Shape.h2d (q rd : Nat) : Shape.Statement (.h2d q rd) := by
  simp [Shape.Statement, Shape.Bounds, WellFormed.ok, pairOk, and_assoc]

theorem Shape.d2h (q : Nat) : Shape.Statement (.d2h q) := by
  simp [Shape.Statement, Shape.Bounds, WellFormed.ok, pairOk]

theorem Shape.h2t (q rd : Nat) : Shape.Statement (.h2t q rd) := by
  simp [Shape.Statement, Shape.Bounds, WellFormed.ok, pairOk, and_assoc]

theorem Shape.recvBind (q : Nat) : Shape.Statement (.recvBind q) := by
  simp [Shape.Statement, Shape.Bounds, WellFormed.ok, pairOk]

theorem Shape.recvUnbind (q : Nat) : Shape.Statement (.recvUnbind q) := by
  simp [Shape.Statement, Shape.Bounds, WellFormed.ok, pairOk]

theorem Shape.dmaTransferDone (q seq : Nat) : Shape.Statement (.dmaTransferDone q seq) := by
  simp [Shape.Statement, Shape.Bounds, WellFormed.ok, pairOk]

theorem Shape.hostReadTimeout (q seq : Nat) : Shape.Statement (.hostReadTimeout q seq) := by
  simp [Shape.Statement, Shape.Bounds, WellFormed.ok, pairOk]

theorem Shape.irqCoalesceTimeout (q : Nat) : Shape.Statement (.irqCoalesceTimeout q) := by
  simp [Shape.Statement, Shape.Bounds, WellFormed.ok, pairOk]

theorem Shape.qpEnable (fn q : Nat) : Shape.Statement (.qpEnable fn q) := by
  simp [Shape.Statement, Shape.Bounds, WellFormed.ok, fnOk, pairOk, and_assoc]

theorem Shape.qpDisable (fn q : Nat) : Shape.Statement (.qpDisable fn q) := by
  simp [Shape.Statement, Shape.Bounds, WellFormed.ok, fnOk, pairOk, and_assoc]

theorem Shape.qpDrainDone (q : Nat) : Shape.Statement (.qpDrainDone q) := by
  simp [Shape.Statement, Shape.Bounds, WellFormed.ok, pairOk]

theorem Shape.qpUnquarantine (fn q : Nat) : Shape.Statement (.qpUnquarantine fn q) := by
  simp [Shape.Statement, Shape.Bounds, WellFormed.ok, fnOk, pairOk, and_assoc]

theorem Shape.pfFlr : Shape.Statement .pfFlr := by
  simp [Shape.Statement, Shape.Bounds, WellFormed.ok]

theorem Shape.vfFlr (n : Nat) : Shape.Statement (.vfFlr n) := by
  simp [Shape.Statement, Shape.Bounds, WellFormed.ok, vfOk]

theorem Shape.hotReset : Shape.Statement .hotReset := by
  simp [Shape.Statement, Shape.Bounds, WellFormed.ok]

theorem Shape.bar2Read (fn off n : Nat) : Shape.Statement (.bar2Read fn off n) := by
  simp [Shape.Statement, Shape.Bounds, WellFormed.ok, fnOk]

theorem Shape.bar2Write (fn off : Nat) (bs : List Byte) (poisoned : Bool) : Shape.Statement (.bar2Write fn off bs poisoned) := by
  simp [Shape.Statement, Shape.Bounds, WellFormed.ok, fnOk]

theorem Shape.hsrRefresh : Shape.Statement .hsrRefresh := by
  simp [Shape.Statement, Shape.Bounds, WellFormed.ok]

theorem Shape.partSet (req : List Byte) : Shape.Statement (.partSet req) := by
  simp [Shape.Statement, Shape.Bounds, WellFormed.ok, mailboxOk]

theorem Shape.partFree (req : List Byte) : Shape.Statement (.partFree req) := by
  simp [Shape.Statement, Shape.Bounds, WellFormed.ok, mailboxOk]

theorem Shape.jobOpen (req : List Byte) : Shape.Statement (.jobOpen req) := by
  simp [Shape.Statement, Shape.Bounds, WellFormed.ok, mailboxOk]

theorem Shape.jobEpoch (req : List Byte) : Shape.Statement (.jobEpoch req) := by
  simp [Shape.Statement, Shape.Bounds, WellFormed.ok, mailboxOk]

theorem Shape.partStop (req : List Byte) : Shape.Statement (.partStop req) := by
  simp [Shape.Statement, Shape.Bounds, WellFormed.ok, mailboxOk]

theorem Shape.partResume (req : List Byte) : Shape.Statement (.partResume req) := by
  simp [Shape.Statement, Shape.Bounds, WellFormed.ok, mailboxOk]

theorem Shape.partReset (req : List Byte) : Shape.Statement (.partReset req) := by
  simp [Shape.Statement, Shape.Bounds, WellFormed.ok, mailboxOk]

theorem Shape.jobClose (req : List Byte) : Shape.Statement (.jobClose req) := by
  simp [Shape.Statement, Shape.Bounds, WellFormed.ok, mailboxOk]

theorem Shape.quiesce (req : List Byte) : Shape.Statement (.quiesce req) := by
  simp [Shape.Statement, Shape.Bounds, WellFormed.ok, mailboxOk]

theorem Shape.jobRelease (req : List Byte) : Shape.Statement (.jobRelease req) := by
  simp [Shape.Statement, Shape.Bounds, WellFormed.ok, mailboxOk]

theorem Shape.setQuota (req : List Byte) : Shape.Statement (.setQuota req) := by
  simp [Shape.Statement, Shape.Bounds, WellFormed.ok, mailboxOk]

theorem Shape.setAllot (req : List Byte) : Shape.Statement (.setAllot req) := by
  simp [Shape.Statement, Shape.Bounds, WellFormed.ok, mailboxOk]

theorem Shape.lend (req : List Byte) (frames : List Nat) : Shape.Statement (.lend req frames) := by
  simp [Shape.Statement, Shape.Bounds, WellFormed.ok, mailboxOk]

theorem Shape.lendRelease (req : List Byte) : Shape.Statement (.lendRelease req) := by
  simp [Shape.Statement, Shape.Bounds, WellFormed.ok, mailboxOk]

theorem Shape.leaseGrant (req : List Byte) : Shape.Statement (.leaseGrant req) := by
  simp [Shape.Statement, Shape.Bounds, WellFormed.ok, mailboxOk]

theorem Shape.leaseRecall (req : List Byte) : Shape.Statement (.leaseRecall req) := by
  simp [Shape.Statement, Shape.Bounds, WellFormed.ok, mailboxOk]

theorem Shape.leaseRecallDone : Shape.Statement .leaseRecallDone := by
  simp [Shape.Statement, Shape.Bounds, WellFormed.ok]

theorem Shape.lenderDown (req : List Byte) : Shape.Statement (.lenderDown req) := by
  simp [Shape.Statement, Shape.Bounds, WellFormed.ok, mailboxOk]

theorem Shape.snapshot (req : List Byte) : Shape.Statement (.snapshot req) := by
  simp [Shape.Statement, Shape.Bounds, WellFormed.ok, mailboxOk]

theorem Shape.readCmap (req : List Byte) : Shape.Statement (.readCmap req) := by
  simp [Shape.Statement, Shape.Bounds, WellFormed.ok, mailboxOk]

theorem Shape.readDigest (req : List Byte) : Shape.Statement (.readDigest req) := by
  simp [Shape.Statement, Shape.Bounds, WellFormed.ok, mailboxOk]

theorem Shape.snapAt : Shape.Statement .snapAt := by
  simp [Shape.Statement, Shape.Bounds, WellFormed.ok]

theorem Shape.snapNow : Shape.Statement .snapNow := by
  simp [Shape.Statement, Shape.Bounds, WellFormed.ok]

theorem Shape.snapCancel : Shape.Statement .snapCancel := by
  simp [Shape.Statement, Shape.Bounds, WellFormed.ok]

theorem Shape.snapshotTake : Shape.Statement .snapshotTake := by
  simp [Shape.Statement, Shape.Bounds, WellFormed.ok]

theorem Shape.evtPendClear (page bits : Nat) : Shape.Statement (.evtPendClear page bits) := by
  simp [Shape.Statement, Shape.Bounds, WellFormed.ok, regOk, wordOk, and_assoc]

theorem Shape.errCountRead (page : Nat) : Shape.Statement (.errCountRead page) := by
  simp [Shape.Statement, Shape.Bounds, WellFormed.ok, regOk]

theorem Shape.tpeakRead (u : Nat) : Shape.Statement (.tpeakRead u) := by
  simp [Shape.Statement, Shape.Bounds, WellFormed.ok, railOk]

theorem Shape.irqHoldoffEnd : Shape.Statement .irqHoldoffEnd := by
  simp [Shape.Statement, Shape.Bounds, WellFormed.ok]

theorem Shape.loReadLatch (req addr : Nat) : Shape.Statement (.loReadLatch req addr) := by
  simp [Shape.Statement, Shape.Bounds, WellFormed.ok, regOk, reqOk, and_assoc]

theorem Shape.hiWrite (req addr v : Nat) : Shape.Statement (.hiWrite req addr v) := by
  simp [Shape.Statement, Shape.Bounds, WellFormed.ok, regOk, reqOk, wordOk, and_assoc]

theorem Shape.softReset (req page : Nat) : Shape.Statement (.softReset req page) := by
  simp [Shape.Statement, Shape.Bounds, WellFormed.ok, regOk, reqOk, and_assoc]

theorem Shape.registerWrite (req addr v : Nat) (poisoned : Bool) : Shape.Statement (.registerWrite req addr v poisoned) := by
  simp [Shape.Statement, Shape.Bounds, WellFormed.ok, regOk, reqOk, wordOk, and_assoc]

theorem Shape.vinTurnOn : Shape.Statement .vinTurnOn := by
  simp [Shape.Statement, Shape.Bounds, WellFormed.ok]

theorem Shape.railSettled : Shape.Statement .railSettled := by
  simp [Shape.Statement, Shape.Bounds, WellFormed.ok]

theorem Shape.railSequenceTimeout : Shape.Statement .railSequenceTimeout := by
  simp [Shape.Statement, Shape.Bounds, WellFormed.ok]

theorem Shape.vinTurnOff : Shape.Statement .vinTurnOff := by
  simp [Shape.Statement, Shape.Bounds, WellFormed.ok]

theorem Shape.vinOvervoltage : Shape.Statement .vinOvervoltage := by
  simp [Shape.Statement, Shape.Bounds, WellFormed.ok]

theorem Shape.faultLatchClear : Shape.Statement .faultLatchClear := by
  simp [Shape.Statement, Shape.Bounds, WellFormed.ok]

theorem Shape.pcieLinkUp (width speed : Nat) : Shape.Statement (.pcieLinkUp width speed) := by
  simp [Shape.Statement, Shape.Bounds, WellFormed.ok]

theorem Shape.vfEnable (n : Nat) : Shape.Statement (.vfEnable n) := by
  simp [Shape.Statement, Shape.Bounds, WellFormed.ok]

theorem Shape.d3hot (fn : Nat) (enter : Bool) : Shape.Statement (.d3hot fn enter) := by
  simp [Shape.Statement, Shape.Bounds, WellFormed.ok, fnOk]

theorem Shape.msixVectorUnmask (fn v addr data : Nat) : Shape.Statement (.msixVectorUnmask fn v addr data) := by
  simp [Shape.Statement, Shape.Bounds, WellFormed.ok, fnOk, wordOk, and_assoc]

end Sys2Proof.Laws
end

