-- ==== Sys2Proof/Laws/Sparse.lean ====
section
/-!
SUPPORT. The shares of a work list (R151) put together are the list, so a present-block operation has one result whatever the
number of beds.
-/

namespace Sys2Proof.Machine

open Sys2Proof

/-- The first shares of a work list are its beginning (R151). -/
theorem share_prefix {α : Type} (U : Nat) (l : List α) (k : Nat) :
    (List.range k).flatMap (fun u => share U u l) = l.take (k * l.length / U) := by
  induction k with
  | zero => simp
  | succ k ih =>
    have h : k * l.length / U ≤ (k + 1) * l.length / U := Nat.div_le_div_right (Nat.mul_le_mul_right _ (Nat.le_succ k))
    rw [List.range_succ, List.flatMap_append, ih, ← Nat.add_sub_cancel' h, List.take_add]
    simp [share]

/-- The result of a present-block operation does not depend on the number of beds (R151). -/
theorem presentResult_units (U V n : Nat) (work : List (Nat × Nat)) (f : Nat → Nat → List Nat) (row : Nat)
    (hU : 0 < U) (hV : 0 < V) : presentResult U n work f row = presentResult V n work f row := by
  have key : ∀ W, 0 < W → (List.range W).flatMap (fun u => share W u work) = work := fun W hW => by
    rw [share_prefix, Nat.mul_div_cancel_left _ hW, List.take_length]
  simp only [presentResult, key U hU, key V hV]

end Sys2Proof.Machine
end

