-- ==== Sys2Proof/Tests/Slice0.lean ====
section
/-!
SUPPORT. Tests: ill-formed commands that WellFormed refuses, worked examples of the manual, and for every statement with
hypotheses a concrete state and operands that meet them.
-/

set_option maxRecDepth 100000
set_option Elab.async false

namespace Sys2Proof.Machine

open Sys2Proof Sys2Proof.Config

/-! ### Ill-formed commands are refused -/

theorem test_wf_tile : WellFormed.ok (.waitRelease 120) = false := by decide

theorem test_wf_tile_issue : WellFormed.ok (.vadd ⟨120, 0#64, 0, 0⟩) = false := by decide

theorem test_wf_dline : WellFormed.ok (.vadd ⟨0, 0#64, 0x4000, 0⟩) = false := by decide

theorem test_wf_live : WellFormed.ok (.vadd ⟨0, 0#64, 0, 0x10000⟩) = false := by decide

theorem test_wf_counter : WellFormed.ok (.storeComplete 0 32) = false := by decide

theorem test_wf_chunk_length : WellFormed.ok (.thrIngressChunk 0 0 0 0 (List.replicate 265 0) 0) = false := by decide

theorem test_wf_parity_kind : WellFormed.ok (.thrIngressChunk 0 0 0 0 [] 3) = false := by decide

theorem test_wf_thresher : WellFormed.ok (.decisionEgress 8) = false := by decide

theorem test_wf_partition : WellFormed.ok (.stepAdmit 4) = false := by decide

theorem test_wf_die : WellFormed.ok (.unmapComplete 2) = false := by decide

theorem test_wf_drain_parity : WellFormed.ok (.decisionDrain 0 3) = false := by decide

theorem test_wf_ept_value : WellFormed.ok (.eptEntryWrite 0x100000000) = false := by decide

theorem test_wf_map_frame : WellFormed.ok (.map 0 0 786432) = false := by decide

theorem test_wf_flip_frame : WellFormed.ok (.grainFlip [] 786432) = false := by decide

theorem test_wf_channel : WellFormed.ok (.t1InitDone 128) = false := by decide

theorem test_wf_port : WellFormed.ok (.portEnable 32) = false := by decide

theorem test_wf_flit : WellFormed.ok (.flitReceive 0 [1] 0) = false := by decide

theorem test_wf_flit_fec : WellFormed.ok (.flitReceive 0 (List.replicate 256 0) 3) = false := by decide

theorem test_wf_retry_seq : WellFormed.ok (.retryReq 0 4096) = false := by decide

theorem test_wf_polarity : WellFormed.ok (.portTrainingDone 0 16 0 0 0) = false := by decide

theorem test_wf_arbour : WellFormed.ok (.portTrainingDone 0 0 65536 0 0) = false := by decide

theorem test_wf_device : WellFormed.ok (.portTrainingDone 0 0 0 64 0) = false := by decide

theorem test_wf_peer_port : WellFormed.ok (.portTrainingDone 0 0 0 0 32) = false := by decide

theorem test_wf_d2d_link : WellFormed.ok (.d2dRetrain 3) = false := by decide

theorem test_wf_function : WellFormed.ok (.bar2Read 5 0 4) = false := by decide

theorem test_wf_pair : WellFormed.ok (.qpDrainDone 256) = false := by decide

theorem test_wf_read_kind : WellFormed.ok (.step 0 3) = false := by decide

theorem test_wf_vf : WellFormed.ok (.vfFlr 0) = false := by decide

theorem test_wf_vf_top : WellFormed.ok (.vfFlr 5) = false := by decide

theorem test_wf_vf_count : WellFormed.ok (.vfEnable 5) = false := by decide

theorem test_wf_mailbox : WellFormed.ok (.partSet (List.replicate 257 0)) = false := by decide

theorem test_wf_belvedere : WellFormed.ok (.tpeakRead 4) = false := by decide

theorem test_wf_hidden : WellFormed.ok (.expertLastChunkDone 0 [[0x100000000]]) = false := by decide

theorem test_wf_poison_tile : WellFormed.ok (.poisonHalt ⟨0, [(120, 0)]⟩) = false := by decide

theorem test_wf_packet_parity : WellFormed.ok (.packetReceive 3) = false := by decide

theorem test_wf_register_align : WellFormed.ok (.loReadLatch 0 2) = false := by decide

theorem test_wf_register_range : WellFormed.ok (.loReadLatch 0 0x4000000) = false := by decide

theorem test_wf_requester : WellFormed.ok (.loReadLatch 4194310 0) = false := by decide

theorem test_wf_register_value : WellFormed.ok (.registerWrite 0 0x108 0x100000000 false) = false := by decide

theorem test_wf_event_bits : WellFormed.ok (.evtPendClear 0 0x100000000) = false := by decide

theorem test_wf_key : WellFormed.ok (.bootResetPartition 0 0x100000000) = false := by decide

theorem test_wf_doorbell : WellFormed.ok (.sqDoorbell 0 0 0x100000000) = false := by decide

theorem test_wf_msix_addr : WellFormed.ok (.msixVectorUnmask 0 0 0x10000000000000000 0) = false := by decide

theorem test_wf_good : WellFormed.ok (.vadd ⟨119, 0#64, 0x3FFF, 0xFFFF⟩) = true := by decide


/-! ### Worked examples -/

/-- The worked syndromes of R325: an error of value 0x01 in symbol 70. -/
theorem test_ecc_symbol70 : rsSyndromes (List.replicate 70 0#8 ++ [0x01#8, 0#8])
    = [0x01#8, 0x02#8, 0x04#8, 0x08#8, 0x10#8, 0x20#8, 0x40#8, 0x80#8] := by decide

/-- The worked syndromes of R325: an error of value 0x5A in symbol 71. -/
theorem test_ecc_symbol71 : rsSyndromes (List.replicate 71 0#8 ++ [0x5A#8]) = List.replicate 8 0x5A#8 := by decide

/-- A codeword's syndromes are all 0 (R325). -/
theorem test_ecc_codeword : rsSyndromes (rsEncode ([0xA5#8] ++ List.replicate 63 0x3C#8)) = List.replicate 8 0#8 := by decide

/-- The worked division of R151: seven items over four beds. -/
theorem test_share_division : (List.range 4).map (fun u => share 4 u [(0, 0), (0, 2), (1, 0), (1, 1), (2, 0), (2, 2), (2, 3)])
    = [[(0, 0)], [(0, 2), (1, 0)], [(1, 1), (2, 0)], [(2, 2), (2, 3)]] := by decide

/-- The blocks that the beds of that division load. -/
theorem test_share_blocks : (List.range 4).map (fun u => chunksLoaded (share 4 u [(0, 0), (0, 2), (1, 0), (1, 1), (2, 0), (2, 2), (2, 3)]))
    = [[0], [0, 1], [1, 2], [2]] := by decide

/-! ### States for the witnesses -/

/-- A handle table entry: banks, base line, lines, lines a row (R287). -/
def hnd (banks base lines row : Nat) : Nat := banks * 2 ^ 48 + base * 2 ^ 34 + lines * 2 ^ 16 + row * 2 ^ 8

/-- A device on which partition 0 runs step 0 on tile 0 with the given context, changed by `f`. -/
def runState (f : Ctx → Ctx) : State :=
  { tiles := [(0, { powered := true, fg := f { live := true, part := 0, step := 0 } })],
    parts := [(0, { state := .opened, tiles := 1, steps := [{ num := 0, phase := .running, tiles := 1 }] })] }

/-- Tile 0 with three buffers of 4 lines in banks 1, 2 and 3, two lines a row. -/
def vecState : State := runState (fun c => { c with handles := [(1, hnd 2 0 4 2), (2, hnd 4 0 4 2), (3, hnd 8 0 4 2)] })

/-- Bytes of tile 0's SRAM from address 0, the program bank of `runState`. -/
def progBytes (bs : List (Nat × Byte)) (s : State) : State := { s with mem := { s.mem with sram := bs } }

/-- Tile 0 at ACLK 100 with an E4M3 block loaded in register 0 of bed 0, and a pass descriptor of one vector at line 0. -/
def passState : State :=
  let s := runState (fun c => { c with handles := [(1, hnd 2 0 4 4), (2, hnd 4 0 8 4), (3, hnd 8 0 200 4)] })
  progBytes [(0, 0x11), (4, 1), (8, 1), (9, 2)]
    (setTile { s with clk := { s.clk with aclk := 100 } } 0 { getTile s 0 with stat := [(0, { sfmt := 1 })] })

/-- Tile 0 with the same buffers and an output-stationary descriptor of one step. -/
def aosState : State :=
  progBytes [(0, 0x11), (4, 1), (8, 1), (9, 3)]
    (runState (fun c => { c with handles := [(1, hnd 2 0 4 4), (3, hnd 8 0 300 4)] }))

/-- Tile 0 with a registered slot at handle 1 (4 rows of 16 bytes, row 0 kept), a predictor at 2, a list at 3 and a state record
at 4; the Husk descriptor at line 0 has 64 hidden neurons, WINDOW 1 and no sampling. -/
def huskState : State :=
  let s := runState (fun c => { c with handles := [(1, hnd 2 0 4 1), (2, hnd 4 0 36 1), (3, hnd 8 0 2 1), (4, hnd 16 0 1 1)] })
  { s with
    mem := { s.mem with sram := [(2, 64), (18, 1), (0x90000 + 64 + 16 + 7, 2)] },
    sheaf := { s.sheaf with slots := [⟨0, 0, 0, 1, 16, 4, 0⟩] } }

/-- Tile 0 with a CHAFF descriptor at line 0 (OUT_FMT FP32, 32 elements, threshold 0). -/
def chaffState : State :=
  progBytes [(4, 6), (8, 32)]
    (runState (fun c => { c with handles := [(1, hnd 2 0 40 4), (2, hnd 4 0 4 2), (3, hnd 8 0 1 1)] }))

/-- Tile 0 whose step has a transfer from tile 0 over the die edge in its FRAME section. -/
def sendState : State :=
  { vecState with
    parts := [(0, { state := .opened, tiles := 1, steps := [{ num := 0, phase := .running, frame := [⟨0, 0, 2, 0, 61⟩] }] })] }

/-- `passState` with a reduce-scatter, or an all-gather, named by the second half of the descriptor line. -/
def mmrsState : State := { passState with mem := { passState.mem with sram := passState.mem.sram ++ [(34, 1)] } }

def mmagState : State := { passState with mem := { passState.mem with sram := passState.mem.sram ++ [(34, 3)] } }

/-- Tile 0 of device 0 with communicator 0 of partition 0 that holds device 0 alone, and an all-reduce of 64 FP32 bytes. -/
def collState : State :=
  let s := progBytes [(2, 1), (4, 64), (26, 4)] vecState
  { s with pav := { s.pav with comms := [(0, 1 + 2 ^ 80 + 2 ^ 96)] } }

def collInst : PavInst :=
  (parseColl (countEffect collState 0) 0 0 (descOf collState ⟨0, 0x0000010200000003#64, 0, 0⟩ 0 32) false).getD {}

/-- A unit of one byte for the buffer of handle 1 and counter 0 of tile 0. -/
def unit0 : Machine.Unit :=
  { tile := 0, bg := false, part := 0, handle := 1, ctr := 0, off := 0, data := [7], weight := true, cause := 1, again := false,
    link := 0, counts := true }

/-- Tile 0 with counter 0 armed for one unit in the buffer of handle 1. -/
def armedState : State :=
  runState (fun c => { c with handles := [(1, hnd 2 0 4 2)], ctrs := [(0, { armed := true, target := 1, handleA := 1 })] })

def huskRun0 : HuskRun :=
  { handle := 1, addr := 0, policy := 0, missLimit := 0, minSamples := 0, window := 1, denseSteps := 0, theta := 0, samples := 0, entries := 0,
    dense := false, byPolicy := false, fresh := true, hidden := 64, listH := 2, lcReg := 0, recompute := none }

/-- The device in a bring-up state, powered and locked. -/
def bootState (b : BootState) : State :=
  { clk := { pllLocked := true }, mod := { vin := true, rails := some 8, powerGood := true }, boot := { state := b } }

/-- The device in READY, powered and locked. -/
def readyState : State := bootState .ready


/-- Tile 0 with one RMEM request of one word in the buffer of handle 1: a LOAD of job offset 0 on device 0. -/
def rmemState : State := { vecState with mem := { vecState.mem with sram := [(0x9000F, 0x10)] } }

/-- A packet of protocol 4 with a request of operation `op` on 4 or 8 bytes at T1 offset 0x400000. -/
def memReq (op : Nat) : Pkt :=
  ({ proto := 4 } : Pkt).withTh (op * 2 ^ 124 + (if op = 6 then 3 * 2 ^ 119 + 2 ^ 113 else 0) + 0x400000)
    (List.replicate (if op = 1 then 0 else if op = 6 then 16 else 4) 1)

/-- The device with that request ejected, its partition sender-trusted, and device 0's Tier Map placed elsewhere. -/
def memState (op : Nat) : State :=
  { fab := { ejected := [memReq op] }, regs := { val := [(0x23104, 0), (0x23108, 15)] } }

/-- A request of tile 0 that waits for its answer. -/
def req0 : Req :=
  { arb := 0, dev := 0, id := 0, proto := 4, part := 0, stamp := 0, issuer := .tile 0 false, counted := true, pkts := [], sentAt := 0,
    tries := 0, reply := ⟨0, 1, 0⟩, members := [] }

/-- Channel 0 of partition 0 bound to tile 0, slots of 64 bytes. -/
def bind0 : Bind :=
  { channel := 0, part := 0, host := false, qp := 0, addr := 0, slotBytes := 64, slots := 2, next := 0, tile := 0, handle := 1, ctr := 0,
    bg := false, unbinding := false, freed := [] }

/-- A message packet of 4 bytes for channel 0, and the same with the kind ACK or NACK. -/
def msg0 (kind : Nat) : Pkt := { proto := 6, body := leBytes 16 (4 * 2 ^ 64 + kind * 2 ^ 28) ++ [1, 2, 3, 4] }

/-- A COLL packet of a kind for instance 0 of communicator 0. -/
def coll0 (k : Nat) : Pkt := { proto := 3, body := leBytes 16 (collHeader k 0 0 0 0 0 0 0) }

/-- Communicator 0 of device 0 alone is valid, and the given instances are in progress. -/
def pavState (l : List PavInst) : State := { pav := { comms := [(0, 1 + 2 ^ 80 + 2 ^ 96)], insts := l } }

/-- `pavState` with a packet ejected. -/
def pavGot (l : List PavInst) (k : Nat) : State := { pavState l with fab := { ejected := [coll0 k] } }

/-- The device with port 0 as given and the time base far on. -/
def portState (x : Port) : State := { readyState with clk := { readyState.clk with tb := 0xFFFFFFFFFF }, fab := { ports := [(0, x)] } }

/-- A port that is up. -/
def upPort : Port := { lstate := .up }

/-- The bytes of a flit of a type with a good CRC. -/
def flitOf (t : Nat) : List Byte := Flit.bytes { ftype := t }

/-- T1 with a directory entry at 0 for page entries from 64 on, and the page entry of job address 0. -/
def t1Map (w : Nat) : NMap Byte := writeBytes (writeBytes [] 0 (leBytes 8 (2 ^ 63 + 64))) 64 (leBytes 64 w)

/-- A valid page of device 0 and die 0 in frame 2, all grains in T1. -/
def page0 : Nat := 2 ^ 63 + 2 ^ 59 + 2 * 2 ^ 30 + 2 * 2 ^ 10 + ((List.range 32).map (fun g => 2 ^ (64 + 4 * g))).sum

/-- `sendState` with a Granary descriptor of OP `op` for 64 bytes at job address 0, the page mapped. -/
def grnTest (op : Nat) : State :=
  { sendState with
    mem := { sendState.mem with
      sram := writeBytes [] 0 (leBytes 32 (op + (if op = 4 then 2 ^ 8 else 0) + 2 ^ 16 + 64 * 2 ^ 32 + 64 * 2 ^ 128 + (if op = 1 then 64 * 2 ^ 160 else 0))),
      t1 := t1Map page0 },
    grn := { sendState.grn with owner := [(2, 3)] } }

/-- READY, with an unmapped page entry and quota and free frames on die 0. -/
def mapState (w : Nat) : State :=
  { readyState with mem := { t1 := t1Map w }, regs := { val := [(0x18128, 1), (0x18148, 1)] } }

/-- A device whose mailbox is open, with partition 0 in a state and its stamp. -/
def mboxState (p : PartState) (stamp : Nat) : State :=
  { readyState with
    host := { linkUp := true }, lodge := { running := true }, parts := [(0, { state := p, stamp := stamp, staging := 0 })],
    fab := { stamps := [(stamp / 16, if stamp = 0 then 0 else stampEnt 1 (stamp % 16) true false 0)] } }

/-- A request of an operation, padded to `n` bytes after the given operands. -/
def mboxReq (opc n : Nat) (bs : List Byte) : List Byte := padTo n ([BitVec.ofNat 8 opc, 0, 0, 0] ++ bs)

/-- A well-formed partition record: tile 0, one egress share, one staging share, a quantum of 1. -/
def record0 : List Byte := padTo 72 ([1] ++ List.replicate 38 0 ++ [1] ++ List.replicate 26 0 ++ [1, 0, 0, 1])

/-- A queued step that waits for energy admission, and a partition with it alone; then with its load notice due. -/
def waitStep : Step := { tiles := 3, condAt := some 0 }

def waitState : State := { parts := [(0, { state := .opened, tiles := 3, steps := [waitStep] })] }

def noticeState : State :=
  { waitState with parts := [(0, { state := .opened, tiles := 3, steps := [{ waitStep with notice := some 0 }] })] }

/-- READY, aligning to device 1 over a port that is up. -/
def alignState : State :=
  { readyState with
    regs := { val := NMap.set (fun _ => 0) [(pgTb + 0x104, 2)] (pgFab + 0x10C) 0x103 },
    fab := { ports := [(0, upPort)] } }

/-- READY with the link up and one virtual function. -/
def vfState : State := { readyState with host := { linkUp := true, numVfs := 1 } }

/-- A pass of one dense vector in bed 0 of tile 0. -/
def passOf0 (os : Bool) : LivePass :=
  { desc := passD passState ⟨0, 0#64, 0, 0⟩, bufs := passB passState ⟨0, 0#64, 0, 0⟩, descAddr := 0, os := os, size := 64, t0 := 104,
    vecs := [(0, true)], slow := 1, last := 104, endAt := 300 }

/-- `passState` with a pass of present blocks whose feed has no vector. -/
def presentState : State := { passState with mem := { passState.mem with sram := [(0, 0x11), (1, 0x40), (8, 1), (9, 2)] } }

/-- `armedState` in the ACLK of a gate slot of tile 0, which node 60 of the frame schedule enters. -/
def slotState : State :=
  { armedState with
    parts := [(0, { state := .opened, tiles := 1, steps := [{ num := 0, phase := .running, tiles := 1, frame := [⟨0, 0, 1, 60, 0⟩] }] })] }

/-- A link-state notice of device 0's port 0 at time 0. -/
def notice0 : Pkt := { proto := 9, count := 1, last := true, body := List.replicate 16 0 }

/-- Tile 0 with the record of a data counter of one unit in the buffer of handle 1 at line 0. -/
def armState : State := progBytes [(0, 1), (4, 1)] vecState

/-- Tile 0 with counter 0 armed for one unit, which has not come. -/
def unmetState : State := runState (fun c => { c with ctrs := [(0, { armed := true, target := 1, handleA := 1 })] })

/-- Tile 0 held at counter 0, which was satisfied at ACLK 0; the time is ACLK 2. -/
def heldState : State :=
  let s := runState (fun c => { c with waiting := some (0, none), readyAt := some 0, ctrs := [(0, { armed := true })] })
  { s with clk := { s.clk with aclk := 2 } }

/-- Tile 0 with a ring of two buffers at counter 0, one element landed. -/
def ringState : State :=
  runState (fun c => { c with ctrs := [(0, { armed := true, target := 2, value := 1, handleA := 1, handleB := 2 })] })

/-- Tile 0 in a code of 4 bundles. -/
def seqState : State :=
  let s := runState (fun c => { c with codeBundles := 4 })
  { s with clk := { s.clk with aclk := 100 } }

/-- Partition 0 as given, with tile 0. -/
def runPart (p : Machine.Part) : State := { parts := [(0, { p with tiles := 1 })], tiles := [(0, { powered := true })] }

/-- Partition 0 open with the given step. -/
def stepState (st : Step) : State := runPart { state := .opened, steps := [st] }

/-- A queued step with a T0 fill of no bytes from host memory. -/
def fillState : State :=
  stepState { progs := [⟨0, 0, 0, 0, 0, [], [], 0, 0⟩],
              t0 := [⟨0, 0, 0, 0, false, 1, 0, true, false⟩] }

/-- A queued step that nothing holds back, and one that energy admission does. -/
def queuedState : State := stepState { energyOk := true }
def unfilledState : State := stepState {}

/-- A step that may start. -/
def admittedState : State := stepState { phase := .admitted, startAt := some 0 }

/-- Tile 0 changes from partition 0 to partition 1. -/
def switchState : State := setTile vecState 0 { getTile vecState 0 with switchTo := some 1 }

/-- Tile 0 changes to a context whose saved area lies in a page of no tier. -/
def switchWait : State :=
  let s := setTile vecState 0 { getTile vecState 0 with switchTo := some 1, saved := [(1, {})] }
  { s with mem := { s.mem with t1 := t1Map (page0 - 2 ^ 64) } }

/-- Tile 0 live, with FREEZE clear. -/
def freezeState : State := { readyState with tiles := vecState.tiles, parts := vecState.parts }

/-- A poisoned step at its halt boundary, with `k` replays of its layer. -/
def haltState (k : Nat) : State :=
  let s := stepState { phase := .halting, layerReplays := k }
  { s with clk := { s.clk with aclk := 1000 } }

/-- A step that waits for redelivery, one that waits for admission, and one that is to restart. -/
def replayState : State := stepState { phase := .replayWait, redelivered := false }
def redoState : State := stepState { phase := .replayWait }
def againState : State := stepState { phase := .restarting, startAt := some 0 }

/-- A good Thresher descriptor of an operation: one token of four FP32 scores, one key, one score, one entry. -/
def thrDesc (op : Nat) : Nat :=
  op + (if op ≤ 2 ∨ op = 5 then 6 * 2 ^ 8 else 0) + (if op ≤ 2 ∨ op = 4 then 2 ^ 16 else 0) + (if op ≤ 2 then 4 * 2 ^ 32 else 0)
    + (if op = 2 then 2 ^ 64 + 2 ^ 72 else 0) + (if op = 4 ∨ op = 6 ∨ op = 7 then 0 else 2 ^ 128)

/-- Tile 0 with that descriptor at line 0, every share of Thresher 0, every slot of both tables, and an open context where the
operation needs one. -/
def callTest (op : Nat) : State :=
  let s := progBytes (writeBytes [] 0 (leBytes 32 (thrDesc op))) vecState
  let s := setPart s 0 { getPart s 0 with thrTags := 15, thrBanks := 3, thrStreams := 15, thrSort := true, egress := 1 }
  { s with
    thr := { ingress := [(0, 0)], return' := [(0, 0)], streams := if 5 ≤ op ∧ op ≤ 7 then [(0, ⟨0, 0, 1, 0, []⟩)] else [] } }

/-- That call in progress. -/
def thrCall0 (op : Nat) : ThrCall := thrStarted (callTest op) ⟨0, 0x0000010200000000#64, 0, 0⟩

/-- Thresher 0 with a TOPK in progress, with a sort whose output leaves, and with a decision to be written. -/
def chunkState : State := addCall (callTest 1) (thrCall0 1)
def returnState : State := addCall (callTest 3) { thrCall0 3 with ret := [0] }
def egressState : State := { chunkState with thr := { chunkState.thr with outs := [⟨0, 0, 0, 0, 0, [1], true⟩] } }

/-- A payload of a kind of dispatch 0 of communicator 0 from device 0: a control payload, or one of no segment. -/
def shPkt (k : Nat) : Pkt :=
  { proto := 1, body := if k = 5 ∨ k = 6 then leBytes 8 k else padTo 48 (leBytes 8 (shHeader 0 0 (k == 7) (if k = 7 then 1 else 0) k)) }

/-- That payload ejected, with its dispatch in progress, and without. -/
def shGot (k : Nat) : State :=
  { fab := { ejected := [shPkt k] },
    sheaf := { insts := [{ comm := 0, seq := 0, peers := [⟨0, 0, 0, 0, [], false, false, false, false, false, false⟩] }] } }

def shAlone (k : Nat) : State := { fab := { ejected := [shPkt k] } }

/-- Tile 0 with a dispatch descriptor at line 0 for one token of 32 E4M3 values, and the given instances. -/
def dispState (l : List ShInst) : State :=
  let s := progBytes (writeBytes [] 0 (leBytes 32 (2 ^ 16 + 2 ^ 24 + 2 ^ 32 + 2 ^ 40 + 32 * 2 ^ 48 + 2 ^ 96))) vecState
  { s with pav := { s.pav with comms := [(0, 1 + 2 ^ 80 + 2 ^ 96)] }, sheaf := { s.sheaf with insts := l } }

/-- Tile 0 with an EDGE entry whose latest dispatch is in progress. -/
def dsendState : State :=
  let s := setFg sendState 0 { (getTile sendState 0).fg with dispatch := some (0, 0) }
  { s with
    mem := { s.mem with sram := [(0x120003, 1)] }, sheaf := { s.sheaf with insts := [{ comm := 0, seq := 0, tokenFmt := 1, width := 32, tiles := [⟨0, 1, 0, 0⟩] }] } }

/-- A decision in the egress buffer of die 0, and the given instances. -/
def drainState (l : List ShInst) : State := { thr := { egress := [⟨0, 0, 0⟩] }, sheaf := { insts := l } }

/-- A closed dispatch with a granted pair whose token is staged. -/
def pairState : State :=
  { sheaf := { insts := [{ closed := true, pairs := [⟨0, 0, 0, 0, 0, 0, 0, 1, 0, false, [], false⟩], staged := [⟨0, 0, 0, [], 0, false, false, false⟩] }] } }

/-- Tile 0 with an EDGE entry and a hosted slot whose manifest is at handle 1. -/
def returnTest : State :=
  { sendState with
    sheaf := { sendState.sheaf with
      insts := [{ comm := 0, seq := 0, hosted := [⟨0, 0, 0, 0, 1, 0, 0, 0, 0, 0, 0, [], [], true, false⟩] }] } }

/-- A RETURN segment ejected whose token's accumulator is spilled, and asked for. -/
def spillState : State :=
  { fab := { ejected := [{ proto := 1, body := leBytes 8 (6 + 2 ^ 8) ++ List.replicate 16 0 }] },
    sheaf := { insts := [{ comm := 0, seq := 0 }], spills := [⟨0, 0, [], [0], 0, [], true⟩] } }

/-- Tile 0 with the given descriptor at line 0 and communicator 0 valid. -/
def poolState (d : Nat) : State :=
  let s := progBytes (writeBytes [] 0 (leBytes 32 d)) vecState
  { s with pav := { s.pav with comms := [(0, 1 + 2 ^ 80 + 2 ^ 96)] } }

/-- A POOL payload of a kind for instance 0 of communicator 0 from device 0. -/
def poolPkt (k : Nat) : Pkt :=
  { proto := 2, body := if k ≤ 0x12 then padTo 48 (leBytes 8 (shHeader 0 0 false 0 k)) else leBytes 8 k ++ List.replicate 16 0 }

/-- A window of device 0 that is granted. -/
def poolWin (ready : Bool) : OwnWin :=
  { arb := 0, dev := 0, idx := 0, bags := 0, first := 0, bytes := 0, here := false, granted := true, rx := [], ready := ready,
    rows := if ready then [(0, [], [])] else [], order := 0, grantNo := 0, readyNo := 0, chan := 128, slots := [] }

/-- The payload ejected, with its instance in progress, with and without a window. -/
def poolGot (k : Nat) : State :=
  { fab := { ejected := [poolPkt k] },
    sheaf := { insts := [{ kind := 1, comm := 0, seq := 0, ownWins := [poolWin false],
                           peers := [⟨0, 0, 0, 0, [], false, false, false, false, false, false⟩] }] } }

def poolNone (k : Nat) : State :=
  { fab := { ejected := [poolPkt k] }, sheaf := { insts := [{ kind := 1, comm := 0, seq := 0 }] } }

/-- An instance of a kind with a row at job address 0 to be served; the page is mapped, or its grain is in no tier. -/
def rowState (k : Nat) : State :=
  { mem := { t1 := t1Map page0 }, grn := { owner := [(2, 3)] },
    sheaf := { insts := [{ kind := k, rowFmt := 6, rowValues := 32, gradFmt := 6, ownWins := [poolWin true] }] } }

def rowAwayState : State := { rowState 1 with mem := { t1 := t1Map (page0 - 2 ^ 64) } }

/-- A submission entry of an operation with the given operand bytes. -/
def entry0 (opc : Nat) (bs : List Byte) : Entry :=
  { opc := opc, fence := false, noint := false, cid := 0, body := padTo 56 bs, started := false, seq := 0, after := 0 }

/-- Pair 0 of partition 0, which is open, with the given entries; and the same with a page of job memory mapped. -/
def pairTest (l : List Entry) : State :=
  { parts := [(0, { state := .opened })], host := { qps := [(0, { enabled := true, entries := l })] } }

def hostMapped (l : List Entry) : State :=
  { pairTest l with mem := { t1 := t1Map page0 }, grn := { owner := [(2, 3)] } }

theorem isData {r : JobRes × State} (h : (match r.1 with | .data _ => true | _ => false) = true) :
    ∃ bs u, r = (.data bs, u) := by
  obtain ⟨x, u⟩ := r
  cases x <;> first | exact ⟨_, _, rfl⟩ | simp at h

/-! ### Witnesses -/

theorem witness_StepIdle : ∃ s : State, s.pending = [] ∧ s.clk.pllLocked = false :=
  ⟨State.reset, rfl, rfl⟩

theorem witness_MemWfKept : ∃ s t : State, s.mem.wf ∧ step s = .next t ∧ s.pending ≠ [] := by
  refine ⟨{ pending := [.pllLockRetry] }, { pending := [] }, ?_, rfl, by decide⟩
  simp [Mem.wf, NMap.wf, NMap.sorted]

theorem witness_StretchBoundKept : ∃ s t : State, (s.clk.stretch ≤ 56 ∧ s.gate.kE ≤ 56 ∧ s.gate.kI ≤ 56 ∧ s.gate.kT ≤ 56) ∧ step s = .next t ∧ s.pending ≠ [] :=
  ⟨{ pending := [.pllLockRetry] }, { pending := [] }, by decide, rfl, by decide⟩

theorem witness_E4M3_low : ∃ s e m : Nat, s < 2 ∧ e < 16 ∧ m < 8 ∧ ¬ (e = 15 ∧ m = 7) := ⟨0, 0, 0, by decide⟩

theorem witness_E4M3_nan : ∃ s e m : Nat, s < 2 ∧ e < 16 ∧ m < 8 ∧ e = 15 ∧ m = 7 := ⟨1, 15, 7, by decide⟩

theorem witness_E4M3_fin : ∃ (c : Nat) (b : Bool) (k : Nat) (x : Int), c < 256 ∧ decE4M3 c = .fin b k x ∧ k ≠ 0 := ⟨0xFE, true, 14, 5, by decide⟩

theorem witness_E5M2_fin : ∃ s e m : Nat, s < 2 ∧ e < 32 ∧ m < 4 ∧ e ≠ 31 := ⟨0, 0, 0, by decide⟩

theorem witness_E5M2_top : ∃ s e m : Nat, s < 2 ∧ e < 32 ∧ m < 4 ∧ e = 31 := ⟨1, 31, 0, by decide⟩

theorem witness_E5M2_max : ∃ (c : Nat) (b : Bool) (k : Nat) (x : Int), c < 256 ∧ decE5M2 c = .fin b k x ∧ k ≠ 0 := ⟨0x7B, false, 7, 13, by decide⟩

theorem witness_FloatRoundTrip : ∃ c : Nat, c < 2 ^ 8 ∧ decE4M3 c ≠ .nan ∧ decE5M2 c = .nan := ⟨0x7D, by decide⟩

theorem witness_T1Placement : ∃ a b : Nat, a < t1Bytes ∧ b < t1Bytes ∧ t1Channel a = t1Channel b ∧ t1Block a = t1Block b ∧ a ≠ b := ⟨0x5FFFC0, 0x5FFFFF, by decide⟩

theorem witness_CounterIncrements : ∃ (s : State) (a n : Nat), ctr32 s a = 0xFFFFFFFF ∧ 0 < n ∧ ∃ b : Nat, b ≠ a :=
  ⟨{ regs := { c32 := [(8, 0xFFFFFFFF)] } }, 8, 1, by decide, by decide, 9, by decide⟩

theorem witness_EventRecording : ∃ (s : State) (page b : Nat), b < 32 ∧ (getReg s (page + 0x14)).getLsbD b = true :=
  ⟨{ regs := { val := [(0x1014, 0x80000000)] } }, 0x1000, 31, by decide⟩

theorem witness_ErrorCapture : ∃ page code : Nat, page % 0x1000 = 0 ∧ code < 2 ^ 32 := ⟨0x2000, 0x0E02, by decide⟩

theorem witness_SramReadAfterWrite : ∃ (t a u b : Nat) (bs : List Byte), a + bs.length ≤ 2 ^ 24 ∧ b < 2 ^ 24 ∧ ¬ (u = t ∧ a ≤ b ∧ b < a + bs.length)
    ∧ a ≤ b ∧ b < a + bs.length := ⟨0, 0x8FFFFF, 1, 0x8FFFFF, [7], by decide⟩

theorem witness_T1ReadAfterWrite : ∃ (s : State) (a : Nat) (bs : List Byte), s.mem.t1err = [] ∧ bs ≠ [] ∧ a + bs.length ≤ t1Bytes :=
  ⟨State.reset, 0x3F, [1, 2], by decide⟩

theorem witness_PacketRoundTrip : ∃ p : Pkt, p.dst < 64 ∧ p.src < 64 ∧ p.dstArb < 65536 ∧ p.srcArb < 65536 ∧ p.stamp < 65536 ∧
    p.proto < 16 ∧ p.hops < 8 ∧ p.ohops < 4 ∧ p.viaDev < 64 ∧ p.msgId < 65536 ∧ p.count < 4096 ∧ p.rsv < 128 ∧
    p.mask < 2 ^ 64 ∧ p.thdr < 2 ^ 128 ∧ (p.mcast = false → p.mask = 0) ∧ (p.data = false → p.thdr = 0) ∧ p.body.length < 4096 :=
  ⟨{ dst := 63, mcast := true, mask := 1, data := true, thdr := 5, body := [1, 2, 3, 4], hops := 7 }, by decide⟩

theorem witness_FlitRoundTrip : ∃ f : Flit, f.ftype < 16 ∧ f.fseq < 4096 ∧ f.ack < 4096 ∧ f.start < 64 ∧ f.fill ≤ 61 ∧ f.cvcA < 8 ∧ f.credA < 256 ∧
    f.cvcB < 8 ∧ f.credB < 256 ∧ f.words.length = 4 * f.fill :=
  ⟨{ ftype := 1, fseq := 4095, start := 0, fill := 1, words := [1, 2, 3, 4] }, by decide⟩

theorem witness_vadd : ∃ (i : Issue) (s : State) (f : Fmt), (i.fmt = some f) ∧
    (vecReady s i ⟨some tensorBytes, false⟩ f f) :=
  ⟨⟨0, 0x0018010203000001#64, 0x3FFF, 0⟩, vecState, .fp32, by decide⟩

theorem witness_vfma : ∃ (i : Issue) (s : State) (f : Fmt), (i.fmt = some f) ∧
    (vecReady s i ⟨some tensorBytes, true⟩ f f) :=
  ⟨⟨0, 0x0018010203000001#64, 0x3FFF, 0⟩, vecState, .fp32, by decide⟩

theorem witness_vabs : ∃ (i : Issue) (s : State) (f : Fmt), (i.fmt = some f) ∧
    (vecReady s i ⟨none, false⟩ f f) :=
  ⟨⟨0, 0x0018010200000001#64, 0x3FFF, 0⟩, vecState, .fp32, by decide⟩

theorem witness_vscale : ∃ (i : Issue) (s : State) (f : Fmt), (i.fmt = some f) ∧
    (vecReady s i ⟨some (fun f _ => firstBytes f), false⟩ f f) :=
  ⟨⟨0, 0x0018010203000001#64, 0x3FFF, 0⟩, vecState, .fp32, by decide⟩

theorem witness_vselect : ∃ (i : Issue) (s : State) (f : Fmt), (i.fmt = some f) ∧
    (vecReady s i ⟨some (fun _ _ => 4), true⟩ f f) :=
  ⟨⟨0, 0x0018010203000001#64, 0x3FFF, 0⟩, vecState, .fp32, by decide⟩

theorem witness_vcvt : ∃ (i : Issue) (s : State) (f : Fmt) (g : Fmt), (i.fmt = some f) ∧
    (g = (if 0x2A ≤ fld i.w 63 56 then .bf16 else .fp32)) ∧
    ((f ≠ .bs4 ∧ f ≠ .bsi8)) ∧
    (vecReady s i ⟨none, false⟩ g f) :=
  ⟨⟨0, 0x0018010200000001#64, 0x3FFF, 0⟩, vecState, .fp32, .fp32, by decide⟩

theorem witness_vcvtb : ∃ (i : Issue) (s : State) (f : Fmt) (g : Fmt), (i.fmt = some f) ∧
    (g = (if 0x2A ≤ fld i.w 63 56 then .bf16 else .fp32)) ∧
    ((f = .bs4 ∨ f = .bsi8)) ∧
    (vecReady s i ⟨none, false⟩ g f) :=
  ⟨⟨0, 0x000C010200000001#64, 0x3FFF, 0⟩, vecState, .bs4, .fp32, by decide⟩

theorem witness_vrsum : ∃ (i : Issue) (s : State) (f : Fmt) (per n : Nat), (i.fmt = some f) ∧
    (slotIssues s i vecMask) ∧
    (fld i.w 31 24 = 0) ∧
    (per = (if bit i.w 49 then cbsRowElems f (opMid s i) else rowElems f (opMid s i))) ∧
    (n = vecLen i / max 1 per) ∧
    (bufOk s i (opHi s i) 0 (n * 4) = true) ∧
    (bufOk s i (opMid s i) 0 (n * hRow (opMid s i) * 64) = true) ∧
    (badByte s i.tile (opMid s i) 0 (n * hRow (opMid s i) * 64) = none) :=
  ⟨⟨0, 0x0018010200000001#64, 0x3FFF, 0⟩, vecState, .fp32, 32, 1, by decide⟩

theorem witness_apass : ∃ (i : Issue) (s : State), (slotIssues s i 0xFF80000000000000) ∧
    (passFault s i (passD s i) (passB s i) false = 0) ∧
    ((passD s i).present = false) :=
  ⟨⟨0, 0#64, 0, 0⟩, passState, by decide⟩

theorem witness_apass_present : ∃ (i : Issue) (s : State) (vs : List (Nat × Bool)), (slotIssues s i 0xFF80000000000000) ∧
    (passFault s i (passD s i) (passB s i) false = 0) ∧
    ((passD s i).present = true) ∧
    (feedClean s i) ∧
    (presentVecs s i (passD s i) (passB s i) = some vs) :=
  ⟨⟨0, 0#64, 0, 0⟩, presentState, [], by decide⟩

theorem witness_aos : ∃ (i : Issue) (s : State), (slotIssues s i 0xFF80000000000000) ∧
    (passFault s i (passD s i) (passB s i) true = 0) :=
  ⟨⟨0, 0#64, 0, 0⟩, aosState, by decide⟩

theorem witness_inject_dense : ∃ (s : State) (t : Nat) (p : LivePass) (m : Nat), (p.os = false) ∧
    (p.desc.present = false) ∧
    (badByte s t p.bufs.feed ((p.desc.feedRow + m) * hRow p.bufs.feed * 64) (feedRowBytes p.desc false p.size) = none) :=
  ⟨runState id, 0, passOf0 false, 0, by decide⟩

theorem witness_inject_os : ∃ (s : State) (t : Nat) (p : LivePass) (m : Nat), (p.os = true) ∧
    (p.desc.present = false) ∧
    (badByte s t p.bufs.feed ((p.desc.feedRow + m) * hRow p.bufs.feed * 64) (feedRowBytes p.desc true p.size) = none) :=
  ⟨runState id, 0, passOf0 true, 0, by decide⟩

theorem witness_aload : ∃ (i : Issue) (s : State), (slotIssues s i 0xFF3FE0FFFFFFFFFF) ∧
    ((statFmt (fld i.w 53 50)).isSome) ∧
    (fld i.w 49 46 < bedCount (getTile s i.tile).bedMode) ∧
    (bufOk s i (opMid s i) (fld i.w 31 0 * 64) (blockBytes (fld i.w 53 50) (bedSize (getTile s i.tile).bedMode)) =
      true) ∧
    (loadOk (getTile s i.tile) (fld i.w 49 46) (fld i.w 49 46 * 2 + fld i.w 45 45) (s.clk.aclk + 2) = true) ∧
    (badLines s i.tile (opMid s i) (fld i.w 31 0 * 64) (blockBytes (fld i.w 53 50) (bedSize (getTile s
      i.tile).bedMode)) = []) :=
  ⟨⟨0, 0x0004000300000000#64, 0x3FFF, 0⟩, { vecState with clk := { aclk := 100 }, tiles := [(0, { powered := true, fg := { live := true, part := 0, step := 0, handles := [(3, hnd 8 0 200 4)] } })] }, by decide⟩

theorem witness_abed : ∃ (i : Issue) (s : State), (slotIssues s i 0xFF00000000000003) ∧
    (fld i.w 1 0 ≠ 3) ∧
    (fld i.w 1 0 ≠ (getTile s i.tile).bedMode) ∧
    (arrayLive (getTile s i.tile) s.clk.aclk = false) :=
  ⟨⟨0, 1#64, 0x3FFF, 0⟩, vecState, by decide⟩

theorem witness_abed_same : ∃ (i : Issue) (s : State), (slotIssues s i 0xFF00000000000003) ∧
    (fld i.w 1 0 = (getTile s i.tile).bedMode) :=
  ⟨⟨0, 0#64, 0x3FFF, 0⟩, vecState, by decide⟩

theorem witness_husk : ∃ (i : Issue) (s : State) (reg : SlotReg) (k : HuskPick), (slotIssues s i 0xFF80FFFFFFFF0700) ∧
    (huskReady s i) ∧
    (badLines s i.tile (opMid s i) 0 (hLines (opMid s i) * 64) = []) ∧
    (slotOfHandle s (fgOf s i.tile).part i.tile (fld i.w 47 40) = some reg) ∧
    (keptRows s i.tile (opHi s i) reg ≠ []) ∧
    (huskPick s i (parseHusk (descOf s i i.doff 32)) reg = some k) :=
  ⟨⟨0, 0x0000010203040000#64, 0, 0⟩, huskState, ⟨0, 0, 0, 1, 16, 4, 0⟩, _, by decide, by decide, by decide, by decide, by decide, rfl⟩

theorem witness_husk_empty : ∃ (i : Issue) (s : State) (reg : SlotReg), (slotIssues s i 0xFF80FFFFFFFF0700) ∧
    (huskReady s i) ∧
    (slotOfHandle s (fgOf s i.tile).part i.tile (fld i.w 47 40) = some reg) ∧
    (keptRows s i.tile (opHi s i) reg = []) :=
  ⟨⟨0, 0x0000010203040000#64, 0, 0⟩, { huskState with sheaf := { slots := [⟨0, 0, 0, 1, 16, 0, 0⟩] } }, ⟨0, 0, 0, 1, 16, 0, 0⟩, by decide⟩

theorem witness_chaff : ∃ (i : Issue) (s : State) (f : Fmt), (slotIssues s i 0xFFC0FFFFFF000000) ∧
    (chaffFmt (leNat (descOf s i i.doff 16)) = some f) ∧
    (chaffFields (leNat (descOf s i i.doff 16))) ∧
    (chaffBuffers s i f) :=
  ⟨⟨0, 0x0000010203000000#64, 0, 0⟩, chaffState, .fp32, by decide⟩

theorem witness_expertLastChunkDone : ∃ (t : Nat) (hidden : List (List Nat)) (s : State) (r : HuskRun) (rest : List HuskRun) (m : Nat), ((fgOf s t).husk = r :: rest) ∧
    (m = r.recompute.getD (missCount r hidden)) ∧
    (¬ (r.policy = 1 ∧ r.dense = false ∧ r.recompute = none ∧ 0 < m)) ∧
    (badByte s t r.handle 0 64 = none) :=
  ⟨0, [], runState (fun c => { c with husk := [huskRun0] }), huskRun0, [], 0, by rfl, by decide, by decide, by decide⟩

theorem witness_expert_recompute : ∃ (t : Nat) (hidden : List (List Nat)) (s : State) (r : HuskRun) (rest : List HuskRun) (m : Nat), ((fgOf s t).husk = r :: rest) ∧
    (m = r.recompute.getD (missCount r hidden)) ∧
    (r.policy = 1 ∧ r.dense = false ∧ r.recompute = none ∧ 0 < m) :=
  ⟨0, [[0x3F800000]], runState (fun c => { c with husk := [{ huskRun0 with policy := 1, samples := 1 }] }), { huskRun0 with policy := 1, samples := 1 }, [], 1,
    by rfl, by decide, by decide⟩

theorem witness_copy : ∃ (i : Issue) (s : State), (slotIssues s i 0xFF00FFFFFFFFFFFF) ∧
    (copyOk s i (opMid s i) (opHi s i) (fld i.w 31 0 * 64) = true) ∧
    (badByte s i.tile (opMid s i) 0 (fld i.w 31 0 * 64) = none) :=
  ⟨⟨0, 0x0000010200000002#64, 0x3FFF, 0⟩, vecState, by decide⟩

theorem witness_tcopy : ∃ (i : Issue) (s : State), (slotIssues s i 0xFF03FFFFFFFFFFFF) ∧
    (fld i.w 49 48 ≠ 3) ∧
    (max 1 (hRow (opMid s i)) * 64 % (64 * 2 ^ fld i.w 49 48) = 0) ∧
    (fld i.w 31 0 * 64 % (64 * (max 1 (hRow (opMid s i)) * 64)) = 0) ∧
    (copyOk s i (opMid s i) (opHi s i) (fld i.w 31 0 * 64) = true) ∧
    (badByte s i.tile (opMid s i) 0 (fld i.w 31 0 * 64) = none) :=
  ⟨⟨0, 0x0000010200000000#64, 0x3FFF, 0⟩, vecState, by decide⟩

theorem witness_recv : ∃ (i : Issue) (s : State), (slotIssues s i 0xFF00FF0000000000) ∧
    (bufOk s i (NMap.get (fun _ => 0) (fgOf s i.tile).handles (fld i.w 47 40)) 0 (hLines (NMap.get (fun _ => 0) (fgOf
      s i.tile).handles (fld i.w 47 40)) * 64) = true) :=
  ⟨⟨0, 0x0000010000000000#64, 0x3FFF, 0⟩, vecState, by decide⟩

theorem witness_send : ∃ (i : Issue) (s : State), (slotIssues s i 0xFF00FFFFFFFFFFFF) ∧
    (bufOk s i (opHi s i) 0 (fld i.w 23 0 * 64) = true) ∧
    (fld i.w 23 0 ≤ 147456) ∧
    (badByte s i.tile (opHi s i) 0 (fld i.w 23 0 * 64) = none) ∧
    (fld i.w 39 32 < 120) ∧
    (frameGives s i.tile (fld i.w 39 32) = true) :=
  ⟨⟨0, 0x0000013D05000002#64, 0x3FFF, 0⟩, sendState, by decide⟩

theorem witness_mmrs : ∃ (i : Issue) (s u : State), (slotIssues s i 0xFF00000000000000) ∧
    (i.dline < 9216) ∧
    ([1, 2].contains (fld (leNat (descOf s i (i.doff + 2) 32)) 19 16) = true) ∧
    (u = runPass s i (passD s i) (some (fld (leNat (descOf s i (i.doff + 2) 32)) 15 0, fld (leNat (descOf s i (i.doff
      + 2) 32)) 95 64))) ∧
    ((getTile s i.tile).passes.length < (getTile u i.tile).passes.length) ∧
    (freshRun u i.tile) :=
  ⟨⟨0, 0#64, 0, 0⟩, mmrsState, _, by decide, by decide, by decide, rfl, by decide, by decide⟩

theorem witness_mmag : ∃ (i : Issue) (s u : State), (slotIssues s i 0xFF0000FF0000001F) ∧
    (i.dline < 9216) ∧
    (fld (leNat (descOf s i (i.doff + 2) 32)) 19 16 = 3) ∧
    (u = runPass s i (passD s i) none) ∧
    ((getTile s i.tile).passes.length < (getTile u i.tile).passes.length) ∧
    (freshRun u i.tile) :=
  ⟨⟨0, 0#64, 0, 0⟩, mmagState, _, by decide, by decide, by decide, rfl, by decide, by decide⟩

theorem witness_allreduce : ∃ (i : Issue) (s u : State) (c : Nat × Instr) (n : PavInst), (c ∈ [(1, Instr.allreduce i), (2, .reduceScatter i), (3, .allgather i), (4, .broadcast i), (5, .alltoall i), (6,
      .alltoallv i)]) ∧
    (slotIssues s i 0xFF80FFFF0000001F) ∧
    (collReady s u i c.1 n) ∧
    (pavFind u (fld (leNat (descOf s i i.doff 32)) 15 0) (fld (leNat (descOf s i i.doff 32)) 95 64) = none) ∧
    ((u.pav.insts.filter (fun j => j.part == (fgOf s i.tile).part)).length < 8) :=
  ⟨⟨0, 0x0000010200000003#64, 0, 0⟩, collState, countEffect collState 0, (1, .allreduce ⟨0, 0x0000010200000003#64, 0, 0⟩), collInst,
    by simp, by decide, ⟨rfl, by decide, by decide, by decide, by decide, by decide, by decide, by decide, by decide⟩, by decide, by decide⟩

theorem witness_gateSlotDelivery : ∃ (t : Nat) (s : State) (u : Machine.Unit) (e : FrameEnt), (oldestFor s.edge t = some u) ∧
    (unitOwned s u = true) ∧
    (unitArmed s u = true) ∧
    (gateSlot s t u.part = some e) :=
  ⟨0, { slotState with edge := [unit0] }, unit0, ⟨0, 0, 1, 60, 0⟩, by decide⟩

theorem witness_gate_held : ∃ (t : Nat) (s : State) (u : Machine.Unit), (oldestFor s.edge t = some u) ∧
    (unitOwned s u = true) ∧
    (unitArmed s u = true) ∧
    (gateSlot s t u.part = none) :=
  ⟨0, { armedState with edge := [unit0] }, unit0, by decide⟩

theorem witness_gate_discard : ∃ (t : Nat) (s : State) (u : Machine.Unit), (oldestFor s.edge t = some u) ∧
    (unitOwned s u = true) ∧
    (unitArmed s u = false) :=
  ⟨0, { runState id with edge := [unit0] }, unit0, by decide⟩

theorem witness_arrivalUnitLanded : ∃ (t : Nat) (s : State) (u : Machine.Unit), (oldestFor s.mesh t = some u) ∧
    (u.due ≤ s.clk.aclk) ∧
    (unitOwned { s with mesh := s.mesh.erase u } u = true) ∧
    (unitArmed { s with mesh := s.mesh.erase u } u = true) :=
  ⟨0, { armedState with mesh := [unit0] }, unit0, by decide⟩

theorem witness_arrival_parity : ∃ (t : Nat) (s : State) (u : Machine.Unit), (oldestFor s.mesh t = some u) ∧
    (u.due ≤ s.clk.aclk) ∧
    (unitOwned { s with mesh := s.mesh.erase u } u = true) :=
  ⟨0, { armedState with mesh := [unit0] }, unit0, by decide⟩

theorem witness_vinTurnOn : ∃ (s : State), (s.mod.latch = false) ∧
    (s.mod.rails = none) :=
  ⟨State.reset, by decide⟩

theorem witness_vin_latched : ∃ (s : State), ((s.mod.latch = true ∨ s.mod.rails.isSome = true)) :=
  ⟨{ mod := { latch := true } }, by decide⟩

theorem witness_railSettled : ∃ (s : State) (k : Nat), (s.mod.rails = some k) ∧
    (k < 8) :=
  ⟨{ mod := { rails := some 7 } }, 7, by decide⟩

theorem witness_faultLatchClear : ∃ (s : State), (s.mod.rails = none) :=
  ⟨{}, by decide⟩

theorem witness_latch_off : ∃ (s : State) (k : Nat), (s.mod.rails = some k) :=
  ⟨{ mod := { rails := some 8 } }, 8, by decide⟩

theorem witness_pllLock : ∃ (u : List Nat) (s : State), (s.mod.powerGood = true) ∧
    (s.clk.pllLocked = false) ∧
    (s.boot.state ≠ .deviceFault) ∧
    (s.host.perst = false) :=
  ⟨[], { mod := { powerGood := true } }, by decide⟩

theorem witness_lock_held : ∃ (u : List Nat) (s : State), (s.mod.powerGood = true) ∧
    (s.clk.pllLocked = false) ∧
    (s.boot.state ≠ .deviceFault) ∧
    (s.host.perst = true) :=
  ⟨[], { mod := { powerGood := true }, host := { perst := true } }, by decide⟩

theorem witness_referenceLoss : ∃ (s u : State), (s.clk.pllLocked = true) ∧
    (u = deviceFault (err s pgTb 0x0E02) 0x0E02) :=
  ⟨readyState, _, by decide, rfl⟩

theorem witness_perstDeassert : ∃ (u : List Nat) (s : State), (s.host.perst = true) :=
  ⟨[], { host := { perst := true } }, by decide⟩

theorem witness_pcieLinkUp : ∃ (w v : Nat) (s : State), (s.clk.pllLocked = true) ∧
    (s.host.perst = false) ∧
    (s.host.linkUp = false) :=
  ⟨16, 5, bootState .training, by decide⟩

theorem witness_tbSet : ∃ (s u : State), (takesWrites s pgTb) ∧
    (s.tb.locked = false) ∧
    (anyStep s = false) ∧
    (u = { s with clk := { s.clk with tb := BitVec.ofNat 64 (pairN s (pgTb + 0x110)), tbFrac := 0 } }) :=
  ⟨readyState, _, by decide, rfl, by decide, rfl⟩

theorem witness_tb_set_refused : ∃ (s : State), (takesWrites s pgTb) ∧
    ((s.tb.locked = true ∨ anyStep s = true)) :=
  ⟨{ readyState with tb := { locked := true } }, by decide⟩

theorem witness_tbPeriodExpiry : ∃ (s u : State) (d : Nat), (isRoot s = false) ∧
    (bit (regN s (pgTb + 0x104)) 1 = true) ∧
    (u = setParent { s with tb := { s.tb with missed := s.tb.missed + 1, reqAt := now s } }) ∧
    (u.tb.parent = some d) :=
  ⟨alignState, _, 1, by decide, by decide, rfl, by decide⟩

theorem witness_tb_root : ∃ (s : State), ((isRoot s = true ∨ bit (regN s (pgTb + 0x104)) 1 = false)) :=
  ⟨{ regs := { val := [(pgTb + 0x104, 1)] } }, by decide⟩

theorem witness_timeRequest : ∃ (s u v : State) (p : Pkt), (takeEjected s (fun p => p.proto == 0xA && byteFld p.body 0 0 == 1) = some (p, u)) ∧
    (v = (if byteFld p.body 1 1 = 0 ∧ u.tb.parent ≠ some p.src then err u pgTb 0x0E01 else u)) :=
  ⟨{ fab := { ejected := [{ proto := 0xA, body := [1] }] } }, {}, _, { proto := 0xA, body := [1] }, by decide, rfl⟩

theorem witness_timeResponse : ∃ (s u v w : State) (p : Pkt) (q t1 : Nat) (off dly : Int), (takeEjected s (fun p => p.proto == 0xA && byteFld p.body 0 0 == 2) = some (p, u)) ∧
    (u.tb.req = some (q, t1)) ∧
    (byteFld p.body 4 7 = q) ∧
    (u.tb.parent = some p.src) ∧
    (off = (((byteFld p.body 16 23 : Int) - t1) - ((stamp16 u : Int) - byteFld p.body 24 31)) / 2) ∧
    (dly = (((stamp16 u : Int) - t1) - ((byteFld p.body 24 31 : Int) - byteFld p.body 16 23)) / 2) ∧
    (v = exchangeKept u p off dly) ∧
    (w = (if v.tb.locked = false ∧ anyStep v = false ∧ (16000 < off ∨ off < -16000) then incSat
      { v with clk := { v.clk with tb := v.clk.tb + BitVec.ofInt 64 (off / 16) } } (pgTb + 0x50) 1 else slewBy v off)) :=
  ⟨{ fab := { ejected := [{ proto := 0xA, body := [2] }] }, tb := { req := some (0, 0), parent := some 0 } }, { tb := { req := some (0, 0), parent := some 0 } }, _, _, { proto := 0xA, body := [2] }, 0, 0, _, _, by decide, rfl, by decide, rfl, rfl, rfl, rfl, rfl⟩

theorem witness_time_late : ∃ (s u : State) (p : Pkt), (takeEjected s (fun p => p.proto == 0xA && byteFld p.body 0 0 == 2) = some (p, u)) ∧
    ((u.tb.req = none ∨ u.tb.parent ≠ some p.src ∨ u.tb.req.map (fun r => r.1) ≠ some (byteFld p.body 4 7))) :=
  ⟨{ fab := { ejected := [{ proto := 0xA, body := [2] }] } }, {}, { proto := 0xA, body := [2] }, by decide⟩

theorem witness_tbLockLoss : ∃ (s : State), (s.tb.locked = true) ∧
    (10 ≤ s.tb.missed) :=
  ⟨{ tb := { locked := true, missed := 10 } }, by decide⟩

theorem witness_trainingComplete : ∃ (u : List Nat) (ms us : Nat) (s : State), (s.boot.trained = false) ∧
    ([BootState.training, .waitImage, .verifying, .powerup, .kat].contains s.boot.state = true) :=
  ⟨[], 0, 0, bootState .training, by decide⟩

theorem witness_t1InitDone : ∃ (c : Nat) (s : State), (c < 128) ∧
    ((getMch s c).trained = true) ∧
    ((getMch s c).scrubbing = false) :=
  ⟨0, { mch := [(0, { trained := true })] }, by decide⟩

theorem witness_tilePowerUpWave : ∃ (s : State), (s.boot.state = .powerup) :=
  ⟨bootState .powerup, by decide⟩

theorem witness_katComplete : ∃ (u meas : List Nat) (s v : State), (s.boot.state = .kat) ∧
    (s.boot.trained = true) ∧
    (s.boot.t1Ready = true) ∧
    (v = reconcile (calibrate (katFails s u) meas) [0, 1] (testMasks (calibrate (katFails s u) meas).boot)) :=
  ⟨[], [], { boot := { state := .kat, trained := true, t1Ready := true } }, _, rfl, rfl, rfl, rfl⟩

theorem witness_load : ∃ (s : State), (s.boot.state = .waitImage) :=
  ⟨bootState .waitImage, by decide⟩

theorem witness_broadcastImage : ∃ (s u : State), (s.boot.imgValid = true) ∧
    (s.boot.state ≠ .verifying) ∧
    (s.boot.state ≠ .ready) ∧
    (s.boot.state ≠ .deviceFault) ∧
    (u = { s with boot := { s.boot with round := s.boot.round + 1 } }) :=
  ⟨{ boot := { imgValid := true } }, _, rfl, by decide, by decide, by decide, rfl⟩

theorem witness_bootPacket : ∃ (s u : State) (p : Pkt), (takeEjected s (fun p => p.proto == 0xB) = some (p, u)) ∧
    (bootFits u p = true) :=
  ⟨{ bootState .waitImage with fab := { ejected := [{ proto := 0xB, body := [1], thdr := 2 ^ 96 }] }, regs := { val := [(0x111C, 1)] } },
    { bootState .waitImage with regs := { val := [(0x111C, 1)] } }, { proto := 0xB, body := [1], thdr := 2 ^ 96 }, by decide⟩

theorem witness_boot_drop : ∃ (s u : State) (p : Pkt), (takeEjected s (fun p => p.proto == 0xB) = some (p, u)) ∧
    (bootFits u p = false) :=
  ⟨{ readyState with fab := { ejected := [{ proto := 0xB }] } }, readyState, { proto := 0xB }, by decide⟩

theorem witness_broadcastIncompleteTimeout : ∃ (s : State) (a : Nat), (s.boot.state = .waitImage) ∧
    (s.boot.rxAt = some a) ∧
    (a + 1000000 ≤ now s) ∧
    (rxWhole s.boot = false) :=
  ⟨{ clk := { tb := 1000000 }, boot := { state := .waitImage, rxAt := some 0, rxLen := 1 } }, 0, by decide⟩

theorem witness_imageReceived : ∃ (s : State), (s.boot.state = .verifying) :=
  ⟨bootState .verifying, by decide⟩

theorem witness_attest : ∃ (s : State), ([BootState.fuses, .selftest, .training, .fuseFault, .deviceFault].contains s.boot.state = false) :=
  ⟨readyState, by decide⟩

theorem witness_bootResetRouterDie : ∃ (u : List Nat) (s : State), (s.clk.pllLocked = true) :=
  ⟨[], readyState, by decide⟩

theorem witness_bootResetComputeDie : ∃ (d : Nat) (s u : State), (d < 2) ∧
    (bit s.boot.dieReset d = false) ∧
    (s.boot.state = .ready) ∧
    (u = resetDie (((List.range 4).filter (touchesDie s d)).foldl (fun v n => if (getPart v n).steps.isEmpty then
      endInstances v n else noteError (endAll v n 0x1003) n 0x1003) s) d) :=
  ⟨0, readyState, _, by decide, by decide, by decide, rfl⟩

theorem witness_bootResetPartition : ∃ (n : Nat) (s : State), (n < 4) :=
  ⟨0, readyState, by decide⟩

theorem witness_boot_key : ∃ (key d n : Nat) (u : List Nat) (s : State), (key ≠ 0xA5) :=
  ⟨0, 0, 0, [], readyState, by decide⟩

theorem witness_computeDieBringupDone : ∃ (d : Nat) (chk trn kat : List Nat) (s : State), (d < 2) ∧
    (bit s.boot.dieReset d = true) ∧
    (s.boot.state = .ready) :=
  ⟨0, [], [], [], { boot := { state := .ready, dieReset := 1 } }, by decide⟩

theorem witness_partitionResetTakeEffect : ∃ (n code : Nat) (s : State), ((getPart s n).resetPending = some code) ∧
    (s.clk.aclk % 64 = 0) :=
  ⟨0, 0, { parts := [(0, { resetPending := some 0 })] }, by decide⟩

theorem witness_rmem : ∃ (i : Issue) (s u : State), (u = countEffect s i.tile) ∧
    (freshRun s i.tile) ∧
    (slotIssues s i 0xFF00FFFFFFFF001F) ∧
    (bufOk u i (opHi u i) 0 (rmemBytes (rmemList u i)) = true) ∧
    ((((rmemList u i).map (fun r => roundUp r.1.retLen 16)).sum = 0 ∨ bufIn (opMid u i) 0 ((rmemList u i).map (fun r
      => roundUp r.1.retLen 16)).sum = true)) ∧
    (badByte u i.tile (opHi u i) 0 (rmemBytes (rmemList u i)) = none) ∧
    (∀ r ∈ rmemList u i, issueCheck u (fgOf u i.tile).part r.1 = 0) :=
  ⟨⟨0, 0x0000010200010000#64, 0x3FFF, 0⟩, rmemState, _, rfl, by decide⟩

theorem witness_msgs : ∃ (i : Issue) (s u : State), (u = countEffect s i.tile) ∧
    (freshRun s i.tile) ∧
    (slotIssues s i 0xFFC0FFFFFFFF001F) ∧
    (fld (leNat (descOf u i i.doff 16)) 39 33 = 0) ∧
    (fld (leNat (descOf u i i.doff 16)) 63 40 = 0) ∧
    (fld (leNat (descOf u i i.doff 16)) 23 22 = 0) ∧
    (fld i.w 15 5 = 0) ∧
    ((bit (leNat (descOf u i i.doff 16)) 32 = true ∨ fld (leNat (descOf u i i.doff 16)) 127 64 = 0)) ∧
    (bufOk u i (opHi u i) 0 (fld i.w 39 16) = true) ∧
    (badByte u i.tile (opHi u i) 0 (fld i.w 39 16) = none) :=
  ⟨⟨0, 0x0000010000040000#64, 0, 0⟩, vecState, _, rfl, by decide⟩

theorem witness_memRsp : ∃ (s u v : State) (p : Pkt) (r : Req), (takeEjected s (fun p => p.proto == 5) = some (p, u)) ∧
    (u.atom.out.find? (fun r => r.proto == 4 && r.arb == p.srcArb && r.dev == p.src && r.id == p.msgId) = some r) ∧
    (v = ((r.issuer, r.reply) :: r.members).foldl (fun s m => soilIssuer s p m.1) (settle u r)) :=
  ⟨{ fab := { ejected := [{ proto := 5 }] }, atom := { out := [req0] } }, { atom := { out := [req0] } }, _, { proto := 5 }, req0, by decide, by decide, rfl⟩

theorem witness_memRsp_stray : ∃ (s u : State) (p : Pkt), (takeEjected s (fun p => p.proto == 5) = some (p, u)) ∧
    (u.atom.out = []) :=
  ⟨{ fab := { ejected := [{ proto := 5 }] } }, {}, { proto := 5 }, by decide⟩

theorem witness_msgAck : ∃ (s u : State) (p : Pkt) (r : Req), (takeEjected s (fun p => p.proto == 6 && fld p.th 31 28 == 1) = some (p, u)) ∧
    (msgReq u p = some r) :=
  ⟨{ fab := { ejected := [msg0 1] }, atom := { out := [{ req0 with proto := 6 }] } }, { atom := { out := [{ req0 with proto := 6 }] } }, msg0 1, { req0 with proto := 6 }, by decide⟩

theorem witness_msgNack : ∃ (s u : State) (p : Pkt) (r : Req), (takeEjected s (fun p => p.proto == 6 && fld p.th 31 28 == 2) = some (p, u)) ∧
    (msgReq u p = some r) :=
  ⟨{ fab := { ejected := [msg0 2] }, atom := { out := [{ req0 with proto := 6 }] } }, { atom := { out := [{ req0 with proto := 6 }] } }, msg0 2, { req0 with proto := 6 }, by decide⟩

theorem witness_e2eTimeout : ∃ (s u : State) (r : Req), (s.atom.out.find? (fun r => now s ≥ r.sentAt + 1000 * regN s (pgAtom + 0x10C)) = some r) ∧
    (u = soilSteps (incSat (r.pkts.foldl send s) (pgAtom + 0x60) 1)) :=
  ⟨{ clk := { tb := 0xFFFFFFFFFF }, atom := { out := [req0] } }, _, req0, by decide, rfl⟩

theorem witness_combineWindowExpiry : ∃ (s : State) (c : Comb), (s.atom.combs.find? (fun c => fclk s ≥ c.since + regN s (pgAtom + 0x114)) = some c) :=
  ⟨{ clk := { root := 100000000 }, atom := { combs := [⟨0, 0, 0, 0, 0, [], [], 0, 0⟩] } }, ⟨0, 0, 0, 0, 0, [], [], 0, 0⟩, by decide⟩

theorem witness_fenceComplete : ∃ (t : Nat) (bg : Bool) (s : State) (l : List Fence), (l = s.atom.fences.filter (fun f => f.tile == t && f.bg == bg)) ∧
    (l ≠ []) ∧
    (outstandingOf s (.tile t bg) = 0) :=
  ⟨0, false, { atom := { fences := [⟨0, false, 0, 1⟩] } }, [⟨0, false, 0, 1⟩], by decide⟩

theorem witness_msgPacket : ∃ (s u : State) (p : Pkt) (b : Bind), (takeEjected s (fun p => p.proto == 6 && fld p.th 31 28 == 0) = some (p, u)) ∧
    (seen u p.srcArb p.src p.msgId = .fresh) ∧
    (bindOf u p = some b) ∧
    (fld p.th 95 64 + 16 ≤ b.slotBytes) ∧
    (u.atom.inMsgs = []) ∧
    (b.unbinding = false) :=
  ⟨{ fab := { ejected := [msg0 0] }, host := { binds := [bind0] } }, { host := { binds := [bind0] } }, msg0 0, bind0, by decide⟩

theorem witness_msgPacket_join : ∃ (s u : State) (p : Pkt) (b : Bind) (m : InMsg), (takeEjected s (fun p => p.proto == 6 && fld p.th 31 28 == 0) = some (p, u)) ∧
    (seen u p.srcArb p.src p.msgId = .fresh) ∧
    (bindOf u p = some b) ∧
    (fld p.th 95 64 + 16 ≤ b.slotBytes) ∧
    (u.atom.inMsgs.find? (fun m => m.arb == p.srcArb && m.dev == p.src && m.id == p.msgId) = some m) :=
  ⟨{ fab := { ejected := [msg0 0] }, host := { binds := [bind0] }, atom := { inMsgs := [⟨0, 0, 0, 0, 0, 0, 4, 2, [], [], 0⟩] } }, { host := { binds := [bind0] }, atom := { inMsgs := [⟨0, 0, 0, 0, 0, 0, 4, 2, [], [], 0⟩] } }, msg0 0, bind0, ⟨0, 0, 0, 0, 0, 0, 4, 2, [], [], 0⟩, by decide⟩

theorem witness_msgPacket_again : ∃ (s u : State) (p : Pkt), (takeEjected s (fun p => p.proto == 6 && fld p.th 31 28 == 0) = some (p, u)) :=
  ⟨{ fab := { ejected := [msg0 0] } }, {}, msg0 0, by decide⟩

theorem witness_msgTimeout : ∃ (s u : State) (m : InMsg), (s.atom.inMsgs.find? (fun m => now s ≥ m.since + 1000 * regN s (pgAtom + 0x118)) = some m) ∧
    (u =
      { s with atom := { s.atom with inMsgs := s.atom.inMsgs.erase m }, host := { s.host with binds := s.host.binds.map (fun b => if b.channel = m.channel ∧ b.part = m.part then { b with freed := b.freed ++ [m.slot] } else b) } }) :=
  ⟨{ clk := { tb := 0xFFFFFFFFFF }, atom := { inMsgs := [⟨0, 0, 0, 0, 0, 0, 4, 2, [], [], 0⟩] } }, _, ⟨0, 0, 0, 0, 0, 0, 4, 2, [], [], 0⟩, by decide, rfl⟩

theorem witness_ortEntryWrite : ∃ (v : Nat) (s : State), (takesWrites s pgAtom) :=
  ⟨0, readyState, by decide⟩

theorem witness_memLoad : ∃ (c : Nat × Instr) (s u v : State) (p : Pkt) (a : Nat) (old : List Byte), (c ∈ [(1, Instr.memLoad false), (2, .memStore false), (3, .memAdd 0 false), (4, .memMin false), (5, .memMax
      false), (6, .memCas false)]) ∧
    (memNext s c.1 = some p) ∧
    (memFresh s p) ∧
    (translate s p (parseMem p.th) = (.direct a, u)) ∧
    (a / 64 * 64 + lineBytes (parseMem p.th) ≤ t1Bytes) ∧
    (t1Read u (a / 64 * 64) (lineBytes (parseMem p.th)) = (some old, v)) :=
  ⟨(3, .memAdd 0 false), memState 3, _, _, memReq 3, 0x400000, _, by decide, by decide, by decide, rfl, by decide, rfl⟩

theorem witness_mem_other : ∃ (c : Nat × Instr) (s : State) (p : Pkt), (c ∈ [(1, Instr.memLoad false), (2, .memStore false), (3, .memAdd 0 false), (4, .memMin false), (5, .memMax
      false), (6, .memCas false)]) ∧
    (memNext s c.1 = some p) ∧
    (memFresh s p) :=
  ⟨(3, .memAdd 0 false), memState 3, memReq 3, by decide⟩

theorem witness_reserve : ∃ (s u : State) (p : Pkt), (collTaken s u p 1) ∧
    (pavFind u p.ccomm p.cseq = none) :=
  ⟨pavGot [] 1, pavState [], coll0 1, by decide⟩

theorem witness_grant : ∃ (s u : State) (p : Pkt) (j : PavInst), (collTaken s u p 2) ∧
    (pavFind u p.ccomm p.cseq = some j) ∧
    (j.alg = none) ∧
    (j.reserves.any (fun a => a.dev == p.src) = true) :=
  ⟨pavGot [{ reserves := [⟨0, 0, 0⟩] }] 2, pavState [{ reserves := [⟨0, 0, 0⟩] }], coll0 2, { reserves := [⟨0, 0, 0⟩] }, by decide⟩

theorem witness_deny : ∃ (s u : State) (p : Pkt) (j : PavInst), (collTaken s u p 3) ∧
    (pavFind u p.ccomm p.cseq = some j) ∧
    (j.alg = none) ∧
    (j.reserves.any (fun a => a.dev == p.src) = true) :=
  ⟨pavGot [{ reserves := [⟨0, 0, 0⟩] }] 3, pavState [{ reserves := [⟨0, 0, 0⟩] }], coll0 3, { reserves := [⟨0, 0, 0⟩] }, by decide⟩

theorem witness_decide : ∃ (s u : State) (p : Pkt) (j : PavInst), (collTaken s u p 4) ∧
    (pavFind u p.ccomm p.cseq = some j) :=
  ⟨pavGot [{}] 4, pavState [{}], coll0 4, {}, by decide⟩

theorem witness_decide_early : ∃ (s u : State) (p : Pkt), (collTaken s u p 4) ∧
    (pavFind u p.ccomm p.cseq = none) :=
  ⟨pavGot [] 4, pavState [], coll0 4, by decide⟩

theorem witness_decAck : ∃ (s u : State) (p : Pkt) (j : PavInst), (collTaken s u p 5) ∧
    (pavFind u p.ccomm p.cseq = some j) :=
  ⟨pavGot [{}] 5, pavState [{}], coll0 5, {}, by decide⟩

theorem witness_ready : ∃ (s u : State) (p : Pkt) (j : PavInst), (collTaken s u p 6) ∧
    (pavFind u p.ccomm p.cseq = some j) :=
  ⟨pavGot [{}] 6, pavState [{}], coll0 6, {}, by decide⟩

theorem witness_ready_early : ∃ (s u : State) (p : Pkt), (collTaken s u p 6) ∧
    (pavFind u p.ccomm p.cseq = none) :=
  ⟨pavGot [] 6, pavState [], coll0 6, by decide⟩

theorem witness_count : ∃ (s u : State) (p : Pkt) (j : PavInst), (collTaken s u p 7) ∧
    (pavFind u p.ccomm p.cseq = some j) :=
  ⟨pavGot [{}] 7, pavState [{}], coll0 7, {}, by decide⟩

theorem witness_count_early : ∃ (s u : State) (p : Pkt), (collTaken s u p 7) ∧
    (pavFind u p.ccomm p.cseq = none) :=
  ⟨pavGot [] 7, pavState [], coll0 7, by decide⟩

theorem witness_abort : ∃ (s u : State) (p : Pkt), (collTaken s u p 11) :=
  ⟨pavGot [] 11, pavState [], coll0 11, by decide⟩

theorem witness_commEntryWrite : ∃ (v : Nat) (s u : State), (takesWrites s pgPav) ∧
    (u = setRegN s (pgPav + 0x158) v) :=
  ⟨0, readyState, _, by decide, rfl⟩

theorem witness_coll_dor : ∃ (s u : State) (p : Pkt) (k : Nat) (c : Instr) (j : PavInst), ((k, c) ∈ [(1, Instr.reserve), (2, .grant), (3, .deny), (4, .decide), (5, .decAck), (6, .ready), (7, .count), (8,
      .chunk false), (9, .chunkAck), (10, .chunkNak), (11, .abort)]) ∧
    (takeEjected s (fun p => p.proto == 3 && p.ckind == k) = some (p, u)) ∧
    (ceValid (commEntry u p.ccomm) = true) ∧
    (p.stamp = ceStamp (commEntry u p.ccomm)) ∧
    (pavFind u p.ccomm p.cseq = some j) ∧
    (p.dor ≠ detMode u) :=
  ⟨{ pavGot [{}] 8 with fab := { ejected := [{ coll0 8 with dor := true }] } }, pavState [{}], { coll0 8 with dor := true }, 8, .chunk false, {}, by decide⟩

theorem witness_coll_drop : ∃ (s u : State) (p : Pkt) (k : Nat) (c : Instr), ((k, c) ∈ [(1, Instr.reserve), (2, .grant), (3, .deny), (4, .decide), (5, .decAck), (6, .ready), (7, .count), (8,
      .chunk false), (9, .chunkAck), (10, .chunkNak), (11, .abort)]) ∧
    (takeEjected s (fun p => p.proto == 3 && p.ckind == k) = some (p, u)) ∧
    ((ceValid (commEntry u p.ccomm) = false ∨ p.stamp ≠ ceStamp (commEntry u p.ccomm))) :=
  ⟨{ fab := { ejected := [coll0 8] } }, {}, coll0 8, 8, .chunk false, by decide⟩

theorem witness_chunk : ∃ (s u : State) (p : Pkt) (b : Bool), (collTaken s u p 8) ∧
    (((pavFind u p.ccomm p.cseq).isSome = true ∨ u.pav.past.contains (p.ccomm, p.cseq) = true)) ∧
    ((chunkBefore u p).got.any (fun g => g.1 == p.cpidx) = false) :=
  ⟨pavGot [{}] 8, pavState [{}], coll0 8, false, by decide⟩

theorem witness_chunk_drop : ∃ (s u : State) (p : Pkt) (b : Bool), (collTaken s u p 8) ∧
    (pavFind u p.ccomm p.cseq = none) ∧
    (u.pav.past.contains (p.ccomm, p.cseq) = false) :=
  ⟨pavGot [] 8, pavState [], coll0 8, false, by decide⟩

theorem witness_chunkAck : ∃ (s u : State) (p : Pkt) (j : PavInst), (collTaken s u p 9) ∧
    (pavFind u p.ccomm p.cseq = some j) :=
  ⟨pavGot [{}] 9, pavState [{}], coll0 9, {}, by decide⟩

theorem witness_chunkNak : ∃ (s u : State) (p : Pkt) (j : PavInst) (o : PavOut), (collTaken s u p 10) ∧
    (pavFind u p.ccomm p.cseq = some j) ∧
    (j.outs.find? (answersOut p) = some o) :=
  ⟨pavGot [{ outs := [⟨0, false, 0, 0, [], false, [(0, 0, 0)], [], false, true, 0⟩] }] 10, pavState [{ outs := [⟨0, false, 0, 0, [], false, [(0, 0, 0)], [], false, true, 0⟩] }], coll0 10, { outs := [⟨0, false, 0, 0, [], false, [(0, 0, 0)], [], false, true, 0⟩] }, ⟨0, false, 0, 0, [], false, [(0, 0, 0)], [], false, true, 0⟩, by decide⟩

theorem witness_chunkTimeout : ∃ (s : State) (j : PavInst) (o : PavOut), (firstDue s (fun i => i.outs) (fun o => o.sent && !o.dests.isEmpty && now s ≥ o.sentAt + chunkTimeout s) = some
      (j, o)) :=
  ⟨{ clk := { tb := 0xFFFFFFFFFF }, pav := { insts := [{ outs := [⟨0, false, 0, 0, [], false, [(0, 0, 0)], [], false, true, 0⟩] }] } }, { outs := [⟨0, false, 0, 0, [], false, [(0, 0, 0)], [], false, true, 0⟩] }, ⟨0, false, 0, 0, [], false, [(0, 0, 0)], [], false, true, 0⟩, by decide⟩

theorem witness_chunkIncompleteTimeout : ∃ (s : State) (x : PavIn), (s.pav.ins.find? (fun x => now s ≥ x.since + chunkTimeout s) = some x) :=
  ⟨{ clk := { tb := 0xFFFFFFFFFF }, pav := { ins := [⟨0, 0, 0, 0, 0, 0, 2, 0, 0, [], 0⟩] } }, ⟨0, 0, 0, 0, 0, 0, 2, 0, 0, [], 0⟩, by decide⟩

theorem witness_reserveResendTimeout : ∃ (s u : State) (j : PavInst) (a : PavAsk), (firstDue s (fun i => i.reserves) (fun a => now s ≥ a.sentAt + chunkTimeout s) = some (j, a)) ∧
    (u = pavCtl s j (myArb s) a.dev 1 0 0 j.dchk (leBytes 4 (slotsNeed s))) :=
  ⟨{ clk := { tb := 0xFFFFFFFFFF }, pav := { insts := [{ reserves := [⟨0, 0, 0⟩] }] } }, _, { reserves := [⟨0, 0, 0⟩] }, ⟨0, 0, 0⟩, by decide, rfl⟩

theorem witness_decideResendTimeout : ∃ (s u : State) (j : PavInst) (a : PavAsk), (firstDue s (fun i => i.decides) (fun a => a.tries < 3 && now s ≥ a.sentAt + chunkTimeout s) = some (j, a)) ∧
    (u = pavCtl s j (myArb s) a.dev 4 0 j.decRound 0 (decideBody (j.alg.getD 0) j.fromChunk)) :=
  ⟨{ clk := { tb := 0xFFFFFFFFFF }, pav := { insts := [{ decides := [⟨0, 0, 0⟩] }] } }, _, { decides := [⟨0, 0, 0⟩] }, ⟨0, 0, 0⟩, by decide, rfl⟩

theorem witness_earlyRecordResend : ∃ (s : State) (j : PavInst) (a : Pkt × Nat), (firstDue s (fun i => i.asks) (fun a => now s ≥ a.2 + chunkTimeout s) = some (j, a)) :=
  ⟨{ clk := { tb := 0xFFFFFFFFFF }, pav := { insts := [{ asks := [({}, 0)] }] } }, { asks := [({}, 0)] }, ({}, 0), by decide⟩

theorem witness_collTimeout : ∃ (s : State) (j : PavInst), (s.pav.insts.find? (fun i => now s ≥ i.prog + collTimeout s) = some j) :=
  ⟨{ clk := { tb := 0xFFFFFFFFFFFF }, pav := { insts := [{}] } }, {}, by decide⟩

theorem witness_collTimeout_sheaf : ∃ (s : State) (x : ShInst), (s.pav.insts = []) ∧
    (s.sheaf.insts.find? (fun i => now s ≥ i.prog + collTimeout s) = some x) :=
  ⟨{ clk := { tb := 0xFFFFFFFFFFFF }, sheaf := { insts := [{}] } }, {}, by decide⟩

theorem witness_instanceComplete : ∃ (s u : State) (j : PavInst), (s.pav.insts.find? (pavDone s) = some j) ∧
    (u = pavDrop (if j.usedEnd then inc64 (inc64 s (pgPav + 0x40) 1) (pgPav + 0x50) 1 else if j.usedTree then inc64
      (inc64 s (pgPav + 0x40) 1) (pgPav + 0x48) 1 else inc64 s (pgPav + 0x40) 1) j.comm j.seq) :=
  ⟨{ pav := { insts := [{ begun := true, live := true }] } }, _, { begun := true, live := true }, by decide, rfl⟩

theorem witness_linkstate : ∃ (s u : State) (p : Pkt), (takeEjected s (fun p => p.proto == 9) = some (p, u)) ∧
    (noticeGood p) ∧
    (bit (regN u (pgFab + 0x104)) 2 = true) ∧
    ((NMap.find u.fab.links (byteFld p.body 8 8 * 32 + byteFld p.body 9 9)).all (fun x => decide (x.1 < leNat
      (p.body.take 8))) = true) :=
  ⟨{ fab := { ejected := [notice0] }, regs := { val := [(0x22104, 4)] } }, { regs := { val := [(0x22104, 4)] } }, notice0, by decide⟩

theorem witness_portEnable : ∃ (p : Nat) (s : State), (takesWrites s (pgPort p)) ∧
    (p < 32) ∧
    ((getPort s p).lstate = .disabled) ∧
    (portBad s p = false) :=
  ⟨0, portState {}, by decide⟩

theorem witness_portDisable : ∃ (p : Nat) (s : State), (takesWrites s (pgPort p)) ∧
    (p < 32) ∧
    ((getPort s p).lstate ≠ .disabled) :=
  ⟨0, portState upPort, by decide⟩

theorem witness_portRetrain : ∃ (p : Nat) (s : State), (takesWrites s (pgPort p)) ∧
    (p < 32) ∧
    ((getPort s p).lstate = .up) :=
  ⟨0, portState upPort, by decide⟩

theorem witness_portUnquarantine : ∃ (p : Nat) (s : State), (takesWrites s (pgPort p)) ∧
    (p < 32) ∧
    ((getPort s p).lstate = .quarantined) :=
  ⟨0, portState { lstate := .quarantined }, by decide⟩

theorem witness_alignmentLoss : ∃ (p : Nat) (s : State), (p < 32) ∧
    ((getPort s p).lstate = .up) :=
  ⟨0, portState upPort, by decide⟩

theorem witness_retryLimitDown : ∃ (p : Nat) (s : State), (p < 32) ∧
    ((getPort s p).lstate = .up) ∧
    ((getPort s p).reqCount ≥ 8) :=
  ⟨0, portState { upPort with reqCount := 8 }, by decide⟩

theorem witness_flitSilenceTimeout : ∃ (p : Nat) (s : State), (p < 32) ∧
    ((getPort s p).lstate = .up) ∧
    (now s ≥ (getPort s p).lastFlit + 10000) :=
  ⟨0, portState upPort, by decide⟩

theorem witness_downBackoffRetrain : ∃ (p : Nat) (s : State), (p < 32) ∧
    (((getPort s p).lstate = .down ∨ ((getPort s p).lstate = .training ∧ (getPort s p).tries > 0))) ∧
    (now s ≥ (getPort s p).downAt + backoff (getPort s p).tries) :=
  ⟨0, portState { lstate := .down }, by decide⟩

theorem witness_quarantineLimit : ∃ (p : Nat) (s : State), (p < 32) ∧
    ((getPort s p).lstate = .up) ∧
    ((getPort s p).viol > regN s (pgFab + 0x114)) :=
  ⟨0, portState { upPort with viol := 0xFFFFFFFF }, by decide⟩

theorem witness_portTrainingDone : ∃ (p pol arb dev port : Nat) (s u : State), (p < 32) ∧
    ((getPort s p).lstate = .training) ∧
    (u = setRegN s (pgPort p + 0x108) (arb % 65536 * 65536 + dev % 64 * 256 + port % 32)) :=
  ⟨0, 0, 0, 1, 0, portState { lstate := .training }, _, by decide, by decide, rfl⟩

theorem witness_flitReceive : ∃ (p fec : Nat) (bs : List Byte) (s u : State), (p < 32) ∧
    ((getPort s p).lstate = .up) ∧
    (u = flitSeen s p fec) ∧
    (fec ≠ 2) ∧
    (flitGood bs = true) ∧
    (flitReserved (parseFlit bs) = false) ∧
    (flitContradicts (parseFlit bs) = false) :=
  ⟨0, 0, flitOf 0, portState upPort, _, by decide, by decide, rfl, by decide, by decide, by decide, by decide⟩

theorem witness_flit_bad : ∃ (p fec : Nat) (bs : List Byte) (s u : State), (p < 32) ∧
    ((getPort s p).lstate = .up) ∧
    (u = flitSeen s p fec) ∧
    ((fec = 2 ∨ flitGood bs = false)) :=
  ⟨0, 2, [], portState upPort, _, by decide, by decide, rfl, by decide⟩

theorem witness_flit_reserved : ∃ (p fec : Nat) (bs : List Byte) (s u : State), (p < 32) ∧
    ((getPort s p).lstate = .up) ∧
    (u = flitSeen s p fec) ∧
    (fec ≠ 2) ∧
    (flitGood bs = true) ∧
    ((flitReserved (parseFlit bs) = true ∨ flitContradicts (parseFlit bs) = true)) :=
  ⟨0, 0, flitOf 7, portState upPort, _, by decide, by decide, rfl, by decide, by decide, by decide⟩

theorem witness_flit_training : ∃ (p fec : Nat) (bs : List Byte) (s : State), (p < 32) ∧
    ((getPort s p).lstate = .training) ∧
    (fec ≠ 2) :=
  ⟨0, 0, [], portState { lstate := .training }, by decide⟩

theorem witness_retryReq : ∃ (p q : Nat) (s : State), (p < 32) ∧
    ((getPort s p).lstate = .up) :=
  ⟨0, 0, portState upPort, by decide⟩

theorem witness_retryReqRepeat : ∃ (p : Nat) (s : State), (p < 32) ∧
    ((getPort s p).lstate = .up) ∧
    ((getPort s p).awaiting = true) ∧
    (now s ≥ (getPort s p).retryAt + 2000) :=
  ⟨0, portState { upPort with awaiting := true }, by decide⟩

theorem witness_packetInject : ∃ (s u v w : State) (p : Pkt) (r : List Pkt), (s.fab.inject = p :: r) ∧
    (u = inc64 { s with fab := { s.fab with inject := r } } (pgFab + 0x40) 1) ∧
    ((p.outer = false ∨ (p.mcast = false ∧ p.proto ≠ 4 ∧ p.proto ≠ 5 ∧ p.proto ≠ 7))) ∧
    (v = (mcastNote (dropNonMembers u p.mask) (myDev u) p.mask)) ∧
    (w = (if bit p.mask (myDev u) ∧ isMember v (myDev u) then eject v p else v)) :=
  ⟨{ fab := { inject := [{}] } }, _, _, _, {}, [], rfl, rfl, by decide, rfl, rfl⟩

theorem witness_inject_outer : ∃ (s u : State) (p : Pkt) (r : List Pkt), (s.fab.inject = p :: r) ∧
    (u = inc64 { s with fab := { s.fab with inject := r } } (pgFab + 0x40) 1) ∧
    (p.outer = true) ∧
    ((p.mcast = true ∨ p.proto = 4 ∨ p.proto = 5 ∨ p.proto = 7)) :=
  ⟨{ fab := { inject := [{ outer := true, proto := 4 }] } }, _, { outer := true, proto := 4 }, [], rfl, rfl, rfl, by decide⟩

theorem witness_receive_parity : ∃ (q : Nat) (s u : State) (p : Pkt) (r : List (Nat × Pkt)) (h : Nat × State), (s.fab.arrived = (q, p) :: r) ∧
    (u = packetTaken s q r) ∧
    (h = openHold u q p.vc (owedUnits s q p) 1) :=
  ⟨0, { fab := { arrived := [(0, {})] } }, _, {}, [], _, rfl, rfl, rfl⟩

theorem witness_packetReceive : ∃ (q : Nat) (s u : State) (p : Pkt) (r : List (Nat × Pkt)) (h : Nat × State), (s.fab.arrived = (q, p) :: r) ∧
    (u = packetTaken s q r) ∧
    (h = openHold u q p.vc (owedUnits s q p) 1) ∧
    (p.mcast = false) ∧
    (p.dstArb = myArb u) ∧
    (p.dst = myDev u) ∧
    ((p.via = false ∨ p.viaDev = myDev u)) :=
  ⟨0, { fab := { arrived := [(0, {})] } }, _, {}, [], _, rfl, rfl, rfl, by decide⟩

theorem witness_receive_forward : ∃ (q : Nat) (s u : State) (p : Pkt) (r : List (Nat × Pkt)) (h : Nat × State), (s.fab.arrived = (q, p) :: r) ∧
    (u = packetTaken s q r) ∧
    (h = openHold u q p.vc (owedUnits s q p) 1) ∧
    (p.mcast = false) ∧
    ((p.dstArb ≠ myArb u ∨ p.dst ≠ myDev u)) :=
  ⟨0, { fab := { arrived := [(0, { dst := 1 })] } }, _, { dst := 1 }, [], _, rfl, rfl, rfl, by decide⟩

theorem witness_receive_mcast : ∃ (q : Nat) (s u : State) (p : Pkt) (r : List (Nat × Pkt)) (h : Nat × State) (l : List (Nat × Nat)), (s.fab.arrived = (q, p) :: r) ∧
    (u = packetTaken s q r) ∧
    (p.mcast = true) ∧
    (l = mcastRest u p) ∧
    (h = openHold (dropNonMembers u p.mask) q p.vc (owedUnits s q p) (l.length + 1)) :=
  ⟨0, { fab := { arrived := [(0, { mcast := true })] } }, _, { mcast := true }, [], _, _, rfl, rfl, by decide, rfl, rfl⟩

theorem witness_cmapSample : ∃ (s : State), (now s % 1000 = 0) ∧
    (s.fab.cmapN < 100) ∧
    (s.fab.cmapAt ≠ now s) :=
  ⟨{ clk := { tb := 1000 } }, by decide⟩

theorem witness_cmapIntervalEnd : ∃ (s u : State), (now s % 100000 = 0) ∧
    (s.fab.cmapN ≠ 0) ∧
    (u = cmapFormed s) :=
  ⟨{ fab := { cmapN := 1 } }, _, by decide, by decide, rfl⟩

theorem witness_cmap : ∃ (s u : State) (p : Pkt) (c : CmapPart), (takeEjected s (fun p => p.proto == 8) = some (p, u)) ∧
    (u.fab.cmapParts.find? (fun c => c.arb == p.srcArb && c.dev == p.src && c.seq == byteFld p.body 8 9 && c.part !=
      byteFld p.body 10 10) = some c) :=
  ⟨{ fab := { ejected := [{ proto := 8 }], cmapParts := [⟨0, 0, 0, 0, 1, [], 0⟩] } }, { fab := { cmapParts := [⟨0, 0, 0, 0, 1, [], 0⟩] } }, { proto := 8 }, ⟨0, 0, 0, 0, 1, [], 0⟩, by decide⟩

theorem witness_cmap_first : ∃ (s u : State) (p : Pkt), (takeEjected s (fun p => p.proto == 8) = some (p, u)) ∧
    (u.fab.cmapParts.any (fun c => c.arb == p.srcArb && c.dev == p.src && c.seq == byteFld p.body 8 9) = false) :=
  ⟨{ fab := { ejected := [{ proto := 8 }] } }, {}, { proto := 8 }, by decide⟩

theorem witness_cmapPartTimeout : ∃ (s : State) (c : CmapPart), (s.fab.cmapParts.find? (fun c => now s ≥ c.since + 1000000) = some c) :=
  ⟨{ clk := { tb := 1000000 }, fab := { cmapParts := [⟨0, 0, 0, 0, 1, [], 0⟩] } }, ⟨0, 0, 0, 0, 1, [], 0⟩, by decide⟩

theorem witness_otabEntryWrite : ∃ (v : Nat) (s : State), (takesWrites s pgFab) :=
  ⟨0, readyState, by decide⟩

theorem witness_fill : ∃ (i : Issue) (s u : State), (u = countEffect s i.tile) ∧
    (freshRun s i.tile) ∧
    (slotIssues s i grqMask) ∧
    (edgeGives s i.tile = true) ∧
    ((parseGrn 1 (descOf u i i.doff 32)).bad = false) ∧
    (bufIn (NMap.get (fun _ => 0) (fgOf u i.tile).handles (fld i.w 47 40)) 0 64 = true) :=
  ⟨⟨0, 0x0000010000000000#64, 0, 0⟩, grnTest 1, _, rfl, by decide⟩

theorem witness_list : ∃ (i : Issue) (s u : State) (q : GReq), (u = countEffect s i.tile) ∧
    (freshRun s i.tile) ∧
    (slotIssues s i grqMask) ∧
    (edgeGives s i.tile = true) ∧
    (q =
      { tile := i.tile, bg := false, part := (fgOf u i.tile).part, op := 2, transpose := false, esize := 1, rows := 1, rowBytes := (parseGrn 2 (descOf u i i.doff 32)).rowBytes, addr := (parseGrn 2 (descOf u i i.doff 32)).addr, stride := (parseGrn 2 (descOf u i i.doff 32)).stride, unit := 64 * (parseGrn 2 (descOf u i i.doff 32)).rowBytes, handle := fld i.w 47 40, list := execList.codesOfBytes2 (readBuf u i.tile (opMid u i) 0 (2 * listLen u i)), sent := 0 }) ∧
    ((parseGrn 2 (descOf u i i.doff 32)).bad = false) ∧
    (bufOk u i (opMid u i) 0 (2 * listLen u i) = true) ∧
    (bufIn (NMap.get (fun _ => 0) (fgOf u i.tile).handles (fld i.w 47 40)) 0 64 = true) ∧
    (badByte u i.tile (opMid u i) 0 (2 * listLen u i) = none) :=
  ⟨⟨0, 0x0000010200000000#64, 0, 0⟩, grnTest 2, _, _, rfl, by decide, by decide, by decide, rfl, by decide, by decide, by decide, by decide⟩

theorem witness_store : ∃ (i : Issue) (s u : State) (q : GReq) (x : GStore), (u = countEffect s i.tile) ∧
    (freshRun s i.tile) ∧
    (slotIssues s i grqMask) ∧
    (edgeGives s i.tile = true) ∧
    ((parseGrn 3 (descOf u i i.doff 32)).bad = false) ∧
    (bufOk u i (opHi u i) 0 ((parseGrn 3 (descOf u i i.doff 32)).rows * (parseGrn 3 (descOf u i i.doff 32)).rowBytes)
      = true) ∧
    (badByte u i.tile (opHi u i) 0 ((parseGrn 3 (descOf u i i.doff 32)).rows * (parseGrn 3 (descOf u i i.doff
      32)).rowBytes) = none) ∧
    (q =
      { tile := i.tile, bg := false, part := (fgOf u i.tile).part, op := 3, transpose := false, esize := 1, rows := (parseGrn 3 (descOf u i i.doff 32)).rows, rowBytes := (parseGrn 3 (descOf u i i.doff 32)).rowBytes, addr := (parseGrn 3 (descOf u i i.doff 32)).addr, stride := (parseGrn 3 (descOf u i i.doff 32)).stride, unit := (parseGrn 3 (descOf u i i.doff 32)).rowBytes, handle := 0, list := [], sent := 0, put := storeRows u i.tile (opHi u i) (parseGrn 3 (descOf u i i.doff 32)), tag := (newTag u).1 }) ∧
    (x =
      { tile := i.tile, bg := false, part := (fgOf u i.tile).part, ctr := fld i.w 4 0, acks := 0, tag := (newTag u).1, banks := hMask (opHi u i) }) :=
  ⟨⟨0, 0x0000010000000000#64, 0, 0⟩, grnTest 3, _, _, _, rfl, by decide, by decide, by decide, by decide, by decide, by decide, rfl, rfl⟩

theorem witness_hint : ∃ (i : Issue) (s u : State), (u = countEffect s i.tile) ∧
    (freshRun s i.tile) ∧
    (slotIssues s i grqMask) ∧
    (edgeGives s i.tile = true) ∧
    ((parseGrn 4 (descOf u i i.doff 32)).bad = false) :=
  ⟨⟨0, 0#64, 0, 0⟩, grnTest 4, _, rfl, by decide⟩

theorem witness_storeComplete : ∃ (t k : Nat) (s : State) (x : GStore), (s.grn.stores.find? (fun x => x.tile == t && x.ctr == k && x.acks == 0 && x.resp.isNone && !s.grn.reqs.any (fun r
      => r.op == 3 && r.tag == x.tag)) = some x) :=
  ⟨0, 1, { grn := { stores := [⟨0, false, 0, 1, 0, 0, none, 0, 1⟩] } }, ⟨0, false, 0, 1, 0, 0, none, 0, 1⟩, by decide⟩

theorem witness_map : ∃ (d n f ea w : Nat) (s u : State), (takesWrites s (pgGrn d)) ∧
    (d < 2) ∧
    (n < 4) ∧
    (u = mapCmd s d n 1 false) ∧
    (rawBad u d n (mapAddr u d) = false) ∧
    (rawEntry u d n (mapAddr u d) = some (ea, w)) ∧
    (bit w 63 = false) ∧
    ((peHomeDev w ≠ myDev u ∨ (quotaRoom u (peOwner w) n = true ∧ frameFree u (peOwner w) f = true))) :=
  ⟨0, 0, 2, 64, 0, mapState 0, _, by decide, by decide, by decide, rfl, by decide⟩

theorem witness_unmap : ∃ (d n ea w : Nat) (s : State), (takesWrites s (pgGrn d)) ∧
    (d < 2) ∧
    (n < 4) ∧
    (rawBad s d n (mapAddr s d) = false) ∧
    (rawEntry s d n (mapAddr s d) = some (ea, w)) ∧
    (bit w 63 = true) :=
  ⟨0, 0, 64, page0, mapState page0, by decide⟩

theorem witness_unmapComplete : ∃ (d ea : Nat) (s : State) (x : PendUnmap), (s.grn.unmaps.find? (fun u => u.die == d) = some x) ∧
    (entryAddr s d x.part x.addr = some ea) ∧
    (pageBusy s x.part x.addr ea = false) :=
  ⟨0, 64, { mapState page0 with grn := { unmaps := [⟨0, 0, 0⟩] } }, ⟨0, 0, 0⟩, by decide⟩

theorem witness_grainFlip : ∃ (bs : List Byte) (f : Nat) (s : State) (c : Copy), (nextCopy s = some c) :=
  ⟨[], 2, { mapState page0 with grn := { owner := [(2, 3)], copies := [{ entry := 64, grain := 0, target := 2, part := 0, die := 0, page := 0 }] } }, { entry := 64, grain := 0, target := 2, part := 0, die := 0, page := 0 }, by decide⟩

theorem witness_grnQuotaWrite : ∃ (d n v : Nat) (s : State), (takesWrites s (pgGrn d)) ∧
    (d < 2) ∧
    (n < 4) :=
  ⟨0, 0, 0, readyState, by decide⟩

theorem witness_grainRequest : ∃ (s u v : State) (p : Pkt) (bs : List Byte), (takeEjected s (fun p => p.proto == 7 && !bit p.th 56) = some (p, u)) ∧
    ((NMap.find u.grn.lent (fld p.th 47 0 / 0x200000) = some p.stamp)) ∧
    (seen u p.srcArb p.src p.msgId = .fresh) ∧
    (fld p.th 127 124 = 1) ∧
    (t1Read u (fld p.th 47 0 / 256 * 256) 256 = (some bs, v)) :=
  ⟨{ fab := { ejected := [{ proto := 7, body := leBytes 16 (2 ^ 124) }] }, grn := { lent := [(0, 0)] } }, { grn := { lent := [(0, 0)] } }, _, { proto := 7, body := leBytes 16 (2 ^ 124) }, _, by decide, by decide, by decide, by decide, rfl⟩

theorem witness_grain_write : ∃ (s u v : State) (p : Pkt), (takeEjected s (fun p => p.proto == 7 && !bit p.th 56) = some (p, u)) ∧
    ((NMap.find u.grn.lent (fld p.th 47 0 / 0x200000) = some p.stamp)) ∧
    (seen u p.srcArb p.src p.msgId = .fresh) ∧
    (fld p.th 127 124 = 2) ∧
    (t1Write u (fld p.th 47 0) p.rest = (true, v)) :=
  ⟨{ fab := { ejected := [{ proto := 7, body := leBytes 16 (2 ^ 125) }] }, grn := { lent := [(0, 0)] } }, { grn := { lent := [(0, 0)] } }, _, { proto := 7, body := leBytes 16 (2 ^ 125) }, by decide, by decide, by decide, by decide, rfl⟩

theorem witness_grain_other : ∃ (s u : State) (p : Pkt), (takeEjected s (fun p => p.proto == 7 && !bit p.th 56) = some (p, u)) :=
  ⟨{ fab := { ejected := [{ proto := 7 }] } }, {}, { proto := 7 }, by decide⟩

theorem witness_grainResponse : ∃ (s u v : State) (p : Pkt) (r : Req) (q : T2Req), (takeEjected s (fun p => p.proto == 7 && bit p.th 56) = some (p, u)) ∧
    (u.atom.out.find? (fun r => r.proto == 7 && r.arb == p.srcArb && r.dev == p.src && r.id == p.msgId) = some r) ∧
    ((settle u r).grn.t2.find? (fun q => q.tag == r.reply.group) = some q) ∧
    (v = { settle u r with grn := { (settle u r).grn with t2 := (settle u r).grn.t2.erase q } }) :=
  ⟨{ fab := { ejected := [{ proto := 7, body := leBytes 16 (2 ^ 56) }] }, atom := { out := [{ req0 with proto := 7 }] }, grn := { t2 := [⟨0, 0, 0, 0, 0, 0, 0, 0, 0⟩] } },
    { atom := { out := [{ req0 with proto := 7 }] }, grn := { t2 := [⟨0, 0, 0, 0, 0, 0, 0, 0, 0⟩] } }, _, { proto := 7, body := leBytes 16 (2 ^ 56) }, { req0 with proto := 7 },
    ⟨0, 0, 0, 0, 0, 0, 0, 0, 0⟩, by decide, by decide, by decide, rfl⟩

theorem witness_perBankRefresh : ∃ (c : Nat) (s : State), (c < 128) ∧
    ((getMch s c).disabled = false) :=
  ⟨0, {}, by decide⟩

theorem witness_patrolScrubSlot : ∃ (c : Nat) (s : State), (c < 128) ∧
    ((getMch s c).scrubbing = true) :=
  ⟨0, { mch := [(0, { scrubbing := true })] }, by decide⟩

theorem witness_detModeWrite : ∃ (v : Bool) (s u : State), (takesWrites s pgDev) ∧
    (anyStep s = false) ∧
    (s.sheaf.insts = []) ∧
    (s.pav.insts = []) ∧
    (u = setRegN s (pgDev + 0x100) (b2n v)) :=
  ⟨true, readyState, _, by decide, by decide, rfl, rfl, rfl⟩

theorem witness_detMode_live : ∃ (v : Bool) (s : State), (takesWrites s pgDev) ∧
    ((anyStep s = true ∨ s.sheaf.insts ≠ [] ∨ s.pav.insts ≠ [])) :=
  ⟨true, { readyState with pav := { insts := [{}] } }, by decide⟩

theorem witness_detActiveChange : ∃ (s u : State) (v : Bool) (r : Nat), (s.det.pending = some (v, r)) ∧
    (u = (List.range 128).foldl (fun s c => setMch s c { getMch s c with detSched := v })
      { s with det := { s.det with active := v, pending := none } }) :=
  ⟨{ det := { pending := some (true, 0) } }, _, true, 0, rfl, rfl⟩

theorem witness_digestCfgWrite : ∃ (n v : Nat) (s : State), (takesWrites s pgDev) ∧
    (n < 4) :=
  ⟨0, 0, readyState, by decide⟩

theorem witness_d2dFlitReceive : ∃ (k : Nat) (b : Bool) (bs : List Byte) (s u : State), (k < 3) ∧
    ((getD2d s k).lstate = 2) ∧
    (u = inc64 s (pgD2d k + (if b then 0x40 else 0x48)) 1) :=
  ⟨0, true, [], { d2d := [(0, { lstate := 2 })] }, _, by decide, by decide, rfl⟩

theorem witness_d2dRetrain : ∃ (k : Nat) (s : State), (k < 3) ∧
    ((getD2d s k).lstate = 2) ∧
    (replaysFailed (getD2d s k) = true) :=
  ⟨0, { d2d := [(0, { lstate := 2, failA := 9 })] }, by decide⟩

theorem witness_d2dRetrainDone : ∃ (k : Nat) (b : Bool) (s : State), (k < 3) ∧
    ((getD2d s k).lstate = 3) :=
  ⟨0, true, { d2d := [(0, { lstate := 3 })] }, by decide⟩

theorem witness_partSet : ∃ (req : List Byte) (s u : State) (n : Nat) (p : Part), (mboxTakes s 1 80 [5, 6, 7] req) ∧
    (u = mboxShown s req) ∧
    (mboxPart u req n p [.free, .configured]) ∧
    (recordForm ((req.drop 8).take 72) = true) ∧
    (recordFits u n (recordNew p req) = true) :=
  ⟨mboxReq 1 80 ([0, 0, 0, 0] ++ record0), mboxState .free 0, _, 0, _, by decide, rfl, ⟨by decide, by decide, rfl, by decide⟩, by decide, by decide⟩

theorem witness_partFree : ∃ (req : List Byte) (s u : State) (n : Nat) (p : Part), (mboxTakes s 2 5 [] req) ∧
    (u = mboxShown s req) ∧
    (mboxPart u req n p [.configured]) :=
  ⟨mboxReq 2 5 [], mboxState .configured 0, _, 0, _, by decide, rfl, ⟨by decide, by decide, rfl, by decide⟩⟩

theorem witness_jobOpen : ∃ (req : List Byte) (s u : State) (n : Nat) (p : Part), (mboxTakes s 3 8 [5] req) ∧
    (u = mboxShown s req) ∧
    (mboxPart u req n p [.configured]) ∧
    (rq req 6 7 / 16 ≠ 0) ∧
    (fld (stampEntry u (rq req 6 7 / 16)) 15 14 = 0) :=
  ⟨mboxReq 3 8 [0, 0, 16, 0], mboxState .configured 0, _, 0, _, by decide, rfl, ⟨by decide, by decide, rfl, by decide⟩, by decide, by decide⟩

theorem witness_jobEpoch : ∃ (req : List Byte) (s u : State) (n : Nat) (p : Part), (mboxTakes s 4 6 [] req) ∧
    (u = mboxShown s req) ∧
    (mboxPart u req n p [.opened]) ∧
    (rq req 5 5 < 16) ∧
    (partIdle u n = true) :=
  ⟨mboxReq 4 6 [0, 1], mboxState .opened 16, _, 0, _, by decide, rfl, ⟨by decide, by decide, rfl, by decide⟩, by decide, by decide⟩

theorem witness_partStop : ∃ (req : List Byte) (s u : State) (n : Nat) (p : Part), (mboxTakes s 5 5 [] req) ∧
    (u = mboxShown s req) ∧
    (mboxPart u req n p [.opened]) :=
  ⟨mboxReq 5 5 [], mboxState .opened 16, _, 0, _, by decide, rfl, ⟨by decide, by decide, rfl, by decide⟩⟩

theorem witness_partResume : ∃ (req : List Byte) (s u : State) (n : Nat) (p : Part), (mboxTakes s 6 5 [] req) ∧
    (u = mboxShown s req) ∧
    (mboxPart u req n p [.stopped]) :=
  ⟨mboxReq 6 5 [], mboxState .stopped 16, _, 0, _, by decide, rfl, ⟨by decide, by decide, rfl, by decide⟩⟩

theorem witness_partReset : ∃ (req : List Byte) (s u : State) (n : Nat) (p : Part), (mboxTakes s 7 5 [] req) ∧
    (u = mboxShown s req) ∧
    (mboxPart u req n p [.opened, .stopped, .faulted]) :=
  ⟨mboxReq 7 5 [], mboxState .faulted 16, _, 0, _, by decide, rfl, ⟨by decide, by decide, rfl, by decide⟩⟩

theorem witness_jobClose : ∃ (req : List Byte) (s u : State) (n : Nat) (p : Part), (mboxTakes s 8 5 [] req) ∧
    (u = mboxShown s req) ∧
    (mboxPart u req n p [.opened, .stopped, .faulted]) :=
  ⟨mboxReq 8 5 [], mboxState .opened 16, _, 0, _, by decide, rfl, ⟨by decide, by decide, rfl, by decide⟩⟩

theorem witness_jobRelease : ∃ (req : List Byte) (s u : State) (n : Nat) (p : Part), (mboxTakes s 10 5 [] req) ∧
    (u = mboxShown s req) ∧
    (mboxPart u req n p [.closing]) :=
  ⟨mboxReq 10 5 [], mboxState .closing 16, _, 0, _, by decide, rfl, ⟨by decide, by decide, rfl, by decide⟩⟩

theorem witness_setQuota : ∃ (req : List Byte) (s u : State) (n : Nat) (p : Part), (mboxTakes s 11 24 [5, 6, 7, 22, 23] req) ∧
    (u = mboxShown s req) ∧
    (mboxPart u req n p [.opened, .stopped]) ∧
    (rq req 16 17 ≤ 16384) ∧
    (rq req 18 19 ≠ 0) ∧
    (stagingFits u n (rq req 21 21) = true) :=
  ⟨mboxReq 11 24 ([0, 0, 0, 0] ++ List.replicate 8 0 ++ [0, 0, 1, 0, 0, 1, 0, 0]), mboxState .opened 16, _, 0, _, by decide, rfl, ⟨by decide, by decide, rfl, by decide⟩, by decide, by decide, by decide⟩

theorem witness_mbox_state : ∃ (req : List Byte) (s u : State) (c : Nat × Nat × List Nat × List PartState × Instr), (c ∈ ([(1, 80, [5, 6, 7], [.free, .configured], Instr.partSet req), (2, 5, [], [.configured], .partFree req), (3,
      8, [5], [.configured], .jobOpen req), (4, 6, [], [.opened], .jobEpoch req), (5, 5, [], [.opened], .partStop
      req), (6, 5, [], [.stopped], .partResume req), (7, 5, [], [.opened, .stopped, .faulted], .partReset req), (8, 5,
      [], [.opened, .stopped, .faulted], .jobClose req), (10, 5, [], [.closing], .jobRelease req), (11, 24, [5, 6, 7,
      22, 23], [.opened, .stopped], .setQuota req)] : List (Nat × Nat × List Nat × List PartState × Instr))) ∧
    (mboxTakes s c.1 c.2.1 c.2.2.1 req) ∧
    (u = mboxShown s req) ∧
    (rq req 4 4 < 4) ∧
    (c.2.2.2.1.contains (getPart u (rq req 4 4)).state = false) :=
  ⟨mboxReq 5 5 [], mboxState .free 0, _, (5, 5, [], [.opened], .partStop (mboxReq 5 5 [])), by decide, by decide, rfl, by decide, by decide⟩

theorem witness_quiesce : ∃ (req : List Byte) (s u : State), (mboxTakes s 9 6 [] req) ∧
    (u = mboxShown s req) ∧
    (rq req 4 5 < 4096) :=
  ⟨mboxReq 9 6 [1, 0], mboxState .opened 16, _, by decide, rfl, by decide⟩

theorem witness_setAllot : ∃ (req : List Byte) (s u : State), (mboxTakes s 12 14 [4, 5, 6, 7] req) ∧
    (u = mboxShown s req) :=
  ⟨mboxReq 12 14 [], mboxState .opened 16, _, by decide, rfl⟩

theorem witness_lend : ∃ (req : List Byte) (fs : List Nat) (s u : State) (d k : Nat), (mboxTakes s 0x0D 8 [] req) ∧
    (u = mboxShown s req) ∧
    (d = rq req 4 4) ∧
    (k = min (rq req 5 5) (offerLeft s d)) ∧
    (d < 2) ∧
    (rq req 5 5 ≠ 0) ∧
    (rq req 5 5 ≤ 60) ∧
    (16 ≤ rq req 6 7) ∧
    ((fs.length = k ∧ fs.eraseDups.length = k ∧ fs.all (frameFree s d) = true)) :=
  ⟨mboxReq 0x0D 8 [0, 1, 16, 0], [2], { mboxState .opened 16 with regs := { val := [(0x18148, 1), (0x1814C, 1)] } }, _, 0, 1, by decide, rfl, by decide⟩

theorem witness_lendRelease : ∃ (req : List Byte) (s u : State) (l : List Nat), (mboxTakes s 0x0E (12 + 4 * rq req 5 5) [4, 8, 9, 10, 11] req) ∧
    (u = mboxShown s req) ∧
    (l = (reqFrames req (rq req 5 5)).eraseDups) ∧
    (l.all (fun f => NMap.find u.grn.lent f == some (rq req 6 7)) = true) :=
  ⟨mboxReq 0x0E 16 [0, 1, 16, 0, 0, 0, 0, 0, 2, 0, 0, 0], { mboxState .opened 16 with grn := { lent := [(2, 16)] } }, _, [2], by decide, rfl, by decide, by decide⟩

theorem witness_leaseGrant : ∃ (req : List Byte) (s u : State) (n : Nat) (p : Part), (mboxTakes s 0x0F (12 + 4 * rq req 6 6) [7, 8, 9, 10, 11] req) ∧
    (u = mboxShown s req) ∧
    (mboxPart u req n p [.opened, .stopped]) ∧
    (rq req 5 5 < 64) ∧
    (rq req 5 5 ≠ myDev u) :=
  ⟨mboxReq 0x0F 12 [0, 1], mboxState .opened 16, _, 0, _, by decide, rfl, ⟨by decide, by decide, rfl, by decide⟩, by decide, by decide⟩

theorem witness_leaseRecall : ∃ (req : List Byte) (s u : State) (n : Nat) (p : Part), (mboxTakes s 0x10 (12 + 4 * rq req 6 6) [7, 8, 9, 10, 11] req) ∧
    (u = mboxShown s req) ∧
    (mboxPart u req n p [.opened, .stopped, .closing]) ∧
    ((reqFrames req (rq req 6 6)).all (fun f => !(namedLeases u n (rq req 5 5) [f]).isEmpty) = true) :=
  ⟨mboxReq 0x10 12 [0, 1], mboxState .opened 16, _, 0, _, by decide, rfl, ⟨by decide, by decide, rfl, by decide⟩, by decide⟩

theorem witness_leaseRecallDone : ∃ (s u : State), (s.host.mboxBusy = true) ∧
    ((s.grn.leases.filter (fun l => l.recalled)).all (vacated s) = true) ∧
    (u = setLeases s (s.grn.leases.filter (fun l => !l.recalled))) :=
  ⟨{ host := { mboxBusy := true } }, _, by decide, by decide, rfl⟩

theorem witness_lenderDown : ∃ (req : List Byte) (s u : State), (mboxTakes s 17 6 [4] req) ∧
    (u = mboxShown s req) ∧
    (rq req 5 5 < 64) :=
  ⟨mboxReq 17 6 [0, 1], mboxState .opened 16, _, by decide, rfl, by decide⟩

theorem witness_snapshot : ∃ (req : List Byte) (s u : State), (mboxTakes s 18 16 [4, 5, 6, 7] req) ∧
    (u = mboxShown s req) ∧
    (ready u = true) ∧
    (snapFault u (rq req 8 15) = 0) :=
  ⟨mboxReq 18 16 [0, 0, 0, 0, 0xFF, 0xFF, 0xFF, 0], mboxState .opened 16, _, by decide, rfl, by decide, by decide⟩

theorem witness_readCmap : ∃ (req : List Byte) (s u : State), (mboxTakes s 19 4 [] req) ∧
    (u = mboxShown s req) :=
  ⟨mboxReq 19 4 [], mboxState .opened 16, _, by decide, rfl⟩

theorem witness_readDigest : ∃ (req : List Byte) (s u v : State) (n : Nat) (bs : List Byte), (mboxTakes s 0x14 12 [5, 6, 7] req) ∧
    (u = mboxShown s req) ∧
    (n = rq req 4 4) ∧
    (n < 4) ∧
    (rq req 8 11 < regN u (pgDev + 0x120 + 0x20 * n + 0x14) % 65536) ∧
    (hostRead u n (pairN u (pgDev + 0x120 + 0x20 * n) + 64 * rq req 8 11) 64 = (.data bs, v)) :=
  ⟨mboxReq 0x14 12 [], { mboxState .opened 16 with mem := { t1 := t1Map page0 }, grn := { owner := [(2, 3)] }, regs := { val := [(0x134, 1)] } }, _, _, 0, _, by decide, rfl, by decide, by decide, by decide, rfl⟩

theorem witness_railSample : ∃ (r : List (List (Nat × Nat))) (s u : State), (u = ((List.range 4).zip r).foldl (fun s u => sampleUnit s u.1 u.2) s) :=
  ⟨[[(0, 0)]], readyState, _, rfl⟩

theorem witness_tempSample : ∃ (r : List (List (Bool × Nat))) (s u : State), (u = ((List.range 4).zip r).foldl (fun s u => sampleTemps s u.1 u.2) s) :=
  ⟨[[(true, 0)]], readyState, _, rfl⟩

theorem witness_gateEvaluation : ∃ (s u v : State), (u = controllers s) ∧
    (v = (if u.gate.hold then (if holdOver u then leaveHold u else u) else if holdWanted u then enterHold u else u)) :=
  ⟨readyState, _, _, rfl, rfl⟩

theorem witness_windowEnd : ∃ (s u v w : State), (u = windowCharged s) ∧
    (v = (if regN s (pgGate + 0x108) < s.gate.eUsed / 1000000 then evt (incSat u (pgGate + 0x5C) 1) pgGate 0 else u)) ∧
    (w = (if 320 < v.gate.u then evt v pgGate 5 else v)) :=
  ⟨readyState, _, _, _, rfl, rfl, rfl⟩

theorem witness_allotWrite : ∃ (v : Nat) (s : State), (takesWrites s pgGate) :=
  ⟨0, readyState, by decide⟩

theorem witness_idleTileGate : ∃ (t : Nat) (s : State), (t < 120) ∧
    (regN s (pgGate + 0x104) / 2 % 2 = 1) ∧
    ((getTile s t).powered = true) ∧
    (tileWanted s t = false) ∧
    ((getTile s t).idleSince + 1000 * (regN s (pgGate + 0x134) % 65536) ≤ now s) :=
  ⟨0, { clk := { tb := 0xFFFFFFFFFF }, tiles := [(0, { powered := true })], regs := { val := [(pgGate + 0x104, 2)] } }, by decide⟩

theorem witness_ungateWave : ∃ (n : Nat) (s : State) (st : Step), (waitingHead s n = some st) ∧
    (firstThree s n st = true) :=
  ⟨0, waitState, waitStep, by decide⟩

theorem witness_loadNoticeEnd : ∃ (s : State) (n a : Nat) (st : Step), (oldestWaiting s = some (n, st)) ∧
    (st.notice = some a) ∧
    (a ≤ now s) :=
  ⟨noticeState, 0, 0, { waitStep with notice := some 0 }, by decide⟩

theorem witness_snapAt : ∃ (s : State), (takesWrites s pgLodge) ∧
    (s.boot.state = .ready) ∧
    (s.lodge.snapAt = none) ∧
    (now s + 10000 ≤ pairN s (pgLodge + 0x108)) :=
  ⟨{ readyState with regs := { val := [(pgLodge + 0x10C, 1)] } }, by decide⟩

theorem witness_snap_refused : ∃ (s : State), (takesWrites s pgLodge) ∧
    (s.boot.state = .ready) ∧
    ((s.lodge.snapAt.isSome = true ∨ pairN s (pgLodge + 0x108) < now s + 10000)) :=
  ⟨readyState, by decide⟩

theorem witness_snapNow : ∃ (s : State), (takesWrites s pgLodge) ∧
    (s.boot.state = .ready) :=
  ⟨readyState, by decide⟩

theorem witness_snapCancel : ∃ (s : State), (takesWrites s pgLodge) :=
  ⟨readyState, by decide⟩

theorem witness_snapshotTake : ∃ (s u v : State) (t tag : Nat), (s.lodge.snapAt = some t) ∧
    (t ≤ now s) ∧
    (tag = (regN s (pgLodge + 0x118) + 1) % 2 ^ 24) ∧
    (u = copyCounters s) ∧
    (v = (allPages.filter (snapPage u)).foldl (fun x p => setRegN x (p + 0x2C) (tag + b2n (x.lodge.fresh.contains p)
      * 2 ^ 31)) u) :=
  ⟨{ lodge := { snapAt := some 0 } }, _, _, 0, _, rfl, by decide, rfl, rfl, rfl⟩

theorem witness_evtPendClear : ∃ (page bits : Nat) (s u : State), (takesWrites s (pageOf page)) ∧
    ((blockOf (pageOf page)).1 ≠ 0) ∧
    (u = setRegN s (pageOf page + 0x18) (without (regN s (pageOf page + 0x18)) bits)) :=
  ⟨pgTb, 0, readyState, _, by decide, by decide, rfl⟩

theorem witness_tpeakRead : ∃ (u : Nat) (s : State), (u < 4) :=
  ⟨0, readyState, by decide⟩

theorem witness_irqHoldoffEnd : ∃ (s : State), (s.lodge.holdRise = true) ∧
    (s.lodge.holdUntil ≤ now s) :=
  ⟨{ lodge := { holdRise := true } }, by decide⟩

theorem witness_loReadLatch : ∃ (req addr : Nat) (s : State), (mute s req = false) :=
  ⟨0, pgTb, readyState, by decide⟩

theorem witness_hiWrite : ∃ (req addr v : Nat) (s u : State), (mute s req = false) ∧
    ((if 1 ≤ req ∧ req ≤ 4 then [0x110, 0x118, 0x138].contains addr = true else isHi (blockOf addr).1 addr = true)) ∧
    (writeBy s req addr v = .next u) :=
  ⟨0, pgTb + 0x114, 0, readyState, _, by decide, by decide, rfl⟩

theorem witness_registerWrite : ∃ (req addr v : Nat) (s u : State), (mute s req = false) ∧
    (writeBy s req addr v = .next u) :=
  ⟨0, pgTb, 0, readyState, _, by decide, rfl⟩

theorem witness_write_poisoned : ∃ (req addr v : Nat) (s : State), (mute s req = false) ∧
    (req ≤ 4) :=
  ⟨0, pgTb, 0, readyState, by decide⟩

theorem witness_softReset : ∃ (req page : Nat) (s : State), ((req = 0 ∨ 4 < req)) ∧
    (takesWrites s (pageOf page)) :=
  ⟨0, pgTb, readyState, by decide⟩

theorem witness_vf_soft_reset : ∃ (req page : Nat) (s : State), (1 ≤ req) ∧
    (req ≤ 4) ∧
    (fnDecodes s req = true) :=
  ⟨1, 0, vfState, by decide⟩

theorem witness_arm : ∃ (i : Issue) (s u : State) (r : Nat), (slotIssues s i (syncMask 0x00FE0000)) ∧
    (freshSync s i.tile) ∧
    (u = syncCounted s i.tile) ∧
    (r = armRec u i) ∧
    (i.dline < 9216) ∧
    (armFields r) ∧
    (armRoles u i r) ∧
    (armBuffers u i r) :=
  ⟨⟨0, 0#64, 0, 0⟩, armState, _, _, by decide, by decide, rfl, rfl, by decide, by decide, by decide, by decide⟩

theorem witness_wait : ∃ (i : Issue) (s : State), (slotIssues s i (syncMask 0x00F80000)) ∧
    ((getCtr (fgOf s i.tile) i.ctr).armed = true) :=
  ⟨⟨0, 0#64, 0x3FFF, 0⟩, unmetState, by decide⟩

theorem witness_waiti : ∃ (i : Issue) (s : State), (slotIssues s i (syncMask 0x00FF0000)) ∧
    ((getCtr (fgOf s i.tile) i.ctr).armed = true) :=
  ⟨⟨0, 0#64, 0x3FFF, 0⟩, unmetState, by decide⟩

theorem witness_waitRelease : ∃ (t : Nat) (s : State), (waitOver s t = true) :=
  ⟨0, heldState, by decide⟩

theorem witness_rel : ∃ (i : Issue) (s u : State) (k : Ctr), (slotIssues s i (syncMask 0x00F80000)) ∧
    (freshSync s i.tile) ∧
    (u = syncCounted s i.tile) ∧
    (k = getCtr (fgOf u i.tile) i.ctr) ∧
    (k.armed = true) ∧
    (k.handleB ≠ 0) ∧
    (k.released < k.value) :=
  ⟨⟨0, 0#64, 0x3FFF, 0⟩, ringState, _, _, by decide, by decide, rfl, rfl, by decide, by decide, by decide⟩

theorem witness_fence : ∃ (i : Issue) (s : State), (slotIssues s i (syncMask 0x00F80000)) :=
  ⟨⟨0, 0#64, 0x3FFF, 0⟩, vecState, by decide⟩

theorem witness_wait_unarmed : ∃ (i : Issue) (s : State), (slotIssues s i (syncMask 0x00F80000)) ∧
    ((getCtr (fgOf s i.tile) i.ctr).armed = false) :=
  ⟨⟨0, 0#64, 0x3FFF, 0⟩, vecState, by decide⟩

theorem witness_waiti_unarmed : ∃ (i : Issue) (s : State), (slotIssues s i (syncMask 0x00FF0000)) ∧
    ((getCtr (fgOf s i.tile) i.ctr).armed = false) :=
  ⟨⟨0, 0#64, 0x3FFF, 0⟩, vecState, by decide⟩

theorem witness_setlc : ∃ (i : Issue) (s : State), (slotIssues s i (syncMask 0x00FFFFFF)) ∧
    (bit i.w 20 = false) :=
  ⟨⟨0, 0#64, 0x3FFF, 0⟩, vecState, by decide⟩

theorem witness_setlc_buffer : ∃ (i : Issue) (s : State) (h : Nat), (slotIssues s i (syncMask 0x00FFFFFF)) ∧
    (bit i.w 20 = true) ∧
    (fld i.w 19 8 = 0) ∧
    (h = resolve (fgOf s i.tile) (fld i.w 7 0)) ∧
    (bufOk s i h 0 4 = true) :=
  ⟨⟨0, 0x100001#64, 0x3FFF, 0⟩, vecState, _, by decide, by decide, by decide, rfl, by decide⟩

theorem witness_loop : ∃ (i : Issue) (s : State) (n : Nat), (slotIssues s i (syncMask 0x00FFF000)) ∧
    (n = fld i.w 20 12 + 1) ∧
    (loopGood s (fgOf s i.tile) (fld i.w 23 21) n) :=
  ⟨⟨0, 0#64, 0x3FFF, 0⟩, seqState, _, by decide, rfl, by decide⟩

theorem witness_jump : ∃ (i : Issue) (s : State), (slotIssues s i (syncMask 0x00007FFF)) ∧
    (targetGood s i.tile (fld i.w 14 0)) :=
  ⟨⟨0, 0#64, 0x3FFF, 0⟩, seqState, by decide⟩

theorem witness_jnz : ∃ (i : Issue) (s : State), (slotIssues s i (syncMask 0x00E07FFF)) ∧
    (lcSettled s (fgOf s i.tile) (fld i.w 23 21) = true) ∧
    (targetGood s i.tile (fld i.w 14 0)) :=
  ⟨⟨0, 0#64, 0x3FFF, 0⟩, seqState, by decide⟩

theorem witness_commit : ∃ (i : Issue) (s : State), (slotIssues s i (syncMask 0x0000FFFF)) ∧
    ((fgOf s i.tile).lastLayer.any (fun p => decide (fld i.w 15 0 ≤ p)) = false) :=
  ⟨⟨0, 0#64, 0x3FFF, 0⟩, vecState, by decide⟩

theorem witness_commitComplete : ∃ (t l : Nat) (s u : State) (st : Step), ((fgOf s t).committing = some l) ∧
    (stepOf s t = some st) ∧
    (commitMay s t st) ∧
    (u = layerCommitted s t l st) :=
  ⟨0, 0, runState (fun c => { c with committing := some 0 }), _, { num := 0, phase := .running, tiles := 1 }, by decide, by decide, by decide, rfl⟩

theorem witness_endStep : ∃ (i : Issue) (s : State), (slotIssues s i (syncMask 0)) :=
  ⟨⟨0, 0#64, 0x3FFF, 0⟩, vecState, by decide⟩

theorem witness_stepCommit : ∃ (n : Nat) (s u : State) (st : Step) (r : List Step), ((getPart s n).steps = st :: r) ∧
    (commitReady s n st = true) ∧
    (u = takeQuotas (eptSwap (writeBackPart (stepLeft s n st r) n) n st.num) n) :=
  ⟨0, runState (fun c => { c with ended := true }), _, { num := 0, phase := .running, tiles := 1 }, [], rfl, by decide, rfl⟩

theorem witness_t0FillComplete : ∃ (n : Nat) (s u : State) (st : Step) (q : TileProg) (f : T0Fill) (d : List Byte), (nextFill s n = some (st, q, f)) ∧
    (t0Data s n f = (.data d, u)) :=
  ⟨0, fillState, _, _, _, _, _, rfl, rfl⟩

theorem witness_stepAdmit : ∃ (n : Nat) (s u v w : State) (st : Step) (r : List Step), ((getPart s n).steps = st :: r) ∧
    (st.phase = .queued) ∧
    ((getPart s n).state = .opened) ∧
    (u = st.streams.foldl (fun s e => noteRange s 0 n e.1 e.2) s) ∧
    (firstThree u n st = true) ∧
    (st.energyOk = true) ∧
    (st.progs.all (fun q => (targetRole u n q).isSome) = true) ∧
    (progsReady u n st = (none, v)) ∧
    (w = registerStep (planMigrate (dropT2 (st.progs.foldl (fun s q => loadProg s n st q ((targetRole s n q).getD
      false)) v) 0 n (st.progs.flatMap (progPieces st))) n st) n st) :=
  ⟨0, queuedState, _, _, _, _, [], rfl, by decide, by decide, rfl, by decide, by decide, by decide, rfl, rfl⟩

theorem witness_step_waits : ∃ (n : Nat) (s u : State) (st : Step) (r : List Step), ((getPart s n).steps = st :: r) ∧
    (st.phase = .queued) ∧
    ((getPart s n).state = .opened) ∧
    (u = st.streams.foldl (fun s e => noteRange s 0 n e.1 e.2) s) ∧
    ((streamStates u n st).all (fun r => r == .data [] || !noWait r) = true) ∧
    ((firstThree u n st = false ∨ st.energyOk = false ∨ st.progs.all (fun q => (targetRole u n q).isSome) = false)) :=
  ⟨0, unfilledState, _, _, [], rfl, by decide, by decide, rfl, by decide, by decide⟩

theorem witness_stepStart : ∃ (n a : Nat) (s u : State) (st : Step), ((getPart s n).steps.head? = some st) ∧
    (st.startAt = some a) ∧
    (st.phase = .admitted) ∧
    (a ≤ s.clk.aclk) ∧
    ((getPart s n).stop = .none) ∧
    (inForeground s n st = true) ∧
    (u = st.progs.foldl (fun s q => tileStarted s q.tile) s) :=
  ⟨0, 0, admittedState, _, _, rfl, rfl, by decide, by decide, by decide, by decide, rfl⟩

theorem witness_quantumExpiry : ∃ (t : Nat) (s : State), ((fgOf s t).live = true) ∧
    (now s ≥ (getTile s t).fgSince + 1000000 * max 1 (getPart s (fgOf s t).part).quantum) :=
  ⟨0, { vecState with clk := { tb := 1000000 } }, by decide⟩

theorem witness_contextSaveComplete : ∃ (t m n : Nat) (s u v : State) (r o : JobRes), ((getTile s t).switchTo = some m) ∧
    (pendingCause s t = none) ∧
    (n = (fgOf s t).part) ∧
    (incoming s t m = (r, u)) ∧
    (noWait r = true) ∧
    (jobPut u (t / 60) n (areaAddr u t n) (saveArea u t) = (o, v)) :=
  ⟨0, 1, 0, switchState, switchState, (jobPut switchState (0 / 60) 0 (areaAddr switchState 0 0) (saveArea switchState 0)).2, .data [],
    (jobPut switchState (0 / 60) 0 (areaAddr switchState 0 0) (saveArea switchState 0)).1, rfl, by decide, rfl, rfl, by decide,
    (Prod.mk.eta (p := jobPut switchState (0 / 60) 0 (areaAddr switchState 0 0) (saveArea switchState 0))).symm⟩

theorem witness_save_waits : ∃ (t m : Nat) (s u : State) (ea g : Nat), ((getTile s t).switchTo = some m) ∧
    (pendingCause s t = none) ∧
    (incoming s t m = (.wait ea g, u)) :=
  ⟨0, 1, switchWait, (incoming switchWait 0 1).2, 64, 0, by decide, by decide, Prod.ext (by decide) rfl⟩

theorem witness_stopTakeEffect : ∃ (n : Nat) (s u : State), ((getPart s n).stop = .requested) ∧
    (poisonBusy (getPart s n) = false) ∧
    (u = soilSteps (mapHead (setPart s n
      { getPart s n with stop := .stopping, stopAt := frameAfter s.clk.aclk, resumeReq := none }) n (fun st => if
      stepActive (getPart s n) then { st with stops := st.stops + 1 } else st))) :=
  ⟨0, runPart { state := .opened, stop := .requested }, _, by decide, by decide, rfl⟩

theorem witness_stopComplete : ∃ (n : Nat) (s u : State), ((getPart s n).stop = .stopping) ∧
    ((getPart s n).stopAt ≤ s.clk.aclk) ∧
    ((stopTiles s n).all (fun t => tileHalted (getTile s t) (getPart s n).stopAt s.clk.aclk) = true) ∧
    (u = (stopTiles s n).foldl (stopTile (getPart s n).stopAt) s) :=
  ⟨0, runPart { state := .opened, stop := .stopping }, _, by decide, by decide, by decide, rfl⟩

theorem witness_resumeTakeEffect : ∃ (n : Nat) (s : State), ((getPart s n).stop = .stopped) ∧
    ((getPart s n).resumeReq.isSome = true) ∧
    (stopWanted (getPart s n) = false) ∧
    (resumeAt (getPart s n) ≤ s.clk.aclk) ∧
    (s.clk.aclk % 64 = 0) :=
  ⟨0, { runPart { state := .opened, stop := .stopped, resumeReq := some 0 } with clk := { aclk := 704 } }, by decide⟩

theorem witness_stationaryRefetchDone : ∃ (t n : Nat) (data : List Byte) (s u : State), ((getTile s t).refetch ≠ []) ∧
    (n = (fgOf s t).part) ∧
    (u = refetchEnded (linesRefetched s t data) t (getTile s t).huskWait) :=
  ⟨0, 0, [], { tiles := [(0, { powered := true, refetch := [0] })] }, _, by decide, rfl, rfl⟩

theorem witness_freezeSet : ∃ (t n : Nat) (s u : State), (takesWrites s (pgTile t)) ∧
    (t < 120) ∧
    ((fgOf s t).live = true) ∧
    (n = (fgOf s t).part) ∧
    (u = freezeShown s t true) :=
  ⟨0, 0, freezeState, _, by decide, by decide, by decide, rfl, rfl⟩

theorem witness_freezeClear : ∃ (t n : Nat) (s u : State), (takesWrites s (pgTile t)) ∧
    (t < 120) ∧
    (n = (fgOf s t).part) ∧
    (u = freezeShown s t false) :=
  ⟨0, 0, freezeState, _, by decide, by decide, rfl, rfl⟩

theorem witness_poisonHalt : ∃ (n : Nat) (bad : List (Nat × Nat)) (s u v : State) (st : Step), ((getPart s n).steps.head? = some st) ∧
    (st.phase = .halting) ∧
    (poisonHaltAt st ≤ s.clk.aclk) ∧
    (st.layerReplays < 3) ∧
    (u = recordsDropped (settleHolds s n) n bad (headStep (settleHolds s n) n st).layersDone) ∧
    (v = (fgTiles u n).foldl (tileHaltedForReplay (headStep (settleHolds s n) n st).layersDone) u) :=
  ⟨0, [], haltState 0, _, _, _, rfl, by decide, by decide, by decide, rfl, rfl⟩

theorem witness_fourth_poison : ∃ (n : Nat) (bad : List (Nat × Nat)) (s : State) (st : Step), ((getPart s n).steps.head? = some st) ∧
    (st.phase = .halting) ∧
    (poisonHaltAt st ≤ s.clk.aclk) ∧
    (3 ≤ st.layerReplays) :=
  ⟨0, [], haltState 3, _, rfl, by decide, by decide, by decide⟩

theorem witness_redeliveryComplete : ∃ (n : Nat) (s u : State) (st : Step), ((getPart s n).steps.head? = some st) ∧
    (st.phase = .replayWait) ∧
    (st.redelivered = false) ∧
    (u = st.damaged.foldl (fun s d => (unitsAt s d.1 d.2 st.layersDone).foldl writeUnit (reloadProgram s n st d.1
      d.2)) s) :=
  ⟨0, replayState, _, _, rfl, by decide, by decide, rfl⟩

theorem witness_replayAdmit : ∃ (n : Nat) (s u : State) (st : Step), ((getPart s n).steps.head? = some st) ∧
    (st.phase = .replayWait) ∧
    (st.redelivered = true) ∧
    (firstThree s n st = true) ∧
    (replayEnergy s n st = true) ∧
    (u = replayWaited s n (s.clk.aclk - st.poisonAclk)) :=
  ⟨0, redoState, _, _, rfl, by decide, by decide, by decide, by decide, rfl⟩

theorem witness_replayRestart : ∃ (n a : Nat) (s u : State) (st : Step), ((getPart s n).steps.head? = some st) ∧
    (st.startAt = some a) ∧
    (st.phase = .restarting) ∧
    (a ≤ s.clk.aclk) ∧
    (u = (fgTiles s n).foldl (tileRestarted st.layersDone) s) :=
  ⟨0, 0, againState, _, _, rfl, rfl, by decide, by decide, rfl⟩

theorem witness_topk : ∃ (i : Issue) (s u : State), (thrTaken 1 s i) ∧
    (u = countEffect s i.tile) :=
  ⟨⟨0, 0x0000010200000000#64, 0, 0⟩, callTest 1, _, by decide, rfl⟩

theorem witness_gtopk : ∃ (i : Issue) (s u : State), (thrTaken 2 s i) ∧
    (u = countEffect s i.tile) :=
  ⟨⟨0, 0x0000010200000000#64, 0, 0⟩, callTest 2, _, by decide, rfl⟩

theorem witness_kvsort : ∃ (i : Issue) (s : State), (thrTaken 3 s i) :=
  ⟨⟨0, 0x0000010200000000#64, 0, 0⟩, callTest 3, by decide⟩

theorem witness_sOpen : ∃ (i : Issue) (s u : State), (thrTaken 4 s i) ∧
    (u = countEffect s i.tile) :=
  ⟨⟨0, 0x0000010200000000#64, 0, 0⟩, callTest 4, _, by decide, rfl⟩

theorem witness_sPush : ∃ (i : Issue) (s u : State), (thrTaken 5 s i) ∧
    (u = countEffect s i.tile) :=
  ⟨⟨0, 0x0000010200000000#64, 0, 0⟩, callTest 5, _, by decide, rfl⟩

theorem witness_sFlush : ∃ (i : Issue) (s u : State), (thrTaken 6 s i) ∧
    (u = countEffect s i.tile) :=
  ⟨⟨0, 0x0000010200000000#64, 0, 0⟩, callTest 6, _, by decide, rfl⟩

theorem witness_sClose : ∃ (i : Issue) (s u : State), (thrTaken 7 s i) ∧
    (u = countEffect s i.tile) :=
  ⟨⟨0, 0x0000010200000000#64, 0, 0⟩, callTest 7, _, by decide, rfl⟩

theorem witness_biasLoad : ∃ (i : Issue) (s u : State), (thrTaken 8 s i) ∧
    (u = countEffect s i.tile) :=
  ⟨⟨0, 0x0000010200000000#64, 0, 0⟩, callTest 8, _, by decide, rfl⟩

theorem witness_thrIngressChunk : ∃ (t tag pos idx par : Nat) (data : List Byte) (s v : State) (c : ThrCall), (slotFree s t) ∧
    (v = slotMarked s (thrUnit t)) ∧
    ((unitCalls v (thrUnit t)).find? (fun c => c.tag == tag && c.op ≤ 2) = some c) ∧
    (chunkNext v (thrUnit t) c pos idx) ∧
    (par ≠ 1) ∧
    ((par ≠ 2 ∨ c.biasEn = false)) :=
  ⟨0, 0, 0, 0, 0, [], chunkState, _, thrCall0 1, by decide, rfl, by decide, by decide, by decide, by decide⟩

theorem witness_chunk_parity : ∃ (t tag pos idx par : Nat) (data : List Byte) (s v : State) (c : ThrCall), (slotFree s t) ∧
    (v = slotMarked s (thrUnit t)) ∧
    ((unitCalls v (thrUnit t)).find? (fun c => c.tag == tag && c.op ≤ 2) = some c) ∧
    (chunkNext v (thrUnit t) c pos idx) ∧
    (par = 1) :=
  ⟨0, 0, 0, 0, 1, [], chunkState, _, thrCall0 1, by decide, rfl, by decide, by decide, rfl⟩

theorem witness_chunk_unowned : ∃ (t tag pos idx par : Nat) (data : List Byte) (s v : State), (t < 120) ∧
    ((slotTile s.thr.ingress (thrUnit t) s.clk.aclk ≠ t % 15 ∨ s.thr.slotUsed.contains (thrUnit t) = true)) ∧
    (v = slotMarked s (thrUnit t)) :=
  ⟨0, 0, 0, 0, 0, [], readyState, _, by decide, by decide, rfl⟩

theorem witness_chunk_order : ∃ (t tag pos idx par : Nat) (data : List Byte) (s v : State) (c : ThrCall), (slotFree s t) ∧
    (v = slotMarked s (thrUnit t)) ∧
    ((unitCalls v (thrUnit t)).find? (fun c => c.tag == tag && c.op ≤ 2) = some c) ∧
    ((c.n ≤ pos ∨ c.done.contains pos = true ∨ idx ≠ (tokAt c pos).next)) :=
  ⟨0, 0, 1, 0, 0, [], chunkState, _, thrCall0 1, by decide, rfl, by decide, by decide⟩

theorem witness_thrReturnTransfer : ∃ (u tag : Nat) (b : Bool) (s v : State) (c : ThrCall), ((unitCalls s u).find? (fun c => c.tag == tag && !c.ret.isEmpty) = some c) ∧
    (returnMay s u c) ∧
    ((b = false ∨ c.op ≠ 3)) ∧
    (v = bytesReturned s u c) :=
  ⟨0, 0, false, returnState, _, { thrCall0 3 with ret := [0] }, by decide, by decide, by decide, rfl⟩

theorem witness_return_parity : ∃ (u tag : Nat) (s : State) (c : ThrCall), ((unitCalls s u).find? (fun c => c.tag == tag && !c.ret.isEmpty) = some c) ∧
    (returnMay s u c) ∧
    (c.op = 3) :=
  ⟨0, 0, returnState, { thrCall0 3 with ret := [0] }, by decide⟩

theorem witness_decisionEgress : ∃ (u : Nat) (s v : State) (o : ThrOut) (c : ThrCall), (s.thr.outs.find? (fun o => o.unit == u) = some o) ∧
    (o.at' ≤ s.clk.aclk) ∧
    (v = egressed s o) ∧
    (v.thr.calls.find? (fun c => c.unit == u && c.tag == o.tag && c.op ≤ 2) = some c) :=
  ⟨0, egressState, _, ⟨0, 0, 0, 0, 0, [1], true⟩, thrCall0 1, rfl, by decide, rfl, by decide⟩

theorem witness_egress_alone : ∃ (u : Nat) (s v : State) (o : ThrOut), (s.thr.outs.find? (fun o => o.unit == u) = some o) ∧
    (o.at' ≤ s.clk.aclk) ∧
    (v = egressed s o) ∧
    (v.thr.calls.find? (fun c => c.unit == u && c.tag == o.tag && c.op ≤ 2) = none) :=
  ⟨0, { egressState with thr := { egressState.thr with calls := [] } }, _, ⟨0, 0, 0, 0, 0, [1], true⟩, rfl, by decide, rfl, by decide⟩

theorem witness_countA : ∃ (s u : State) (p : Pkt) (i : ShInst) (q : ShPeer), (ctlTaken s (ctlOf 1) (fun _ => false) p u i q) :=
  ⟨shGot 1, _, shPkt 1, _, _, rfl, by decide, rfl, by decide, rfl, by decide⟩

theorem witness_countB : ∃ (s u : State) (p : Pkt) (i : ShInst) (q : ShPeer), (ctlTaken s (ctlOf 2) (fun _ => false) p u i q) :=
  ⟨shGot 2, _, shPkt 2, _, _, rfl, by decide, rfl, by decide, rfl, by decide⟩

theorem witness_grantA : ∃ (s u : State) (p : Pkt) (i : ShInst) (q : ShPeer), (ctlTaken s (ctlOf 3) grantBad p u i q) :=
  ⟨shGot 3, _, shPkt 3, _, _, rfl, by decide, rfl, by decide, rfl, by decide⟩

theorem witness_grantB : ∃ (s u : State) (p : Pkt) (i : ShInst) (q : ShPeer), (ctlTaken s (ctlOf 4) grantBad p u i q) :=
  ⟨shGot 4, _, shPkt 4, _, _, rfl, by decide, rfl, by decide, rfl, by decide⟩

theorem witness_sheafAbort : ∃ (s u : State) (p : Pkt) (i : ShInst) (q : ShPeer), (ctlTaken s (fun p => (p.proto == 1 || p.proto == 2) && shKind p == 7) abortBad p u i q) :=
  ⟨shGot 7, _, shPkt 7, _, _, rfl, by decide, rfl, by decide, rfl, by decide⟩

theorem witness_countA_alone : ∃ (s u : State) (p : Pkt), (ctlAlone s (ctlOf 1) (fun _ => false) p u) :=
  ⟨shAlone 1, _, shPkt 1, rfl, by decide, by decide⟩

theorem witness_countB_alone : ∃ (s u : State) (p : Pkt), (ctlAlone s (ctlOf 2) (fun _ => false) p u) :=
  ⟨shAlone 2, _, shPkt 2, rfl, by decide, by decide⟩

theorem witness_grantA_alone : ∃ (s u : State) (p : Pkt), (ctlAlone s (ctlOf 3) grantBad p u) :=
  ⟨shAlone 3, _, shPkt 3, rfl, by decide, by decide⟩

theorem witness_grantB_alone : ∃ (s u : State) (p : Pkt), (ctlAlone s (ctlOf 4) grantBad p u) :=
  ⟨shAlone 4, _, shPkt 4, rfl, by decide, by decide⟩

theorem witness_sheafAbort_alone : ∃ (s u : State) (p : Pkt), (ctlAlone s (fun p => (p.proto == 1 || p.proto == 2) && shKind p == 7) abortBad p u) :=
  ⟨shAlone 7, _, shPkt 7, rfl, by decide, by decide⟩

theorem witness_heldPayloadTimeout : ∃ (s : State) (h : HeldPkt), (s.sheaf.held.find? (fun h => now s ≥ h.since + collTimeout s) = some h) :=
  ⟨{ clk := { tb := 0xFFFFFFFFFFFF }, sheaf := { held := [⟨{}, 0⟩] } }, _, rfl⟩

theorem witness_countCoalesceExpiry : ∃ (s : State) (i : ShInst) (c : Nat × Nat × List (Nat × Nat × Nat)) (r : ShInst × State), (s.sheaf.insts.find? (fun i => i.coalesce.any (fun c => decide (s.clk.aclk ≥ c.2.1 + 8))) = some i) ∧
    (i.coalesce.find? (fun c => decide (s.clk.aclk ≥ c.2.1 + 8)) = some c) ∧
    (r = shRecs s { i with coalesce := i.coalesce.erase c } (myArb s) c.1 1 false (c.2.2.map countRec)) :=
  ⟨{ clk := { aclk := 8 }, sheaf := { insts := [{ coalesce := [(0, 0, [])] }] } }, _, _, _, rfl, rfl, rfl⟩

theorem witness_contextFetchComplete : ∃ (s : State) (f : CtxFetch), (s.sheaf.fetches.find? (fun f => (f.since.map (fun a => decide (a + 340 ≤ s.clk.aclk))).getD false) = some f) :=
  ⟨{ clk := { aclk := 340 }, sheaf := { fetches := [⟨⟨0, 0, 0, false, 0, 0, 0, 0⟩, .none, some 0⟩] } }, _, rfl⟩

theorem witness_dispatch : ∃ (i : Issue) (s u : State) (n : ShInst), (slotIssues s i 0xFF8000FF0000001F) ∧
    (freshRun s i.tile) ∧
    (u = countEffect s i.tile) ∧
    (parseDispatch u (fgOf u i.tile).part (fgOf u i.tile).step (shDesc u i) = some n) ∧
    (dispatchMay u i n) ∧
    (shFind u n.comm n.seq = none) ∧
    ((dispatchesOf u (fgOf u i.tile).part).length < 4) ∧
    ((dispatchesOf u (fgOf u i.tile).part).any (fun x => x.accepting) = false) :=
  ⟨⟨0, 0x0000000100000000#64, 0, 0⟩, dispState [], _, _, by decide, by decide, rfl, rfl, by decide, by decide, by decide, by decide⟩

theorem witness_dispatch_join : ∃ (i : Issue) (s u : State) (n x : ShInst), (slotIssues s i 0xFF8000FF0000001F) ∧
    (freshRun s i.tile) ∧
    (u = countEffect s i.tile) ∧
    (parseDispatch u (fgOf u i.tile).part (fgOf u i.tile).step (shDesc u i) = some n) ∧
    (dispatchMay u i n) ∧
    (shFind u n.comm n.seq = some x) ∧
    (x.kind = 0) ∧
    (x.part = (fgOf u i.tile).part) ∧
    (x.tiles.any (fun y => y.tile == i.tile) = false) :=
  ⟨⟨0, 0x0000000100000000#64, 0, 0⟩, dispState [{ comm := 0, seq := 0 }], _, _, _, by decide, by decide, rfl, rfl, by decide, rfl, by decide, by decide, by decide⟩

theorem witness_dsend : ∃ (i : Issue) (s u : State) (cq : Nat × Nat) (x : ShInst) (rows : List (Nat × List Byte)), (slotIssues s i 0xFF00FFFFFFFFFF00) ∧
    (freshRun s i.tile) ∧
    (edgeGives s i.tile = true) ∧
    (u = countEffect s i.tile) ∧
    ((fgOf u i.tile).dispatch = some cq) ∧
    (shFind u cq.1 cq.2 = some x) ∧
    (bufOk u i (opHi u i) 0 (dsendBytes u i) = true) ∧
    (badByte u i.tile (opHi u i) 0 (dsendBytes u i) = none) ∧
    (dsendRows u i.tile (opHi u i) (fld i.w 39 24) (fld i.w 23 8) x.tokenFmt x.width = some rows) :=
  ⟨⟨0, 0x0000020000000100#64, 0x3FFF, 0⟩, dsendState, _, (0, 0), _, _, by decide, by decide, by decide, rfl, rfl, rfl, by decide, by decide, rfl⟩

theorem witness_decisionDrain : ∃ (die par : Nat) (s v : State) (e : Egr) (i : ShInst), (s.thr.egress.find? (fun e => e.die == die) = some e) ∧
    (v = { s with thr := { s.thr with egress := s.thr.egress.erase e } }) ∧
    (v.sheaf.insts.find? (fun i => i.kind == 0 && i.part == e.part && i.accepting) = some i) ∧
    (par ≠ 1) ∧
    ((par ≠ 2 ∨ i.kUse ≤ fld e.record 83 80)) :=
  ⟨0, 0, drainState [{ accepting := true }], _, _, _, rfl, rfl, rfl, by decide, by decide⟩

theorem witness_drain_parity : ∃ (die : Nat) (s : State) (e : Egr), (s.thr.egress.find? (fun e => e.die == die) = some e) :=
  ⟨0, drainState [], _, rfl⟩

theorem witness_drain_stray : ∃ (die par : Nat) (s v : State) (e : Egr), (s.thr.egress.find? (fun e => e.die == die) = some e) ∧
    (v = { s with thr := { s.thr with egress := s.thr.egress.erase e } }) ∧
    (v.sheaf.insts.find? (fun i => i.kind == 0 && i.part == e.part && i.accepting) = none) ∧
    (par ≠ 1) :=
  ⟨0, 0, drainState [], _, _, rfl, rfl, rfl, by decide⟩

theorem witness_dispatchInstanceComplete : ∃ (s : State) (i : ShInst), (s.sheaf.insts.find? (dispatchDone s) = some i) :=
  ⟨{ sheaf := { insts := [{ closed := true, roundADone := true, roundBDone := true }] } }, _, rfl⟩

theorem witness_dataSend : ∃ (s : State) (i : ShInst) (p : Pair) (t : Staged), ((sendReady s).find? (fun i => (headPairs i).any (sendable s i)) = some i) ∧
    ((headPairs i).find? (sendable s i) = some p) ∧
    (stagedOf i p.token = some t) :=
  ⟨pairState, _, _, _, rfl, rfl, rfl⟩

theorem witness_data_waits : ∃ (b : Bool) (s : State), ((sendReady s).find? (fun i => (headPairs i).any (sendable s i)) = none) :=
  ⟨true, {}, by decide⟩

theorem witness_dataSegment : ∃ (s u v : State) (p : Pkt) (i : ShInst) (segs : List (Nat × List Byte)), (segsTaken s 5 p u i segs) ∧
    (v = inc64 u (pgShf + 0x58) p.body.length) :=
  ⟨shGot 5, _, _, shPkt 5, _, [], ⟨rfl, by decide, by decide, by decide, by decide, rfl, by decide, by decide⟩, rfl⟩

theorem witness_returnSegment : ∃ (s u v : State) (p : Pkt) (i : ShInst) (segs : List (Nat × List Byte)), (shFull s = false) ∧
    (returnNeeds s = none) ∧
    (segsTaken s 6 p u i segs) ∧
    (v = inc64 u (pgShf + 0x58) p.body.length) :=
  ⟨shGot 6, _, _, shPkt 6, _, [], by decide, by decide, ⟨rfl, by decide, by decide, by decide, by decide, rfl, by decide, by decide⟩, rfl⟩

theorem witness_return_spilled : ∃ (s : State) (g : SpillGroup), (shFull s = false) ∧
    (returnNeeds s = some g) :=
  ⟨spillState, _, by decide, rfl⟩

theorem witness_return_parity_sheaf : ∃ (s : State) (p : Pkt) (i : ShInst), (shFull s = false) ∧
    (s.fab.ejected.find? (ctlOf 6) = some p) ∧
    (shFind s (shName p).1 (shName p).2 = some i) :=
  ⟨shGot 6, _, _, by decide, rfl, rfl⟩

theorem witness_ret : ∃ (i : Issue) (s u v : State) (x : ShInst) (h : Hosted), (slotIssues s i 0xFF00FFFFFF000000) ∧
    (freshRun s i.tile) ∧
    (edgeGives s i.tile = true) ∧
    (u = countEffect s i.tile) ∧
    ((returnCands u i).find? (fun e => !e.2.returned) = some (x, h)) ∧
    (bufOk u i (opHi u i) 0 (h.used * hRow (opHi u i) * 64) = true) ∧
    (badByte u i.tile (opHi u i) 0 (h.used * hRow (opHi u i) * 64) = none) ∧
    (v = returnRows u x h i.tile (opHi u i)) :=
  ⟨⟨0, 0x0000020100000000#64, 0x3FFF, 0⟩, returnTest, _, _, _, _, by decide, by decide, by decide, rfl, rfl, by decide, by decide, rfl⟩

theorem witness_spillReadbackComplete : ∃ (s u : State) (g : SpillGroup), (s.sheaf.spills.find? (fun g => g.wanted) = some g) ∧
    (spillRead s g = (true, u)) :=
  ⟨spillState, _, _, rfl, rfl⟩

theorem witness_eptEntryWrite : ∃ (v : Nat) (s u : State), (takesWrites s pgShf) ∧
    (u = { s with sheaf := { s.sheaf with eptPart := none } }) :=
  ⟨0, readyState, _, by decide, rfl⟩

theorem witness_eptBulkLoad : ∃ (v : Nat) (s u : State), (takesWrites s pgShf) ∧
    (s.sheaf.load = none) ∧
    (u = setRegN s (pgShf + 0x104) (eptCtrlLoaded s v)) :=
  ⟨0, readyState, _, by decide, rfl, rfl⟩

theorem witness_load_busy : ∃ (v : Nat) (s : State), (takesWrites s pgShf) ∧
    (s.sheaf.load.isSome = true) :=
  ⟨0, { readyState with sheaf := { load := some (0, 0, 0, 0) } }, by decide, rfl⟩

theorem witness_eptBulkLoadDone : ∃ (s u v : State) (l : Nat × Nat × Nat × Nat) (d : List Byte), (s.sheaf.load = some l) ∧
    (askPieces (loadPieces l) s 0 l.1 = (none, u)) ∧
    (eptCopy (min 65536 l.2.2.1) s l.1 l.2.1 l.2.2.2 = (.data d, v)) :=
  ⟨{ readyState with sheaf := { load := some (0, 0, 0, 0) } }, _, _, _, _, rfl, rfl, rfl⟩

theorem witness_embag : ∃ (i : Issue) (s u : State) (n : ShInst), (slotIssues s i 0xFF80FFFF0000001F) ∧
    (freshRun s i.tile) ∧
    (u = countEffect s i.tile) ∧
    (parseEmbag u (fgOf u i.tile).part (fgOf u i.tile).step (shDesc u i) = some n) ∧
    (poolMay u i false n) :=
  ⟨⟨0, 0x0000020100000000#64, 0, 0⟩, poolState (2 ^ 24 + 32 * 2 ^ 32 + 6 * 2 ^ 48 + 6 * 2 ^ 56 + 2 ^ 96), _, _, by decide, by decide, rfl, rfl, by decide⟩

theorem witness_rowupd : ∃ (i : Issue) (s u : State) (n : ShInst), (slotIssues s i 0xFF80FF000000001F) ∧
    (freshRun s i.tile) ∧
    (u = countEffect s i.tile) ∧
    (parseRowupd u (fgOf u i.tile).part (fgOf u i.tile).step (shDesc u i) = some n) ∧
    (poolMay u i true n) :=
  ⟨⟨0, 0x0000020000000000#64, 0, 0⟩, poolState (6 * 2 ^ 24 + 32 * 2 ^ 32 + 6 * 2 ^ 48), _, _, by decide, by decide, rfl, rfl, by decide⟩

theorem witness_embagCount : ∃ (s u : State) (p : Pkt) (i : ShInst) (q : ShPeer), (ctlTaken s (poolCtl 0x11) (fun _ => false) p u i q) :=
  ⟨poolGot 0x11, _, poolPkt 0x11, _, _, rfl, by decide, rfl, by decide, rfl, by decide⟩

theorem witness_embagWindowGrant : ∃ (s u : State) (p : Pkt) (i : ShInst) (q : ShPeer), (ctlTaken s (poolCtl 0x12) (fun _ => false) p u i q) :=
  ⟨poolGot 0x12, _, poolPkt 0x12, _, _, rfl, by decide, rfl, by decide, rfl, by decide⟩

theorem witness_embagRowList : ∃ (s u : State) (p : Pkt) (i : ShInst) (w : OwnWin), (poolTaken s 0x13 p u i) ∧
    (listWindow (shTouch u i) p = some w) ∧
    (w.rx.any (fun r => r.1 == listOff p) = false) :=
  ⟨poolGot 0x13, _, poolPkt 0x13, _, poolWin false, ⟨rfl, rfl, by decide, by decide⟩, by decide, by decide⟩

theorem witness_list_orphan : ∃ (s u : State) (p : Pkt) (i : ShInst), (poolTaken s 0x13 p u i) ∧
    (listWindow (shTouch u i) p = none) :=
  ⟨poolNone 0x13, _, poolPkt 0x13, _, ⟨rfl, rfl, by decide, by decide⟩, by decide⟩

theorem witness_poolRowAccess : ∃ (s u : State) (i : ShInst) (w : OwnWin) (e : Nat × List (Nat × Nat) × List Byte) (bs : List Byte) (r : ShInst × OwnWin × State), (servedWindow s = some (i, w)) ∧
    (nextRow s i w = some e) ∧
    (readRow s i e.1 (rowBytesOf i.rowFmt i.rowValues) w.here = (.vals bs, u)) ∧
    (r = poolRow u i w e bs) :=
  ⟨rowState 1, _, _, _, (0, [], []), _, _, rfl, rfl, rfl, rfl⟩

theorem witness_row_waits : ∃ (s u : State) (i : ShInst) (w : OwnWin) (e : Nat × List (Nat × Nat) × List Byte) (o : RowRes), (servedWindow s = some (i, w)) ∧
    (nextRow s i w = some e) ∧
    (readRow s i e.1 (rowBytesOf i.rowFmt i.rowValues) w.here = (o, u)) ∧
    ((o = .wait ∨ o = .stop)) :=
  ⟨rowAwayState, _, _, _, (0, [], []), _, rfl, rfl, Prod.mk.eta.symm, by decide⟩

theorem witness_row_parity : ∃ (s : State) (i : ShInst) (w : OwnWin) (e : Nat × List (Nat × Nat) × List Byte), (servedWindow s = some (i, w)) ∧
    (nextRow s i w = some e) :=
  ⟨rowState 1, _, _, (0, [], []), rfl, rfl⟩

theorem witness_embagPartial : ∃ (s u : State) (p : Pkt) (i : ShInst), (poolTaken s 0x14 p u i) ∧
    (s.fab.ejected.any (poolCtl 0x14) = true) :=
  ⟨poolGot 0x14, _, poolPkt 0x14, _, ⟨rfl, rfl, by decide, by decide⟩, by decide⟩

theorem witness_partial_done : ∃ (s u : State) (p : Pkt) (i : ShInst), (poolTaken s 0x15 p u i) ∧
    (s.fab.ejected.any (poolCtl 0x14) = false) ∧
    (s.fab.ejected.any (poolCtl 0x16) = false) :=
  ⟨poolGot 0x15, _, poolPkt 0x15, _, ⟨rfl, rfl, by decide, by decide⟩, by decide, by decide⟩

theorem witness_partial_poison : ∃ (s u : State) (p : Pkt) (i : ShInst), (poolTaken s 0x16 p u i) ∧
    (s.fab.ejected.any (poolCtl 0x14) = false) ∧
    (s.fab.ejected.any (poolCtl 0x16) = true) :=
  ⟨poolGot 0x16, _, poolPkt 0x16, _, ⟨rfl, rfl, by decide, by decide⟩, by decide, by decide⟩

theorem witness_rowupdContribution : ∃ (s u : State) (i : ShInst) (w : OwnWin) (e : Nat × List (Nat × Nat) × List Byte) (r : List (Nat × List (Nat × Nat) × List Byte)), (updateWindow s = some (i, w)) ∧
    (w.rows = e :: r) ∧
    (applyRow s i e.1 (rowGradient s i e) = (.done, u)) :=
  ⟨rowState 2, _, _, _, (0, [], []), [], rfl, rfl, Prod.ext (by decide) rfl⟩

theorem witness_update_parity : ∃ (s : State) (i : ShInst) (w : OwnWin) (e : Nat × List (Nat × Nat) × List Byte) (r : List (Nat × List (Nat × Nat) × List Byte)), (updateWindow s = some (i, w)) ∧
    (w.rows = e :: r) :=
  ⟨rowState 2, _, _, (0, [], []), [], rfl, rfl⟩

theorem witness_sqDoorbell : ∃ (fn q k v : Nat) (s : State), (namesPair s fn q k) :=
  ⟨0, 0, 0, 0, pairTest [], by decide⟩

theorem witness_qpEnable : ∃ (fn q k : Nat) (s : State), (namesPair s fn q k) :=
  ⟨0, 0, 0, pairTest [], by decide⟩

theorem witness_pair_unnamed : ∃ (fn q : Nat) (s : State) (c : Instr), (c ∈ ([.sqDoorbell fn q 0, .cqDoorbell fn q 0, .qpEnable fn q, .qpDisable fn q, .qpUnquarantine fn q] : List
      Instr)) ∧
    (fnDecodes s fn = true) ∧
    (resolvePair s fn q = none) :=
  ⟨0, 256, pairTest [], .qpEnable 0 256, by decide⟩

theorem witness_qpDrainDone : ∃ (q : Nat) (s : State), ((getQp s q).draining = true) ∧
    ((getQp s q).entries = []) ∧
    ((getQp s q).held = []) :=
  ⟨0, { host := { qps := [(0, { enabled := true, draining := true })] } }, by decide⟩

theorem witness_qpQuarantine : ∃ (q : Nat) (s : State), ((getQp s q).quarantined = false) ∧
    (max 1 (regN s (pgHost + 0x130)) < pairViol s (getQp s q)) :=
  ⟨0, { host := { qps := [(0, { enabled := true, viol := 0xFFFFFFFF })] } }, by decide⟩

theorem witness_irqCoalesceTimeout : ∃ (q : Nat) (s : State), ((getQp s q).coalCount ≠ 0) ∧
    ((getQp s q).coalFirst + 1000 * fld (getQp s q).coal 31 16 ≤ now s) :=
  ⟨0, { host := { qps := [(0, { enabled := true, coalCount := 1 })] } }, by decide⟩

theorem witness_nop : ∃ (q n : Nat) (s : State) (e : Entry), (entryNext s q 0 e n) :=
  ⟨0, 0, pairTest [entry0 0 []], _, rfl, rfl⟩

theorem witness_step : ∃ (q n : Nat) (s : State) (e : Entry) (r : List Byte × State), (entryNext s q 1 e n) ∧
    (stepMay s n e) ∧
    (r = fetchHost s (opFld e 24 31) (32 * stepInputs e)) ∧
    (inputOk r.1 = true) :=
  ⟨0, 0, pairTest [entry0 1 []], entry0 1 [], _, ⟨rfl, rfl⟩, ⟨by decide, by decide, (fun _ h => nomatch h), by decide⟩, rfl, by decide⟩

theorem witness_h2d : ∃ (q n : Nat) (s w : State) (e : Entry) (d : List Byte) (k : Nat) (r : List Byte × State), (entryNext s q 2 e n) ∧
    (h2dMay s n (opFld e 16 23) (opFld e 24 27)) ∧
    (r = fetchHost s (opFld e 8 15) (opFld e 24 27)) ∧
    (putRows 0 n (newTag r.2).1 true (grainRows (opFld e 16 23) r.1) (newTag r.2).2 0 = (.data d, w, k)) :=
  ⟨0, 0, hostMapped [entry0 2 ([0, 0, 0, 0, 0, 0, 0, 0] ++ List.replicate 8 0 ++ [4, 0, 0, 0])], _, _, _, _, _, ⟨rfl, rfl⟩, by decide, rfl, rfl⟩

theorem witness_h2d_waits : ∃ (q rd n : Nat) (s : State) (e : Entry), (entryNext s q 2 e n) ∧
    ((pagesOf (opFld e 16 23) (opFld e 24 27)).all (pageHome s n) = true) ∧
    (rangeLost s n (opFld e 16 23) (opFld e 24 27) = false) ∧
    (mustWait s n (opFld e 16 23) (opFld e 24 27) = true) :=
  ⟨0, 0, 0, { pairTest [entry0 2 (List.replicate 16 0 ++ [4])] with mem := { t1 := t1Map (page0 - 2 ^ 64) } }, _, ⟨rfl, rfl⟩, by decide, by decide, by decide⟩

theorem witness_d2h : ∃ (q n : Nat) (s u : State) (e : Entry) (bs : List Byte), (entryNext s q 3 e n) ∧
    (hostRead s n (opFld e 16 23) (opFld e 24 27) = (.data bs, u)) :=
  by
  obtain ⟨bs, u, h⟩ := isData (r := hostRead (hostMapped [entry0 3 (List.replicate 16 0 ++ [4])]) 0 0 4) (by decide)
  exact ⟨0, 0, hostMapped [entry0 3 (List.replicate 16 0 ++ [4])], u, entry0 3 (List.replicate 16 0 ++ [4]), bs, ⟨rfl, rfl⟩, h⟩

theorem witness_h2t : ∃ (q n : Nat) (s : State) (e : Entry), (entryNext s q 4 e n) :=
  ⟨0, 0, pairTest [entry0 4 []], _, rfl, rfl⟩

theorem witness_h2t_fails : ∃ (q rd n : Nat) (s : State) (e : Entry), (entryNext s q 4 e n) ∧
    (rd ≠ 0) :=
  ⟨0, 1, 0, pairTest [entry0 4 []], _, ⟨rfl, rfl⟩, by decide⟩

theorem witness_recvBind : ∃ (q n : Nat) (s : State) (e : Entry), (entryNext s q 5 e n) :=
  ⟨0, 0, pairTest [entry0 5 []], _, rfl, rfl⟩

theorem witness_recvUnbind : ∃ (q n : Nat) (s : State) (e : Entry), (entryNext s q 6 e n) :=
  ⟨0, 0, pairTest [entry0 6 []], _, rfl, rfl⟩

theorem witness_dmaTransferDone : ∃ (q k n : Nat) (s : State) (e : Entry), ((getQp s q).entries.find? (fun e => e.seq == k && e.started) = some e) ∧
    (n = pairPart (getQp s q)) ∧
    (entryDone s n e = true) :=
  ⟨0, 0, 0, pairTest [{ entry0 3 [] with started := true }], _, rfl, rfl, by decide⟩

theorem witness_hostReadTimeout : ∃ (q k : Nat) (s : State) (e : Entry), ((getQp s q).entries.find? (fun e => e.seq == k && (e.opc == 1 || e.opc == 2 || e.opc == 4)) = some e) ∧
    (mayStart (getQp s q) e = true) :=
  ⟨0, 0, pairTest [entry0 2 []], _, rfl, by decide⟩

theorem witness_vfFlr : ∃ (n : Nat) (s : State), (1 ≤ n) ∧
    (n ≤ 4) ∧
    (fnExists s n = true) :=
  ⟨1, { host := { numVfs := 1 } }, by decide⟩

theorem witness_d3hot : ∃ (fn : Nat) (b : Bool) (s : State), (fnExists s fn = true) :=
  ⟨0, true, {}, by decide⟩

theorem witness_msixVectorUnmask : ∃ (fn v addr data : Nat) (s : State), (fnDecodes s fn = true) ∧
    (v < vectorCount fn) :=
  ⟨0, 0, 0, 0, {}, by decide⟩

theorem witness_bar2Read : ∃ (fn off n a : Nat) (s : State), (fnDecodes s fn = true) ∧
    (barTarget s fn off = some (none, a)) ∧
    (a + n ≤ t1Bytes) :=
  ⟨0, 0, 0, 0, { regs := { val := [(barPage 0 + 0x13C, 0xC0000000)] } }, by decide⟩

theorem witness_bar2_job_read : ∃ (fn off n a p : Nat) (s u : State) (bs : List Byte), (fnDecodes s fn = true) ∧
    (barTarget s fn off = some (some p, a)) ∧
    (hostRead s p a n = (.data bs, u)) :=
  ⟨0, 0, 4, 0, 0, { hostMapped [] with regs := { val := [(barPage 0 + 0x13C, 0x80000000)] } }, _, _, by decide, by decide, rfl⟩

theorem witness_bar2_off : ∃ (fn off n : Nat) (s : State), (fnDecodes s fn = true) ∧
    (barTarget s fn off = none) :=
  ⟨0, 0, 0, {}, by decide⟩

theorem witness_bar2Write : ∃ (fn off a : Nat) (bs : List Byte) (s : State), (fnDecodes s fn = true) ∧
    (bs ≠ []) ∧
    (barTarget s fn off = some (none, a)) ∧
    (a + bs.length ≤ t1Bytes) :=
  ⟨0, 0, 0, [1], { regs := { val := [(barPage 0 + 0x13C, 0xC0000000)] } }, by decide⟩

theorem witness_bar2_job_write : ∃ (fn off a p k : Nat) (bs d : List Byte) (s u : State), (fnDecodes s fn = true) ∧
    (bs ≠ []) ∧
    (barTarget s fn off = some (some p, a)) ∧
    (mustWait s p a bs.length = false) ∧
    (putRows 0 p (newTag s).1 true (grainRows a bs) (newTag s).2 0 = (.data d, u, k)) :=
  ⟨0, 0, 0, 0, _, [1], _, { hostMapped [] with regs := { val := [(barPage 0 + 0x13C, 0x80000000)] } }, _, by decide, by decide, by decide, by decide, rfl⟩

theorem witness_bar2_poisoned : ∃ (fn off : Nat) (bs : List Byte) (s : State), (fnDecodes s fn = true) ∧
    (bs ≠ []) :=
  ⟨0, 0, [1], {}, by decide⟩

theorem witness_hsrRefresh : ∃ (q : Nat) (s : State), (s.lodge.running = true) ∧
    (q = (s.host.hsrSeq + 1) % 2 ^ 32) :=
  ⟨1, { lodge := { running := true } }, by decide⟩

end Sys2Proof.Machine
end

/-! The outcomes of an arrival unit's two moves, from the die edge into the mesh and from the mesh into its buffer
(R17, R21, R24, R135, R335, R474). -/

namespace Sys2Proof.Machine

open Sys2Proof Sys2Proof.Config

/-- What the die edge does with an owned unit: an armed one enters the mesh in a gate slot and is held outside one, an
unarmed one is discarded and poisons its partition (R17, R24). -/
theorem exec_gateSlotDelivery_owned {s : State} {t : Nat} {u : Machine.Unit} (oldest : oldestFor s.edge t = some u)
    (owned : unitOwned s u = true) :
    exec (.gateSlotDelivery t) s = .next (if unitArmed s u then (gateSlot s t u.part).elim s (enterLine s u)
      else tilePoison (discardUnit (edgePump { s with edge := s.edge.erase u }) u) t u.part 0x0215) := by
  show execGateSlotDelivery t s = _
  simp only [execGateSlotDelivery, oldest, owned]
  cases unitArmed s u with
  | false => simp
  | true => cases gateSlot s t u.part <;> simp

/-- What becomes of an owned unit whose last line has come, the parity of its lines first: a bad one goes back to the
die edge, a good one lands in an armed buffer and is discarded at one that is no longer armed (R21, R24, R135, R335). -/
theorem exec_arrivalUnitLanded_owned {s : State} {t : Nat} {u : Machine.Unit} (parityBad : Bool)
    (oldest : oldestFor s.mesh t = some u) (whole : u.due ≤ s.clk.aclk)
    (owned : unitOwned { s with mesh := s.mesh.erase u } u = true) :
    exec (.arrivalUnitLanded t parityBad) s = .next (
      if parityBad then
        if u.weight then incSat (incSat (parityReturn s t u) (pgTile t + 0xC8) 1) (pgGrn (t / 60) + 0xC8) 1
        else tilePoison (parityReturn s t u) t u.part 0x0207
      else if unitArmed { s with mesh := s.mesh.erase u } u then grnPump (landUnit { s with mesh := s.mesh.erase u } u)
      else tilePoison (discardUnit { s with mesh := s.mesh.erase u } u) t u.part 0x0215) := by
  show execArrivalUnitLanded t parityBad s = _
  simp only [execArrivalUnitLanded, oldest, owned, if_neg (Nat.not_lt.mpr whole)]
  cases parityBad with
  | true => cases u.weight <;> simp
  | false => cases unitArmed { s with mesh := s.mesh.erase u } u <;> simp

/-- Settles O27: the unit at the head of each queue is owned in every clause, so its outcome is the branch that the
clause's arming, gate slot and parity select. -/
theorem arrivals : Obligations.Arrivals := by
  unfold Obligations.Arrivals
  refine ⟨?enters, ?held, ?unarmed, ?lands, ?parity⟩
  case enters =>
    intro t s u e oldest owned armed slot
    rw [exec_gateSlotDelivery_owned oldest owned, if_pos armed, slot, Option.elim_some]
  case held =>
    intro t s u oldest owned armed slot
    rw [exec_gateSlotDelivery_owned oldest owned, if_pos armed, slot, Option.elim_none]
  case unarmed =>
    intro t s u oldest owned unarmed
    rw [exec_gateSlotDelivery_owned oldest owned, if_neg (by simp [unarmed])]
  case lands =>
    intro t s u oldest whole owned armed
    rw [exec_arrivalUnitLanded_owned false oldest whole owned, if_neg Bool.false_ne_true, if_pos armed]
  case parity =>
    intro t s u oldest whole owned
    rw [exec_arrivalUnitLanded_owned true oldest whole owned, if_pos rfl]

end Sys2Proof.Machine

/-! The floating-point formats of R33 to R35 as one binary format: the fields of a code, the value they stand for, its
bounds, and its way back to the code (R36, R38). -/

namespace Sys2Proof.Machine

/-- The finite value of exponent field `e` and mantissa field `m`, of `p` bits, in a binary format whose smallest magnitude
is `2^q0`: exponent 0 holds the subnormals (R33 to R35). -/
def binaryVal (p : Nat) (q0 : Int) (s : Bool) (e m : Nat) : Val :=
  if e = 0 then .fin s m q0 else .fin s (2 ^ p + m) (q0 + e - 1)

/-- The value of fields in a binary format whose exponent `top` holds the infinities and NaN (R34, R35). -/
def ieeeVal (top p : Nat) (q0 : Int) (s : Bool) (e m : Nat) : Val :=
  if e = top then (if m = 0 then .inf s else .nan) else binaryVal p q0 s e m

theorem binaryVal_ne_nan {p : Nat} {q0 : Int} {s : Bool} {e m : Nat} : binaryVal p q0 s e m ≠ .nan := by
  unfold binaryVal; split_ifs <;> exact Val.noConfusion

theorem binaryVal_ne_inf {p : Nat} {q0 : Int} {s : Bool} {e m : Nat} {b : Bool} : binaryVal p q0 s e m ≠ .inf b := by
  unfold binaryVal; split_ifs <;> exact Val.noConfusion

/-! ### The fields of a code -/

/-- Every code of `1 + w + p` bits is a sign, an exponent of `w` bits and a mantissa of `p` bits. -/
theorem exists_code_fields (p w : Nat) {c : Nat} (hc : c < 2 ^ (p + w + 1)) :
    ∃ s e m, s < 2 ∧ e < 2 ^ w ∧ m < 2 ^ p ∧ c = s * 2 ^ (p + w) + e * 2 ^ p + m := by
  refine ⟨c / 2 ^ (p + w), c / 2 ^ p % 2 ^ w, c % 2 ^ p, ?_, Nat.mod_lt _ (by positivity), Nat.mod_lt _ (by positivity), ?_⟩
  · exact Nat.div_lt_of_lt_mul (by rwa [← pow_succ])
  · have hi := Nat.div_add_mod (c / 2 ^ p) (2 ^ w)
    have lo := Nat.div_add_mod c (2 ^ p)
    rw [Nat.div_div_eq_div_mul, ← pow_add] at hi
    calc c = 2 ^ p * (2 ^ w * (c / 2 ^ (p + w)) + c / 2 ^ p % 2 ^ w) + c % 2 ^ p := by rw [hi, lo]
      _ = _ := by ring

/-- The fields of the code of a sign, an exponent and a mantissa are these. -/
theorem code_fields {p w s e m : Nat} (hp : 0 < p) (hs : s < 2) (he : e < 2 ^ w) (hm : m < 2 ^ p) :
    bit (s * 2 ^ (p + w) + e * 2 ^ p + m) (p + w) = (s == 1)
      ∧ fld (s * 2 ^ (p + w) + e * 2 ^ p + m) (p + w - 1) p = e
      ∧ fld (s * 2 ^ (p + w) + e * 2 ^ p + m) (p - 1) 0 = m := by
  have code : s * 2 ^ (p + w) + e * 2 ^ p + m = m + 2 ^ p * (e + 2 ^ w * s) := by ring
  have high : (m + 2 ^ p * (e + 2 ^ w * s)) / 2 ^ p = e + 2 ^ w * s := by
    rw [Nat.add_mul_div_left _ _ (by positivity), Nat.div_eq_of_lt hm, Nat.zero_add]
  rw [code]
  refine ⟨?_, ?_, ?_⟩
  · rw [bit, pow_add, ← Nat.div_div_eq_div_mul, high, Nat.add_mul_div_left _ _ (by positivity), Nat.div_eq_of_lt he,
      Nat.zero_add, Nat.mod_eq_of_lt hs]
  · rw [fld, high, show p + w - 1 + 1 - p = w by omega, Nat.add_mul_mod_self_left, Nat.mod_eq_of_lt he]
  · rw [fld, pow_zero, Nat.div_one, show p - 1 + 1 - 0 = p by omega, Nat.add_mul_mod_self_left, Nat.mod_eq_of_lt hm]

theorem signBit_eq_mul {s : Nat} (hs : s < 2) (i : Nat) : signBit (s == 1) i = s * 2 ^ i := by
  obtain rfl | rfl : s = 0 ∨ s = 1 := by omega
  · exact (Nat.zero_mul _).symm
  · exact (Nat.one_mul _).symm

/-- The fields of an E4M3 code (R33). -/
theorem exists_E4M3_code {c : Nat} (hc : c < 256) : ∃ s e m, s < 2 ∧ e < 16 ∧ m < 8 ∧ c = s * 128 + e * 8 + m :=
  exists_code_fields 3 4 hc

/-- The fields of an E5M2 code (R34). -/
theorem exists_E5M2_code {c : Nat} (hc : c < 256) : ∃ s e m, s < 2 ∧ e < 32 ∧ m < 4 ∧ c = s * 128 + e * 4 + m :=
  exists_code_fields 2 5 hc

/-- The fields of an FP32 code (R35). -/
theorem exists_FP32_code {c : Nat} (hc : c < 2 ^ 32) :
    ∃ s e m, s < 2 ∧ e < 256 ∧ m < 2 ^ 23 ∧ c = s * 2 ^ 31 + e * 2 ^ 23 + m :=
  exists_code_fields 23 8 hc

/-- The fields of a BF16 code (R35). -/
theorem exists_BF16_code {c : Nat} (hc : c < 2 ^ 16) :
    ∃ s e m, s < 2 ∧ e < 256 ∧ m < 2 ^ 7 ∧ c = s * 2 ^ 15 + e * 2 ^ 7 + m :=
  exists_code_fields 7 8 hc

/-! ### Decoding by fields -/

theorem decE4M3_code {s e m : Nat} (hs : s < 2) (he : e < 16) (hm : m < 8) :
    decE4M3 (s * 128 + e * 8 + m) = if e = 15 ∧ m = 7 then .nan else binaryVal 3 (-9) (s == 1) e m := by
  obtain ⟨sign, expo, mant⟩ := code_fields (p := 3) (w := 4) (by decide) hs he hm
  norm_num at sign expo mant
  simp only [decE4M3, sign, expo, mant, binaryVal, show (-9 : Int) + e - 1 = e - 10 by ring]
  rfl

theorem decE5M2_code {s e m : Nat} (hs : s < 2) (he : e < 32) (hm : m < 4) :
    decE5M2 (s * 128 + e * 4 + m) = ieeeVal 31 2 (-16) (s == 1) e m := by
  obtain ⟨sign, expo, mant⟩ := code_fields (p := 2) (w := 5) (by decide) hs he hm
  norm_num at sign expo mant
  simp only [decE5M2, sign, expo, mant, ieeeVal, binaryVal, show (-16 : Int) + e - 1 = e - 17 by ring]
  rfl

theorem decFP32_code {s e m : Nat} (hs : s < 2) (he : e < 256) (hm : m < 2 ^ 23) :
    decFP32 (s * 2 ^ 31 + e * 2 ^ 23 + m) = ieeeVal 255 23 (-149) (s == 1) e m := by
  obtain ⟨sign, expo, mant⟩ := code_fields (p := 23) (w := 8) (by decide) hs he hm
  norm_num at sign expo mant ⊢
  simp only [decFP32, sign, expo, mant, ieeeVal, binaryVal, show (-149 : Int) + e - 1 = e - 150 by ring]

/-- A BF16 code is the upper half of the FP32 code of its fields (R35). -/
theorem decBF16_code {s e m : Nat} (hs : s < 2) (he : e < 256) (hm : m < 2 ^ 7) :
    decBF16 (s * 2 ^ 15 + e * 2 ^ 7 + m) = ieeeVal 255 23 (-149) (s == 1) e (m * 2 ^ 16) := by
  have upper : (s * 2 ^ 15 + e * 2 ^ 7 + m) % 2 ^ 16 * 2 ^ 16 = s * 2 ^ 31 + e * 2 ^ 23 + m * 2 ^ 16 := by omega
  rw [decBF16, upper, decFP32_code hs he (by omega)]

/-! ### The magnitude of a finite value -/

/-- The magnitude of a finite value as R33 and R34 write it, for the bias `b` of the format. -/
theorem binaryVal_magnitude {p : Nat} {q0 b : Int} (bias : q0 + p = 1 - b) (s : Bool) (e m : Nat) :
    ∃ k x, binaryVal p q0 s e m = .fin s k x
      ∧ (k : ℚ) * 2 ^ x = if e = 0 then 2 ^ (1 - b) * ((m : ℚ) / 2 ^ p) else 2 ^ (e - b) * (1 + (m : ℚ) / 2 ^ p) := by
  have scale (x : Int) : (2 : ℚ) ^ (x + p) = 2 ^ x * 2 ^ p := by rw [zpow_add₀ two_ne_zero, zpow_natCast]
  unfold binaryVal
  split_ifs with he
  · refine ⟨m, q0, rfl, ?_⟩
    rw [← bias, scale]
    field_simp
  · refine ⟨2 ^ p + m, q0 + e - 1, rfl, ?_⟩
    rw [show (e : Int) - b = q0 + e - 1 + p by omega, scale]
    push_cast
    field_simp

/-- The significand of a finite value is below twice `2^p`, and its last place lies between `2^q0` and that of its exponent. -/
theorem binaryVal_fin_bounds {p : Nat} {q0 : Int} {s b : Bool} {e m k : Nat} {x : Int} (h : binaryVal p q0 s e m = .fin b k x) :
    k ≤ 2 ^ p + m ∧ q0 ≤ x ∧ (x = q0 ∨ x = q0 + e - 1) := by
  unfold binaryVal at h
  have := Nat.zero_le (2 ^ p)
  split_ifs at h <;> obtain ⟨-, rfl, rfl⟩ := h <;> omega

theorem mul_zpow_mono {k k' : Nat} {x x' : Int} (hk : k ≤ k') (hx : x ≤ x') : (k : ℚ) * 2 ^ x ≤ k' * 2 ^ x' :=
  mul_le_mul (by exact_mod_cast hk) (zpow_le_zpow_right₀ one_le_two hx) (by positivity) (by positivity)

/-- A value that is not zero is at least its last place. -/
theorem zpow_le_mul_zpow {q0 x : Int} {k : Nat} (hx : q0 ≤ x) (hk : k ≠ 0) : (2 : ℚ) ^ q0 ≤ k * 2 ^ x := by
  simpa using mul_zpow_mono (Nat.one_le_iff_ne_zero.mpr hk) hx

/-! ### The way back to the code -/

theorem bitLen_mul_two_pow {n : Nat} (hn : n ≠ 0) (j : Nat) : bitLen (n * 2 ^ j) = bitLen n + j := by
  induction j with
  | zero => simp
  | succ j ih =>
    have pos : n * 2 ^ j ≠ 0 := by positivity
    rw [bitLen, if_neg pos] at ih
    rw [pow_succ', Nat.mul_left_comm, bitLen, if_neg (by positivity), Nat.log2_two_mul pos, ih, Nat.add_assoc]

theorem bitLen_le {n p : Nat} (h : n < 2 ^ p) : bitLen n ≤ p := by
  unfold bitLen
  split_ifs with hn
  · exact Nat.zero_le p
  · exact (Nat.log2_lt hn).mpr h

theorem lt_bitLen {n p : Nat} (h : 2 ^ p ≤ n) : p < bitLen n := by
  have hn : n ≠ 0 := ((Nat.two_pow_pos p).trans_le h).ne'
  rw [bitLen, if_neg hn]
  exact Nat.lt_succ_of_le ((Nat.le_log2 hn).mpr h)

/-- An exact multiple of the last place is rounded to itself in every mode (R38, R39). -/
theorem roundShift_exact (sr : Option Nat) (n j : Nat) : roundShift sr (n * 2 ^ j) j = n := by
  cases sr with
  | none =>
    rcases Nat.eq_zero_or_pos j with rfl | hj
    · simp [roundShift, rneShift]
    · simp [roundShift, rneShift, hj.ne', (Nat.two_pow_pos (j - 1)).ne]
  | some r => simp [roundShift, srShift, Nat.mod_lt]

/-- A magnitude that the format holds, `n` units of the last place `2^(q0 + x)`, has the code of `n` in the binade `x`. -/
theorem roundMag_exact (sr : Option Nat) {p n x : Nat} (q0 : Int) (j : Nat) (hn : n < 2 ^ (p + 1)) (hx : x = 0 ∨ 2 ^ p ≤ n) :
    roundMag sr p q0 (n * 2 ^ j) (q0 + x - j) = x * 2 ^ p + n := by
  rcases Nat.eq_zero_or_pos n with rfl | pos
  · have : x = 0 := hx.resolve_right (by simp)
    simp [roundMag, this]
  have lastPlace : max (q0 + x - j + (bitLen (n * 2 ^ j) : Int) - 1 - p) q0 = q0 + x := by
    rw [bitLen_mul_two_pow pos.ne']
    have := bitLen_le hn
    rcases hx with rfl | low
    · omega
    · have := lt_bitLen low
      omega
  simp only [roundMag, lastPlace, show (q0 + x - (q0 + x - j)).toNat = j by omega, roundShift_exact,
    show n * 2 ^ j ≠ 0 by positivity, if_false, show (q0 + x - q0).toNat = x by omega]
  split_ifs with h
  · obtain rfl : j = 0 := by omega
    simp
  · rfl

/-- A finite value, given by fields with `j` further zero bits in the mantissa, is rounded to its exponent and mantissa. -/
theorem roundMag_wide_binaryVal (sr : Option Nat) (p j : Nat) (q0 : Int) (s : Bool) (e : Nat) {m : Nat} (hm : m < 2 ^ p) :
    ∃ k x, binaryVal (p + j) (q0 - j) s e (m * 2 ^ j) = .fin s k x ∧ roundMag sr p q0 k x = e * 2 ^ p + m := by
  unfold binaryVal
  split_ifs with he
  · have round := roundMag_exact sr (p := p) (x := 0) q0 j (show m < 2 ^ (p + 1) by omega) (.inl rfl)
    exact ⟨_, _, rfl, by simpa [he] using round⟩
  · obtain ⟨x, rfl⟩ := Nat.exists_eq_add_one_of_ne_zero he
    have round := roundMag_exact sr (x := x) q0 j (show 2 ^ p + m < 2 ^ (p + 1) by omega) (.inr (by omega))
    refine ⟨_, _, rfl, ?_⟩
    rw [show 2 ^ (p + j) + m * 2 ^ j = (2 ^ p + m) * 2 ^ j by ring,
      show q0 - j + ((x + 1 : Nat) : Int) - 1 = q0 + x - j by omega, round]
    ring

theorem roundMag_binaryVal (sr : Option Nat) (p : Nat) (q0 : Int) (s : Bool) (e : Nat) {m : Nat} (hm : m < 2 ^ p) :
    ∃ k x, binaryVal p q0 s e m = .fin s k x ∧ roundMag sr p q0 k x = e * 2 ^ p + m := by
  simpa using roundMag_wide_binaryVal sr p 0 q0 s e hm

/-- A finite E4M3 value is written as the code of its fields in every rounding mode. -/
theorem encE4M3_binaryVal (sr : Option Nat) (s : Bool) {e m : Nat} (he : e < 16) (hm : m < 8) (num : ¬ (e = 15 ∧ m = 7)) :
    encE4M3 sr (binaryVal 3 (-9) s e m) = signBit s 7 + (e * 8 + m) := by
  obtain ⟨k, x, val, round⟩ := roundMag_binaryVal sr 3 (-9) s e hm
  simp only [val, encE4M3, round]
  rw [if_neg (by omega)]
  rfl

theorem encE5M2_binaryVal (sr : Option Nat) (sat s : Bool) {e m : Nat} (he : e < 31) (hm : m < 4) :
    encE5M2 sr sat (binaryVal 2 (-16) s e m) = signBit s 7 + (e * 4 + m) := by
  obtain ⟨k, x, val, round⟩ := roundMag_binaryVal sr 2 (-16) s e hm
  simp only [val, encE5M2, round]
  rw [if_neg (by omega)]
  rfl

theorem encFP32_binaryVal (sr : Option Nat) (sat s : Bool) {e m : Nat} (he : e < 255) (hm : m < 2 ^ 23) :
    encFP32 sr sat (binaryVal 23 (-149) s e m) = signBit s 31 + (e * 2 ^ 23 + m) := by
  obtain ⟨k, x, val, round⟩ := roundMag_binaryVal sr 23 (-149) s e hm
  simp only [val, encFP32, round]
  rw [if_neg (by omega)]

/-- The lower half of the FP32 mantissa of a BF16 value is zero, so nothing is rounded off. -/
theorem encBF16_binaryVal (sr : Option Nat) (sat s : Bool) {e m : Nat} (he : e < 255) (hm : m < 2 ^ 7) :
    encBF16 sr sat (binaryVal 23 (-149) s e (m * 2 ^ 16)) = signBit s 15 + (e * 2 ^ 7 + m) := by
  obtain ⟨k, x, val, round⟩ := roundMag_wide_binaryVal sr 7 16 (-133) s e hm
  rw [show binaryVal 23 (-149) s e (m * 2 ^ 16) = .fin s k x from val]
  simp only [encBF16, round]
  rw [if_neg (by omega)]

/-- An encoder that writes NaN, the infinity and the finite value of some fields as it should takes their value to their code. -/
theorem enc_ieeeVal {enc : Val → Nat} {top p e m canon code : Nat} {q0 : Int} {s : Bool} (nan : enc .nan = canon)
    (inf : e = top → m = 0 → enc (.inf s) = code) (fin : e ≠ top → enc (binaryVal p q0 s e m) = code) :
    enc (ieeeVal top p q0 s e m) = if ieeeVal top p q0 s e m = .nan then canon else code := by
  unfold ieeeVal
  by_cases he : e = top
  · by_cases hm : m = 0
    · rw [if_pos he, if_pos hm, if_neg Val.noConfusion, inf he hm]
    · rw [if_pos he, if_neg hm, if_pos rfl, nan]
  · rw [if_neg he, if_neg binaryVal_ne_nan, fin he]

/-! ### The statements -/

/-- Settles O7: the fields of a code give its value, and the bounds follow from the largest significand and last place. -/
theorem e4M3Decoding : Obligations.E4M3Decoding := by
  unfold Obligations.E4M3Decoding
  refine ⟨fun s e m hs he hm => ⟨?value, ?nan⟩, ?noInf, ?bounds, ⟨14, 5, rfl, by norm_num⟩, ⟨1, -9, rfl, by norm_num⟩⟩
  case value =>
    intro num
    rw [decE4M3_code hs he hm, if_neg num]
    obtain ⟨k, x, val, magnitude⟩ := binaryVal_magnitude (p := 3) (q0 := -9) (b := 7) rfl (s == 1) e m
    refine ⟨k, x, val, ?_⟩
    norm_num at magnitude ⊢
    exact magnitude
  case nan =>
    intro nan
    rw [decE4M3_code hs he hm, if_pos nan]
  case noInf =>
    intro c b hc
    obtain ⟨s, e, m, hs, he, hm, rfl⟩ := exists_E4M3_code hc
    rw [decE4M3_code hs he hm]
    split_ifs
    · exact Val.noConfusion
    · exact binaryVal_ne_inf
  case bounds =>
    intro c b k x hc dec
    obtain ⟨s, e, m, hs, he, hm, rfl⟩ := exists_E4M3_code hc
    rw [decE4M3_code hs he hm] at dec
    split_ifs at dec with num
    obtain ⟨significand, low, place⟩ := binaryVal_fin_bounds dec
    refine ⟨?_, zpow_le_mul_zpow low⟩
    by_cases top : e = 15
    · calc (k : ℚ) * 2 ^ x ≤ (14 : Nat) * 2 ^ (5 : Int) := mul_zpow_mono (by omega) (by omega)
        _ = 448 := by norm_num
    · calc (k : ℚ) * 2 ^ x ≤ (15 : Nat) * 2 ^ (4 : Int) := mul_zpow_mono (by omega) (by omega)
        _ ≤ 448 := by norm_num

/-- Settles O8: as for E4M3, with the exponent 31 kept for the infinities and NaN. -/
theorem e5M2Decoding : Obligations.E5M2Decoding := by
  unfold Obligations.E5M2Decoding
  refine ⟨fun s e m hs he hm => ⟨?value, ?special⟩, ?bounds, ⟨7, 13, rfl, by norm_num⟩, ⟨1, -16, rfl, by norm_num⟩⟩
  case value =>
    intro finite
    rw [decE5M2_code hs he hm, ieeeVal, if_neg finite]
    obtain ⟨k, x, val, magnitude⟩ := binaryVal_magnitude (p := 2) (q0 := -16) (b := 15) rfl (s == 1) e m
    refine ⟨k, x, val, ?_⟩
    norm_num at magnitude ⊢
    exact magnitude
  case special =>
    intro special
    rw [decE5M2_code hs he hm, ieeeVal, if_pos special]
  case bounds =>
    intro c b k x hc dec
    obtain ⟨s, e, m, hs, he, hm, rfl⟩ := exists_E5M2_code hc
    rw [decE5M2_code hs he hm, ieeeVal] at dec
    split_ifs at dec with special
    obtain ⟨significand, low, place⟩ := binaryVal_fin_bounds dec
    refine ⟨?_, zpow_le_mul_zpow low⟩
    calc (k : ℚ) * 2 ^ x ≤ (7 : Nat) * 2 ^ (13 : Int) := mul_zpow_mono (by omega) (by omega)
      _ = 57344 := by norm_num

/-- Settles O9: a decoded value has few enough significant bits for its format, so encoding rounds nothing off and gives the
fields back. -/
theorem floatRoundTrip : Obligations.FloatRoundTrip := by
  unfold Obligations.FloatRoundTrip
  refine ⟨?fp32, ?bf16, ?e4m3, ?e5m2⟩
  case fp32 =>
    intro c hc
    obtain ⟨s, e, m, hs, he, hm, rfl⟩ := exists_FP32_code hc
    rw [decFP32_code hs he hm]
    refine enc_ieeeVal rfl (fun he hm => ?_) (fun he => ?_)
    · rw [encFP32, signBit_eq_mul hs]; omega
    · rw [encFP32_binaryVal _ _ _ (by omega) hm, signBit_eq_mul hs]; omega
  case bf16 =>
    intro c hc
    obtain ⟨s, e, m, hs, he, hm, rfl⟩ := exists_BF16_code hc
    rw [decBF16_code hs he hm]
    refine enc_ieeeVal rfl (fun he hm => ?_) (fun he => ?_)
    · replace hm : m = 0 := by simpa using hm
      rw [encBF16, signBit_eq_mul hs]; omega
    · rw [encBF16_binaryVal _ _ _ (by omega) hm, signBit_eq_mul hs]; omega
  case e4m3 =>
    intro c hc
    obtain ⟨s, e, m, hs, he, hm, rfl⟩ := exists_E4M3_code hc
    rw [decE4M3_code hs he hm]
    by_cases nan : e = 15 ∧ m = 7
    · rw [if_pos nan]; rfl
    · rw [if_neg nan, if_neg binaryVal_ne_nan, encE4M3_binaryVal _ _ he hm nan, signBit_eq_mul hs]; omega
  case e5m2 =>
    intro c hc
    obtain ⟨s, e, m, hs, he, hm, rfl⟩ := exists_E5M2_code hc
    rw [decE5M2_code hs he hm]
    refine enc_ieeeVal rfl (fun he hm => ?_) (fun he => ?_)
    · rw [encE5M2, signBit_eq_mul hs]; omega
    · rw [encE5M2_binaryVal _ _ _ (by omega) hm, signBit_eq_mul hs]; omega

end Sys2Proof.Machine

/-! The two conversions of the vector unit (R36 to R39, R43). -/

namespace Sys2Proof.Machine

open Sys2Proof

/-- Settles O20: the slot's format is the destination that each conversion takes, and the opcode gives the source (log
entry 13), so the elements of the operand that is ready are written, converted (`vecOp_ok`). -/
theorem vectorConvert : Obligations.VectorConvert := by
  unfold Obligations.VectorConvert
  refine ⟨?cvt, ?cvtb⟩
  case cvt =>
    intro i s f g fmt source plain ready
    have dest : (if f = .bs4 ∨ f = .bsi8 then none else some f) = some f := if_neg (by simpa using plain)
    exact vecOp_ok _ cvtSource _ _ fmt (by rw [cvtSource, source]) dest ready
  case cvtb =>
    intro i s f g fmt source scaled ready
    have dest : (if f = .bs4 ∨ f = .bsi8 then some f else none) = some f := if_pos scaled
    exact vecOp_ok _ cvtSource _ _ fmt (by rw [cvtSource, source]) dest ready

end Sys2Proof.Machine

/-! The Sheaf engine's control payloads: rounds A and B, grants, ABORT, and what waits for its issue or its context
(R95 to R99, R110, R475). -/

namespace Sys2Proof.Machine

open Sys2Proof Sys2Proof.Config

/-- A payload of nothing in progress is held by a command that holds such payloads (R475). -/
theorem withCtl_none_held {s u : State} {take bad : Pkt → Bool} {p : Pkt} {f : State → ShInst → Pkt → State}
    (alone : ctlAlone s take bad p u) : withCtl s take bad true f = .next (holdPayload u p) := by
  rw [withCtl_none true f alone, if_pos rfl]

/-- A payload of nothing in progress is an orphan to a command that holds none (R110). -/
theorem withCtl_none_orphan {s u : State} {take bad : Pkt → Bool} {p : Pkt} {f : State → ShInst → Pkt → State}
    (alone : ctlAlone s take bad p u) : withCtl s take bad false f = .next (shOrphan u) := by
  rw [withCtl_none false f alone, if_neg Bool.false_ne_true]

/-- Settles O55: each kind of payload is handled through `withCtl`, whose laws say what becomes of one that is taken and of one
that names nothing in progress; the last three commands act on the payload, the record or the read that they find. -/
theorem sheafRounds : Obligations.SheafRounds := by
  unfold Obligations.SheafRounds
  refine ⟨?countA, ?countB, ?grantA, ?grantB, ?abort, ?countAHeld, ?countBHeld, ?grantAOrphan, ?grantBOrphan, ?abortHeld,
    ?heldTimeout, ?coalesce, ?contextFetch⟩
  case countA => exact fun s u p i q taken => show execCountA s = _ from withCtl_ok true _ taken
  case countB =>
    intro s u p i q taken
    show execCountB s = _
    rw [execCountB, withCtl_ok true _ taken]
    simp only [Bool.not_eq_true']
  case grantA => exact fun s u p i q taken => show execGrantA s = _ from withCtl_ok false _ taken
  case grantB => exact fun s u p i q taken => show execGrantB s = _ from withCtl_ok false _ taken
  case abort => exact fun s u p i q taken => show execSheafAbort s = _ from withCtl_ok true _ taken
  case countAHeld => exact fun s u p alone => show execCountA s = _ from withCtl_none_held alone
  case countBHeld => exact fun s u p alone => show execCountB s = _ from withCtl_none_held alone
  case grantAOrphan => exact fun s u p alone => show execGrantA s = _ from withCtl_none_orphan alone
  case grantBOrphan => exact fun s u p alone => show execGrantB s = _ from withCtl_none_orphan alone
  case abortHeld => exact fun s u p alone => show execSheafAbort s = _ from withCtl_none_held alone
  case heldTimeout =>
    intro s h oldest
    show execHeldPayloadTimeout s = _
    simp only [execHeldPayloadTimeout, oldest]
  case coalesce =>
    intro s i c r inst dest sent
    show execCountCoalesceExpiry s = _
    simp only [execCountCoalesceExpiry, inst, dest, sent]
  case contextFetch =>
    intro s f back
    show execContextFetchComplete s = _
    simp only [execContextFetchComplete, back]

end Sys2Proof.Machine

/-! The dispatches of the Sheaf engine, from issue to completion, and the writes of the Expert Placement Table
(R84 to R92, R101 to R109, R297). -/

namespace Sys2Proof.Machine

open Sys2Proof Sys2Proof.Config

/-- A fault of a DISPATCH at issue, under the name in its descriptor (R110). -/
abbrev dispatchFault (u : State) (i : Issue) (code : Nat) : State :=
  shIssueFault u (fld (leNat (shDesc u i)) 15 0) (fld (leNat (shDesc u i)) 95 64) (fgOf u i.tile).part code

/-- A DISPATCH whose descriptor, communicator, handle and counter are good opens the dispatch of its name, or joins it where it
is open; a name that is not its to join faults, and so does a partition with no room for one more (R84, R85). -/
theorem exec_dispatch_may {i : Issue} {s u : State} {n : ShInst} (slot : slotIssues s i 0xFF8000FF0000001F)
    (fresh : freshRun s i.tile) (counted : u = countEffect s i.tile)
    (parsed : parseDispatch u (fgOf u i.tile).part (fgOf u i.tile).step (shDesc u i) = some n) (may : dispatchMay u i n) :
    exec (.dispatch i) s = .next ((shFind u n.comm n.seq).elim
      (if 4 ≤ (dispatchesOf u (fgOf u i.tile).part).length
          ∨ (dispatchesOf u (fgOf u i.tile).part).any (fun x => x.accepting) = true then dispatchFault u i 0x0601
        else shOpen (dispatchArmed u i) { n with tiles := [⟨i.tile, shHandle i, shCtr i, 0⟩] })
      (fun x =>
        if x.kind ≠ 0 ∨ x.part ≠ (fgOf u i.tile).part ∨ x.tiles.any (fun y => y.tile == i.tile) = true then
          dispatchFault u i 0x0607
        else dispatchArmed (shSet u { x with tiles := x.tiles ++ [⟨i.tile, shHandle i, shCtr i, 0⟩] }) i)) := by
  obtain ⟨comm, handle, counter⟩ := may
  show execDispatch i s = _
  rw [execDispatch, issued_ok _ slot, dynamic_ok _ fresh, ← counted]
  simp only [shDesc, fgOf] at parsed
  simp only [parsed]
  rw [if_neg (by simp [comm]), if_neg handle, if_neg (by simp [counter])]
  cases shFind u n.comm n.seq <;> rfl

/-- Settles O56: the laws of the frames (`issued_ok`, `dynamic_ok`, `overEdge_ok`, `withSegs_ok`, `guardWrite_ok`) bring each
command to its effect, and the clause's hypotheses select the branch. -/
theorem sheafInstances : Obligations.SheafInstances := by
  unfold Obligations.SheafInstances
  refine ⟨?opens, ?joins, ?stages, ?binned, ?drainParity, ?stray, ?completes, ?sends, ?asks, ?written, ?combined, ?readBack,
    ?returnParity, ?returned, ?spillBack, ?entryStored, ?loadBegins, ?loadBusy, ?loadEnds⟩
  case opens =>
    intro i s u n slot fresh counted parsed may unnamed room idle
    have vacancy : ¬ (4 ≤ (dispatchesOf u (fgOf u i.tile).part).length
        ∨ (dispatchesOf u (fgOf u i.tile).part).any (fun x => x.accepting) = true) :=
      not_or.mpr ⟨Nat.not_le.mpr room, by simp [idle]⟩
    rw [exec_dispatch_may slot fresh counted parsed may, unnamed, Option.elim_none, if_neg vacancy]
  case joins =>
    intro i s u n x slot fresh counted parsed may named dispatch own other
    rw [exec_dispatch_may slot fresh counted parsed may, named, Option.elim_some, if_neg (by simp [dispatch, own, other])]
  case stages =>
    rintro i s _ cq x rows slot fresh edge rfl latest named buffer clean parsed
    show execDsend i s = _
    rw [execDsend, issued_ok _ slot, overEdge_ok _ fresh edge]
    simp only [latest, named, buffer, clean, parsed, Bool.not_true, Bool.false_eq_true, if_false]
  case binned =>
    rintro die par s _ e i oldest rfl accepts clean binned
    show execDecisionDrain die par s = _
    simp only [execDecisionDrain, oldest, if_neg clean, accepts]
    rw [if_neg (by omega)]
  case drainParity =>
    intro die s e oldest
    show execDecisionDrain die 1 s = _
    simp only [execDecisionDrain, oldest, if_true]
  case stray =>
    rintro die par s _ e oldest rfl none clean
    show execDecisionDrain die par s = _
    simp only [execDecisionDrain, oldest, if_neg clean, none]
  case completes =>
    intro s i done
    show execDispatchInstanceComplete s = _
    simp only [execDispatchInstanceComplete, done]
  case sends =>
    intro s i p t inst pair staged
    have sent (b : Bool) : execDataSend b s = .next (if b then shParity s i.part 0x060E else sendPair s i p t) := by
      simp only [execDataSend, inst, pair, staged]
      cases b <;> rfl
    exact ⟨sent false, sent true⟩
  case asks =>
    intro b s none
    show execDataSend b s = _
    simp only [execDataSend, none]
  case written =>
    rintro s u _ p i segs taken rfl
    show execDataSegment s = _
    exact withSegs_ok _ taken
  case combined =>
    rintro s u _ p i segs room resident taken rfl
    show execReturnSegment false s = _
    simp only [execReturnSegment, room, resident, Bool.false_eq_true, if_false]
    rw [withSegs_ok _ taken]
  case readBack =>
    intro s g room needed
    show execReturnSegment false s = _
    simp only [execReturnSegment, room, needed, Bool.false_eq_true, if_false]
  case returnParity =>
    intro s p i room oldest named
    show execReturnSegment true s = _
    simp only [execReturnSegment, room, oldest, named, Bool.false_eq_true, if_false, if_true]
  case returned =>
    rintro i s _ _ x h slot fresh edge rfl named buffer clean rfl
    show execReturn i s = _
    rw [execReturn, issued_ok _ slot, overEdge_ok _ fresh edge]
    simp only [named, buffer, clean, Bool.not_true, Bool.false_eq_true, if_false]
  case spillBack =>
    intro s u g wanted back
    show execSpillReadbackComplete s = _
    simp only [execSpillReadbackComplete, wanted, back]
  case entryStored =>
    rintro v s _ takes rfl
    exact guardWrite_ok s pgShf _ takes
  case loadBegins =>
    rintro v s _ takes idle rfl
    exact (guardWrite_ok s pgShf _ takes).trans (if_neg (by simp [idle]))
  case loadBusy =>
    intro v s takes busy
    exact (guardWrite_ok s pgShf _ takes).trans (if_pos busy)
  case loadEnds =>
    intro s u v l d load asked copied
    show execEptBulkLoadDone s = _
    simp only [execEptBulkLoadDone, load]
    rw [asked]
    simp only [copied]

end Sys2Proof.Machine

/-! A tile's SRAM, byte by byte: what a write of bytes leaves at every key and which keys it covers (R113, R323). -/

namespace Sys2Proof.Machine

open Sys2Proof

/-- Each tile has 2^24 keys of its own, so the keys of a run of bytes within them are those of its addresses on its tile. -/
theorem sramKey_in_range {t a n u b : Nat} (run : a + n ≤ 2 ^ 24) (addr : b < 2 ^ 24) :
    (sramKey t a ≤ sramKey u b ∧ sramKey u b < sramKey t a + n) ↔ (u = t ∧ a ≤ b ∧ b < a + n) := by
  unfold sramKey
  omega

/-- What a write of bytes leaves at every key of SRAM. -/
theorem get_sram_writeSram (s : State) (t a : Nat) (bs : List Byte) (k : Nat) :
    NMap.get (fun _ => 0) (writeSram s t a bs).mem.sram k
      = if sramKey t a ≤ k ∧ k < sramKey t a + bs.length then bs.getD (k - sramKey t a) 0
        else NMap.get (fun _ => 0) s.mem.sram k :=
  get_writeBytes ..

/-- What a write of bytes leaves as the parity of every key of SRAM (R323). -/
theorem get_sramBad_writeSram (s : State) (t a : Nat) (bs : List Byte) (k : Nat) :
    NMap.get (fun _ => false) (writeSram s t a bs).mem.sramBad k
      = if sramKey t a ≤ k ∧ k < sramKey t a + bs.length then false
        else NMap.get (fun _ => false) s.mem.sramBad k := by
  simp only [writeSram, NMap.get_delIf, Bool.and_eq_true, decide_eq_true_eq]

/-- A read of one byte is the value at its key. -/
theorem readSram_one (s : State) (t a : Nat) :
    readSram s t a 1 = [NMap.get (fun _ => 0) s.mem.sram (sramKey t a)] := by
  simp [readSram, readBytes]

/-- Bytes written read back. -/
theorem readSram_writeSram_same (s : State) (t a : Nat) (bs : List Byte) :
    readSram (writeSram s t a bs) t a bs.length = bs := by
  refine List.ext_getElem (by simp [readSram, readBytes]) fun k _ inside => ?_
  have covered : sramKey t a ≤ sramKey t a + k ∧ sramKey t a + k < sramKey t a + bs.length := by omega
  simp only [readSram, readBytes, List.getElem_map, List.getElem_range, get_sram_writeSram, if_pos covered]
  simp [inside]

/-- Settles O13: a key is covered by the write exactly where it is that of a written byte on the written tile, and the value
and the parity at a key are the old ones where it is not covered. -/
theorem sramReadAfterWrite : Obligations.SramReadAfterWrite := by
  unfold Obligations.SramReadAfterWrite
  intro s t a bs run
  refine ⟨readSram_writeSram_same s t a bs, ?frame, ?parity, rfl, rfl⟩
  case frame =>
    intro u b addr outside
    have uncovered := mt (sramKey_in_range run addr).mp outside
    rw [readSram_one, readSram_one, get_sram_writeSram, get_sramBad_writeSram, if_neg uncovered, if_neg uncovered]
    exact ⟨rfl, rfl⟩
  case parity =>
    intro b low high
    rw [get_sramBad_writeSram, if_pos ((sramKey_in_range run (by omega)).mpr ⟨rfl, low, high⟩)]

end Sys2Proof.Machine

/-! The transcendental instructions of the vector unit and its row reductions (R117, R151, R293). -/

namespace Sys2Proof.Machine

open Sys2Proof

/-- A transcendental instruction that finds its operand writes the FP32 value nearest the exact function of each element. -/
theorem transcendental_ready {i : Issue} {s : State} {f : Fmt} (g : Val → Option Val) (fmt : i.fmt = some f)
    (ready : vecReady s i ⟨none, false⟩ f f) :
    transcendental i g s
      = .next (vecWrite s i f ((vecA s i f).map (fun x => (g x).map (fun y => decFP32 (encFP32 none false y))))) :=
  vecOp_ok _ _ _ _ fmt rfl rfl ready

/-- Settles O19: the seven instructions are `transcendental` at seven functions. -/
theorem vectorTranscendental : Obligations.VectorTranscendental :=
  ⟨fun _ _ _ fmt ready => transcendental_ready (fun x => some (valExp x)) fmt ready,
   fun _ _ _ fmt ready => transcendental_ready (fun x => some (valExp2 x)) fmt ready,
   fun _ _ _ fmt ready => transcendental_ready valLog2 fmt ready,
   fun _ _ _ fmt ready => transcendental_ready (fun x => some (valSigm x)) fmt ready,
   fun _ _ _ fmt ready => transcendental_ready (fun x => some (valTanh x)) fmt ready,
   fun _ _ _ fmt ready => transcendental_ready valRcp fmt ready,
   fun _ _ _ fmt ready => transcendental_ready valRsqrt fmt ready⟩

/-- A row reduction that finds its buffers and its operand's rows good writes the results of its rows, of the CBS rows where
bit 49 is set. -/
theorem rowReduce_ready {i : Issue} {s : State} {f : Fmt} {per n : Nat} (pad : Nat) (pre : Nat → Nat) (op : Nat → Nat → Nat)
    (fmt : i.fmt = some f) (slot : slotIssues s i vecMask) (reserved : fld i.w 31 24 = 0)
    (row : per = if bit i.w 49 then cbsRowElems f (opMid s i) else rowElems f (opMid s i))
    (rows : n = vecLen i / max 1 per) (dest : bufOk s i (opHi s i) 0 (n * 4) = true)
    (src : bufOk s i (opMid s i) 0 (n * hRow (opMid s i) * 64) = true)
    (clean : badByte s i.tile (opMid s i) 0 (n * hRow (opMid s i) * 64) = none) :
    rowReduce i pad pre op s = .next (if bit i.w 49 then cbsReduce s i f (opHi s i) (opMid s i) n pad pre op
      else writeBuf s i.tile (opHi s i) 0
        ((List.range n).flatMap (fun r => leBytes 4 (rowResult s i.tile (opMid s i) f per pad pre op r)))) := by
  subst row
  subst rows
  rw [rowReduce, issued_ok _ slot]
  simp only [fmt]
  rw [if_neg (not_not.mpr reserved), if_neg (by simp [dest, src]), clean]

/-- Settles O21: the four instructions are `rowReduce` at their operation, its identity and what is done to each element. -/
theorem rowReductions : Obligations.RowReductions := by
  unfold Obligations.RowReductions
  refine ⟨?sum, ?max, ?min, ?norm⟩
  case sum => exact fun i s f per n => rowReduce_ready 0 id f32Add
  case max => exact fun i s f per n => rowReduce_ready 0xFF800000 id f32Max
  case min => exact fun i s f per n => rowReduce_ready 0x7F800000 id f32Min
  case norm => exact fun i s f per n => rowReduce_ready 0 (fun x => f32Mul x x) f32Add

end Sys2Proof.Machine

/-! The array of a tile: passes, their vectors, loads and bed modes (R118 to R127, R150, R292). -/

namespace Sys2Proof.Machine

open Sys2Proof Sys2Proof.Config

/-- A dense pass that breaks no rule enters its bed with a slot for each of its vectors (R122, R292). -/
theorem runPass_dense {s : State} {i : Issue} {d : PassDesc} (feeds : Option (Nat × Nat))
    (good : passFault s i d (passBufs (fgOf s i.tile) d) false = 0) (dense : d.present = false) :
    runPass s i d feeds = startPass s i d (passBufs (fgOf s i.tile) d) false
      (denseVecs s i d (passBufs (fgOf s i.tile) d)) feeds := by
  unfold runPass
  dsimp only
  rw [if_neg (by simp [good]), if_neg (by simp [dense])]

/-- A pass of present blocks that breaks no rule, its feed rows without parity error and its records well-formed, enters its
bed with the slots of its present rows (R150). -/
theorem runPass_present {s : State} {i : Issue} {d : PassDesc} {vs : List (Nat × Bool)} (feeds : Option (Nat × Nat))
    (good : passFault s i d (passBufs (fgOf s i.tile) d) false = 0) (present : d.present = true)
    (clean : badByte s i.tile (passBufs (fgOf s i.tile) d).feed (d.feedRow * hRow (passBufs (fgOf s i.tile) d).feed * 64)
      (d.m * hRow (passBufs (fgOf s i.tile) d).feed * 64) = none)
    (rows : presentVecs s i d (passBufs (fgOf s i.tile) d) = some vs) :
    runPass s i d feeds = startPass s i d (passBufs (fgOf s i.tile) d) false vs feeds := by
  unfold runPass
  dsimp only
  rw [if_neg (by simp [good]), if_pos present, clean, rows]

/-- The slot of a valid vector whose feed row has good parity leaves the state to the injection alone. -/
theorem injectVec_valid {s : State} {t m : Nat} {p : LivePass} (dense : p.desc.present = false)
    (clean : badByte s t p.bufs.feed ((p.desc.feedRow + m) * hRow p.bufs.feed * 64) (feedRowBytes p.desc p.os p.size) = none) :
    injectVec t (s, p) (m, true) = if p.os then (s, { p with next := p.next + 1, cells := cellsAfter s t p m })
      else (injectWs s t p m, { p with next := p.next + 1, done := p.done + 1 }) := by
  simp [injectVec, dense, clean]

/-- A dense vector of a weight-stationary pass drains the row of its count (R118, R119). -/
theorem injectWs_dense {s : State} {t m : Nat} {p : LivePass} (dense : p.desc.present = false) :
    injectWs s t p m = drainRow s t p.desc p.bufs p.done (passRow p.desc.sfmt p.size p.blk (feedVector s t p.bufs.feed
      (p.desc.feedRow + m) (contraction p.desc.sfmt p.size) ((streamFmt p.desc.xfmt).getD .e4m3))) :=
  if_neg (by simp [dense])

/-- Settles O22: a pass that breaks no rule starts, and the slot of a valid vector drains its row or adds to the accumulators
by the pass's kind. -/
theorem arrayPass : Obligations.ArrayPass := by
  unfold Obligations.ArrayPass
  refine ⟨?dense, ?present, ?stationary, ?drains, ?accumulates⟩
  case dense =>
    intro i s slot good dense
    show execApass i s = _
    rw [execApass, issued_ok _ slot, runPass_dense none good dense]
  case present =>
    intro i s vs slot good present clean rows
    show execApass i s = _
    rw [execApass, issued_ok _ slot, runPass_present none good present clean rows]
  case stationary =>
    intro i s slot good
    show execAos i s = _
    rw [execAos, issued_ok _ slot]
    exact congrArg Host.Outcome.next (if_neg (not_not.mpr good))
  case drains =>
    intro s t p m weights dense clean
    rw [injectVec_valid dense (by rwa [weights]), if_neg (by simp [weights]), injectWs_dense dense]
  case accumulates =>
    intro s t p m outputs dense clean
    rw [injectVec_valid dense (by rwa [outputs]), if_pos outputs]

/-- Settles O23: none of the checks of a load or of a mode change holds the instruction back, so it leaves its registers and,
at a change, the mode shown. -/
theorem arrayLoadAndMode : Obligations.ArrayLoadAndMode := by
  unfold Obligations.ArrayLoadAndMode
  refine ⟨?load, ?change, ?same⟩
  case load =>
    intro i s slot fmt bed buffer rules clean
    show execAload i s = _
    rw [execAload, issued_ok _ slot]
    dsimp only
    rw [if_neg (by simp [Option.isSome_iff_ne_none.mp fmt]), if_neg (Nat.not_le.mpr bed), if_neg (by simp [buffer]),
      if_neg (by simp [rules]), clean, if_pos (by rfl)]
  case change =>
    intro i s slot known other idle
    show execAbed i s = _
    rw [execAbed, issued_ok _ slot]
    dsimp only
    rw [if_neg other, if_neg (by simp [known, idle])]
  case same =>
    intro i s slot same
    show execAbed i s = _
    rw [execAbed, issued_ok _ slot]
    exact congrArg Host.Outcome.next (if_pos same)

end Sys2Proof.Machine

/-! How a partition stops and resumes, and how it replays a poisoned layer (R131 to R135, R333 to R336, R340). -/

namespace Sys2Proof.Machine

open Sys2Proof Sys2Proof.Config

/-- Settles O53: each command finds the stop, or the phase of the oldest step, that the clause's hypotheses name, so its effect
is the branch that they select. -/
theorem stopsAndReplays : Obligations.StopsAndReplays := by
  unfold Obligations.StopsAndReplays
  refine ⟨?stopBegins, ?stopEnds, ?resumes, ?refetched, ?frozen, ?thawed, ?halts, ?fourth, ?redelivered, ?readmitted, ?restarts⟩
  case stopBegins =>
    rintro n s _ asked sound rfl
    show execStopTakeEffect n s = _
    exact congrArg Host.Outcome.next (if_pos (by simp [asked, sound]))
  case stopEnds =>
    rintro n s _ stopping boundary halted rfl
    show execStopComplete n s = _
    rw [execStopComplete]
    dsimp only
    rw [if_neg (by simp [stopping, Nat.not_lt.mpr boundary, halted])]
  case resumes =>
    intro n s stopped asked uncaused due boundary
    show execResumeTakeEffect n s = _
    rw [execResumeTakeEffect]
    dsimp only
    rw [if_neg (by simp [stopped, Option.isSome_iff_ne_none.mp asked, uncaused, due, boundary])]
    cases (stopTiles s n).find? (resumeBad s) <;> rfl
  case refetched =>
    rintro t n data s _ damaged rfl rfl
    show execStationaryRefetchDone t data s = _
    rw [execStationaryRefetchDone]
    dsimp only
    rw [if_neg (by simpa using damaged)]
    cases (getTile s t).huskWait <;> rfl
  case frozen =>
    rintro t n s _ takes tile live rfl rfl
    show execFreezeSet t s = _
    rw [execFreezeSet, guardWrite_ok s _ _ takes, if_neg (Nat.not_le.mpr tile)]
    dsimp only
    rw [if_neg (by simp [live])]
    rfl
  case thawed =>
    rintro t n s _ takes tile rfl rfl
    show execFreezeClear t s = _
    rw [execFreezeClear, guardWrite_ok s _ _ takes, if_neg (Nat.not_le.mpr tile)]
    simp only [Bool.not_eq_true']
    rfl
  case halts =>
    rintro n bad s _ _ st oldest halting boundary fewer rfl rfl
    show execPoisonHalt ⟨n, bad⟩ s = _
    simp only [execPoisonHalt, oldest]
    rw [if_neg (by simp [halting, boundary]), if_neg (by omega)]
  case fourth =>
    intro n bad s st oldest halting boundary three
    show execPoisonHalt ⟨n, bad⟩ s = _
    simp only [execPoisonHalt, oldest]
    rw [if_neg (by simp [halting, boundary]), if_pos three]
  case redelivered =>
    rintro n s _ st oldest waiting damaged rfl
    show execRedeliveryComplete n s = _
    simp only [execRedeliveryComplete, oldest]
    rw [if_neg (by simp [waiting, damaged])]
  case readmitted =>
    rintro n s _ st oldest waiting whole conditions energy rfl
    show execReplayAdmit n s = _
    simp only [execReplayAdmit, oldest]
    rw [if_neg (by simp [waiting, whole, conditions, energy])]
  case restarts =>
    rintro n a s _ st oldest start restarting due rfl
    show execReplayRestart n s = _
    simp only [execReplayRestart, oldest, start]
    rw [if_neg (by simp [restarting, due])]

end Sys2Proof.Machine

/-! What HUSK and CHAFF leave, and how an expert step ends (R139 to R149, R157). -/

namespace Sys2Proof.Machine

open Sys2Proof

/-! ### HUSK -/

/-- HUSK with a good descriptor and good buffers runs. -/
theorem execHusk_ready {i : Issue} {s : State} (slot : slotIssues s i 0xFF80FFFFFFFF0700) (ready : huskReady s i) :
    execHusk i s = .next (huskRun s i) := by
  obtain ⟨desc, buffers, -, -⟩ := ready
  rw [execHusk, issued_ok _ slot]
  dsimp only
  rw [if_neg (by simp [desc]), if_neg (by simp [buffers])]

/-- A HUSK that is ready on a registered slot with no kept row is empty, whatever its predictor holds (R157). -/
theorem huskRun_empty {i : Issue} {s : State} {reg : SlotReg} (ready : huskReady s i)
    (registered : slotOfHandle s (fgOf s i.tile).part i.tile (fld i.w 47 40) = some reg)
    (empty : keptRows s i.tile (opHi s i) reg = []) : huskRun s i = huskEmpty s i := by
  obtain ⟨-, -, rows, record⟩ := ready
  unfold huskRun
  dsimp only
  rw [rows, record, registered]
  exact if_pos (List.isEmpty_iff.mpr empty)

/-- A HUSK that is ready on a registered slot with kept rows and a predictor without parity error begins the expert step of its
prediction (R139 to R142). -/
theorem huskRun_begins {i : Issue} {s : State} {reg : SlotReg} {k : HuskPick} (ready : huskReady s i)
    (predictor : badLines s i.tile (opMid s i) 0 (hLines (opMid s i) * 64) = [])
    (registered : slotOfHandle s (fgOf s i.tile).part i.tile (fld i.w 47 40) = some reg)
    (kept : keptRows s i.tile (opHi s i) reg ≠ [])
    (pick : huskPick s i (parseHusk (descOf s i i.doff 32)) reg = some k) :
    huskRun s i = huskIssue s i (parseHusk (descOf s i i.doff 32)) reg k := by
  obtain ⟨-, -, rows, record⟩ := ready
  unfold huskRun
  dsimp only
  rw [rows, record, registered]
  dsimp only [Option.or]
  rw [if_neg (mt List.isEmpty_iff.mp kept), if_neg (by simp [predictor]), pick]

/-! ### CHAFF -/

/-- CHAFF with a good descriptor and good buffers writes its records. -/
theorem execChaff_ready {i : Issue} {s : State} {f : Fmt} (slot : slotIssues s i 0xFFC0FFFFFF000000)
    (fmt : chaffFmt (leNat (descOf s i i.doff 16)) = some f) (fields : chaffFields (leNat (descOf s i i.doff 16)))
    (buffers : chaffBuffers s i f) :
    execChaff i s = .next (chaffDone s i f (fld (leNat (descOf s i i.doff 16)) 47 40)
      (fld (leNat (descOf s i i.doff 16)) 31 0) (fld (leNat (descOf s i i.doff 16)) 95 64)) := by
  obtain ⟨threshold, length, flags, low, high⟩ := fields
  obtain ⟨records, source, count, clean⟩ := buffers
  rw [execChaff, issued_ok _ slot]
  simp only [chaffFmt] at fmt
  simp only [fmt]
  rw [if_neg (by simp [threshold, length, flags, low, high]), if_neg (by simp [records, source, count]), clean]

/-! ### The end of an expert step -/

/-- The oldest expert step of a tile recomputes where it is strict, ran from its prediction, missed and has not recomputed
yet, and otherwise updates its state record, whose parity error poisons the step instead (R146, R147, R157). -/
theorem execExpertLastChunkDone_oldest {t : Nat} {hidden : List (List Nat)} {s : State} {r : HuskRun} {rest : List HuskRun}
    {m : Nat} (oldest : (fgOf s t).husk = r :: rest) (misses : m = r.recompute.getD (missCount r hidden)) :
    execExpertLastChunkDone t hidden s
      = .next (if r.policy = 1 ∧ r.dense = false ∧ r.recompute = none ∧ 0 < m then expertRecompute s t r rest m
        else (badByte s t r.handle 0 64).elim (expertUpdate s t r rest m) (parityPoison s t)) := by
  subst misses
  simp only [execExpertLastChunkDone, oldest, Bool.not_eq_true', Option.isNone_iff_eq_none]
  split_ifs
  · rfl
  · cases badByte s t r.handle 0 64 <;> rfl

/-- Settles O24: a HUSK that is ready begins the expert step of its prediction or finds no row; CHAFF passes its checks;
the oldest expert step recomputes or not by the clause's condition. -/
theorem huskChaff : Obligations.HuskChaff := by
  unfold Obligations.HuskChaff
  refine ⟨?begins, ?empty, ?chaff, ?updates, ?recomputes⟩
  case begins =>
    intro i s reg k slot ready predictor registered kept pick
    show execHusk i s = _
    rw [execHusk_ready slot ready, huskRun_begins ready predictor registered kept pick]
  case empty =>
    intro i s reg slot ready registered empty
    show execHusk i s = _
    rw [execHusk_ready slot ready, huskRun_empty ready registered empty]
    rfl
  case chaff => exact fun i s f slot fmt fields buffers => execChaff_ready slot fmt fields buffers
  case updates =>
    intro t hidden s r rest m oldest misses keeps clean
    show execExpertLastChunkDone t hidden s = _
    rw [execExpertLastChunkDone_oldest oldest misses, if_neg keeps, clean, Option.elim_none]
  case recomputes =>
    intro t hidden s r rest m oldest misses strict
    show execExpertLastChunkDone t hidden s = _
    rw [execExpertLastChunkDone_oldest oldest misses, if_pos strict]

end Sys2Proof.Machine

/-! The memories at power-on, and where a T1 address lies: frame, die, interleave unit, channel and block (R158, R167). -/

namespace Sys2Proof.Machine

/-- Memories in which nothing is listed have their canonical form. -/
theorem wf_emptyMem : ({} : Mem).wf :=
  ⟨NMap.wf_nil _, NMap.wf_nil _, NMap.wf_nil _, NMap.wf_nil _, NMap.wf_nil _⟩

/-- Settles O4: the reset state lists no byte and no error, and its stretch and controllers are 0. -/
theorem invariantsAtReset : Obligations.InvariantsAtReset :=
  ⟨wf_emptyMem, Nat.zero_le _, Nat.zero_le _, Nat.zero_le _, Nat.zero_le _⟩

/-- A channel is the die of its frame and a place among the die's 64 channels (R167). -/
theorem t1Channel_div (a : Nat) : t1Channel a / 64 = t1Die a := by
  simp only [t1Channel, t1Die]; omega

theorem t1Channel_mod (a : Nat) : t1Channel a % 64 = (a % 0x200000 / 256 + a / 0x200000 / 2) % 64 := by
  simp only [t1Channel]; omega

/-- The frame pair that a block of a channel belongs to. -/
theorem t1Block_pair (a : Nat) : t1Block a / 4 / 128 = a / 0x200000 / 2 := by
  simp only [t1Block]; omega

/-- Of an interleave unit's number within its frame the block gives the quotient by the 64 channels, the channel gives the rest. -/
theorem t1Block_unit (a : Nat) :
    64 * (t1Block a / 4 % 128) + (t1Channel a + 64 - a / 0x200000 / 2 % 64) % 64 = a % 0x200000 / 256 := by
  have quotient : t1Block a / 4 % 128 = a % 0x200000 / 256 / 64 := by simp only [t1Block]; omega
  rw [quotient]
  simp only [t1Channel]; omega

/-- Channel and block give the 64-byte block back. -/
theorem t1AddrOf_place (a : Nat) : t1AddrOf (t1Channel a) (t1Block a) = a / 64 * 64 := by
  have line : t1Block a % 4 = a % 256 / 64 := by simp only [t1Block]; omega
  simp only [t1AddrOf, t1Block_pair, t1Block_unit, t1Channel_div, line, t1Die]
  omega

/-- Settles O10: two blocks that share a place are the block that the place gives back. -/
theorem t1Placement : Obligations.T1Placement := by
  unfold Obligations.T1Placement
  refine ⟨fun a _ => ⟨rfl, t1Channel_div a, t1Channel_mod a, t1AddrOf_place a⟩, fun a b _ _ channel block => ?_⟩
  have same : a / 64 * 64 = b / 64 * 64 := by rw [← t1AddrOf_place a, ← t1AddrOf_place b, channel, block]
  omega

end Sys2Proof.Machine

/-! The requests of a tile to its Granary: FILL, LIST, STORE and HINT from their slots to the Granary's queue, and the
completion of a STORE (R169 to R176). -/

namespace Sys2Proof.Machine

open Sys2Proof Sys2Proof.Config

/-- A request of a tile's GRQ slot is issued, counted and handed over the die edge. -/
theorem grqRequest_ok {i : Issue} {s u : State} (eff : State → State) (counted : u = countEffect s i.tile)
    (fresh : freshRun s i.tile) (slot : slotIssues s i grqMask) (edge : edgeGives s i.tile = true) :
    issued s i grqMask (fun s => overEdge s i.tile eff) = .next (eff u) := by
  rw [issued_ok _ slot, overEdge_ok _ fresh edge, counted]

/-- Settles O43: each request reaches its effect by `grqRequest_ok`, and a good descriptor, good buffers and a clean source
pass its checks. -/
theorem granaryRequests : Obligations.GranaryRequests := by
  unfold Obligations.GranaryRequests
  refine ⟨?fill, ?list, ?store, ?hint, ?stored⟩
  case fill =>
    intro i s u counted fresh slot edge desc buffer
    show execFill i s = _
    rw [execFill, grqRequest_ok _ counted fresh slot edge]
    dsimp only
    rw [if_neg (by simp [desc]), if_neg (by simp [buffer])]
  case list =>
    rintro i s u _ counted fresh slot edge rfl desc source buffer clean
    show execList i s = _
    rw [execList, grqRequest_ok _ counted fresh slot edge]
    dsimp only
    rw [if_neg (by simp [desc]), if_neg (by simp [source, buffer]), clean]
  case store =>
    rintro i s u _ _ counted fresh slot edge desc source clean rfl rfl
    show execStore i s = _
    rw [execStore, grqRequest_ok _ counted fresh slot edge]
    dsimp only
    rw [if_neg (by simp [desc]), if_neg (by simp [source]), clean]
  case hint =>
    intro i s u counted fresh slot edge desc
    show execHint i s = _
    rw [execHint, grqRequest_ok _ counted fresh slot edge]
    exact congrArg Host.Outcome.next (if_neg (by simp [desc]))
  case stored =>
    intro t k s x oldest
    show execStoreComplete t k s = _
    simp only [execStoreComplete, oldest]

end Sys2Proof.Machine

/-! What the commands on pages do: MAP, UNMAP and its completion, a grain flip and a quota write (R163, R174, R185, R186,
R191). -/

namespace Sys2Proof.Machine

open Sys2Proof Sys2Proof.Config

/-- MAP of an invalid entry that can be read sets VALID for a page homed elsewhere, and takes a free frame within quota for
a page homed here (R163). -/
theorem exec_map_invalid {d n f ea w : Nat} {s u : State} (takes : takesWrites s (pgGrn d)) (die : d < 2) (part : n < 4)
    (shown : u = mapCmd s d n 1 false) (good : rawBad u d n (mapAddr u d) = false)
    (entry : rawEntry u d n (mapAddr u d) = some (ea, w)) (invalid : bit w 63 = false)
    (room : peHomeDev w ≠ myDev u ∨ (quotaRoom u (peOwner w) n = true ∧ frameFree u (peOwner w) f = true)) :
    exec (.map d n f) s = .next (if peHomeDev w ≠ myDev u then t1WriteRaw u ea (leBytes 64 (w + 2 ^ 63))
      else mapTake u d n f ea w) := by
  subst shown
  show execMap d n f s = _
  rw [execMap, guardWrite_ok s _ _ takes, if_neg (by omega)]
  dsimp only
  rw [if_neg (by simp [good])]
  simp only [entry]
  rw [if_neg (by simp [invalid])]
  by_cases away : peHomeDev w ≠ myDev (mapCmd s d n 1 false)
  · rw [if_pos away, if_pos away]
  · obtain ⟨quota, frame⟩ := room.resolve_left away
    rw [if_neg away, if_neg away, if_neg (by simp [quota]), if_neg (by simp [frame])]

/-- UNMAP of a valid entry that can be read (R163, R191). -/
theorem exec_unmap_valid {d n ea w : Nat} {s : State} (takes : takesWrites s (pgGrn d)) (die : d < 2) (part : n < 4)
    (good : rawBad s d n (mapAddr s d) = false) (entry : rawEntry s d n (mapAddr s d) = some (ea, w))
    (valid : bit w 63 = true) :
    exec (.unmap d n) s = .next (if pageBusy s n (mapAddr s d) ea then
      { mapCmd s d n 2 true with grn := { s.grn with unmaps := s.grn.unmaps ++ [⟨d, n, mapAddr s d⟩] } }
      else releasePage (mapCmd s d n 2 false) n ea) := by
  show execUnmap d n s = _
  rw [execUnmap, guardWrite_ok s _ _ takes, if_neg (by omega), if_neg (by simp [good])]
  simp only [entry]
  rw [if_neg (by simp [valid])]
  exact (apply_ite Host.Outcome.next _ _ _).symm

/-- The copy that is next flips where its lines are acknowledged, else it moves them to its target (R174). -/
theorem exec_grainFlip_next {bs : List Byte} {f : Nat} {s : State} {c : Copy} (next : nextCopy s = some c) :
    exec (.grainFlip bs f) s = .next (if c.sent then flipCopy s c else if c.target = 1 then copiedToT1 s c bs f
      else copyToT2 s c bs) := by
  show execGrainFlip bs f s = _
  simp only [execGrainFlip, next, copiedToT1]
  by_cases sent : c.sent = true
  · rw [if_pos sent, if_pos sent]
  · by_cases target : c.target = 1
    · rw [if_neg sent, if_neg sent, if_neg (not_not.mpr target), if_pos target]
      cases frameOwned s c.part (entryW s c.entry) <;>
        cases frameFree s (peOwner (entryW s c.entry)) f && quotaRoom s (peOwner (entryW s c.entry)) c.part <;> rfl
    · rw [if_neg sent, if_neg sent, if_pos target, if_neg target]

/-- Settles O44: the checks of MAP and UNMAP pass by the clause's hypotheses, and the copy that is next goes on by its kind. -/
theorem pageCommands : Obligations.PageCommands := by
  unfold Obligations.PageCommands
  refine ⟨?map, ?unmap, ?unmapped, ?flips, ?quota⟩
  case map => exact fun d n f ea w s u => exec_map_invalid
  case unmap => exact fun d n ea w s => exec_unmap_valid
  case unmapped =>
    intro d ea s x oldest entry idle
    show execUnmapComplete d s = _
    simp only [execUnmapComplete, oldest, entry]
    rw [if_neg (by simp [idle])]
  case flips => exact fun bs f s c => exec_grainFlip_next
  case quota =>
    intro d n v s takes die part
    show execGrnQuotaWrite d n v s = _
    rw [execGrnQuotaWrite, guardWrite_ok s _ _ takes, if_neg (by omega)]

end Sys2Proof.Machine

/-! Refresh and scrub slots, determinism mode and digest configuration, and the die-to-die links (R188, R310, R320, R324,
R329, R330, R453, R455). -/

namespace Sys2Proof.Machine

open Sys2Proof Sys2Proof.Config

/-- A scrub slot of a channel in service serves the head of its queue, else the block at its position (R329). -/
theorem exec_patrolScrubSlot_scrubbing {c : Nat} {s : State} (chan : c < 128) (on : (getMch s c).scrubbing = true) :
    exec (.patrolScrubSlot c) s = .next ((getMch s c).queue.head?.elim
      (scrubBlock (setMch s c { getMch s c with scrubPos := ((getMch s c).scrubPos + 1) % chanBlocks }) c
        (getMch s c).scrubPos false)
      (fun b => scrubBlock (setMch s c { getMch s c with queue := (getMch s c).queue.tail }) c b true)) := by
  show execPatrolScrubSlot c s = _
  rw [execPatrolScrubSlot]
  dsimp only
  rw [if_neg (by simp [on]; omega)]
  cases (getMch s c).queue <;> rfl

/-- A write of DET_MODE that the device page takes, by whether work is live (R310, R453). -/
theorem exec_detModeWrite_taken {v : Bool} {s : State} (takes : takesWrites s pgDev) :
    exec (.detModeWrite v) s = if anyStep s = true ∨ s.sheaf.insts ≠ [] ∨ s.pav.insts ≠ [] then .next (err s pgDev 0x0101)
      else .next (if bit (regN s (pgDev + 0x100)) 0 = v then setRegN s (pgDev + 0x100) (b2n v) else
        { setRegN s (pgDev + 0x100) (b2n v) with
          det := { s.det with pending := if v = s.det.active then none else some (v, s.clk.root) } }) := by
  show execDetModeWrite v s = _
  rw [execDetModeWrite, guardWrite_ok s _ _ takes]
  dsimp only
  rw [apply_ite Host.Outcome.next]
  exact if_congr (by simp) rfl rfl

/-- A flit on an active link is taken where its CRC and its FSEQ are good, else discarded and counted (R213, R324). -/
theorem exec_d2dFlitReceive_active {k : Nat} {b : Bool} {bs : List Byte} {s u : State} (link : k < 3)
    (active : (getD2d s k).lstate = 2) (counted : u = inc64 s (pgD2d k + (if b then 0x40 else 0x48)) 1) :
    exec (.d2dFlitReceive k b bs) s = .next (if d2dCrcOk bs = true ∧ (d2dSeqd bs = false ∨ fld (byteFld bs 0 7) 59 48
          = (if b then (getD2d s k).seqB else (getD2d s k).seqA))
      then setD2d u k (d2dTaken (getD2d s k) b (d2dSeqd bs) (byteFld bs 0 7))
      else setD2d (evt (incSat (if d2dCrcOk bs then u else incSat u (pgD2d k + 0x58) 1) (pgD2d k + 0x5C) 1) (pgD2d k) 1) k
        (d2dFailed (getD2d s k) b)) := by
  subst counted
  show execD2dFlitReceive k b bs s = _
  rw [execD2dFlitReceive]
  dsimp only
  rw [if_neg (by omega), apply_ite Host.Outcome.next]
  refine if_congr (by simp) ?_ rfl
  cases b <;> rfl

/-- Settles O46: each event finds its channel, link or pending mode in the state that the clause names. -/
theorem integrityEvents : Obligations.IntegrityEvents := by
  unfold Obligations.IntegrityEvents
  refine ⟨?refresh, ?scrub, ?modeStored, ?modeRefused, ?modeTaken, ?digest, ?flit, ?retrain, ?retrained⟩
  case refresh =>
    intro c s chan service
    exact congrArg Host.Outcome.next (if_pos (by simp [chan, service]))
  case scrub => exact fun c s => exec_patrolScrubSlot_scrubbing
  case modeStored =>
    rintro v s _ takes steps sheaf pav rfl
    rw [exec_detModeWrite_taken takes, if_neg (by simp [steps, sheaf, pav])]
    rfl
  case modeRefused =>
    intro v s takes live
    rw [exec_detModeWrite_taken takes, if_pos live]
  case modeTaken =>
    rintro s _ v r pending rfl
    show execDetActiveChange s = _
    simp only [execDetActiveChange, pending]
  case digest =>
    intro n v s takes part
    show execDigestCfgWrite n v s = _
    rw [execDigestCfgWrite, guardWrite_ok s _ _ takes, if_neg (Nat.not_le.mpr part)]
    cases (getPart s n).steps <;> rfl
  case flit => exact fun k b bs s u => exec_d2dFlitReceive_active
  case retrain =>
    intro k s link active failed
    exact congrArg Host.Outcome.next (if_pos (by simp [link, active, failed]))
  case retrained =>
    intro k b s link retraining
    show execD2dRetrainDone k b s = _
    rw [execD2dRetrainDone]
    dsimp only
    rw [if_neg (by omega)]
    cases b <;> rfl

end Sys2Proof.Machine

/-! The mailbox commands of lending, of limits and of reading (R181 to R184, R319, R343, R420 to R425, R431). -/

namespace Sys2Proof.Machine

open Sys2Proof Sys2Proof.Config

/-- LEND whose frames are those that its offer allows answers with them (R424). -/
theorem exec_lend_good {req : List Byte} {fs : List Nat} {s u : State} {d k : Nat} (takes : mboxTakes s 0x0D 8 [] req)
    (shown : u = mboxShown s req) (hd : d = rq req 4 4) (hk : k = min (rq req 5 5) (offerLeft s d)) (die : d < 2)
    (some : rq req 5 5 ≠ 0) (most : rq req 5 5 ≤ 60) (borrower : 16 ≤ rq req 6 7)
    (good : fs.length = k ∧ fs.eraseDups.length = k ∧ fs.all (frameFree s d) = true) :
    exec (.lend req fs) s = .next (mboxAnswer ⟨0, leBytes 4 0 ++ [BitVec.ofNat 8 k, 0, 0, 0] ++ fs.flatMap (leBytes 4),
      lendFrames u d (rq req 6 7) fs⟩) := by
  subst hd hk
  obtain ⟨length, distinct, free⟩ := good
  show execLend req fs s = _
  rw [execLend]
  rw [if_neg (by simp [length, distinct, free]), mailbox_ok s u _ _ _ _ _ takes shown, if_neg (by omega)]

/-- LEASE_RECALL of leases that the partition holds marks and vacates them (R184, R424). -/
theorem exec_leaseRecall_held {req : List Byte} {s u : State} {n : Nat} {p : Part}
    (takes : mboxTakes s 0x10 (12 + 4 * rq req 6 6) [7, 8, 9, 10, 11] req) (shown : u = mboxShown s req)
    (part : mboxPart u req n p [.opened, .stopped, .closing])
    (held : (reqFrames req (rq req 6 6)).all (fun f => !(namedLeases u n (rq req 5 5) [f]).isEmpty) = true) :
    exec (.leaseRecall req) s = .next (mboxAnswer (done (((leasesMarked u n req).grn.leases.filter
      (fun l => l.recalled)).foldl vacate (leasesMarked u n req)))) := by
  show execLeaseRecall req s = _
  rw [execLeaseRecall, mailbox_ok s u _ _ _ _ _ takes shown, onPart_ok u req n p _ _ part]
  dsimp only
  rw [if_neg (by simp only [held]; decide)]

/-- Settles O48: each request is taken (`mailbox_ok`), its partition where it names one is in an allowed state (`onPart_ok`),
and its operands pass the command's checks. -/
theorem mailboxLendingAndReading : Obligations.MailboxLendingAndReading := by
  unfold Obligations.MailboxLendingAndReading
  refine ⟨?quiesce, ?limits, ?lend, ?returned, ?granted, ?recalled, ?recallDone, ?down, ?snapshot, ?map, ?digest⟩
  case quiesce =>
    intro req s u takes shown tag
    show execQuiesce req s = _
    rw [execQuiesce, mailbox_ok s u _ _ _ _ _ takes shown]
    dsimp only
    rw [if_neg (Nat.not_le.mpr tag)]
  case limits =>
    intro req s u takes shown
    show execSetAllot req s = _
    rw [execSetAllot, mailbox_ok s u _ _ _ _ _ takes shown]
  case lend => exact fun req fs s u d k => exec_lend_good
  case returned =>
    rintro req s u _ takes shown rfl recorded
    show execLendRelease req s = _
    rw [execLendRelease, mailbox_ok s u _ _ _ _ _ takes shown]
    dsimp only
    rw [if_neg (by simp only [recorded]; decide)]
  case granted =>
    intro req s u n p takes shown part lender other
    show execLeaseGrant req s = _
    rw [execLeaseGrant, mailbox_ok s u _ _ _ _ _ takes shown, onPart_ok u req n p _ _ part]
    dsimp only
    rw [if_neg (Nat.not_le.mpr lender), if_neg other]
  case recalled => exact fun req s u n p => exec_leaseRecall_held
  case recallDone =>
    rintro s _ busy vacant rfl
    show execLeaseRecallDone s = _
    rw [execLeaseRecallDone]
    dsimp only
    rw [if_neg (by simp [busy]), if_neg (by simp only [vacant]; decide)]
  case down =>
    intro req s u takes shown lender
    show execLenderDown req s = _
    rw [execLenderDown, mailbox_ok s u _ _ _ _ _ takes shown, if_neg (Nat.not_le.mpr lender)]
  case snapshot =>
    intro req s u takes shown ready timely
    show execSnapshot req s = _
    rw [execSnapshot, mailbox_ok s u _ _ _ _ _ takes shown]
    dsimp only
    rw [if_neg (by simp [ready]), if_neg (not_not.mpr timely)]
  case map =>
    intro req s u takes shown
    show execReadCmap req s = _
    rw [execReadCmap, mailbox_ok s u _ _ _ _ _ takes shown]
  case digest =>
    rintro req s u v _ bs takes shown rfl part index read
    show execReadDigest req s = _
    rw [execReadDigest, mailbox_ok s u _ _ _ _ _ takes shown]
    dsimp only
    rw [if_neg (by omega), read]

end Sys2Proof.Machine

/-! The life of a step: the sequencer's instructions, the commit of layer and step, T0 fills, admission and start, and the
change of a tile's context (R177, R286 to R291, R301 to R305). -/

namespace Sys2Proof.Machine

open Sys2Proof Sys2Proof.Config

/-- A transfer to a good target begins (R286, R290). -/
theorem transfer_good {s : State} {t target : Nat} (good : targetGood s t target) :
    transfer s t target = setFg s t { fgOf s t with jump := some (target, 2) } := by
  obtain ⟨inside, free, line⟩ := good
  refine if_neg (not_or.mpr ⟨Nat.not_le.mpr inside, not_or.mpr ⟨?_, ?_⟩⟩)
  · rw [free]; exact Bool.false_ne_true
  · rintro ⟨first, second, differ⟩
    exact line.elim first (Or.rec second differ)

/-- A LOOP whose count of bundles is good begins, or is skipped where its register is 0 (R290). -/
theorem exec_loop_good {i : Issue} {s : State} {n : Nat} (slot : slotIssues s i (syncMask 0x00FFF000))
    (hn : n = fld i.w 20 12 + 1) (good : loopGood s (fgOf s i.tile) (fld i.w 23 21) n) :
    exec (.loop i) s = .next (if lcGet (fgOf s i.tile) (fld i.w 23 21) = 0
      then setFg s i.tile { fgOf s i.tile with pc := (fgOf s i.tile).pc + n }
      else setFg s i.tile { fgOf s i.tile with
        loops := { reg := fld i.w 23 21, first := (fgOf s i.tile).pc + 1, last := (fgOf s i.tile).pc + n, done := 0 }
          :: (fgOf s i.tile).loops }) := by
  subst hn
  obtain ⟨size, depth, settled, straight, inside, nested⟩ := good
  show execLoop i s = _
  rw [execLoop, issued_ok _ slot]
  refine congrArg Host.Outcome.next (if_neg ?_)
  rintro (many | deep | fresh | jumping | outside | crossing)
  · exact absurd many (Nat.not_lt.mpr size)
  · exact absurd deep (Nat.not_le.mpr depth)
  · simp [settled] at fresh
  · simp [straight] at jumping
  · exact absurd outside (Nat.not_le.mpr inside)
  · exact Bool.false_ne_true (nested.symm.trans crossing)

/-- A COMMIT in progress whose tile may complete it completes, and its layer commits where every tile has (R302, R332). -/
theorem exec_commitComplete_may {t l : Nat} {s u : State} {st : Step} (committing : (fgOf s t).committing = some l)
    (step : stepOf s t = some st) (may : commitMay s t st) (done : u = layerCommitted s t l st) :
    exec (.commitComplete t) s = .next (if layerDone u (fgOf s t).part l st.tiles = true ∧ st.layersDone.contains l = false
      then publishLayer u (fgOf s t).part l st else u) := by
  subst done
  obtain ⟨idle, earlier, sound⟩ := may
  have unpoisoned : (st.phase == .halting && (st.damaged.isEmpty || st.damaged.any (fun d => d.1 == t))) = false := by
    rcases sound with running | ⟨damaged, spared⟩
    · simp [running]
    · rw [spared]; simp [damaged]
  show execCommitComplete t s = _
  rw [← advance_part (fgOf s t) (fgOf s t).jump s.clk.aclk]
  cases last : (fgOf s t).lastLayer with
  | none =>
    simp only [execCommitComplete, committing, step, idle, last, unpoisoned, Bool.not_eq_true']
    rfl
  | some p =>
    simp only [execCommitComplete, committing, step, idle, last, earlier p last, unpoisoned, Bool.not_eq_true']
    rfl

/-- No grain of a step's streams ends it: each is in T1, or waited for (R177). -/
theorem streams_unobstructed {rs : List JobRes} (ok : rs.all (fun r => r == .data [] || !noWait r) = true) :
    rs.find? (fun r => match r with
      | .unmapped | .badTmap | .lost _ => true
      | _ => false) = none := by
  rw [List.find?_eq_none]
  intro r mem
  have := List.all_eq_true.mp ok r mem
  cases r <;> simp_all

/-- A queued step of an open partition that no grain ends is admitted on its conditions, or asks for its grains (R177). -/
theorem exec_stepAdmit_queued {n : Nat} {s u : State} {st : Step} {r : List Step} (head : (getPart s n).steps = st :: r)
    (queued : st.phase = .queued) (opened : (getPart s n).state = .opened)
    (noted : u = st.streams.foldl (fun s e => noteRange s 0 n e.1 e.2) s)
    (ok : (streamStates u n st).all (fun r => r == .data [] || !noWait r) = true) :
    exec (.stepAdmit n) s =
      if firstThree u n st = false ∨ st.energyOk = false ∨ st.progs.all (fun q => (targetRole u n q).isSome) = false then
        .next (demandFill u n st)
      else
        match progsReady u n st with
        | (none, v) =>
          let w := registerStep (planMigrate (dropT2 (st.progs.foldl (fun s q => loadProg s n st q
            ((targetRole s n q).getD false)) v) 0 n (st.progs.flatMap (progPieces st))) n st) n st
          .next (mapHead w n (fun x => { x with
            phase := .admitted, admittedAt := now w, admitAclk := w.clk.aclk, startAt := some (startDue w),
            unclean := x.unclean || namesAway w n st }))
        | (some (.wait _ _), v) => .next (demandRange v n st.image st.imageBytes)
        | (some o, v) => .next (admitObstacle v n st.image o) := by
  subst noted
  show execStepAdmit n s = _
  simp only [execStepAdmit, head]
  rw [if_neg (by simp [queued, opened])]
  have none := streams_unobstructed ok
  split
  · next found => exact absurd (none.symm.trans found) (by simp)
  · simp only [Bool.not_eq_true'] <;> rfl

/-- A context save that finds no delivery in progress, its incoming area read: it writes the save area and goes on by what the
write met (R305). -/
theorem exec_contextSaveComplete_read {t m : Nat} {s u v : State} {r o : JobRes} (switch : (getTile s t).switchTo = some m)
    (idle : pendingCause s t = none) (read : incoming s t m = (r, u)) (ready : noWait r = true)
    (put : jobPut u (t / 60) (fgOf s t).part (areaAddr u t (fgOf s t).part) (saveArea u t) = (o, v)) :
    exec (.contextSaveComplete t) s = .next (contextSaved v t m (fgOf s t).part r o) := by
  show execContextSaveComplete t s = _
  simp only [execContextSaveComplete, switch, idle, read]
  rw [if_neg (by simp)]
  split
  · next found =>
    obtain ⟨rfl, rfl⟩ := Prod.mk.inj found
    exact absurd ready Bool.false_ne_true
  · next found =>
    obtain ⟨rfl, rfl⟩ := Prod.mk.inj found
    simp only [put]
    cases o <;> rfl

/-- A context save whose incoming area lies in a grain of no tier asks for it (R176, R305). -/
theorem exec_contextSaveComplete_wait {t m ea g : Nat} {s u : State} (switch : (getTile s t).switchTo = some m)
    (idle : pendingCause s t = none) (read : incoming s t m = (.wait ea g, u)) :
    exec (.contextSaveComplete t) s = .next (demandRange u m (areaAddr u t m) saveAreaBytes) := by
  show execContextSaveComplete t s = _
  simp only [execContextSaveComplete, switch, idle, read]
  rw [if_neg (by simp)]

/-- Settles O52: each instruction and each event of a step finds the state that the clause's hypotheses give, so its effect is
the branch that they select. -/
theorem stepLifecycle : Obligations.StepLifecycle := by
  unfold Obligations.StepLifecycle
  refine ⟨?setlc, ?setlcBuffer, ?loop, ?jump, ?jnz, ?commit, ?committed, ?ends, ?leaves, ?filled, ?admitted, ?demanded,
    ?starts, ?quantum, ?saved, ?areaAsked⟩
  case setlc =>
    intro i s slot immediate
    show execSetlc i s = _
    rw [execSetlc, issued_ok _ slot]
    exact congrArg Host.Outcome.next (if_neg (by simp [immediate]))
  case setlcBuffer =>
    rintro i s _ slot buffer reserved rfl bounds
    show execSetlc i s = _
    rw [execSetlc, issued_ok _ slot]
    dsimp only
    rw [if_pos buffer, if_neg (not_not.mpr reserved), if_neg (by simp [bounds])]
  case loop => exact fun i s n => exec_loop_good
  case jump =>
    intro i s slot good
    show execJump i s = _
    rw [execJump, issued_ok _ slot, transfer_good good]
  case jnz =>
    intro i s slot settled good
    show execJnz i s = _
    rw [execJnz, issued_ok _ slot]
    dsimp only
    rw [if_neg (by simp [settled]), transfer_good good]
  case commit =>
    intro i s slot above
    show execCommit i s = _
    rw [execCommit, issued_ok _ slot]
    exact congrArg Host.Outcome.next (if_neg (by simp [above]))
  case committed => exact fun t l s u st => exec_commitComplete_may
  case ends =>
    intro i s slot
    show execEnd i s = _
    rw [execEnd, issued_ok _ slot]
  case leaves =>
    rintro n s _ st r head ready rfl
    show execStepCommit n s = _
    simp only [execStepCommit, head]
    rw [if_neg (by simp [ready])]
  case filled =>
    intro n s u st q f d next read
    show execT0FillComplete n s = _
    simp only [execT0FillComplete, next, read]
  case admitted =>
    rintro n s u v _ st r head queued opened noted three energy roles progs rfl
    have inT1 : (streamStates u n st).all (fun r => r == .data []) = true := (Bool.and_eq_true _ _ ▸ three).2
    have ok : (streamStates u n st).all (fun r => r == .data [] || !noWait r) = true :=
      List.all_eq_true.mpr fun r mem => by rw [List.all_eq_true.mp inT1 r mem, Bool.true_or]
    rw [exec_stepAdmit_queued head queued opened noted ok, if_neg (by simp [three, energy, roles]), progs]
  case demanded =>
    intro n s u st r head queued opened noted ok missing
    rw [exec_stepAdmit_queued head queued opened noted ok, if_pos missing]
  case starts =>
    rintro n a s _ st head start admitted due unstopped foreground rfl
    show execStepStart n s = _
    simp only [execStepStart, head, start]
    rw [if_neg (by simp [admitted, unstopped, foreground, due])]
  case quantum =>
    intro t s live elapsed
    exact congrArg Host.Outcome.next (if_pos (by simp only [live, decide_eq_true elapsed, Bool.and_true]))
  case saved =>
    rintro t m _ s u v r o switch idle rfl read ready put
    exact exec_contextSaveComplete_read switch idle read ready put
  case areaAsked => exact fun t m s u ea g => exec_contextSaveComplete_wait

end Sys2Proof.Machine

/-! ## What every step keeps

Two invariants of the device go from a state to the next: the canonical form of its memories (R158, R322) and the bound
of its stretch (R352). `Keeps s₀ s` says that `s` has each of them where `s₀` has it. It is reflexive, and every operation
of the model carries it from its argument to its result: one lemma for each operation, named after it and in the order of
the model's files, so that a proof follows its operation's definition (`h.evt`, `.ite _ _`, `h.foldl _`). Where an
operation goes on from an intermediate state in several branches, `extract_lets` names that state. Updates of fields that
neither invariant speaks of are covered by `h.frame`. -/

namespace Sys2Proof.Machine

open Sys2Proof Sys2Proof.Config

/-- The stretch in force and the three controllers are at most 56 (R352). -/
def StretchBounded (s : State) : Prop := s.clk.stretch ≤ 56 ∧ s.gate.kE ≤ 56 ∧ s.gate.kI ≤ 56 ∧ s.gate.kT ≤ 56

/-- A state has the canonical form of the memories, and the bound of the stretch, where an earlier one has it. -/
structure Keeps (s₀ s : State) : Prop where
  wf : s₀.mem.wf → s.mem.wf
  bounded : StretchBounded s₀ → StretchBounded s

/-- An outcome that is a next state keeps the invariants. -/
inductive OutKeeps (s₀ : State) : Out → Prop
  | next {s : State} (h : Keeps s₀ s) : OutKeeps s₀ (.next s)
  | fault {f : Fault} : OutKeeps s₀ (.fault f)
  | refused {r : Refusal} : OutKeeps s₀ (.refused r)

/-- A result that is no fault code keeps the invariants in the state that it carries. -/
inductive SumKeeps {α : Type} (state : α → State) (s₀ : State) : α ⊕ Nat → Prop
  | inl {x : α} (h : Keeps s₀ (state x)) : SumKeeps state s₀ (.inl x)
  | inr {n : Nat} : SumKeeps state s₀ (.inr n)

variable {s₀ s t : State} {α β γ : Type} {c : Prop} [Decidable c]

/-! ### Branches, pairs and folds -/

theorem Keeps.refl (s : State) : Keeps s s := ⟨id, id⟩

/-- A state with the same memories, stretch and controllers. -/
theorem Keeps.same (h : Keeps s₀ s) (mem : t.mem = s.mem := by rfl) (stretch : t.clk.stretch = s.clk.stretch := by rfl)
    (kE : t.gate.kE = s.gate.kE := by rfl) (kI : t.gate.kI = s.gate.kI := by rfl)
    (kT : t.gate.kT = s.gate.kT := by rfl) : Keeps s₀ t :=
  ⟨fun wf => mem ▸ h.wf wf, fun bound => by unfold StretchBounded; rw [stretch, kE, kI, kT]; exact h.bounded bound⟩

/-- Any update of the other fields. -/
theorem Keeps.frame {pending regs tiles parts edge mesh backlog gateUsed kept grn mch host lodge fab thr sheaf pav atom
    belv fuse boot tb det d2d mod freeIdx rdata} (h : Keeps s₀ s) :
    Keeps s₀ ⟨pending, s.clk, regs, s.mem, tiles, parts, edge, mesh, backlog, gateUsed, kept, grn, mch, host, lodge, fab,
      thr, sheaf, pav, atom, s.gate, belv, fuse, boot, tb, det, d2d, mod, freeIdx, rdata⟩ := h.same

/-- Any update of the clocks that leaves the stretch, with any of the other fields. -/
theorem Keeps.clock {pending regs tiles parts edge mesh backlog gateUsed kept grn mch host lodge fab thr sheaf pav atom
    belv fuse boot tb det d2d mod freeIdx rdata} {c : Clk} (h : Keeps s₀ s)
    (stretch : c.stretch = s.clk.stretch := by rfl) :
    Keeps s₀ ⟨pending, c, regs, s.mem, tiles, parts, edge, mesh, backlog, gateUsed, kept, grn, mch, host, lodge, fab,
      thr, sheaf, pav, atom, s.gate, belv, fuse, boot, tb, det, d2d, mod, freeIdx, rdata⟩ := h.same (stretch := stretch)

/-- An update of the memories that keeps their canonical form, with any of the other fields. -/
theorem Keeps.memory (h : Keeps s₀ s) (wf : s.mem.wf → t.mem.wf) (stretch : t.clk.stretch = s.clk.stretch := by rfl)
    (gate : t.gate = s.gate := by rfl) : Keeps s₀ t :=
  ⟨fun wf₀ => wf (h.wf wf₀), fun bound => by unfold StretchBounded; rw [stretch, gate]; exact h.bounded bound⟩

/-- An update of the gatehouse that keeps the controllers within their bound. -/
theorem Keeps.gate {g : Gate} (h : Keeps s₀ s) (bounded : StretchBounded s₀ → g.kE ≤ 56 ∧ g.kI ≤ 56 ∧ g.kT ≤ 56) :
    Keeps s₀ { s with gate := g } := ⟨h.wf, fun bound => ⟨(h.bounded bound).1, bounded bound⟩⟩

/-- An update of the gatehouse that leaves the controllers. -/
theorem Keeps.gateSame {g : Gate} (h : Keeps s₀ s) (kE : g.kE = s.gate.kE := by rfl) (kI : g.kI = s.gate.kI := by rfl)
    (kT : g.kT = s.gate.kT := by rfl) : Keeps s₀ { s with gate := g } := h.same (kE := kE) (kI := kI) (kT := kT)

/-- A reset of the device that leaves of its memories those of the host. -/
theorem Keeps.reset (h : Keeps s₀ s) (mem : t.mem = { ({} : Mem) with host := s.mem.host } := by rfl)
    (stretch : t.clk.stretch = 0 := by rfl) (gate : t.gate = {} := by rfl) : Keeps s₀ t := by
  refine ⟨fun wf => ?_, fun _ => ?_⟩
  · obtain ⟨-, -, -, -, host⟩ := h.wf wf
    exact mem ▸ ⟨NMap.wf_nil _, NMap.wf_nil _, NMap.wf_nil _, NMap.wf_nil _, host⟩
  · unfold StretchBounded
    rw [stretch, gate]
    exact ⟨Nat.zero_le _, Nat.zero_le _, Nat.zero_le _, Nat.zero_le _⟩

theorem Keeps.ite (hs : Keeps s₀ s) (ht : Keeps s₀ t) : Keeps s₀ (if c then s else t) := by
  split <;> assumption

theorem Keeps.iteSnd {p q : α × State} (hp : Keeps s₀ p.2) (hq : Keeps s₀ q.2) : Keeps s₀ (if c then p else q).2 := by
  split <;> assumption

theorem Keeps.iteFst {p q : State × α} (hp : Keeps s₀ p.1) (hq : Keeps s₀ q.1) : Keeps s₀ (if c then p else q).1 := by
  split <;> assumption

theorem Keeps.iteMid {p q : α × State × β} (hp : Keeps s₀ p.2.1) (hq : Keeps s₀ q.2.1) :
    Keeps s₀ (if c then p else q).2.1 := by
  split <;> assumption

theorem Keeps.iteTrip {p q : α × β × State} (hp : Keeps s₀ p.2.2) (hq : Keeps s₀ q.2.2) :
    Keeps s₀ (if c then p else q).2.2 := by
  split <;> assumption

theorem Keeps.iteMbox {a b : MboxAns} (ha : Keeps s₀ a.st) (hb : Keeps s₀ b.st) : Keeps s₀ (if c then a else b).st := by
  split <;> assumption

/-- A fold keeps what each of its steps keeps, in the state that its accumulator carries. -/
theorem Keeps.foldlOf (state : β → State) {f : β → α → β} {l : List α} {b : β} (h : Keeps s₀ (state b))
    (hf : ∀ b a, Keeps s₀ (state b) → Keeps s₀ (state (f b a))) : Keeps s₀ (state (l.foldl f b)) := by
  induction l generalizing b with
  | nil => exact h
  | cons a l ih => exact ih (hf b a h)

theorem Keeps.foldl {f : State → α → State} {l : List α} (h : Keeps s₀ s) (hf : ∀ s a, Keeps s₀ s → Keeps s₀ (f s a)) :
    Keeps s₀ (l.foldl f s) := h.foldlOf id hf

theorem Keeps.foldlSnd {f : β × State → α → β × State} {l : List α} {b : β × State} (h : Keeps s₀ b.2)
    (hf : ∀ b a, Keeps s₀ b.2 → Keeps s₀ (f b a).2) : Keeps s₀ (l.foldl f b).2 :=
  foldlOf (fun b : β × State => b.2) h hf

theorem Keeps.foldlFst {f : State × β → α → State × β} {l : List α} {b : State × β} (h : Keeps s₀ b.1)
    (hf : ∀ b a, Keeps s₀ b.1 → Keeps s₀ (f b a).1) : Keeps s₀ (l.foldl f b).1 :=
  foldlOf (fun b : State × β => b.1) h hf

theorem Keeps.foldlMid {f : β × State × γ → α → β × State × γ} {l : List α} {b : β × State × γ} (h : Keeps s₀ b.2.1)
    (hf : ∀ b a, Keeps s₀ b.2.1 → Keeps s₀ (f b a).2.1) : Keeps s₀ (l.foldl f b).2.1 :=
  foldlOf (fun b : β × State × γ => b.2.1) h hf

theorem Keeps.result {a : α} (h : Keeps s₀ s) : Keeps s₀ (a, s).2 := h

theorem Keeps.resultTrip {a : α} {b : β} (h : Keeps s₀ s) : Keeps s₀ (a, b, s).2.2 := h

/-- The state that a match takes out of a result. -/
theorem Keeps.snd {p : α × State} {a : α} (h : Keeps s₀ p.2) (e : p = (a, s)) : Keeps s₀ s := by subst e; exact h

theorem Keeps.mid {p : α × State × β} {a : α} {b : β} (h : Keeps s₀ p.2.1) (e : p = (a, s, b)) : Keeps s₀ s := by
  subst e; exact h

theorem Keeps.trip {p : α × β × State} {a : α} {b : β} (h : Keeps s₀ p.2.2) (e : p = (a, b, s)) : Keeps s₀ s := by
  subst e; exact h

/-! ### Outcomes and results -/

theorem OutKeeps.ite {o p : Out} (ho : OutKeeps s₀ o) (hp : OutKeeps s₀ p) : OutKeeps s₀ (if c then o else p) := by
  split <;> assumption

theorem OutKeeps.out (h : OutKeeps s₀ (.next s)) : Keeps s₀ s := by
  cases h
  assumption

theorem OutKeeps.foldl {f : Out → α → Out} {l : List α} {o : Out} (h : OutKeeps s₀ o)
    (hf : ∀ o a, OutKeeps s₀ o → OutKeeps s₀ (f o a)) : OutKeeps s₀ (l.foldl f o) := by
  induction l generalizing o with
  | nil => exact h
  | cons a l ih => exact ih (hf o a h)

theorem SumKeeps.foldl {state : β → State} {f : β ⊕ Nat → α → β ⊕ Nat} {l : List α} {r : β ⊕ Nat}
    (h : SumKeeps state s₀ r) (hf : ∀ r a, SumKeeps state s₀ r → SumKeeps state s₀ (f r a)) :
    SumKeeps state s₀ (l.foldl f r) := by
  induction l generalizing r with
  | nil => exact h
  | cons a l ih => exact ih (hf r a h)

theorem SumKeeps.ite {state : α → State} {x y : α ⊕ Nat} (hx : SumKeeps state s₀ x) (hy : SumKeeps state s₀ y) :
    SumKeeps state s₀ (if c then x else y) := by
  split <;> assumption

theorem SumKeeps.out {state : α → State} {x : α} (h : SumKeeps state s₀ (.inl x)) : Keeps s₀ (state x) := by
  cases h
  assumption

/-- The state that a match takes out of a result that is no fault code. -/
theorem SumKeeps.of_inl {state : α → State} {r : α ⊕ Nat} {x : α} (h : SumKeeps state s₀ r) (e : r = .inl x) :
    Keeps s₀ (state x) := by
  subst e
  exact h.out

/-! ### Structural recursion

To state the equation of a recursive function that matches on a read of T1, Lean would evaluate the read. For the four
functions of that kind the induction follows the recursion itself. -/

/-- What holds of the values at 0 and at successors holds of a function by structural recursion. -/
theorem brecOn_nat {motive : Nat → Type} {P : ∀ n, motive n → Prop} {f : ∀ n, Nat.below (motive := motive) n → motive n}
    (zero : ∀ below, P 0 (f 0 below)) (succ : ∀ n below, P n below.1 → P (n + 1) (f (n + 1) below)) (n : Nat) :
    P n (Nat.brecOn n f) := by
  induction n with
  | zero => exact zero _
  | succ n ih => exact succ n _ ih

theorem brecOn_list {α : Type} {motive : List α → Type} {P : ∀ l, motive l → Prop}
    {f : ∀ l, List.below (motive := motive) l → motive l} (nil : ∀ below, P [] (f [] below))
    (cons : ∀ a l below, P l below.1 → P (a :: l) (f (a :: l) below)) (l : List α) : P l (List.brecOn l f) := by
  induction l with
  | nil => exact nil _
  | cons a l ih => exact cons a l _ ih

end Sys2Proof.Machine

/-! ## What every step keeps: registers, memories and packets -/

namespace Sys2Proof.Machine

open Sys2Proof Sys2Proof.Config

variable {s₀ s t : State}

protected theorem Keeps.whenOk {ok : Bool} {t : State} (h : Keeps s₀ s) (hk : Keeps s₀ t) :
    OutKeeps s₀ (whenOk ok s t) := .next (.ite hk h)

protected theorem Keeps.setReg {a : Nat} {v : Word} (h : Keeps s₀ s) : Keeps s₀ (setReg s a v) := h.frame

protected theorem Keeps.setRegN {a v : Nat} (h : Keeps s₀ s) : Keeps s₀ (setRegN s a v) := h.setReg

protected theorem Keeps.setPair {lo v : Nat} (h : Keeps s₀ s) : Keeps s₀ (setPair s lo v) := h.setRegN.setRegN

protected theorem Keeps.inc64 {a n : Nat} (h : Keeps s₀ s) : Keeps s₀ (inc64 s a n) := h.frame

protected theorem Keeps.incSat {a n : Nat} (h : Keeps s₀ s) : Keeps s₀ (incSat s a n) := h.frame

protected theorem Keeps.msixSend {fn v : Nat} (h : Keeps s₀ s) : Keeps s₀ (msixSend s fn v) := by
  unfold msixSend
  exact .ite h.frame h.frame

protected theorem Keeps.irqRise (h : Keeps s₀ s) : Keeps s₀ (irqRise s) :=
  .ite h (.ite h.frame h.msixSend.frame)

protected theorem Keeps.evt {page b : Nat} (h : Keeps s₀ s) : Keeps s₀ (evt s page b) := by
  unfold evt
  exact .ite (.ite h.setReg.setReg.setReg.irqRise h.setReg.setReg.setReg) h.setReg.setReg

protected theorem Keeps.writeLog {code page : Nat} {part : Option Nat} {step supp : Nat} (h : Keeps s₀ s) :
    Keeps s₀ (logErr.writeLog s code page part step supp) := by
  unfold logErr.writeLog
  exact .ite h.frame.inc64.evt h.frame.inc64

protected theorem Keeps.logErr {page code : Nat} {part : Option Nat} {step : Nat} (h : Keeps s₀ s) :
    Keeps s₀ (logErr s page code part step) :=
  .ite h (by dsimp only; split; exacts [.ite h.frame.incSat h.writeLog, h.writeLog])

protected theorem Keeps.errIn {page code : Nat} {part : Option Nat} {step : Nat} (h : Keeps s₀ s) :
    Keeps s₀ (errIn s page code part step) := by
  unfold errIn
  exact .logErr (.setReg (.ite h.setRegN.setRegN.frame (.ite h.setRegN h)))

protected theorem Keeps.err {page code : Nat} (h : Keeps s₀ s) : Keeps s₀ (err s page code) := h.errIn

protected theorem Keeps.guardWrite {page : Nat} {k : Out} (h : Keeps s₀ s) (hk : OutKeeps s₀ k) :
    OutKeeps s₀ (guardWrite s page k) := by
  unfold guardWrite
  exact .ite (.next h.err) (.ite (.next h) hk)

protected theorem Keeps.freshFree (h : Keeps s₀ s) : Keeps s₀ (freshFree s).2 := h.frame

protected theorem Keeps.writeSram {t a : Nat} {bs : List Byte} (h : Keeps s₀ s) : Keeps s₀ (writeSram s t a bs) :=
  h.memory fun ⟨sram, bad, t1, err, host⟩ => ⟨writeBytes_wf _ _ _ sram, NMap.wf_filter _ _ _ bad, t1, err, host⟩

protected theorem Keeps.zeroSram {t lo hi : Nat} (h : Keeps s₀ s) : Keeps s₀ (zeroSram s t lo hi) :=
  h.memory fun ⟨sram, bad, t1, err, host⟩ => ⟨zeroBytes_wf _ _ _ sram, NMap.wf_filter _ _ _ bad, t1, err, host⟩

protected theorem Keeps.writeHost {a : Nat} {bs : List Byte} (h : Keeps s₀ s) : Keeps s₀ (writeHost s a bs) :=
  h.memory fun ⟨sram, bad, t1, err, host⟩ => ⟨sram, bad, t1, err, writeBytes_wf _ _ _ host⟩

protected theorem Keeps.fetchHost {a n : Nat} (h : Keeps s₀ s) : Keeps s₀ (fetchHost s a n).2 := h.inc64

protected theorem Keeps.t1WriteRaw {a : Nat} {bs : List Byte} (h : Keeps s₀ s) : Keeps s₀ (t1WriteRaw s a bs) :=
  h.memory fun ⟨sram, bad, t1, err, host⟩ => ⟨sram, bad, writeBytes_wf _ _ _ t1, NMap.wf_filter _ _ _ err, host⟩

protected theorem Keeps.setMch {c : Nat} {m : Mch} (h : Keeps s₀ s) : Keeps s₀ (setMch s c m) := h.frame

protected theorem Keeps.noteCorrected {a : Nat} {queueIt : Bool} (h : Keeps s₀ s) :
    Keeps s₀ (noteCorrected s a queueIt) := by
  unfold noteCorrected
  exact .evt (.incSat (.setMch (.ite h h.setRegN)))

protected theorem Keeps.noteUncorrectable {a code : Nat} (h : Keeps s₀ s) :
    Keeps s₀ (noteUncorrectable s a code) := by
  unfold noteUncorrectable
  exact .err (.evt (.incSat (.setMch (.ite h h.setRegN))))

protected theorem Keeps.readBlock {a code : Nat} {queueIt : Bool} (h : Keeps s₀ s) :
    Keeps s₀ (readBlock s a code queueIt).2 := by
  unfold readBlock
  dsimp only
  split
  exacts [h.inc64, h.inc64.noteCorrected, h.inc64.noteUncorrectable, h.inc64.freshFree.noteCorrected]

protected theorem Keeps.readBlocks {code : Nat} {queueIt : Bool} {as : List Nat} (h : Keeps s₀ s) :
    Keeps s₀ (readBlocks code queueIt as s).2 := by
  induction as generalizing s with
  | nil => exact h
  | cons a as ih =>
    unfold readBlocks
    split
    · next e => exact h.readBlock.snd e
    · next e =>
        have h1 := h.readBlock.snd e
        split <;> (next e => exact (ih h1).snd e)

protected theorem Keeps.t1Read {a n : Nat} (h : Keeps s₀ s) : Keeps s₀ (t1Read s a n).2 := by
  unfold t1Read
  split <;> (next e => exact h.readBlocks.snd e)

protected theorem Keeps.t1WriteBlock {a : Nat} {bs : List Byte} (h : Keeps s₀ s) :
    Keeps s₀ (t1WriteBlock s a bs).2 := by
  unfold t1WriteBlock
  exact .iteSnd h.inc64.t1WriteRaw.setMch <| by
      split
      · next e => exact h.incSat.readBlock.snd e
      · next e => exact (h.incSat.readBlock.snd e).inc64.t1WriteRaw.setMch

protected theorem Keeps.t1Write {a : Nat} {bs : List Byte} (h : Keeps s₀ s) : Keeps s₀ (t1Write s a bs).2 :=
  .foldlSnd h fun _ _ h1 => h1.t1WriteBlock

protected theorem Keeps.setTile {t : Nat} {x : Tile} (h : Keeps s₀ s) : Keeps s₀ (setTile s t x) := h.frame

protected theorem Keeps.setFg {t : Nat} {c : Ctx} (h : Keeps s₀ s) : Keeps s₀ (setFg s t c) := h.setTile

protected theorem Keeps.setCtx {t : Nat} {bg : Bool} {c : Ctx} (h : Keeps s₀ s) : Keeps s₀ (setCtx s t bg c) :=
  .ite h.setTile h.setFg

protected theorem Keeps.send {p : Pkt} (h : Keeps s₀ s) : Keeps s₀ (send s p) := .ite h h.frame

protected theorem Keeps.takeEjected {f : Pkt → Bool} {p : Pkt} (h : Keeps s₀ s) (e : takeEjected s f = some (p, t)) :
    Keeps s₀ t := by
  obtain ⟨_, _, e⟩ := Option.map_eq_some_iff.mp e
  cases e
  exact h.frame

end Sys2Proof.Machine

/-! ## What every step keeps: the fabric and the issuers -/

namespace Sys2Proof.Machine

open Sys2Proof Sys2Proof.Config

variable {s₀ s t : State}

protected theorem Keeps.setPort {p : Nat} {x : Port} (h : Keeps s₀ s) : Keeps s₀ (setPort s p x) := h.frame

protected theorem Keeps.wireOut {p : Nat} {fs : List Flit} (h : Keeps s₀ s) : Keeps s₀ (wireOut s p fs) := by
  unfold wireOut
  exact .inc64 (.frame (by split; exacts [h.setPort, h]))

protected theorem Keeps.sendIdle {p : Nat} (h : Keeps s₀ s) : Keeps s₀ (sendIdle s p) := h.wireOut

protected theorem Keeps.sendIdentity {p : Nat} (h : Keeps s₀ s) : Keeps s₀ (sendIdentity s p) := by
  unfold sendIdentity
  exact h.wireOut

protected theorem Keeps.sendCredits {n p : Nat} (h : Keeps s₀ s) : Keeps s₀ (sendCredits n s p) := by
  induction n generalizing s with
  | zero => exact h
  | succ n ih =>
    unfold sendCredits
    dsimp only
    split
    exacts [h, .ite h (ih h.setPort.wireOut)]

protected theorem Keeps.sendQueue {n p : Nat} (h : Keeps s₀ s) : Keeps s₀ (sendQueue n s p) := by
  induction n generalizing s with
  | zero => exact h
  | succ n ih =>
    unfold sendQueue
    dsimp only
    split
    exacts [h, .ite h (ih h.setPort.wireOut.inc64)]

protected theorem Keeps.portPump {p : Nat} (h : Keeps s₀ s) : Keeps s₀ (portPump s p) := by
  unfold portPump
  exact .ite h.sendCredits.sendQueue.sendIdle h.sendCredits.sendQueue

protected theorem Keeps.releaseHold {h' : Nat} (h : Keeps s₀ s) : Keeps s₀ (releaseHold s h') := by
  unfold releaseHold
  split
  exacts [h, .ite h.frame h.frame.setPort.portPump]

protected theorem Keeps.enqueue {p : Nat} {pkt : Pkt} {hold : Nat} (h : Keeps s₀ s) :
    Keeps s₀ (enqueue s p pkt hold) := by
  unfold enqueue
  exact h.setPort.portPump

protected theorem Keeps.eject {p : Pkt} (h : Keeps s₀ s) : Keeps s₀ (eject s p) :=
  .ite (.ite h.inc64.incSat.err (.ite h.inc64.incSat (.ite h.inc64 h.inc64.frame))) h.incSat

protected theorem Keeps.loseStamp {p : Pkt} (h : Keeps s₀ s) : Keeps s₀ (loseStamp s p) := h.frame.err

protected theorem Keeps.dropUnroutable (h : Keeps s₀ s) : Keeps s₀ (dropUnroutable s) := h.incSat.evt.err

protected theorem Keeps.dropOuter {code : Nat} (h : Keeps s₀ s) : Keeps s₀ (dropOuter s code) :=
  h.incSat.evt.err

protected theorem Keeps.goTo {p : Pkt} {c : Cand} {hold : Nat} {atSource : Bool} (h : Keeps s₀ s) :
    Keeps s₀ (goTo s p c hold atSource) := by
  unfold goTo
  exact .enqueue (.ite h.incSat h)

protected theorem Keeps.drawIntermediates {me d : Nat} (h : Keeps s₀ s) :
    Keeps s₀ (drawIntermediates s me d).2 := by
  unfold drawIntermediates
  exact .iteSnd h h.freshFree

protected theorem Keeps.noteAvoided {me target : Nat} {xOnly : Bool} (h : Keeps s₀ s) :
    Keeps s₀ (noteAvoided s me target xOnly) := .ite h.incSat h

protected theorem Keeps.routeUnicast {p : Pkt} {hold : Nat} {atSource : Bool} (h : Keeps s₀ s) :
    Keeps s₀ (routeUnicast s p hold atSource) := by
  unfold routeUnicast
  exact .ite h.dropUnroutable.releaseHold <|
    .ite (by split; exacts [h.enqueue, h.dropUnroutable.releaseHold]) <|
    .ite (by split; exacts [h.noteAvoided.goTo, h.dropUnroutable.releaseHold]) <|
    .ite
        (by split; exacts [.ite h.dropUnroutable.releaseHold h.noteAvoided.goTo, h.dropUnroutable.releaseHold]) <| by
      dsimp only
      split
      · exact .ite (.goTo (.noteAvoided (.iteSnd h.drawIntermediates h))) <| by
            split
            · exact .goTo (.noteAvoided (.iteSnd h.drawIntermediates h))
            · exact .releaseHold (.dropUnroutable (.noteAvoided (.iteSnd h.drawIntermediates h)))
      · split
        · exact .goTo (.noteAvoided (.iteSnd h.drawIntermediates h))
        · exact .releaseHold (.dropUnroutable (.iteSnd h.drawIntermediates h))

protected theorem Keeps.mcastNote {me mask : Nat} (h : Keeps s₀ s) : Keeps s₀ (mcastNote s me mask) := by
  unfold mcastNote
  exact .ite (h.foldl fun _ _ h1 => h1.dropUnroutable).incSat (h.foldl fun _ _ h1 => h1.dropUnroutable)

protected theorem Keeps.sendCopies {l : List (Nat × Nat)} {p : Pkt} {hold : Nat} {atSource : Bool} (h : Keeps s₀ s) :
    Keeps s₀ (sendCopies l s p hold atSource) := by
  induction l generalizing s with
  | nil => exact h
  | cons a l ih =>
    refine ih ?_
    split
    exacts [h.enqueue, h.dropUnroutable.releaseHold]

protected theorem Keeps.dropNonMembers {mask : Nat} (h : Keeps s₀ s) : Keeps s₀ (dropNonMembers s mask) := by
  unfold dropNonMembers
  exact .ite h h.incSat.err

protected theorem Keeps.routeOuter {p : Pkt} {hold : Nat} {atSource : Bool} (h : Keeps s₀ s) :
    Keeps s₀ (routeOuter s p hold atSource) := by
  unfold routeOuter
  dsimp only
  split
  · exact .ite h.dropUnroutable.releaseHold h.dropOuter.releaseHold
  · exact .ite (.ite h.dropOuter.releaseHold h.enqueue) h.goTo

protected theorem Keeps.openHold {port vc units copies : Nat} (h : Keeps s₀ s) :
    Keeps s₀ (openHold s port vc units copies).2 := by
  unfold openHold
  exact h.frame

protected theorem Keeps.execPacketInject (h : Keeps s₀ s) : OutKeeps s₀ (execPacketInject s) := by
  unfold execPacketInject
  split
  · exact .next h
  · exact .ite (.next h.frame.inc64.dropOuter) <|
      .ite
          (.next <|
          .sendCopies (.ite h.frame.inc64.dropNonMembers.mcastNote.eject h.frame.inc64.dropNonMembers.mcastNote)) <|
      .ite (.next h.frame.inc64.routeOuter) <|
      .ite (.next h.frame.inc64.eject) (.next h.frame.inc64.routeUnicast)

protected theorem Keeps.execPacketReceive {parity : Nat} (h : Keeps s₀ s) :
    OutKeeps s₀ (execPacketReceive parity s) := by
  unfold execPacketReceive
  split
  · exact .next h
  · extract_lets x fab taken units me vc fwd mine q fresh received hold others copies copyHold member copied routed
    have h₁ : Keeps s₀ received := .ite h.frame.setPort.loseStamp h.frame.setPort
    have forward {s : State} (h : Keeps s₀ s) : Keeps s₀ (fwd s) := h.inc64.inc64
    have h₂ : Keeps s₀ member := .ite h₁.dropNonMembers.openHold.eject h₁.dropNonMembers.openHold
    have h₃ : Keeps s₀ copied := .ite h₂ (forward h₂)
    have h₄ : Keeps s₀ routed := .ite h₁.openHold.routeOuter h₁.openHold.routeUnicast
    exact .ite (.next h₁.openHold.incSat.evt.err.releaseHold) <| .ite (.next h₃.sendCopies.releaseHold) <|
      .ite (.next h₁.openHold.eject.releaseHold) (.next (.ite (forward h₄) h₄))

protected theorem Keeps.sendNotice {p code : Nat} (h : Keeps s₀ s) : Keeps s₀ (sendNotice s p code) :=
  .ite h h.send

protected theorem Keeps.splitHold {h' copies : Nat} (h : Keeps s₀ s) : Keeps s₀ (splitHold s h' copies) :=
  h.frame

protected theorem Keeps.rerouteCopies {p : Pkt} {hold : Nat} (h : Keeps s₀ s) :
    Keeps s₀ (rerouteCopies s p hold) := by
  unfold rerouteCopies
  exact .ite h.mcastNote.releaseHold h.mcastNote.splitHold.sendCopies

protected theorem Keeps.reroute {l : List QPkt} (h : Keeps s₀ s) : Keeps s₀ (reroute l s) := by
  induction l generalizing s with
  | nil => exact h
  | cons e l ih =>
    have h1 : Keeps s₀ (incSat s (pgFab + 0x64) 1) := h.incSat
    refine ih <| .ite h1.rerouteCopies <| .ite h1.routeOuter <| .ite h1.eject.releaseHold <| .ite ?_ ?_
    · split
      exacts [.ite h1.dropUnroutable.releaseHold h1.goTo, h1.dropUnroutable.releaseHold]
    · split
      exacts [h1.goTo, h1.dropUnroutable.releaseHold]

protected theorem Keeps.leaveUp {p : Nat} {st : LState} (h : Keeps s₀ s) : Keeps s₀ (leaveUp s p st) := by
  unfold leaveUp
  exact .reroute (.sendNotice (.ite h.setPort.incSat.evt.evt h.setPort.incSat.evt))

protected theorem Keeps.toTraining {p : Nat} (h : Keeps s₀ s) : Keeps s₀ (toTraining s p) := by
  unfold toTraining
  exact h.frame.setPort.sendIdentity

protected theorem Keeps.execPortEnable {p : Nat} (h : Keeps s₀ s) : OutKeeps s₀ (execPortEnable p s) :=
  h.guardWrite (h.whenOk h.toTraining)

protected theorem Keeps.execPortDisable {p : Nat} (h : Keeps s₀ s) : OutKeeps s₀ (execPortDisable p s) :=
  h.guardWrite (.ite (.next h) (.next (.setPort (.ite h.leaveUp h))))

protected theorem Keeps.execPortRetrain {p : Nat} (h : Keeps s₀ s) : OutKeeps s₀ (execPortRetrain p s) :=
  h.guardWrite (h.whenOk h.leaveUp)

protected theorem Keeps.execPortUnquarantine {p : Nat} (h : Keeps s₀ s) :
    OutKeeps s₀ (execPortUnquarantine p s) := h.guardWrite (h.whenOk h.toTraining)

protected theorem Keeps.execPortTrainingDone {p pol arb dev port : Nat} (h : Keeps s₀ s) :
    OutKeeps s₀ (execPortTrainingDone p pol arb dev port s) :=
  .ite (.next h) (.ite (.next h.setRegN.setPort.evt.sendNotice.portPump) (.next h.setRegN.setPort.evt.err))

protected theorem Keeps.execAlignmentLoss {p : Nat} (h : Keeps s₀ s) : OutKeeps s₀ (execAlignmentLoss p s) :=
  h.whenOk h.leaveUp

protected theorem Keeps.execFlitSilenceTimeout {p : Nat} (h : Keeps s₀ s) :
    OutKeeps s₀ (execFlitSilenceTimeout p s) := h.whenOk h.leaveUp

protected theorem Keeps.execDownBackoffRetrain {p : Nat} (h : Keeps s₀ s) :
    OutKeeps s₀ (execDownBackoffRetrain p s) := by
  unfold execDownBackoffRetrain
  exact h.whenOk h.setPort.toTraining

protected theorem Keeps.execRetryLimitDown {p : Nat} (h : Keeps s₀ s) : OutKeeps s₀ (execRetryLimitDown p s) :=
  h.whenOk h.leaveUp

protected theorem Keeps.execQuarantineLimit {p : Nat} (h : Keeps s₀ s) :
    OutKeeps s₀ (execQuarantineLimit p s) := by
  unfold execQuarantineLimit
  exact h.whenOk h.leaveUp.evt.err.sendIdle

protected theorem Keeps.violation {p code : Nat} (h : Keeps s₀ s) : Keeps s₀ (violation s p code) := by
  unfold violation
  exact .err (.evt (.incSat (.setPort (.ite h.setRegN h))))

protected theorem Keeps.applyAck {p a : Nat} (h : Keeps s₀ s) : Keeps s₀ (applyAck s p a) := by
  unfold applyAck
  exact .ite h.violation (h.setPort.foldl fun _ _ h1 => h1.releaseHold).portPump

protected theorem Keeps.askRetry {p : Nat} (h : Keeps s₀ s) : Keeps s₀ (askRetry s p) := by
  unfold askRetry
  exact h.setPort.wireOut.incSat

protected theorem Keeps.resend {p q : Nat} (h : Keeps s₀ s) : Keeps s₀ (resend s p q) := by
  unfold resend
  exact h.setPort.wireOut.incSat

protected theorem Keeps.execRetryReq {p q : Nat} (h : Keeps s₀ s) : OutKeeps s₀ (execRetryReq p q s) :=
  h.whenOk h.resend

protected theorem Keeps.execRetryReqRepeat {p : Nat} (h : Keeps s₀ s) : OutKeeps s₀ (execRetryReqRepeat p s) := by
  unfold execRetryReqRepeat
  exact h.whenOk h.askRetry

protected theorem Keeps.takePackets {n p : Nat} {bs : List Byte} (h : Keeps s₀ s) :
    Keeps s₀ (takePackets n s p bs).1 := by
  induction n generalizing s bs with
  | zero => exact h
  | succ n ih => exact .iteFst h <| .iteFst h.violation <| .iteFst h <| ih <| .ite h.violation h.setPort.frame

protected theorem Keeps.acceptFlit {p : Nat} {f : Flit} (h : Keeps s₀ s) : Keeps s₀ (acceptFlit s p f) := by
  unfold acceptFlit
  exact .portPump (.ite h.setPort (.ite h.setPort.setPort.violation h.setPort.takePackets.setPort))

protected theorem Keeps.trainFlit {p : Nat} {bytes : List Byte} (h : Keeps s₀ s) :
    Keeps s₀ (trainFlit s p bytes) := .ite h.setPort.inc64 h.incSat

protected theorem Keeps.execFlitReceive {p : Nat} {bytes : List Byte} {fec : Nat} (h : Keeps s₀ s) :
    OutKeeps s₀ (execFlitReceive p bytes fec s) := by
  unfold execFlitReceive
  refine .ite (.next h) <| .ite (.next h.trainFlit) <| .ite (.next h) ?_
  extract_lets pg port seen corrected flit port' bad good acked
  have h₁ : Keeps s₀ corrected := .ite h.setPort.inc64 (.ite h.setPort.incSat h.setPort)
  have h₂ : Keeps s₀ good := h₁.inc64
  have h₃ : Keeps s₀ acked := .ite h₂.applyAck h₂
  refine .ite (.next (.ite h₁.incSat h₁.incSat.askRetry)) <|
    .ite (.next h₂.violation) <| .ite (.next h₂.violation) ?_
  split
  exacts [.next h₃.resend, .next h₃, .next h₃,
    .ite (.next h₃.acceptFlit) (.ite (.next h₃) (.next h₃.askRetry))]

protected theorem Keeps.fclkTick {p : Nat} (h : Keeps s₀ s) : Keeps s₀ (fclkTick s p) := by
  unfold fclkTick
  exact .ite h (.ite (.incSat (.ite h.incSat h)) (.ite h.incSat h))

protected theorem Keeps.execCmapSample (h : Keeps s₀ s) : OutKeeps s₀ (execCmapSample s) := h.whenOk h.frame

protected theorem Keeps.cmapFormed (h : Keeps s₀ s) : Keeps s₀ (cmapFormed s) := by
  unfold cmapFormed
  exact (h.setRegN.setRegN.foldl fun _ _ h1 => h1.setRegN).frame

protected theorem Keeps.execCmapIntervalEnd (h : Keeps s₀ s) : OutKeeps s₀ (execCmapIntervalEnd s) :=
  .ite (.next h) (.ite (.next h.cmapFormed.send.send.incSat) (.next h.cmapFormed))

protected theorem Keeps.cmapRecord {arb dev seq time : Nat} {incomplete : Bool} {map : List Byte}
    (h : Keeps s₀ s) :
    Keeps s₀ (cmapRecord s arb dev seq time incomplete map) := by
  unfold cmapRecord
  exact .ite h h.t1WriteRaw.setRegN.incSat

protected theorem Keeps.execCmap (h : Keeps s₀ s) : OutKeeps s₀ (execCmap s) := by
  unfold execCmap
  split
  · exact .next h
  · next e =>
      dsimp only
      split
      · exact .next (h.takeEjected e).frame.cmapRecord
      · exact .ite (.next (h.takeEjected e)) (.next (h.takeEjected e).frame)

protected theorem Keeps.execCmapPartTimeout (h : Keeps s₀ s) : OutKeeps s₀ (execCmapPartTimeout s) := by
  unfold execCmapPartTimeout
  split
  exacts [.next h, .next h.frame.cmapRecord]

protected theorem Keeps.execOtabEntryWrite {hi : Nat} (h : Keeps s₀ s) :
    OutKeeps s₀ (execOtabEntryWrite hi s) := h.guardWrite (.next h.frame.setRegN)

protected theorem Keeps.leave {r : Req} (h : Keeps s₀ s) : Keeps s₀ (leave s r) := by
  unfold leave
  exact (h.foldl fun _ _ h1 => h1.send).foldl fun _ _ h1 => .frame (.ite h1 h1.inc64)

protected theorem Keeps.issueReq {r : Req} (h : Keeps s₀ s) : Keeps s₀ (issueReq s r) := .ite h.leave h.frame

protected theorem Keeps.releaseHeld {l : List Req} (h : Keeps s₀ s) : Keeps s₀ (releaseHeld l s) := by
  induction l generalizing s with
  | nil => exact h
  | cons r l ih => exact ih (.ite h.frame.leave h)

protected theorem Keeps.settle {r : Req} (h : Keeps s₀ s) : Keeps s₀ (settle s r) := by
  unfold settle
  exact h.frame.releaseHeld

protected theorem Keeps.noteId {arb dev id : Nat} {mark : Option (Nat × List Byte)} (h : Keeps s₀ s) :
    Keeps s₀ (noteId s arb dev id mark) := by
  unfold noteId
  exact h.frame

protected theorem Keeps.sendMarked {r : Pkt} (h : Keeps s₀ s) : Keeps s₀ (sendMarked s r) := h.noteId.send

end Sys2Proof.Machine

/-! ## What every step keeps: job memory and its tiers -/

namespace Sys2Proof.Machine

open Sys2Proof Sys2Proof.Config

variable {s₀ s t : State}

protected theorem Keeps.setEntry {ea w : Nat} (h : Keeps s₀ s) : Keeps s₀ (setEntry s ea w) := h.frame

protected theorem Keeps.writeBack {ea : Nat} (h : Keeps s₀ s) : Keeps s₀ (writeBack s ea) := by
  unfold writeBack
  split
  exacts [h, h.t1WriteRaw.inc64.frame]

protected theorem Keeps.missRead {die a : Nat} (h : Keeps s₀ s) : Keeps s₀ (missRead s die a) :=
  h.incSat.readBlock

protected theorem Keeps.assignFrame {a code : Nat} (h : Keeps s₀ s) : Keeps s₀ (assignFrame s a code) := by
  unfold assignFrame
  exact .ite h.frame h

protected theorem Keeps.lookDir {die da : Nat} (h : Keeps s₀ s) : Keeps s₀ (lookDir s die da) :=
  .ite h (.ite h.missRead h.missRead.frame)

protected theorem Keeps.lookPage {die ea : Nat} (h : Keeps s₀ s) : Keeps s₀ (lookPage s die ea) :=
  .ite h (.ite h.missRead (.frame (by split; exacts [h.missRead, .ite h.missRead.writeBack h.missRead])))

protected theorem Keeps.noteWalk {die part a : Nat} (h : Keeps s₀ s) : Keeps s₀ (noteWalk s die part a) := by
  unfold noteWalk
  exact .ite h.lookDir <| by
      split
      · exact h.lookDir
      · exact .ite h.lookDir.lookPage.assignFrame.assignFrame <|
          .ite h.lookDir.lookPage.assignFrame.assignFrame h.lookDir.lookPage.assignFrame.assignFrame.lookPage

protected theorem Keeps.touchGrain {part ea g : Nat} (h : Keeps s₀ s) : Keeps s₀ (touchGrain s part ea g) := by
  unfold touchGrain
  exact .ite h h.setEntry

protected theorem Keeps.touchAt {part a : Nat} (h : Keeps s₀ s) : Keeps s₀ (touchAt s part a) := by
  unfold touchAt
  split
  exacts [h.touchGrain, h]

protected theorem Keeps.grainRead {die part a n : Nat} (h : Keeps s₀ s) : Keeps s₀ (grainRead s die part a n).2 := by
  unfold grainRead
  dsimp only
  split
  · exact h.noteWalk.result
  · exact h.noteWalk.result
  · split
    · exact h.noteWalk.result
    · split
      · next e => exact h.noteWalk.t1Read.snd e
      · next e => exact (h.noteWalk.t1Read.snd e).inc64

protected theorem Keeps.grainWrite {die part a : Nat} {bs : List Byte} {force : Bool} (h : Keeps s₀ s) :
    Keeps s₀ (grainWrite s die part a bs force).2 := by
  unfold grainWrite
  dsimp only
  split
  · exact h.noteWalk.result
  · exact h.noteWalk.result
  · refine .iteSnd h.noteWalk.result ?_
    split
    · exact h.noteWalk.result
    · split
      · next e => exact h.noteWalk.t1Write.snd e
      · next e => exact (h.noteWalk.t1Write.snd e).inc64

protected theorem Keeps.jobReadFuel {ps : List (Nat × Nat)} {die part : Nat} (h : Keeps s₀ s) :
    Keeps s₀ (jobReadFuel ps s die part).2 := by
  delta Machine.jobReadFuel
  refine brecOn_list (P := fun _ (read : State → Nat → Nat → JobRes × State) => ∀ s, Keeps s₀ s →
    Keeps s₀ (read s die part).2) ?_ ?_ ps s h
  · exact fun _ _ h => h
  · intro p ps below ih s h
    unfold jobReadFuel._f
    dsimp only
    split
    · next e =>
        have h1 := ih _ (h.grainRead.snd e)
        split
        · next e => exact h1.snd e
        · exact h1
    · exact h.grainRead

protected theorem Keeps.jobRead {die part a n : Nat} (h : Keeps s₀ s) : Keeps s₀ (jobRead s die part a n).2 := by
  unfold jobRead
  dsimp only
  split
  · next e => exact (h.jobReadFuel.snd e).foldl fun _ _ h1 => h1.touchAt
  · exact h.jobReadFuel

protected theorem Keeps.noteRange {die part a n : Nat} (h : Keeps s₀ s) : Keeps s₀ (noteRange s die part a n) :=
  h.foldl fun _ _ h1 => h1.noteWalk

protected theorem Keeps.sendGrain {q : T2Req} {bs : List Byte} (h : Keeps s₀ s) : Keeps s₀ (sendGrain s q bs) := by
  unfold sendGrain
  exact .issueReq (.ite h.frame h.frame.inc64)

protected theorem Keeps.t2Ask {n ea g d a len : Nat} (h : Keeps s₀ s) : Keeps s₀ (t2Ask s n ea g d a len) := by
  unfold t2Ask
  exact h.foldl fun _ _ h1 => h1.sendGrain

protected theorem Keeps.sendWrites {n d ea g a store : Nat} {bs : List Byte} (h : Keeps s₀ s) :
    Keeps s₀ (sendWrites s n d ea g a store bs).1 := by
  unfold sendWrites
  exact h.foldl fun _ _ h1 => h1.sendGrain

protected theorem Keeps.dropT2 {die part : Nat} {ps : List (Nat × Nat)} (h : Keeps s₀ s) :
    Keeps s₀ (dropT2 s die part ps) :=
  h.foldl <| fun _ _ h1 => by
    split
    exacts [by split; exacts [h1.frame, h1], h1]

protected theorem Keeps.ownFrame {n f : Nat} (h : Keeps s₀ s) : Keeps s₀ (ownFrame s n f) := by
  unfold ownFrame
  exact h.setRegN.setRegN.frame

protected theorem Keeps.dropFrame {n f : Nat} (h : Keeps s₀ s) : Keeps s₀ (dropFrame s n f) := by
  unfold dropFrame
  exact h.setRegN.setRegN.frame

protected theorem Keeps.takeFrame {n ea page f : Nat} (h : Keeps s₀ s) : Keeps s₀ (takeFrame s n ea page f) := by
  unfold takeFrame
  exact h.setEntry.ownFrame.frame

protected theorem Keeps.releaseFrame {n ea : Nat} (h : Keeps s₀ s) : Keeps s₀ (releaseFrame s n ea) := by
  unfold releaseFrame
  exact .ite h h.setEntry.writeBack.dropFrame

protected theorem Keeps.setLeases {ls : List Lease} (h : Keeps s₀ s) : Keeps s₀ (setLeases s ls) := by
  unfold setLeases
  exact .frame (.ite (.ite h h.t1Write) (.t1Write (.ite h h.t1Write)))

protected theorem Keeps.bindLease {l : Lease} {ea : Nat} (h : Keeps s₀ s) : Keeps s₀ (bindLease s l ea) :=
  h.setLeases

protected theorem Keeps.releaseLeases {ea : Nat} (h : Keeps s₀ s) : Keeps s₀ (releaseLeases s ea) := h.setLeases

protected theorem Keeps.bindA {n ea : Nat} (h : Keeps s₀ s) (e : bindA s n ea = some t) : Keeps s₀ t := by
  unfold bindA at e
  dsimp only at e
  split_ifs at e
  · cases e
    exact h
  · obtain ⟨_, _, rfl⟩ := Option.map_eq_some_iff.mp e
    exact h.setEntry.bindLease

protected theorem Keeps.bindB {n ea : Nat} (h : Keeps s₀ s) (e : bindB s n ea = some t) : Keeps s₀ t := by
  unfold bindB at e
  dsimp only at e
  split_ifs at e
  · cases e
    exact h
  · obtain ⟨_, _, rfl⟩ := Option.map_eq_some_iff.mp e
    exact h.setEntry.bindLease

protected theorem Keeps.bindTarget {n ea target : Nat} (h : Keeps s₀ s) (e : bindTarget s n ea target = some t) :
    Keeps s₀ t := by
  unfold bindTarget at e
  split at e
  · exact h.bindA e
  · obtain ⟨_, first, second⟩ := Option.bind_eq_some_iff.mp e
    exact (h.bindA first).bindB second
  · cases e
    exact h

protected theorem Keeps.dropCopy {ea g : Nat} (h : Keeps s₀ s) : Keeps s₀ (dropCopy s ea g) := h.frame

protected theorem Keeps.settlePage {n ea : Nat} (h : Keeps s₀ s) : Keeps s₀ (settlePage s n ea) :=
  h.writeBack.releaseFrame.releaseLeases

protected theorem Keeps.migrate {kind step n a target : Nat} (h : Keeps s₀ s) :
    Keeps s₀ (migrate kind step s n a target) := by
  unfold migrate
  split
  · next ea w walked =>
    extract_lets g st d noted cp go room
    have h₁ : Keeps s₀ noted := h.noteWalk
    have begun (mid : Nat) : Keeps s₀ (go mid) := by
      unfold go
      split
      · exact h₁
      · next e => exact (h₁.bindTarget e).setEntry.frame
    clear_value st
    refine .ite h₁.frame ?_
    split
    case h_1 => exact .ite (begun 4) h₁
    case h_2 | h_3 => exact .ite h₁ (begun 4)
    case h_4 | h_5 | h_6 => exact .ite h₁.setEntry.settlePage.incSat h₁
    case h_7 | h_8 => exact .ite h₁ (begun 5)
    case h_9 | h_10 => exact .ite (begun 6) h₁
    case h_11 => exact begun 7
    case h_12 => exact h₁
  · exact h.noteWalk

protected theorem Keeps.startMigration {n a target : Nat} (h : Keeps s₀ s) :
    Keeps s₀ (startMigration s n a target) := h.migrate

protected theorem Keeps.sendLines {cp : Copy} {off : Nat} {bs : List Byte} (h : Keeps s₀ s) :
    Keeps s₀ (sendLines s cp off bs).1 := .foldlFst h fun _ _ h1 => h1.sendWrites

protected theorem Keeps.promoteByCount {n a : Nat} (h : Keeps s₀ s) : Keeps s₀ (promoteByCount s n a) := by
  unfold promoteByCount
  split
  exacts [.ite h h.startMigration, h]

protected theorem Keeps.readPiece {die part : Nat} {p : Nat × Nat} (h : Keeps s₀ s) :
    Keeps s₀ (readPiece s die part p).2 := by
  unfold readPiece
  split
  · next e =>
      split
      exacts [(h.grainRead.snd e).inc64, h.grainRead.snd e]
  · exact h.grainRead

protected theorem Keeps.readAll {ps : List (Nat × Nat)} {die part : Nat} (h : Keeps s₀ s) :
    Keeps s₀ (readAll ps s die part).2 := by
  delta Machine.readAll
  refine brecOn_list (P := fun _ (read : State → Nat → Nat → JobRes × State) => ∀ s, Keeps s₀ s →
    Keeps s₀ (read s die part).2) ?_ ?_ ps s h
  · exact fun _ _ h => h
  · intro p ps below ih s h
    unfold readAll._f
    dsimp only
    split
    · next e =>
        have h1 := ih _ (h.readPiece.snd e)
        split
        · next e => exact h1.snd e
        · exact h1
    · exact h.readPiece

protected theorem Keeps.askPieces {ps : List (Nat × Nat)} {die part : Nat} (h : Keeps s₀ s) :
    Keeps s₀ (askPieces ps s die part).2 := by
  unfold askPieces
  exact (h.foldl fun _ _ h1 => h1.noteWalk).foldl fun _ _ h1 => by split; exacts [h1.t2Ask, h1]

protected theorem Keeps.readPieces {ps : List (Nat × Nat)} {die part : Nat} (h : Keeps s₀ s) :
    Keeps s₀ (readPieces ps s die part).2 := by
  unfold readPieces
  split
  · next e => exact h.askPieces.snd e
  · next e => exact (h.askPieces.snd e).readAll

protected theorem Keeps.touchAll {n : Nat} {ps : List (Nat × Nat)} (h : Keeps s₀ s) :
    Keeps s₀ (touchAll s n ps) := h.foldl fun _ _ h1 => h1.touchAt.promoteByCount

protected theorem Keeps.jobFetch {die part a n : Nat} (h : Keeps s₀ s) : Keeps s₀ (jobFetch s die part a n).2 := by
  unfold jobFetch
  dsimp only
  split
  · next e => exact (h.readPieces.snd e).dropT2.touchAll
  · exact h.readPieces

protected theorem Keeps.dualWrite {ea a : Nat} {bs : List Byte} (h : Keeps s₀ s) :
    Keeps s₀ (dualWrite s ea a bs) := by
  unfold dualWrite
  split
  exacts [h, .ite h.sendLines.frame h.frame]

protected theorem Keeps.putRows {die n tag acks : Nat} {force : Bool} {rows : List (Nat × List Byte)} (h : Keeps s₀ s) :
    Keeps s₀ (putRows die n tag force rows s acks).2.1 := by
  delta Machine.putRows
  refine brecOn_list (P := fun _ (put : State → Nat → JobRes × State × Nat) => ∀ s acks, Keeps s₀ s →
    Keeps s₀ (put s acks).2.1) ?_ ?_ rows s acks h
  · exact fun _ _ _ h => h
  · intro row rows below ih s acks h
    unfold putRows._f
    dsimp only
    split
    · next e =>
        have h1 := h.grainWrite.snd e
        split
        exacts [ih _ _ h1.dualWrite, ih _ _ h1]
    · next e =>
        have h1 := h.grainWrite.snd e
        split
        exacts [ih _ _ h1.sendWrites.sendWrites.dualWrite, ih _ _ h1.sendWrites.dualWrite]
    · next e => exact h.grainWrite.snd e

protected theorem Keeps.touchRows {n : Nat} {rows : List (Nat × List Byte)} (h : Keeps s₀ s) :
    Keeps s₀ (touchRows s n rows) := h.touchAll

protected theorem Keeps.newTag (h : Keeps s₀ s) : Keeps s₀ (newTag s).2 := h.frame

protected theorem Keeps.jobPut {die part a : Nat} {bs : List Byte} (h : Keeps s₀ s) :
    Keeps s₀ (jobPut s die part a bs).2 := by
  unfold jobPut
  exact h.newTag.putRows.touchRows

end Sys2Proof.Machine

/-! ## What every step keeps: the ends of steps, tiles and arrays -/

namespace Sys2Proof.Machine

open Sys2Proof Sys2Proof.Config

variable {s₀ s t : State}

protected theorem Keeps.setPart {n : Nat} {p : Part} (h : Keeps s₀ s) : Keeps s₀ (setPart s n p) := h.frame

protected theorem Keeps.leaveWindow {st : Step} (h : Keeps s₀ s) : Keeps s₀ (leaveWindow s st) := .ite h h.gateSame

protected theorem Keeps.setQp {q : Nat} {x : Qp} (h : Keeps s₀ s) : Keeps s₀ (setQp s q x) := h.frame

protected theorem Keeps.qpIrq {q : Nat} (h : Keeps s₀ s) : Keeps s₀ (qpIrq s q) := by
  unfold qpIrq
  exact h.setQp.msixSend

protected theorem Keeps.writeCompl {q : Nat} {c : Compl} (h : Keeps s₀ s) : Keeps s₀ (writeCompl s q c) := by
  unfold writeCompl
  exact .ite h.writeHost.setQp.inc64 (.ite h.writeHost.setQp.inc64.setQp.qpIrq h.writeHost.setQp.inc64.setQp)

protected theorem Keeps.complete {q : Nat} {c : Compl} (h : Keeps s₀ s) : Keeps s₀ (complete s q c) := by
  unfold complete
  exact .ite h (.ite h.setQp.evt h.writeCompl)

protected theorem Keeps.completeEntry {q seq status r0 r1 : Nat} (h : Keeps s₀ s) :
    Keeps s₀ (completeEntry s q seq status r0 r1) := by
  unfold completeEntry
  dsimp only
  split
  exacts [h, h.setQp.complete]

protected theorem Keeps.toEdge {u : Unit} (h : Keeps s₀ s) : Keeps s₀ (toEdge s u) := by
  unfold toEdge
  exact .ite h.frame h.frame

protected theorem Keeps.edgePump (h : Keeps s₀ s) : Keeps s₀ (edgePump s) :=
  h.frame.foldl fun _ _ h1 => h1.toEdge

protected theorem Keeps.swapRoles {t : Nat} (h : Keeps s₀ s) : Keeps s₀ (swapRoles s t) := by
  unfold swapRoles
  exact h.setTile.frame

protected theorem Keeps.ringWrite {part base slot : Nat} {bs : List Byte} (h : Keeps s₀ s) :
    Keeps s₀ (ringWrite s part base slot bs) := by
  unfold ringWrite
  split
  · next e => exact h.jobPut.snd e
  · exact h.incSat.errIn.evt

protected theorem Keeps.writeDigests {n : Nat} {st : Step} {partial' : Bool} (h : Keeps s₀ s) :
    Keeps s₀ (writeDigests s n st partial') := by
  unfold writeDigests
  exact .ite h (h.foldl fun _ _ h1 => .inc64 (.setRegN (.ringWrite (.ite h1.ringWrite h1))))

protected theorem Keeps.writeStepRecord {n : Nat} {st : Step} {code : Nat} {refused : Bool} (h : Keeps s₀ s) :
    Keeps s₀ (writeStepRecord s n st code refused) := by
  unfold writeStepRecord
  exact .ite h h.ringWrite.setRegN.inc64

protected theorem Keeps.clearCtxs {n : Nat} (h : Keeps s₀ s) : Keeps s₀ (clearCtxs s n) := h.frame

protected theorem Keeps.dropInsts {gone : ShInst → Bool} (h : Keeps s₀ s) : Keeps s₀ (dropInsts s gone) := by
  unfold dropInsts
  exact h.frame

protected theorem Keeps.endCalls {n : Nat} (h : Keeps s₀ s) : Keeps s₀ (endCalls s n) := h.frame

protected theorem Keeps.dropColls {gone : PavInst → Bool} (h : Keeps s₀ s) : Keeps s₀ (dropColls s gone) := by
  unfold dropColls
  exact h.frame

protected theorem Keeps.endInstances {n : Nat} (h : Keeps s₀ s) : Keeps s₀ (endInstances s n) :=
  h.dropColls.dropInsts.endCalls

protected theorem Keeps.endStepInstances {n step : Nat} (h : Keeps s₀ s) :
    Keeps s₀ (endStepInstances s n step) := h.dropColls.dropInsts

protected theorem Keeps.endStep {n : Nat} {st : Step} {code : Nat} {refused : Bool} (h : Keeps s₀ s) :
    Keeps s₀ (endStep s n st code refused) := by
  unfold endStep
  exact .completeEntry <|
    .ite h.writeDigests.writeStepRecord.leaveWindow.incSat.evt
        h.writeDigests.writeStepRecord.leaveWindow.incSat.evt

protected theorem Keeps.noteError {n code : Nat} (h : Keeps s₀ s) : Keeps s₀ (noteError s n code) := by
  unfold noteError
  exact .ite h.setPart h

protected theorem Keeps.settleHold {t cause : Nat} (h : Keeps s₀ s) : Keeps s₀ (settleHold s t cause) := by
  unfold settleHold
  exact .ite h h.setTile.inc64.setPart

protected theorem Keeps.settleHolds {n : Nat} (h : Keeps s₀ s) : Keeps s₀ (settleHolds s n) :=
  h.foldl fun _ _ h1 => by dsimp only; split; exacts [.ite h1.settleHold h1, h1]

protected theorem Keeps.endHeadWith {whole : Bool} {n code : Nat} (h : Keeps s₀ s) :
    Keeps s₀ (endHeadWith whole s n code) := by
  unfold endHeadWith
  dsimp only
  split
  · exact h.noteError
  · exact .noteError <|
      .endCalls <|
      .clearCtxs <|
      .setPart <| by
        split
        exacts [.ite h.settleHolds.endStep.endStepInstances h.settleHolds.endStep, h.settleHolds]

protected theorem Keeps.endHead {n code : Nat} (h : Keeps s₀ s) : Keeps s₀ (endHead s n code) := h.endHeadWith

protected theorem Keeps.endStepOf {n step code : Nat} (h : Keeps s₀ s) : Keeps s₀ (endStepOf s n step code) := by
  unfold endStepOf
  split
  exacts [.ite h.endHead h.noteError, h.noteError]

protected theorem Keeps.endAll {n code : Nat} (h : Keeps s₀ s) : Keeps s₀ (endAll s n code) := by
  unfold endAll
  exact (h.settleHolds.foldl fun _ _ h1 => h1.endStep).setPart.clearCtxs.endInstances

protected theorem Keeps.partFault {n code : Nat} (h : Keeps s₀ s) : Keeps s₀ (partFault s n code) := by
  unfold partFault
  exact .ite h.endAll.noteError.setPart.incSat.evt h

protected theorem Keeps.grnFault {die n code : Nat} (h : Keeps s₀ s) : Keeps s₀ (grnFault s die n code) :=
  h.evt.errIn

protected theorem Keeps.loseGrain {n ea g a : Nat} (h : Keeps s₀ s) : Keeps s₀ (loseGrain s n ea g a) := by
  unfold loseGrain
  exact .partFault (.grnFault (.evt (.incSat (.ite h.setEntry.writeBack.setPair h.setEntry.writeBack))))

protected theorem Keeps.lostAccess {n a : Nat} (h : Keeps s₀ s) : Keeps s₀ (lostAccess s n a) := by
  unfold lostAccess
  exact h.incSat.grnFault.partFault

protected theorem Keeps.homeLost {d n : Nat} (h : Keeps s₀ s) : Keeps s₀ (homeLost s d n) :=
  h.incSat.grnFault.partFault

protected theorem Keeps.uncorrGrain {n ea g a : Nat} (h : Keeps s₀ s) : Keeps s₀ (uncorrGrain s n ea g a) := by
  unfold uncorrGrain
  exact .ite h.loseGrain (.ite h.homeLost h.setEntry.incSat.dropCopy.frame)

protected theorem Keeps.obstacle {t n a : Nat} {callFault' : State → Nat → State} {x : JobRes}
    (h : Keeps s₀ s) (hcallFault' : ∀ v x1, Keeps s₀ v → Keeps s₀ (callFault' v x1)) :
    Keeps s₀ (obstacle s t n a callFault' x) := by
  unfold obstacle
  split
  · exact hcallFault' _ _ h.grnFault
  · exact hcallFault' _ _ h.grnFault
  · exact h.grnFault.partFault
  · exact h.lostAccess
  · exact h.uncorrGrain
  · exact h

protected theorem Keeps.callFault {t code bed : Nat} (h : Keeps s₀ s) : Keeps s₀ (callFault s t code bed) := by
  unfold callFault
  exact .endHead (.errIn (.evt (.ite (.incSat (.ite h.setRegN h)) (.ite h.setRegN h))))

protected theorem Keeps.soilSteps (h : Keeps s₀ s) : Keeps s₀ (soilSteps s) := h.foldl fun _ _ h1 => h1.setPart

protected theorem Keeps.soilCtx {t : Nat} {bg : Bool} (h : Keeps s₀ s) : Keeps s₀ (soilCtx s t bg) := by
  unfold soilCtx
  exact h.setPart

protected theorem Keeps.soilUnit {away : Bool} {u : Unit} (h : Keeps s₀ s) : Keeps s₀ (soilUnit s away u) :=
  .ite h.soilCtx h

protected theorem Keeps.poison {n code : Nat} (h : Keeps s₀ s) : Keeps s₀ (poison s n code) := by
  unfold poison
  dsimp only
  split
  exacts [h, .ite h.setPart.soilSteps h.setPart]

protected theorem Keeps.tilePoison {t n code : Nat} (h : Keeps s₀ s) : Keeps s₀ (tilePoison s t n code) := by
  unfold tilePoison
  exact h.evt.errIn.poison

protected theorem Keeps.writeBufFuel {f t h' off : Nat} {bs : List Byte} (h : Keeps s₀ s) :
    Keeps s₀ (writeBufFuel f s t h' off bs) := by
  induction f generalizing s off bs with
  | zero => exact h
  | succ f ih => exact .ite h (ih h.writeSram)

protected theorem Keeps.writeBuf {t h' off : Nat} {bs : List Byte} (h : Keeps s₀ s) :
    Keeps s₀ (writeBuf s t h' off bs) := h.writeBufFuel

protected theorem Keeps.convSat {t n : Nat} (h : Keeps s₀ s) : Keeps s₀ (convSat s t n) := .ite h h.incSat

protected theorem Keeps.noteParity {t a : Nat} (h : Keeps s₀ s) : Keeps s₀ (noteParity s t a) := by
  unfold noteParity
  exact .ite h.incSat.evt.setRegN h.incSat.evt

protected theorem Keeps.parityStop {t h' : Nat} {lines : List Nat} (h : Keeps s₀ s) :
    Keeps s₀ (parityStop s t h' lines) := by
  unfold parityStop
  exact (h.foldl fun _ _ h1 => h1.noteParity).setTile.setPart

protected theorem Keeps.parityPoison {t a : Nat} (h : Keeps s₀ s) : Keeps s₀ (parityPoison s t a) := by
  unfold parityPoison
  exact h.noteParity.setPart.tilePoison

protected theorem Keeps.issued {i : Issue} {used : Nat} {eff : State → State} (h : Keeps s₀ s)
    (heff : ∀ v, Keeps s₀ v → Keeps s₀ (eff v)) :
    OutKeeps s₀ (issued s i used eff) := .ite (.next h) (.ite (.next h.callFault) (.next (heff _ h)))

protected theorem Keeps.countEffect {t : Nat} (h : Keeps s₀ s) : Keeps s₀ (countEffect s t) := h.setFg

protected theorem Keeps.dynamic {t : Nat} {eff : State → State} (h : Keeps s₀ s)
    (heff : ∀ v, Keeps s₀ v → Keeps s₀ (eff v)) :
    Keeps s₀ (dynamic s t eff) := by
  unfold dynamic
  exact .ite h.setFg (heff _ h.countEffect)

protected theorem Keeps.overEdge {t : Nat} {eff : State → State} (h : Keeps s₀ s)
    (heff : ∀ v, Keeps s₀ v → Keeps s₀ (eff v)) :
    Keeps s₀ (overEdge s t eff) := h.dynamic fun _ h1 => .ite (heff _ h1) h1

protected theorem Keeps.drainRow {t : Nat} {d : PassDesc} {b : PassBufs} {row : Nat} {rs : List Nat}
    (h : Keeps s₀ s) :
    Keeps s₀ (drainRow s t d b row rs) := h.writeBuf

protected theorem Keeps.startPass {i : Issue} {d : PassDesc} {b : PassBufs} {os : Bool}
    {vecs : List (Nat × Bool)} {feeds : Option (Nat × Nat)} (h : Keeps s₀ s) :
    Keeps s₀ (startPass s i d b os vecs feeds) := by
  unfold startPass
  exact h.setTile

protected theorem Keeps.runPass {i : Issue} {d : PassDesc} {feeds : Option (Nat × Nat)} (h : Keeps s₀ s) :
    Keeps s₀ (runPass s i d feeds) := by
  unfold runPass
  exact .ite h.callFault <|
    .ite
        (by
          split
          exacts [h.parityPoison, by split; exacts [h.tilePoison, h.startPass]]) h.startPass

protected theorem Keeps.execApass {i : Issue} (h : Keeps s₀ s) : OutKeeps s₀ (execApass i s) :=
  h.issued fun _ h1 => h1.runPass

protected theorem Keeps.execAos {i : Issue} (h : Keeps s₀ s) : OutKeeps s₀ (execAos i s) :=
  h.issued fun _ h1 => .ite h1.callFault h1.startPass

protected theorem Keeps.execAload {i : Issue} (h : Keeps s₀ s) : OutKeeps s₀ (execAload i s) :=
  h.issued <| fun _ h1 =>
    .ite h1.callFault <|
    .ite h1.callFault (.ite h1.callFault (.ite h1.callFault (.ite h1.setTile h1.setTile.parityStop)))

protected theorem Keeps.execAbed {i : Issue} (h : Keeps s₀ s) : OutKeeps s₀ (execAbed i s) :=
  h.issued fun _ h1 => .ite h1 (.ite h1.callFault h1.setTile.setRegN)

protected theorem Keeps.reloadBlocks {t : Nat} (h : Keeps s₀ s) : Keeps s₀ (reloadBlocks s t) := by
  unfold reloadBlocks
  exact h.setTile

protected theorem Keeps.injectWs {t : Nat} {p : LivePass} {m : Nat} (h : Keeps s₀ s) :
    Keeps s₀ (injectWs s t p m) := by
  unfold injectWs
  exact .ite h.drainRow.writeBuf h.drainRow

protected theorem Keeps.injectVec {t : Nat} {a : State × LivePass} {v : Nat × Bool} (h : Keeps s₀ a.1) :
    Keeps s₀ (injectVec t a v).1 := by
  unfold injectVec
  exact .iteFst h <|
    .iteFst (by split; exacts [h.parityPoison, h]) (.injectWs (by split; exacts [h.parityPoison, h]))

protected theorem Keeps.passTick {t : Nat} {p : LivePass} (h : Keeps s₀ s) : Keeps s₀ (passTick s t p).1 := by
  unfold passTick
  extract_lets here n r
  have h₁ : Keeps s₀ r.1 := .foldlFst h fun _ _ h => h.injectVec
  exact .iteFst h (.iteFst h₁.inc64 (.iteFst h₁ h₁.inc64))

protected theorem Keeps.arrayTick {t : Nat} (h : Keeps s₀ s) : Keeps s₀ (arrayTick s t) := by
  unfold arrayTick
  exact .ite h (.inc64 (.setTile (.foldlFst h fun _ _ h1 => h1.passTick)))

protected theorem Keeps.shiftOut {t : Nat} {p : LivePass} (h : Keeps s₀ s) : Keeps s₀ (shiftOut s t p) :=
  h.foldl fun _ _ h1 => h1.drainRow

protected theorem Keeps.landTick {t : Nat} (h : Keeps s₀ s) : Keeps s₀ (landTick s t) := by
  unfold landTick
  exact .ite h (h.foldl fun _ _ h1 => h1.shiftOut).setTile

end Sys2Proof.Machine

/-! ## What every step keeps: the Granary -/

namespace Sys2Proof.Machine

open Sys2Proof Sys2Proof.Config

variable {s₀ s t : State}

protected theorem Keeps.unitData {r : GReq} {u : Nat} (h : Keeps s₀ s) : Keeps s₀ (unitData s r u).2.2 := by
  unfold unitData
  dsimp only
  split
  · exact h
  · split
    · next e =>
      have h₁ := h.readPieces.snd e
      exact .iteTrip h₁.dropT2.resultTrip (.iteTrip h₁.dropT2.resultTrip h₁.dropT2.resultTrip)
    · next e => exact h.readPieces.snd e

protected theorem Keeps.putReq {r : GReq} {r' : Option GReq} (h : Keeps s₀ s) : Keeps s₀ (putReq s r r') :=
  h.frame

protected theorem Keeps.touchNew {r : GReq} {ps : List (Nat × Nat)} (h : Keeps s₀ s) :
    Keeps s₀ (touchNew s r ps).1 := by
  unfold touchNew
  exact h.touchAll

protected theorem Keeps.deliverUnit {r : GReq} (h : Keeps s₀ s) : Keeps s₀ (deliverUnit s r).2 := by
  unfold deliverUnit
  dsimp only
  split
  · exact h
  · refine .iteSnd h ?_
    split
    · next e => exact (h.unitData.trip e).touchNew.soilUnit.toEdge.putReq
    · next e => exact (h.unitData.trip e).putReq
    · next e => exact (h.unitData.trip e).putReq
    · next e => exact (h.unitData.trip e).putReq.uncorrGrain
    · next e => exact ((h.unitData.trip e).obstacle fun _ _ h1 => h1.callFault).result

protected theorem Keeps.deliverStore {r : GReq} (h : Keeps s₀ s) : Keeps s₀ (deliverStore s r).2 := by
  refine .iteSnd h ?_
  dsimp only
  split
  · exact h.putReq
  · exact (h.putReq.obstacle fun _ _ h1 => h1.callFault).result
  · split
    · next e => exact (h.putRows.mid e).putReq.touchRows.frame
    · next e => exact (h.putRows.mid e).putReq.uncorrGrain.callFault
    · next e => exact ((h.putRows.mid e).putReq.obstacle fun _ _ h1 => h1.callFault).result

protected theorem Keeps.deliverNext {r : GReq} (h : Keeps s₀ s) : Keeps s₀ (deliverNext s r).2 :=
  .iteSnd h (.iteSnd h.deliverStore h.deliverUnit)

protected theorem Keeps.pumpFuel {f : Nat} (h : Keeps s₀ s) : Keeps s₀ (pumpFuel f s) := by
  induction f generalizing s with
  | zero => exact h
  | succ f ih =>
    exact .ite (ih <| .foldlSnd h fun _ _ h1 => .iteSnd h1 h1.deliverNext)
      (.foldlSnd h fun _ _ h1 => .iteSnd h1 h1.deliverNext)

protected theorem Keeps.grnPump (h : Keeps s₀ s) : Keeps s₀ (grnPump s) := h.pumpFuel

protected theorem Keeps.execFill {i : Issue} (h : Keeps s₀ s) : OutKeeps s₀ (execFill i s) :=
  h.issued fun _ h1 => h1.overEdge fun _ h2 => .ite h2.grnFault.callFault (.ite h2.callFault h2.frame.grnPump)

protected theorem Keeps.execList {i : Issue} (h : Keeps s₀ s) : OutKeeps s₀ (execList i s) :=
  h.issued <| fun _ h1 =>
    h1.overEdge <| fun _ h2 =>
      .ite h2.grnFault.callFault <|
      .ite h2.callFault (by split; exacts [h2.parityPoison, .ite h2.setFg h2.setFg.frame.grnPump])

protected theorem Keeps.execStore {i : Issue} (h : Keeps s₀ s) : OutKeeps s₀ (execStore i s) :=
  h.issued <| fun _ h1 =>
    h1.overEdge <| fun _ h2 =>
      .ite h2.grnFault.callFault <|
      .ite h2.callFault (by split; exacts [h2.parityPoison, h2.newTag.frame.grnPump])

protected theorem Keeps.bumpCtr {t : Nat} {bg : Bool} {k cause : Nat} (h : Keeps s₀ s) :
    Keeps s₀ (bumpCtr s t bg k cause) := by
  unfold bumpCtr
  exact .ite h.setCtx h

protected theorem Keeps.execStoreComplete {t k : Nat} (h : Keeps s₀ s) :
    OutKeeps s₀ (execStoreComplete t k s) := by
  unfold execStoreComplete
  split
  exacts [.next h, .next (.bumpCtr (.frame (.ite h.soilCtx h)))]

protected theorem Keeps.hintGrain {t n tier by' a : Nat} (h : Keeps s₀ s) :
    Keeps s₀ (hintGrain t n tier by' s a) := by
  unfold hintGrain
  dsimp only
  split
  · exact .ite h.noteWalk.incSat h.noteWalk.migrate
  · exact h.noteWalk.grnFault.partFault
  · exact h.noteWalk.grnFault.callFault

protected theorem Keeps.execHint {i : Issue} (h : Keeps s₀ s) : OutKeeps s₀ (execHint i s) :=
  h.issued fun _ h1 => h1.overEdge fun _ h2 => .ite h2.grnFault.callFault (h2.foldl fun _ _ h3 => h3.hintGrain)

protected theorem Keeps.mapFault {die n : Nat} (h : Keeps s₀ s) : Keeps s₀ (mapFault s die n) :=
  h.grnFault.partFault

protected theorem Keeps.mapCmd {die n op : Nat} {busy : Bool} (h : Keeps s₀ s) :
    Keeps s₀ (mapCmd s die n op busy) := h.setRegN

protected theorem Keeps.recoverPace {cp : Copy} (h : Keeps s₀ s) : Keeps s₀ (recoverPace s cp) := .ite h h.frame

protected theorem Keeps.grainBytes {cp : Copy} {data : List Byte} (h : Keeps s₀ s) :
    Keeps s₀ (grainBytes s cp data).2 := by
  unfold grainBytes
  exact .iteSnd h.t1Read h.inc64

protected theorem Keeps.flipCopy {cp : Copy} (h : Keeps s₀ s) : Keeps s₀ (flipCopy s cp) := by
  unfold flipCopy
  dsimp only
  split
  · exact .grnPump <| .migrate <| .frame <| .settlePage <|
      .ite h.dropCopy.setEntry.incSat <| .ite h.dropCopy.setEntry.incSat h.dropCopy.setEntry
  · exact .grnPump <| .frame <| .settlePage <|
      .ite h.dropCopy.setEntry.incSat <| .ite h.dropCopy.setEntry.incSat h.dropCopy.setEntry

protected theorem Keeps.copyToT1 {cp : Copy} {data : List Byte} (h : Keeps s₀ s) :
    Keeps s₀ (copyToT1 s cp data) := by
  unfold copyToT1
  exact .ite h.recoverPace.flipCopy <| by
      split
      · next e => exact (h.recoverPace.grainBytes.snd e).t1Write.flipCopy
      · next e => exact h.recoverPace.grainBytes.snd e

protected theorem Keeps.copyToT2 {cp : Copy} {data : List Byte} (h : Keeps s₀ s) :
    Keeps s₀ (copyToT2 s cp data) := by
  unfold copyToT2
  split
  · next e => exact (h.recoverPace.grainBytes.snd e).newTag.sendLines.frame
  · next e => exact (h.recoverPace.grainBytes.snd e).dropCopy.uncorrGrain

protected theorem Keeps.execGrainFlip {data : List Byte} {frame : Nat} (h : Keeps s₀ s) :
    OutKeeps s₀ (execGrainFlip data frame s) := by
  unfold execGrainFlip
  split
  · exact .next h
  · exact .ite (.next h.flipCopy) <|
      .ite (.next h.copyToT2) (.ite (.next h.copyToT1) (.ite (.next h) (.next h.takeFrame.copyToT1)))

/-- The bytes of a range of T1 cleared, and the symbol errors of some of its blocks. -/
theorem Keeps.clearT1 {lo hi : Nat} {p : Nat → Bool} (h : Keeps s₀ s) :
    Keeps s₀ { s with
      mem := { s.mem with t1 := zeroBytes s.mem.t1 lo hi, t1err := NMap.delIf s.mem.t1err p } } :=
  h.memory fun ⟨sram, bad, t1, err, host⟩ => ⟨sram, bad, zeroBytes_wf _ _ _ t1, NMap.wf_delIf _ _ _ err, host⟩

protected theorem Keeps.mapTake {die n frame ea w : Nat} (h : Keeps s₀ s) : Keeps s₀ (mapTake s die n frame ea w) :=
  .frame <| .ownFrame <| .ite h.t1WriteRaw.clearT1 h.t1WriteRaw

protected theorem Keeps.execMap {die n frame : Nat} (h : Keeps s₀ s) : OutKeeps s₀ (execMap die n frame s) :=
  h.guardWrite <|
  .ite (.next h) <|
  .ite (.next h.mapCmd.mapFault) <| by
    split
    · exact .next h.mapCmd.err
    · exact .ite (.next h.mapCmd.err) <|
        .ite (.next h.mapCmd.t1WriteRaw) <|
        .ite (.next h.mapCmd.err.incSat) (.ite (.next h.mapCmd) (.next h.mapCmd.mapTake))

protected theorem Keeps.releasePage {n ea : Nat} (h : Keeps s₀ s) : Keeps s₀ (releasePage s n ea) := by
  unfold releasePage
  exact .setLeases (.t1WriteRaw (.frame (.ite h.dropFrame h)))

protected theorem Keeps.execUnmap {die n : Nat} (h : Keeps s₀ s) : OutKeeps s₀ (execUnmap die n s) :=
  h.guardWrite <|
  .ite (.next h) <|
  .ite (.next h.mapCmd.mapFault) <| by
    split
    · exact .next h.mapCmd.err
    · exact .ite (.next h.mapCmd.err) (.ite (.next h.mapCmd.frame) (.next h.mapCmd.releasePage))

protected theorem Keeps.execUnmapComplete {die : Nat} (h : Keeps s₀ s) :
    OutKeeps s₀ (execUnmapComplete die s) := by
  unfold execUnmapComplete
  split
  exacts [.next h, by split; exacts [.next h, .ite (.next h) (.next h.frame.mapCmd.releasePage)]]

protected theorem Keeps.overQuota {die n : Nat} {was : Bool} (h : Keeps s₀ s) :
    Keeps s₀ (overQuota s die n was) := by
  unfold overQuota
  exact .ite h.setRegN.evt h.setRegN

protected theorem Keeps.movePage {n : Nat} {p : Nat × Nat} {target : Nat} (h : Keeps s₀ s) :
    Keeps s₀ (movePage s n p target) := h.foldl fun _ _ h1 => .ite h1.startMigration h1

protected theorem Keeps.quotaClean {die n : Nat} {p : Nat × Nat} (h : Keeps s₀ s) :
    Keeps s₀ (quotaClean die n s p) := by
  unfold quotaClean
  exact .ite h (.ite (.ite h.movePage h) h.movePage)

protected theorem Keeps.quotaDirty {die n : Nat} {p : Nat × Nat} (h : Keeps s₀ s) :
    Keeps s₀ (quotaDirty die n s p) := by
  unfold quotaDirty
  exact .ite h h.movePage

protected theorem Keeps.quotaWrite {die n v : Nat} (h : Keeps s₀ s) : Keeps s₀ (quotaWrite s die n v) := by
  unfold quotaWrite
  exact ((h.setRegN.foldl fun _ _ h1 => h1.quotaClean).foldl fun _ _ h1 => h1.quotaDirty).overQuota.grnPump

protected theorem Keeps.execGrnQuotaWrite {die n v : Nat} (h : Keeps s₀ s) :
    OutKeeps s₀ (execGrnQuotaWrite die n v s) := h.guardWrite (.ite (.next h) (.next h.quotaWrite))

end Sys2Proof.Machine

/-! ## What every step keeps: the Thresher, synchronisation and arrivals -/

namespace Sys2Proof.Machine

open Sys2Proof Sys2Proof.Config

variable {s₀ s t : State}

protected theorem Keeps.thrFault {u desc part code : Nat} (h : Keeps s₀ s) :
    Keeps s₀ (thrFault s u desc part code) := by
  unfold thrFault
  exact .endHead (.errIn (.ite (.evt (.evt (.incSat (.ite h.setPair h)))) (.evt (.incSat (.ite h.setPair h)))))

protected theorem Keeps.thrCall {op : Nat} {i : Issue} {start : State → ThrCall → Nat → State}
    (h : Keeps s₀ s) (hstart : ∀ v x1 x2, Keeps s₀ v → Keeps s₀ (start v x1 x2)) :
    OutKeeps s₀ (thrCall op i s start) :=
  h.issued <| fun _ h1 =>
    .ite h1 <|
    .ite h1.thrFault <|
    .ite h1.thrFault <|
    .ite h1.thrFault <|
    .ite h1.thrFault <|
    .ite h1.callFault <| by
      split
      exacts [h1.parityPoison, .ite (hstart _ _ _ h1) (h1.dynamic fun _ h2 => hstart _ _ _ h2)]

protected theorem Keeps.addCall {c : ThrCall} (h : Keeps s₀ s) : Keeps s₀ (addCall s c) := h.frame

protected theorem Keeps.execTopk {i : Issue} (h : Keeps s₀ s) : OutKeeps s₀ (execTopk i s) :=
  h.thrCall fun _ _ _ h1 => .ite h1 h1.addCall

protected theorem Keeps.execGtopk {i : Issue} (h : Keeps s₀ s) : OutKeeps s₀ (execGtopk i s) :=
  h.thrCall fun _ _ _ h1 => .ite h1 h1.addCall

protected theorem Keeps.execKvsort {i : Issue} (h : Keeps s₀ s) : OutKeeps s₀ (execKvsort i s) :=
  h.thrCall fun _ _ _ h1 => h1.addCall

protected theorem Keeps.execSOpen {i : Issue} (h : Keeps s₀ s) : OutKeeps s₀ (execSOpen i s) :=
  h.thrCall fun _ _ _ h1 => h1.frame

protected theorem Keeps.execSPush {i : Issue} (h : Keeps s₀ s) : OutKeeps s₀ (execSPush i s) :=
  h.thrCall fun _ _ _ h1 => h1.addCall

protected theorem Keeps.startFlush {c : ThrCall} (h : Keeps s₀ s) : Keeps s₀ (startFlush s c) := by
  unfold startFlush
  split
  exacts [h, h.addCall]

protected theorem Keeps.execSFlush {i : Issue} (h : Keeps s₀ s) : OutKeeps s₀ (execSFlush i s) :=
  h.thrCall fun _ _ _ h1 => h1.startFlush

protected theorem Keeps.execSClose {i : Issue} (h : Keeps s₀ s) : OutKeeps s₀ (execSClose i s) :=
  h.thrCall fun _ _ _ h1 => h1.startFlush

protected theorem Keeps.execBiasLoad {i : Issue} (h : Keeps s₀ s) : OutKeeps s₀ (execBiasLoad i s) :=
  h.thrCall fun _ _ _ h1 => h1.addCall

protected theorem Keeps.setCall {c : ThrCall} (h : Keeps s₀ s) : Keeps s₀ (setCall s c) := h.frame

protected theorem Keeps.biasArrives {c : ThrCall} {bs : List Byte} (h : Keeps s₀ s) :
    Keeps s₀ (biasArrives s c bs) := by
  unfold biasArrives
  exact h.frame.setCall

protected theorem Keeps.pushArrives {c : ThrCall} {bs : List Byte} (h : Keeps s₀ s) :
    Keeps s₀ (pushArrives s c bs) := by
  unfold pushArrives
  dsimp only
  split
  exacts [h, h.inc64.frame.setCall]

protected theorem Keeps.sortArrives {c : ThrCall} (h : Keeps s₀ s) : Keeps s₀ (sortArrives s c) := by
  unfold sortArrives
  exact .ite h.setCall h.inc64.setCall

protected theorem Keeps.sourceTick {u : Nat} (h : Keeps s₀ s) : Keeps s₀ (sourceTick s u) := by
  unfold sourceTick
  exact .ite h (by split; exacts [h, .ite h.frame.biasArrives (.ite h.frame.pushArrives h.frame.sortArrives)])

protected theorem Keeps.tokenDone {c : ThrCall} {pos : Nat} {scores : List Nat} (h : Keeps s₀ s) :
    Keeps s₀ (tokenDone s c pos scores) := by
  unfold tokenDone
  exact .frame (.ite (.evt (.incSat (.ite h.inc64 h.inc64.incSat))) (.ite h.inc64 h.inc64.incSat))

protected theorem Keeps.thrParity {u part : Nat} (h : Keeps s₀ s) : Keeps s₀ (thrParity s u part) :=
  h.incSat.evt.errIn.poison

protected theorem Keeps.strayChunk {u part tag parity : Nat} (h : Keeps s₀ s) :
    Keeps s₀ (strayChunk s u part tag parity) := by
  unfold strayChunk
  split
  exacts [.ite h.thrParity h.thrFault, h.thrFault]

protected theorem Keeps.execThrIngressChunk {t tag pos idx : Nat} {data : List Byte} {parity : Nat}
    (h : Keeps s₀ s) :
    OutKeeps s₀ (execThrIngressChunk t tag pos idx data parity s) :=
  .ite (.next h) <|
  .ite (.next h.frame.thrFault) <| by
    split
    · exact .next h.frame.strayChunk
    · exact .ite (.next h.frame.thrFault) <|
        .ite (.next h.frame.thrFault) <|
        .ite (.next h.frame.thrParity) <|
        .ite (.next h.frame.incSat.evt.evt.frame.thrFault) <|
        .ite (.next h.frame.setCall) (.next h.frame.setCall.tokenDone)

protected theorem Keeps.execDecisionEgress {u : Nat} (h : Keeps s₀ s) : OutKeeps s₀ (execDecisionEgress u s) := by
  unfold execDecisionEgress
  split
  · exact .next h
  · exact .ite (.next h) <| by
        dsimp only
        split
        · exact .next h.frame.inc64
        · exact .ite (.next h.frame.inc64.thrFault) <|
            .ite (.next h.frame.inc64) (.ite (.next h.frame.inc64.frame) (.next h.frame.inc64.setCall))

protected theorem Keeps.execThrReturnTransfer {u tag : Nat} {parityBad : Bool} (h : Keeps s₀ s) :
    OutKeeps s₀ (execThrReturnTransfer u tag parityBad s) := by
  unfold execThrReturnTransfer
  split
  · exact .next h
  · exact .ite (.next h) <|
      .ite (.next h.thrParity) (.ite (.next h.frame.writeBuf.frame) (.next h.frame.writeBuf.setCall))

protected theorem Keeps.counterEvent {t : Nat} {eff : State → State} (h : Keeps s₀ s)
    (heff : ∀ v, Keeps s₀ v → Keeps s₀ (eff v)) :
    Keeps s₀ (counterEvent s t eff) := by
  unfold counterEvent
  exact .ite h.setFg (heff _ h.setFg)

protected theorem Keeps.execArm {i : Issue} (h : Keeps s₀ s) : OutKeeps s₀ (execArm i s) :=
  h.issued <| fun _ h1 =>
    h1.counterEvent fun _ h2 => .ite h2.callFault (.ite h2.callFault (.ite h2.callFault h2.setFg.grnPump))

protected theorem Keeps.waitOn {t k : Nat} {lc : Option Nat} {ok : Bool} (h : Keeps s₀ s) :
    Keeps s₀ (waitOn s t k lc ok) := .ite h.incSat h.setTile

protected theorem Keeps.execWait {i : Issue} (h : Keeps s₀ s) : OutKeeps s₀ (execWait i s) :=
  h.issued fun _ h1 => .ite h1.callFault h1.waitOn

protected theorem Keeps.execWaiti {i : Issue} (h : Keeps s₀ s) : OutKeeps s₀ (execWaiti i s) :=
  h.issued fun _ h1 => .ite h1.callFault h1.waitOn

protected theorem Keeps.execRel {i : Issue} (h : Keeps s₀ s) : OutKeeps s₀ (execRel i s) :=
  h.issued fun _ h1 => h1.counterEvent fun _ h2 => .ite h2.callFault h2.setFg.grnPump

protected theorem Keeps.execFence {i : Issue} (h : Keeps s₀ s) : OutKeeps s₀ (execFence i s) :=
  h.issued fun _ h1 => h1.frame

protected theorem Keeps.execSetlc {i : Issue} (h : Keeps s₀ s) : OutKeeps s₀ (execSetlc i s) :=
  h.issued fun _ h1 => .ite (.ite h1.callFault (.ite h1.callFault h1.setFg)) h1.setFg

protected theorem Keeps.execLoop {i : Issue} (h : Keeps s₀ s) : OutKeeps s₀ (execLoop i s) :=
  h.issued fun _ h1 => .ite h1.callFault (.ite h1.setFg h1.setFg)

protected theorem Keeps.transfer {t target : Nat} (h : Keeps s₀ s) : Keeps s₀ (transfer s t target) := by
  unfold transfer
  exact .ite h.callFault h.setFg

protected theorem Keeps.execJump {i : Issue} (h : Keeps s₀ s) : OutKeeps s₀ (execJump i s) :=
  h.issued fun _ h1 => h1.transfer

protected theorem Keeps.execJnz {i : Issue} (h : Keeps s₀ s) : OutKeeps s₀ (execJnz i s) :=
  h.issued fun _ h1 => .ite h1.callFault (.ite h1 h1.transfer)

protected theorem Keeps.execCommit {i : Issue} (h : Keeps s₀ s) : OutKeeps s₀ (execCommit i s) :=
  h.issued fun _ h1 => .ite h1.callFault h1.setFg

protected theorem Keeps.publishLayer {n l : Nat} {st : Step} (h : Keeps s₀ s) :
    Keeps s₀ (publishLayer s n l st) := by
  unfold publishLayer
  exact ((h.foldl fun _ _ h1 => h1.foldl fun _ _ h2 => h2.jobPut).foldl <| fun _ _ h1 =>
       .ite h1 h1.ringWrite.setRegN.setPart).frame.setPart

protected theorem Keeps.execCommitComplete {t : Nat} (h : Keeps s₀ s) : OutKeeps s₀ (execCommitComplete t s) := by
  unfold execCommitComplete
  dsimp only
  split
  exacts [.ite (.next h) (.next (.ite h.setFg.publishLayer h.setFg)), .next h]

protected theorem Keeps.execEnd {i : Issue} (h : Keeps s₀ s) : OutKeeps s₀ (execEnd i s) :=
  h.issued fun _ h1 => h1.setFg

protected theorem Keeps.releaseWait {t : Nat} (h : Keeps s₀ s) : Keeps s₀ (releaseWait s t) := by
  unfold releaseWait
  dsimp only
  split
  exacts [h, h.settleHold.setFg]

protected theorem Keeps.noteReady {t : Nat} (h : Keeps s₀ s) : Keeps s₀ (noteReady s t) := by
  unfold noteReady
  exact .ite h.setFg h

protected theorem Keeps.execWaitRelease {t : Nat} (h : Keeps s₀ s) : OutKeeps s₀ (execWaitRelease t s) :=
  h.whenOk h.releaseWait

protected theorem Keeps.waitTick {t : Nat} (h : Keeps s₀ s) : Keeps s₀ (waitTick s t) := by
  unfold waitTick
  exact .ite h.noteReady.releaseWait h.noteReady

protected theorem Keeps.noteH2t {u : Unit} (h : Keeps s₀ s) : Keeps s₀ (noteH2t s u) := .ite h h.frame

protected theorem Keeps.discardUnit {u : Unit} (h : Keeps s₀ s) : Keeps s₀ (discardUnit s u) := by
  unfold discardUnit
  dsimp only
  split
  exacts [.evt (.incSat (by split; exacts [h.send, h.noteH2t])), by split; exacts [h.send, h.noteH2t]]

protected theorem Keeps.enterLine {u : Unit} {e' : FrameEnt} (h : Keeps s₀ s) : Keeps s₀ (enterLine s u e') := by
  unfold enterLine
  exact .ite h.frame.frame.edgePump h.frame.frame

protected theorem Keeps.execGateSlotDelivery {t : Nat} (h : Keeps s₀ s) :
    OutKeeps s₀ (execGateSlotDelivery t s) := by
  unfold execGateSlotDelivery
  split
  · exact .next h
  · exact .ite
          (by split; exacts [.next h.frame.edgePump.discardUnit.errIn, .next h.frame.edgePump.discardUnit])
          (.ite (.next h.frame.edgePump.discardUnit.tilePoison) (by split; exacts [.next h.enterLine, .next h]))

protected theorem Keeps.writeUnit {u : Unit} (h : Keeps s₀ s) : Keeps s₀ (writeUnit s u) := by
  unfold writeUnit
  split
  exacts [h.writeSram, .ite h h.writeBuf]

protected theorem Keeps.landUnit {u : Unit} (h : Keeps s₀ s) : Keeps s₀ (landUnit s u) := by
  unfold landUnit
  exact .frame <| by
      split
      exacts [.sendMarked (.inc64 (.ite h.writeUnit.bumpCtr h.writeUnit)), .ite h.writeUnit.bumpCtr h.writeUnit]

protected theorem Keeps.parityReturn {t : Nat} {u : Unit} (h : Keeps s₀ s) : Keeps s₀ (parityReturn s t u) := by
  unfold parityReturn
  exact h.frame.incSat.evt.toEdge

protected theorem Keeps.execArrivalUnitLanded {t : Nat} {parityBad : Bool} (h : Keeps s₀ s) :
    OutKeeps s₀ (execArrivalUnitLanded t parityBad s) := by
  unfold execArrivalUnitLanded
  split
  · exact .next h
  · exact .ite (.next h) <|
      .ite (.next h.frame.discardUnit) <|
      .ite (.ite (.next h.parityReturn.incSat.incSat) (.next h.parityReturn.tilePoison)) <|
      .ite (.next h.frame.discardUnit.tilePoison) (.next h.frame.landUnit.grnPump)

end Sys2Proof.Machine

/-! ## What every step keeps: lending and memory semantics -/

namespace Sys2Proof.Machine

open Sys2Proof Sys2Proof.Config

variable {s₀ s t : State}

protected theorem Keeps.startCopy {ea g mid fin n : Nat} (h : Keeps s₀ s) :
    Keeps s₀ (startCopy s ea g mid fin n) := by
  unfold startCopy
  exact h.setEntry.frame

protected theorem Keeps.remirror {n ea : Nat} {lines : Bool} {gs : List Nat} (h : Keeps s₀ s) :
    Keeps s₀ (remirror s n ea lines gs) := by
  unfold remirror
  exact .ite h <|
    .ite (h.foldl fun _ _ h1 => h1.startCopy) <| by
      split
      · exact h.setEntry.bindLease.foldl fun _ _ h1 => h1.startCopy
      · exact .ite (h.foldl fun _ _ h1 => h1.startCopy) h.evt

protected theorem Keeps.refill {n ea : Nat} {good : Bool} {gs : List Nat} (h : Keeps s₀ s) :
    Keeps s₀ (refill s n ea good gs) := by
  unfold refill
  exact .ite h <|
    .ite (h.foldl fun _ _ h1 => h1.dropCopy.setEntry.homeLost) <|
    .ite (h.incSat.frame.foldl fun _ _ h1 => h1.dropCopy.startCopy) <| by
      split
      · exact h.incSat.frame.setEntry.bindLease.foldl fun _ _ h1 => h1.dropCopy.startCopy
      · exact h.incSat.frame.foldl fun _ _ h1 => h1.dropCopy.startCopy

protected theorem Keeps.loseCopies {n ea dev : Nat} {lines : Bool} {gs : List Nat} (h : Keeps s₀ s) :
    Keeps s₀ (loseCopies s n ea dev lines gs) := by
  unfold loseCopies
  exact .ite h <|
    .foldl
        (.refill <|
        .remirror <|
        .ite (h.foldl fun _ _ h1 => h1.dropCopy).setEntry (h.foldl fun _ _ h1 => h1.dropCopy).setEntry.incSat)
        (fun _ _ h1 => h1.loseGrain)

protected theorem Keeps.finishStores (h : Keeps s₀ s) : Keeps s₀ (finishStores s) := by
  unfold finishStores
  exact h.foldl fun _ _ h1 => by dsimp only; split; exacts [h1.frame.sendMarked, h1.frame]

protected theorem Keeps.recoverStart {d : Nat} (h : Keeps s₀ s) : Keeps s₀ (recoverStart s d) := by
  unfold recoverStart
  exact h.frame

protected theorem Keeps.lenderLost {dev : Nat} (h : Keeps s₀ s) : Keeps s₀ (lenderLost s dev) := by
  unfold lenderLost
  exact .ite h.frame
        (h.frame.incSat.evt.recoverStart.recoverStart.setLeases.frame.foldl <| fun _ _ h1 => by
           split
           exacts [h1.loseCopies, h1]).grnPump.finishStores

protected theorem Keeps.grainAnswer {p : Pkt} {op status : Nat} {bs : List Byte} (h : Keeps s₀ s) :
    Keeps s₀ (grainAnswer s p op status bs) := by
  unfold grainAnswer
  exact h.send

protected theorem Keeps.execGrainRequest (h : Keeps s₀ s) : OutKeeps s₀ (execGrainRequest s) := by
  unfold execGrainRequest
  split
  · exact .next h
  · next e =>
      exact .ite (.next (h.takeEjected e).incSat) <| by
          split
          · exact .next (h.takeEjected e).incSat
          · exact .next (h.takeEjected e).incSat.send
          · next e₁ =>
              exact .ite
                    (by
                      split
                      · next e₁ => exact .next ((h.takeEjected e).t1Read.snd e₁).noteId.grainAnswer.inc64
                      · next e₁ => exact .next ((h.takeEjected e).t1Read.snd e₁).noteId.grainAnswer) <|
                .ite
                    (by
                      split
                      · next e₁ => exact .next ((h.takeEjected e).t1Write.snd e₁).noteId.grainAnswer.inc64
                      · next e₁ => exact .next ((h.takeEjected e).t1Write.snd e₁).noteId.grainAnswer)
                    (.next (h.takeEjected e).grainAnswer)

protected theorem Keeps.execGrainResponse (h : Keeps s₀ s) : OutKeeps s₀ (execGrainResponse s) := by
  unfold execGrainResponse
  split
  · exact .next h
  · next e =>
      split
      · exact .next (h.takeEjected e).incSat
      · dsimp only
        split
        · exact .next (h.takeEjected e).settle
        · exact .ite (.next (h.takeEjected e).settle.frame.loseCopies.grnPump) <|
            .ite (.next (h.takeEjected e).settle.frame.frame.grnPump) <|
            .next (h.takeEjected e).settle.frame.frame.finishStores

protected theorem Keeps.sendMem {i : Issuer} {part stamp : Nat} {m : MemHdr} {d : List Byte} {rep : Reply}
    {members : List (Issuer × Reply)} (h : Keeps s₀ s) :
    Keeps s₀ (sendMem s i part stamp m d rep members) := h.issueReq

protected theorem Keeps.sendComb {c : Comb} (h : Keeps s₀ s) : Keeps s₀ (sendComb s c) := by
  unfold sendComb
  dsimp only
  split
  exacts [h.frame, h.frame.issueReq]

protected theorem Keeps.again {i : Issuer} {part stamp : Nat} {m : MemHdr} {d : List Byte} {rep : Reply}
    {win : Nat} {key : Nat × Nat × Nat × Nat × Nat → Bool} (h : Keeps s₀ s) :
    Keeps s₀ (issueMem.again i part stamp m d rep s win key) := by
  unfold issueMem.again
  exact h.frame.sendMem

protected theorem Keeps.issueMem {i : Issuer} {part stamp : Nat} {m : MemHdr} {d : List Byte} {rep : Reply}
    (h : Keeps s₀ s) :
    Keeps s₀ (issueMem s i part stamp m d rep) :=
  .ite h.sendMem <| by
    dsimp only
    split
    exacts [.ite h.frame.inc64.sendComb h.frame.inc64, by split; exacts [.ite h.frame h.again, h.again]]

protected theorem Keeps.openGroup {t part ctr n : Nat} (h : Keeps s₀ s) :
    Keeps s₀ (openGroup s t part ctr n).2 := by
  unfold openGroup
  exact .iteSnd h.frame.frame.bumpCtr h.frame

protected theorem Keeps.checkFail {t code : Nat} (h : Keeps s₀ s) : Keeps s₀ (checkFail s t code) :=
  h.incSat.evt.err.callFault

protected theorem Keeps.execRmem {i : Issue} (h : Keeps s₀ s) : OutKeeps s₀ (execRmem i s) :=
  h.issued <| fun _ h1 =>
    h1.dynamic <| fun _ h2 =>
      .ite h2.callFault <| by
        split
        exacts [h2.parityPoison, by split; exacts [h2.checkFail, h2.openGroup.foldl fun _ _ h3 => h3.issueMem]]

protected theorem Keeps.execMsgs {i : Issue} (h : Keeps s₀ s) : OutKeeps s₀ (execMsgs i s) :=
  h.issued <| fun _ h1 =>
    h1.dynamic <| fun _ h2 =>
      .ite h2.callFault <|
      .ite h2.callFault (by split; exacts [h2.parityPoison, .ite h2.openGroup.issueReq h2.openGroup.issueReq])

protected theorem Keeps.soilIssuer {p : Pkt} {i : Issuer} (h : Keeps s₀ s) : Keeps s₀ (soilIssuer s p i) := by
  unfold soilIssuer
  split
  exacts [.ite h.soilCtx h, h]

protected theorem Keeps.answer {i : Issuer} {r : Reply} {bs : List Byte} {cause : Nat} (h : Keeps s₀ s) :
    Keeps s₀ (answer s i r bs cause) := by
  unfold answer
  split
  exacts [h, .ite (.ite h.frame.bumpCtr h.frame) (.ite h.frame h.frame.toEdge)]

protected theorem Keeps.issuerError {r : Req} {code : Nat} (h : Keeps s₀ s) : Keeps s₀ (issuerError s r code) := by
  unfold issuerError
  split
  exacts [h.errIn.endHead, h.err.lenderLost, h.err]

protected theorem Keeps.faultInfo {dev status : Nat} (h : Keeps s₀ s) : Keeps s₀ (faultInfo s dev status) :=
  .ite h.setRegN h

protected theorem Keeps.execMemRsp (h : Keeps s₀ s) : OutKeeps s₀ (execMemRsp s) := by
  unfold execMemRsp
  split
  · exact .next h
  · next e =>
    split
    · exact .next (h.takeEjected e).incSat
    · extract_lets soiled status
      have h₁ : Keeps s₀ soiled := (h.takeEjected e).settle.foldl fun _ _ h => h.soilIssuer
      exact .ite (.next h₁.faultInfo.issuerError) <| .ite (.next h₁.answer) (.next (h₁.foldl fun _ _ h => h.answer))

protected theorem Keeps.execE2eTimeout (h : Keeps s₀ s) : OutKeeps s₀ (execE2eTimeout s) := by
  unfold execE2eTimeout
  split
  · exact .next h
  · exact .ite (.next (h.foldl fun _ _ h1 => h1.send).incSat.soilSteps.frame) <|
      .next h.settle.incSat.evt.issuerError

protected theorem Keeps.execCombineWindowExpiry (h : Keeps s₀ s) : OutKeeps s₀ (execCombineWindowExpiry s) := by
  unfold execCombineWindowExpiry
  split
  exacts [.next h, .next h.sendComb]

protected theorem Keeps.execFenceComplete {t : Nat} {bg : Bool} (h : Keeps s₀ s) :
    OutKeeps s₀ (execFenceComplete t bg s) := by
  unfold execFenceComplete
  exact .ite (.next h) (.next (h.frame.foldl fun _ _ h1 => h1.bumpCtr))

protected theorem Keeps.msgAnswer {p : Pkt} {kind status : Nat} (h : Keeps s₀ s) :
    Keeps s₀ (msgAnswer s p kind status) := by
  unfold msgAnswer
  exact h.send

protected theorem Keeps.msgComplete {b : Bind} {m : InMsg} {p : Pkt} (h : Keeps s₀ s) :
    Keeps s₀ (msgComplete s b m p) := by
  unfold msgComplete
  exact .ite h.frame.noteId.msgAnswer.writeHost.complete h.frame.noteId.msgAnswer.soilUnit.toEdge

protected theorem Keeps.msgTake {b : Bind} {m : InMsg} {p : Pkt} (h : Keeps s₀ s) :
    Keeps s₀ (msgTake s b m p) := by
  unfold msgTake
  exact .ite h (.ite (.msgComplete (.ite h.incSat h)) (.frame (.ite h.incSat h)))

protected theorem Keeps.msgRefuse {p : Pkt} (h : Keeps s₀ s) : Keeps s₀ (msgRefuse s p) := by
  unfold msgRefuse
  exact h.freshFree.incSat.evt.msgAnswer

protected theorem Keeps.execMsgPacket (h : Keeps s₀ s) : OutKeeps s₀ (execMsgPacket s) := by
  unfold execMsgPacket
  split
  · exact .next h
  · next e =>
      split
      · exact .next (h.takeEjected e).incSat
      · exact .next (h.takeEjected e).incSat.msgAnswer
      · split
        · exact .next (h.takeEjected e).msgRefuse
        · exact .ite (.next (h.takeEjected e).msgRefuse) <| by
              split
              · exact .next (h.takeEjected e).msgTake
              · exact .ite (.next (h.takeEjected e).msgRefuse) (.next (h.takeEjected e).frame.msgTake)

protected theorem Keeps.execMsgAck (h : Keeps s₀ s) : OutKeeps s₀ (execMsgAck s) := by
  unfold execMsgAck
  split
  · exact .next h
  · next e =>
      split
      exacts [.next (h.takeEjected e).incSat, .next (h.takeEjected e).settle.soilIssuer.answer]

protected theorem Keeps.execMsgNack (h : Keeps s₀ s) : OutKeeps s₀ (execMsgNack s) := by
  unfold execMsgNack
  split
  · exact .next h
  · next e =>
      split
      exacts [.next (h.takeEjected e).incSat, .next (h.takeEjected e).settle.faultInfo.issuerError]

protected theorem Keeps.execMsgTimeout (h : Keeps s₀ s) : OutKeeps s₀ (execMsgTimeout s) := by
  unfold execMsgTimeout
  split
  exacts [.next h, .next h.frame.incSat.evt]

protected theorem Keeps.execOrtEntryWrite {v : Nat} (h : Keeps s₀ s) : OutKeeps s₀ (execOrtEntryWrite v s) :=
  h.guardWrite (.next h.frame.setRegN)

protected theorem Keeps.execPartModeWrite {v : Nat} (h : Keeps s₀ s) : OutKeeps s₀ (execPartModeWrite v s) :=
  h.guardWrite (.ite (.next h.err) (.next h.setRegN))

end Sys2Proof.Machine

/-! ## What every step keeps: HUSK and the lifecycle of steps -/

namespace Sys2Proof.Machine

open Sys2Proof Sys2Proof.Config

variable {s₀ s t : State}

protected theorem Keeps.countHusk {t blocks cap : Nat} {kept : List Nat} (h : Keeps s₀ s) :
    Keeps s₀ (countHusk s t blocks cap kept) := by
  unfold countHusk
  exact h.inc64.inc64

protected theorem Keeps.huskHolds {t banks reg count dur : Nat} (h : Keeps s₀ s) :
    Keeps s₀ (huskHolds s t banks reg count dur) := by
  unfold huskHolds
  exact h.setTile

protected theorem Keeps.huskIssue {i : Issue} {d : HuskDesc} {reg : SlotReg} {k : HuskPick} (h : Keeps s₀ s) :
    Keeps s₀ (huskIssue s i d reg k) := by
  unfold huskIssue
  exact .setFg (.huskHolds (.writeBuf (.countHusk (.convSat (.ite h h.errIn)))))

protected theorem Keeps.huskEmpty {i : Issue} (h : Keeps s₀ s) : Keeps s₀ (huskEmpty s i) := by
  unfold huskEmpty
  exact h.setFg

protected theorem Keeps.huskRun {i : Issue} (h : Keeps s₀ s) : Keeps s₀ (huskRun s i) := by
  unfold huskRun
  dsimp only
  split
  · exact h.parityPoison
  · split
    · exact h.huskEmpty
    · exact .ite h.huskEmpty (.ite h.parityStop.setTile (by split; exacts [h.tilePoison, h.huskIssue]))

protected theorem Keeps.execHusk {i : Issue} (h : Keeps s₀ s) : OutKeeps s₀ (execHusk i s) :=
  h.issued fun _ h1 => .ite h1.callFault (.ite h1.callFault h1.huskRun)

protected theorem Keeps.relist {t : Nat} {q : GReq} {pc ctr : Nat} {l : List Nat} (h : Keeps s₀ s) :
    Keeps s₀ (relist s t q pc ctr l) := by
  unfold relist
  exact h.frame.setFg

protected theorem Keeps.expertRecompute {t : Nat} {r : HuskRun} {rest : List HuskRun} {m : Nat} (h : Keeps s₀ s) :
    Keeps s₀ (expertRecompute s t r rest m) := by
  unfold expertRecompute
  dsimp only
  split
  exacts [h.writeBuf.setFg.relist, h.writeBuf.setFg]

protected theorem Keeps.expertUpdate {t : Nat} {r : HuskRun} {rest : List HuskRun} {m : Nat} (h : Keeps s₀ s) :
    Keeps s₀ (expertUpdate s t r rest m) := by
  unfold expertUpdate
  exact h.writeBuf.setFg

protected theorem Keeps.execExpertLastChunkDone {t : Nat} {hidden : List (List Nat)} (h : Keeps s₀ s) :
    OutKeeps s₀ (execExpertLastChunkDone t hidden s) := by
  unfold execExpertLastChunkDone
  split
  · exact .next h
  · exact .ite (.next h.expertRecompute) (by split; exacts [.next h.parityPoison, .next h.expertUpdate])

protected theorem Keeps.restoreHusk {t : Nat} {from' : Option Nat} (h : Keeps s₀ s) :
    Keeps s₀ (restoreHusk s t from') := by
  unfold restoreHusk
  exact h.foldl fun _ _ h1 => h1.writeBuf

protected theorem Keeps.chaffDone {i : Issue} {f : Fmt} {fl th n : Nat} (h : Keeps s₀ s) :
    Keeps s₀ (chaffDone s i f fl th n) := by
  unfold chaffDone
  exact h.writeBuf.writeBuf.convSat.setFg

protected theorem Keeps.execChaff {i : Issue} (h : Keeps s₀ s) : OutKeeps s₀ (execChaff i s) :=
  h.issued <| fun _ h1 => by
    dsimp only
    split
    · exact h1.callFault
    · exact .ite h1.callFault (.ite h1.callFault (by split; exacts [h1.parityPoison, h1.chaffDone]))

protected theorem Keeps.mapHead {n : Nat} {f : Step → Step} (h : Keeps s₀ s) : Keeps s₀ (mapHead s n f) := by
  unfold mapHead
  dsimp only
  split
  exacts [h, h.setPart]

protected theorem Keeps.requestStop {n : Nat} (h : Keeps s₀ s) : Keeps s₀ (requestStop s n) := by
  unfold requestStop
  exact h.setPart

protected theorem Keeps.maybeResume {n : Nat} (h : Keeps s₀ s) : Keeps s₀ (maybeResume s n) := by
  unfold maybeResume
  exact .ite h h.setPart

protected theorem Keeps.execStopTakeEffect {n : Nat} (h : Keeps s₀ s) : OutKeeps s₀ (execStopTakeEffect n s) := by
  unfold execStopTakeEffect
  exact h.whenOk (.ite h.setPart.mapHead.soilSteps h.setPart.mapHead.soilSteps.maybeResume)

protected theorem Keeps.stopTile {f t : Nat} (h : Keeps s₀ s) : Keeps s₀ (stopTile f s t) := by
  unfold stopTile
  exact (h.foldl fun _ _ h1 => h1.writeSram).writeSram.setTile.incSat.evt

protected theorem Keeps.execStopComplete {n : Nat} (h : Keeps s₀ s) : OutKeeps s₀ (execStopComplete n s) := by
  unfold execStopComplete
  exact .ite (.next h) (.next (h.foldl fun _ _ h1 => h1.stopTile).setPart)

protected theorem Keeps.resumeTile {f d t : Nat} (h : Keeps s₀ s) : Keeps s₀ (resumeTile f d s t) := by
  unfold resumeTile
  exact h.reloadBlocks.setTile.evt

protected theorem Keeps.execResumeTakeEffect {n : Nat} (h : Keeps s₀ s) :
    OutKeeps s₀ (execResumeTakeEffect n s) := by
  unfold execResumeTakeEffect
  exact .ite (.next h) <| by
      dsimp only
      split
      exacts [.next h.setPart.callFault, .next (h.setPart.foldl fun _ _ h1 => h1.resumeTile)]

protected theorem Keeps.execFreezeSet {t : Nat} (h : Keeps s₀ s) : OutKeeps s₀ (execFreezeSet t s) :=
  h.guardWrite (.ite (.next h) (.ite (.next h.setRegN.setTile) (.next h.setRegN.setTile.setPart.requestStop)))

protected theorem Keeps.execFreezeClear {t : Nat} (h : Keeps s₀ s) : OutKeeps s₀ (execFreezeClear t s) :=
  h.guardWrite (.ite (.next h) (.next (.ite h.setRegN.setTile.setPart.maybeResume h.setRegN.setTile)))

protected theorem Keeps.execStationaryRefetchDone {t : Nat} {data : List Byte} (h : Keeps s₀ s) :
    OutKeeps s₀ (execStationaryRefetchDone t data s) := by
  unfold execStationaryRefetchDone
  refine .ite (.next h) ?_
  extract_lets n ls written counted wait tile reloaded run
  have h₁ : Keeps s₀ reloaded :=
    (Keeps.foldl h fun _ _ h => h.writeSram).incSat.incSat.setTile.reloadBlocks
  have h₂ : Keeps s₀ run := by
    unfold run
    clear_value wait
    split
    exacts [h₁.huskRun, h₁]
  exact .next (.ite h₂ h₂.setPart.maybeResume)

protected theorem Keeps.refuseStep {n code : Nat} (h : Keeps s₀ s) : Keeps s₀ (refuseStep s n code) := by
  unfold refuseStep
  dsimp only
  split
  exacts [h, h.errIn.incSat.endStep.setPart]

protected theorem Keeps.t0Data {n : Nat} {f : T0Fill} (h : Keeps s₀ s) : Keeps s₀ (t0Data s n f).2 :=
  .iteSnd h.inc64 h.jobFetch

protected theorem Keeps.admitObstacle {n a : Nat} {x : JobRes} (h : Keeps s₀ s) :
    Keeps s₀ (admitObstacle s n a x) := by
  unfold admitObstacle
  split
  exacts [h.grnFault.refuseStep, h.lostAccess, h.grnFault.partFault, h.uncorrGrain, h]

protected theorem Keeps.execT0FillComplete {n : Nat} (h : Keeps s₀ s) : OutKeeps s₀ (execT0FillComplete n s) := by
  unfold execT0FillComplete
  split
  · exact .next h
  · next e =>
      split
      · next e => exact .next (h.t0Data.snd e).writeBuf.setPart
      · next e => exact .next (.ite (h.t0Data.snd e).admitObstacle (h.t0Data.snd e))

protected theorem Keeps.demandGrain {n a : Nat} (h : Keeps s₀ s) : Keeps s₀ (demandGrain s n a) := by
  unfold demandGrain
  split
  exacts [.ite h h.startMigration, h]

protected theorem Keeps.demandRange {n a len : Nat} (h : Keeps s₀ s) : Keeps s₀ (demandRange s n a len) :=
  h.foldl fun _ _ h1 => h1.demandGrain

protected theorem Keeps.demandFill {n : Nat} {st : Step} (h : Keeps s₀ s) : Keeps s₀ (demandFill s n st) :=
  h.foldl fun _ _ h1 => h1.demandRange

protected theorem Keeps.progsReady {n : Nat} {st : Step} (h : Keeps s₀ s) : Keeps s₀ (progsReady s n st).2 := by
  unfold progsReady
  exact h.askPieces

protected theorem Keeps.loadProg {n : Nat} {st : Step} {q : TileProg} {bg : Bool} (h : Keeps s₀ s) :
    Keeps s₀ (loadProg s n st q bg) := by
  unfold loadProg
  exact .setTile <|
    .ite h <| by
      split
      · next e => exact (h.readPieces.snd e).touchAll.writeSram
      · next e => exact h.readPieces.snd e

protected theorem Keeps.planMigrate {n : Nat} {st : Step} (h : Keeps s₀ s) : Keeps s₀ (planMigrate s n st) :=
  h.foldl fun _ _ h1 => by split; exacts [.ite h1 (h1.foldl fun _ _ h2 => h2.startMigration), h1]

protected theorem Keeps.registerStep {n : Nat} {st : Step} (h : Keeps s₀ s) : Keeps s₀ (registerStep s n st) := by
  unfold registerStep
  exact h.frame.foldl fun _ _ h1 => h1.frame

protected theorem Keeps.execStepAdmit {n : Nat} (h : Keeps s₀ s) : OutKeeps s₀ (execStepAdmit n s) := by
  unfold execStepAdmit
  dsimp only
  split
  · exact .next h
  · next st _ _ =>
    have h₁ : Keeps s₀ (st.streams.foldl (fun s e => noteRange s 0 n e.1 e.2) s) := h.foldl fun _ _ h => h.noteRange
    refine .ite (.next h) ?_
    split
    · exact .next h₁.admitObstacle
    · refine .ite (.next h₁.demandFill) ?_
      split
      · next e =>
        exact .next ((h₁.progsReady.snd e).foldl fun _ _ h => h.loadProg).dropT2.planMigrate.registerStep.mapHead
      · next e => exact .next (h₁.progsReady.snd e).demandRange
      · next e => exact .next (h₁.progsReady.snd e).admitObstacle

protected theorem Keeps.execStepStart {n : Nat} (h : Keeps s₀ s) : OutKeeps s₀ (execStepStart n s) := by
  unfold execStepStart
  dsimp only
  split
  exacts [.next h, by split; exacts [.next h, .ite (.next h) (.next (h.foldl fun _ _ h1 => h1.setFg).mapHead)]]

protected theorem Keeps.dropRecords {t k : Nat} {done : List Nat} (h : Keeps s₀ s) :
    Keeps s₀ (dropRecords s t k done) := by
  unfold dropRecords
  exact h.setFg.foldl fun _ _ h1 => h1.incSat.evt

protected theorem Keeps.execPoisonHalt {h' : PoisonedPart} (h : Keeps s₀ s) :
    OutKeeps s₀ (execPoisonHalt h' s) := by
  unfold execPoisonHalt
  dsimp only
  split
  · exact .next h
  · exact .ite (.next h) <|
      .ite (.next h.errIn.endHead) <|
      .next
          ((h.settleHolds.foldl fun _ _ h1 => h1.dropRecords).foldl fun _ _ h1 => h1.restoreHusk.setTile).mapHead

/-- A match on a program of the step, with each case closed: Lean does not look into the read of the second case. -/
theorem Keeps.ofProg {o : Option TileProg} {f : TileProg → State} (hs : Keeps s₀ s) (hf : ∀ q, Keeps s₀ (f q)) :
    Keeps s₀ (match o with
      | none => s
      | some q => f q) := by
  cases o
  exacts [hs, hf _]

protected theorem Keeps.reloadProgram {n : Nat} {st : Step} {t a : Nat} (h : Keeps s₀ s) :
    Keeps s₀ (reloadProgram s n st t a) := by
  unfold reloadProgram
  refine .ofProg h fun q => ?_
  dsimp only
  split
  · next e => exact (h.readPieces.snd e).writeSram
  · next e => exact h.readPieces.snd e

protected theorem Keeps.execRedeliveryComplete {n : Nat} (h : Keeps s₀ s) :
    OutKeeps s₀ (execRedeliveryComplete n s) := by
  unfold execRedeliveryComplete
  split
  · exact .next h
  · exact .ite (.next h) <|
      .next (h.foldl fun _ _ h1 => h1.reloadProgram.foldl fun _ _ h2 => h2.writeUnit).mapHead

protected theorem Keeps.execReplayAdmit {n : Nat} (h : Keeps s₀ s) : OutKeeps s₀ (execReplayAdmit n s) := by
  unfold execReplayAdmit
  split
  · exact .next h
  · exact .ite (.next (.ite h.demandFill h)) <|
      .next (h.incSat.foldl fun _ _ h1 => h1.inc64.inc64).setPart.mapHead

protected theorem Keeps.execReplayRestart {n : Nat} (h : Keeps s₀ s) : OutKeeps s₀ (execReplayRestart n s) := by
  unfold execReplayRestart
  dsimp only
  split
  exacts [.next h, by split; exacts [.next h, .ite (.next h) (.next (h.foldl fun _ _ h1 => h1.setFg).mapHead)]]

protected theorem Keeps.execQuantumExpiry {t : Nat} (h : Keeps s₀ s) : OutKeeps s₀ (execQuantumExpiry t s) := by
  unfold execQuantumExpiry
  exact h.whenOk h.setTile

protected theorem Keeps.switchTile {t n : Nat} (h : Keeps s₀ s) : Keeps s₀ (switchTile s t n) := by
  unfold switchTile
  exact .ite h (.ite h (by split; exacts [h, .ite h.swapRoles.setTile h.setTile]))

protected theorem Keeps.dropStreams {t n : Nat} (h : Keeps s₀ s) : Keeps s₀ (dropStreams s t n) := h.frame

protected theorem Keeps.restoreStreams {t n : Nat} {bs : List Byte} (h : Keeps s₀ s) :
    Keeps s₀ (restoreStreams s t n bs) := h.foldl fun _ _ h1 => .ite h1 h1.frame

protected theorem Keeps.incoming {t m : Nat} (h : Keeps s₀ s) : Keeps s₀ (incoming s t m).2 := by
  unfold incoming
  split
  exacts [h, h.jobFetch]

protected theorem Keeps.restoreTile {t m : Nat} {r : JobRes} (h : Keeps s₀ s) :
    Keeps s₀ (restoreTile s t m r) := by
  unfold restoreTile
  split
  · exact h.setTile
  · dsimp only
    split
    · exact .ite h.setTile.setFg.refuseStep (h.setTile.restoreStreams.foldl fun _ _ h1 => h1.writeSram)
    · exact h.setTile.admitObstacle

protected theorem Keeps.execContextSaveComplete {t : Nat} (h : Keeps s₀ s) :
    OutKeeps s₀ (execContextSaveComplete t s) := by
  unfold execContextSaveComplete
  dsimp only
  split
  · exact .next h
  · next e =>
      exact .ite (.next h) <| by
          split
          · next e => exact .next (h.incoming.snd e).demandRange
          · next e =>
              split
              · next e₁ => exact .next ((h.incoming.snd e).jobPut.snd e₁).dropStreams.setTile.restoreTile
              · next e₁ => exact .next ((h.incoming.snd e).jobPut.snd e₁).demandRange
              · next e₁ => exact .next ((h.incoming.snd e).jobPut.snd e₁).admitObstacle

end Sys2Proof.Machine

/-! ## What every step keeps: the Sheaf engine -/

namespace Sys2Proof.Machine

open Sys2Proof Sys2Proof.Config

variable {s₀ s t : State}

protected theorem Keeps.shSet {i : ShInst} (h : Keeps s₀ s) : Keeps s₀ (shSet s i) := h.frame

protected theorem Keeps.shDrop {c q : Nat} (h : Keeps s₀ s) : Keeps s₀ (shDrop s c q) := h.dropInsts

protected theorem Keeps.shSendCtl {i : ShInst} {a d kind : Nat} {final : Bool} {recs : List Nat}
    (h : Keeps s₀ s) :
    Keeps s₀ (shSendCtl s i a d kind final recs).2 := by
  unfold shSendCtl
  exact h.send

protected theorem Keeps.shSendRecs {f a d kind : Nat} {i : ShInst} {final : Bool} {recs : List Nat} (h : Keeps s₀ s) :
    Keeps s₀ (shSendRecs f s i a d kind final recs).2 := by
  induction f generalizing s i recs with
  | zero => exact h
  | succ f ih => exact .iteSnd (.iteSnd h h.shSendCtl) (ih h.shSendCtl)

protected theorem Keeps.shRecs {i : ShInst} {a d kind : Nat} {final : Bool} {recs : List Nat} (h : Keeps s₀ s) :
    Keeps s₀ (shRecs s i a d kind final recs).2 := h.shSendRecs

protected theorem Keeps.shCount {c q part code : Nat} (h : Keeps s₀ s) : Keeps s₀ (shCount s c q part code) := by
  unfold shCount
  exact .errIn (.evt (.incSat (.ite h.setRegN h)))

protected theorem Keeps.shIssueFault {c q part code : Nat} (h : Keeps s₀ s) :
    Keeps s₀ (shIssueFault s c q part code) := h.shCount.endHeadWith

protected theorem Keeps.shAbortAll {i : ShInst} {code : Nat} (h : Keeps s₀ s) :
    Keeps s₀ (shAbortAll s i code) := .foldlSnd h fun _ _ h1 => .iteSnd h1 h1.shSendCtl

protected theorem Keeps.shEnd {i : ShInst} {code : Nat} (h : Keeps s₀ s) : Keeps s₀ (shEnd s i code) :=
  h.shCount.shDrop.endStepOf

protected theorem Keeps.shFault {i : ShInst} {code : Nat} (h : Keeps s₀ s) : Keeps s₀ (shFault s i code) :=
  h.shAbortAll.shEnd

protected theorem Keeps.shStray {part code : Nat} (h : Keeps s₀ s) : Keeps s₀ (shStray s part code) := by
  unfold shStray
  split
  exacts [h.shFault, h.shIssueFault]

protected theorem Keeps.shOrphan (h : Keeps s₀ s) : Keeps s₀ (shOrphan s) := h.incSat

protected theorem Keeps.shMalformed (h : Keeps s₀ s) : Keeps s₀ (shMalformed s) := h.shOrphan.err

protected theorem Keeps.shParity {part code : Nat} (h : Keeps s₀ s) : Keeps s₀ (shParity s part code) :=
  h.incSat.evt.errIn.poison

protected theorem Keeps.eptSwap {n step : Nat} (h : Keeps s₀ s) : Keeps s₀ (eptSwap s n step) := by
  unfold eptSwap
  exact .ite h (.ite h.incSat h.setRegN.evt)

protected theorem Keeps.ctxUse {x : CtxId} (h : Keeps s₀ s) : Keeps s₀ (ctxUse s x) := by
  unfold ctxUse
  exact h.frame

protected theorem Keeps.fetchPump (h : Keeps s₀ s) : Keeps s₀ (fetchPump s) :=
  h.foldl fun _ _ h1 => .ite h1 (by split; exacts [h1.frame, .ite h1.incSat.frame h1])

protected theorem Keeps.ctxAccess {x : CtxId} {w : CtxWork} (h : Keeps s₀ s) : Keeps s₀ (ctxAccess s x w).2 :=
  .iteSnd h.ctxUse (.iteSnd h.frame.fetchPump (.iteSnd h.soilSteps h.frame.ctxUse))

protected theorem Keeps.ctxTouch {x : CtxId} {w : CtxWork} (h : Keeps s₀ s) : Keeps s₀ (ctxTouch s x w).2 :=
  .iteSnd h <| by
    split <;> (next e => exact h.ctxAccess.snd e)

protected theorem Keeps.spillTake {n k : Nat} {bs : List Nat} (h : Keeps s₀ s) : Keeps s₀ (spillTake n bs k s).2 := by
  induction bs generalizing s k with
  | nil => exact h
  | cons b bs ih =>
    cases k with
    | zero => exact h
    | succ k => exact .iteSnd (ih h) (.iteSnd (ih h.ownFrame) (ih h))

protected theorem Keeps.spillReturn (h : Keeps s₀ s) : Keeps s₀ (spillReturn s) := by
  unfold spillReturn
  exact h.foldl fun _ _ h1 => .ite h1.dropFrame h1

protected theorem Keeps.spillPlan {i : ShInst} {xs : List (Bool × Nat × Nat)} {bytes : Nat} {bs : List Nat}
    (h : Keeps s₀ s) (e : spillPlan s = some (i, xs, bytes, bs, t)) : Keeps s₀ t := by
  obtain ⟨_, _, e⟩ := List.exists_of_findSome?_eq_some e
  dsimp only at e
  split_ifs at e
  cases e
  exact h.spillTake

protected theorem Keeps.spillOne (h : Keeps s₀ s) : Keeps s₀ (spillOne s) := by
  unfold spillOne
  split
  · exact h
  · next e =>
      have h1 := h.spillPlan e
      exact .ite (h1.foldl fun _ _ h2 => h2.t1Write).frame.inc64.evt (h1.foldl fun _ _ h2 => h2.t1Write).frame.inc64

protected theorem Keeps.shSpillN {f : Nat} (h : Keeps s₀ s) : Keeps s₀ (shSpillN f s) := by
  induction f generalizing s with
  | zero => exact h
  | succ f ih => exact .ite h (ih h.spillOne)

protected theorem Keeps.shSpill (h : Keeps s₀ s) : Keeps s₀ (shSpill s) := h.shSpillN

protected theorem Keeps.wantBack {g : SpillGroup} (h : Keeps s₀ s) : Keeps s₀ (wantBack s g) := h.frame

protected theorem Keeps.shUnit {i : ShInst} {u : Unit} (h : Keeps s₀ s) : Keeps s₀ (shUnit s i u) :=
  h.soilUnit.toEdge

protected theorem Keeps.returnDue (h : Keeps s₀ s) : Keeps s₀ (returnDue s) := .ite h h.frame

protected theorem Keeps.stagePumpPart {f n : Nat} (h : Keeps s₀ s) : Keeps s₀ (stagePumpPart f s n) := by
  induction f generalizing s with
  | zero => exact h
  | succ f ih =>
    unfold stagePumpPart
    dsimp only
    split
    · exact h
    · split
      exacts [h, .ite h (ih h.frame.shSet.shSpill)]

protected theorem Keeps.stagePump (h : Keeps s₀ s) : Keeps s₀ (stagePump s) :=
  h.spillReturn.returnDue.foldl fun _ _ h1 => h1.stagePumpPart

protected theorem Keeps.grantDet {i : ShInst} {round : Nat} (h : Keeps s₀ s) :
    SumKeeps (·.2) s₀ (grantDet s i round) :=
  .foldl (.inl h) fun r _ h1 => by
    cases r with
    | inr n => exact .inr
    | inl x =>
      dsimp only
      split
      exacts [.inr, .inl h1.out.shRecs]

protected theorem Keeps.writeManifests {i : ShInst} (h : Keeps s₀ s) : Keeps s₀ (writeManifests s i).2 :=
  .iteSnd h (.foldlSnd h fun _ _ h1 => .iteSnd h1 (.shUnit (.ite h1 h1.shUnit)))

protected theorem Keeps.writeCombined {i : ShInst} {token : Nat} {vs : List Nat} (h : Keeps s₀ s) :
    Keeps s₀ (writeCombined s i token vs).2 := by
  unfold writeCombined
  split
  exacts [h, by split; exacts [h, h.shUnit]]

protected theorem Keeps.zeroTokens {i : ShInst} (h : Keeps s₀ s) : Keeps s₀ (zeroTokens s i).2 :=
  .foldlSnd h fun _ _ h1 => .iteSnd h1 h1.incSat.writeCombined

protected theorem Keeps.closeOrigin {i : ShInst} (h : Keeps s₀ s) : Keeps s₀ (closeOrigin s i).2 := by
  unfold closeOrigin
  exact .zeroTokens (.ite h h.inc64.evt)

protected theorem Keeps.dropReserved (h : Keeps s₀ s) : Keeps s₀ (dropReserved s) := by
  unfold dropReserved
  exact h.frame.foldl fun _ _ h1 => h1.shMalformed

protected theorem Keeps.holdPayload {p : Pkt} (h : Keeps s₀ s) : Keeps s₀ (holdPayload s p) := h.frame.shSpill

protected theorem Keeps.withCtl {take bad : Pkt → Bool} {hold : Bool} {f : State → ShInst → Pkt → State}
    (h : Keeps s₀ s) (hf : ∀ v x1 x2, Keeps s₀ v → Keeps s₀ (f v x1 x2)) :
    OutKeeps s₀ (withCtl s take bad hold f) := by
  unfold withCtl
  split
  · exact .next h.dropReserved
  · next e =>
    have h₁ := h.dropReserved.takeEjected e
    refine .ite (.next h₁.shMalformed) ?_
    split
    · exact .ite (.next h₁.holdPayload) (.next h₁.shOrphan)
    · refine .ite (.next h₁.shFault) ?_
      split
      · exact .next h₁.shOrphan
      · exact .ite (.next h₁) (.next (hf _ _ _ h₁))

protected theorem Keeps.shPut {i : ShInst} {r : (ShInst × State) ⊕ Nat} (h : Keeps s₀ s) (hr : SumKeeps (·.2) s₀ r) :
    Keeps s₀ (shPut s i r) := by
  cases r with
  | inl x => exact hr.out.shSet
  | inr n => exact h.shFault

protected theorem Keeps.shOpen {i : ShInst} (h : Keeps s₀ s) : Keeps s₀ (shOpen s i) := by
  unfold shOpen
  dsimp only
  split
  exacts [h.frame.shEnd, h.frame.frame]

protected theorem Keeps.armResult {t k handle target : Nat} (h : Keeps s₀ s) :
    Keeps s₀ (armResult s t k handle target) := by
  unfold armResult
  exact h.setFg

protected theorem Keeps.execDispatch {i : Issue} (h : Keeps s₀ s) : OutKeeps s₀ (execDispatch i s) :=
  h.issued <| fun _ h1 =>
    h1.dynamic <| fun _ h2 => by
      dsimp only
      split
      · exact h2.shIssueFault
      · exact .ite h2.shIssueFault <|
          .ite h2.callFault <|
          .ite h2.callFault <| by
            split
            · exact .ite h2.shIssueFault h2.shSet.armResult.setFg
            · exact .ite h2.shIssueFault h2.armResult.setFg.shOpen

protected theorem Keeps.stageTokens {t : Nat} {x : ShInst} {n : Nat} {rows : List (Nat × List Byte)}
    (h : Keeps s₀ s) :
    Keeps s₀ (stageTokens s t x n rows) := by
  unfold stageTokens
  dsimp only
  split
  · exact .shSet (.zeroTokens (.stagePump (.shSet (.frame (by split; exacts [h.setFg, h])))))
  · exact .stagePump (.shSet (.frame (by split; exacts [h.setFg, h])))

protected theorem Keeps.execDsend {i : Issue} (h : Keeps s₀ s) : OutKeeps s₀ (execDsend i s) :=
  h.issued <| fun _ h1 =>
    h1.overEdge <| fun _ h2 => by
      dsimp only
      split
      · exact h2.shStray
      · split
        · exact h2.shIssueFault
        · exact .ite h2.callFault <| by
              split
              exacts [h2.parityPoison, by split; exacts [h2.errIn.poison, h2.stageTokens]]

protected theorem Keeps.finishA {i : ShInst} (h : Keeps s₀ s) : Keeps s₀ (finishA s i).2 :=
  .iteSnd h (.foldlSnd h fun _ _ h1 => h1.shRecs)

protected theorem Keeps.binDecision {i : ShInst} {d : Nat} (h : Keeps s₀ s) :
    SumKeeps (·.2) s₀ (binDecision s i d) := by
  unfold binDecision
  exact .ite (.inl h.finishA) <|
    .ite .inr <| by
      dsimp only
      split
      · exact .inr
      · next e => exact .inl (h.ctxAccess.snd e)
      · next e => exact .inl (h.ctxAccess.snd e).finishA

protected theorem Keeps.execDecisionDrain {die parity : Nat} (h : Keeps s₀ s) :
    OutKeeps s₀ (execDecisionDrain die parity s) := by
  unfold execDecisionDrain
  split
  · exact .next h
  · exact .ite (.next h.shParity) <| by
        dsimp only
        split
        · exact .next h.frame.shStray
        · exact .ite (.next h.frame.frame.incSat.evt.shFault) (.next (h.frame.shPut h.frame.binDecision))

protected theorem Keeps.execCountCoalesceExpiry (h : Keeps s₀ s) : OutKeeps s₀ (execCountCoalesceExpiry s) := by
  unfold execCountCoalesceExpiry
  split
  exacts [.next h, by split; exacts [.next h, .next h.shRecs.shSet]]

protected theorem Keeps.sendGrants {i : ShInst} {a d round : Nat} {recs : List Nat} (h : Keeps s₀ s) :
    Keeps s₀ (sendGrants s i a d round recs).2 := by
  unfold sendGrants
  exact .iteSnd h.shRecs h.shRecs

protected theorem Keeps.countOne {i : ShInst} {c : CountRec} {recs : List Nat} (h : Keeps s₀ s) :
    SumKeeps (·.2.2) s₀ (countOne s i c recs) := by
  unfold countOne
  split
  · exact .inr
  · next e => exact .inl (h.ctxAccess.snd e)
  · next e =>
      have h1 := h.ctxAccess.snd e
      exact .ite (.inl h1) <| by
        split
        exacts [.inr, .inl h1]

protected theorem Keeps.countEach {cs : List CountRec} {i : ShInst} {recs : List Nat} (h : Keeps s₀ s) :
    SumKeeps (·.2.2) s₀ (countEach cs s i recs) := by
  induction cs generalizing s i recs with
  | nil => exact .inl h
  | cons c cs ih =>
    unfold countEach
    split
    · exact .inr
    · next e => exact ih (h.countOne.of_inl e)

protected theorem Keeps.countProc {i : ShInst} {p : Pkt} {round : Nat} (h : Keeps s₀ s) :
    SumKeeps (·.2) s₀ (countProc s i p round) := by
  unfold countProc
  exact .ite (.inl h.shMalformed) <|
    .ite (.inl (h.foldl fun _ _ h1 => h1.shMalformed)) <| by
      dsimp only
      split
      · exact .inr
      · next e => exact .inl (h.countEach.of_inl e).sendGrants

protected theorem Keeps.runHeldB {ps : List Pkt} {i : ShInst} (h : Keeps s₀ s) :
    SumKeeps (·.2) s₀ (runHeldB ps s i) := by
  induction ps generalizing s i with
  | nil => exact .inl h
  | cons p ps ih =>
    unfold runHeldB
    split
    · exact .inr
    · next e => exact ih (h.countProc.of_inl e)

protected theorem Keeps.endRoundA {i : ShInst} (h : Keeps s₀ s) : SumKeeps (·.2) s₀ (endRoundA s i) :=
  .ite (.inl h) <| by
    dsimp only
    split
    · exact .inr
    · next e => exact (SumKeeps.of_inl (.ite h.grantDet (.inl h)) e).runHeldB

protected theorem Keeps.endRoundB {i : ShInst} (h : Keeps s₀ s) : SumKeeps (·.2) s₀ (endRoundB s i) :=
  .ite (.inl h) (.ite h.grantDet (.inl h))

protected theorem Keeps.settleRounds {i : ShInst} (h : Keeps s₀ s) : SumKeeps (·.2) s₀ (settleRounds s i) := by
  unfold settleRounds
  split
  · exact .inr
  · next e =>
      split
      · exact .inr
      · next e₁ => exact .inl ((h.endRoundA.of_inl e).endRoundB.of_inl e₁).writeManifests

protected theorem Keeps.countAndSettle {i : ShInst} {p : Pkt} {round : Nat} (h : Keeps s₀ s) :
    SumKeeps (·.2) s₀ (countAndSettle s i p round) := by
  unfold countAndSettle
  split
  · exact .inr
  · next e => exact (h.countProc.of_inl e).settleRounds

protected theorem Keeps.execCountA (h : Keeps s₀ s) : OutKeeps s₀ (execCountA s) :=
  h.withCtl fun _ _ _ h1 => h1.shPut h1.countAndSettle

protected theorem Keeps.execCountB (h : Keeps s₀ s) : OutKeeps s₀ (execCountB s) :=
  h.withCtl fun _ _ _ h1 => .ite (h1.shPut h1.countAndSettle) h1.shSet

protected theorem Keeps.applyGrant {i : ShInst} {dev round r : Nat} (h : Keeps s₀ s) :
    Keeps s₀ (applyGrant s i dev round r).2 := by
  unfold applyGrant
  exact .iteSnd h.incSat.evt h

protected theorem Keeps.grantRecord {i : ShInst} {dev round r : Nat} (h : Keeps s₀ s) :
    Keeps s₀ (grantRecord s i dev round r).2 := by
  unfold grantRecord
  split
  · next e => exact (h.ctxTouch.snd e).applyGrant
  · next e => exact h.ctxTouch.snd e

protected theorem Keeps.addPairsB {ps : List Pair} {i : ShInst} (h : Keeps s₀ s) :
    SumKeeps (·.2) s₀ (addPairsB ps s i) := by
  induction ps generalizing s i with
  | nil => exact .inl h
  | cons p ps ih =>
    unfold addPairsB
    split
    · exact .inr
    · next e => exact ih (h.ctxAccess.snd e)
    · next e => exact ih (h.ctxAccess.snd e)

protected theorem Keeps.finishB {i : ShInst} (h : Keeps s₀ s) : Keeps s₀ (finishB s i).2 :=
  .iteSnd h (.foldlSnd h fun _ _ h1 => h1.shRecs)

protected theorem Keeps.startB {i : ShInst} (h : Keeps s₀ s) : SumKeeps (·.2) s₀ (startB s i) := by
  unfold startB
  split
  · exact .inr
  · next e =>
      dsimp only
      split
      · exact .inr
      · next e => exact .inl (h.incSat.addPairsB.of_inl e).finishB

protected theorem Keeps.afterGrants {i : ShInst} (h : Keeps s₀ s) : SumKeeps (·.2) s₀ (afterGrants s i) :=
  .ite (.inl h) <|
  .ite (.ite (Keeps.startB (.ite h h.inc64)) (.inl (.closeOrigin (.ite h h.inc64)))) <|
  .ite (.inl h.closeOrigin) (.inl h)

protected theorem Keeps.grantProc {i : ShInst} {p : Pkt} {round : Nat} (h : Keeps s₀ s) :
    SumKeeps (·.2) s₀ (grantProc s i p round) := by
  unfold grantProc
  exact Keeps.afterGrants (.foldlSnd h fun _ _ h1 => h1.grantRecord)

protected theorem Keeps.execGrantA (h : Keeps s₀ s) : OutKeeps s₀ (execGrantA s) :=
  h.withCtl fun _ _ _ h1 => h1.shPut h1.grantProc

protected theorem Keeps.execGrantB (h : Keeps s₀ s) : OutKeeps s₀ (execGrantB s) :=
  h.withCtl fun _ _ _ h1 => h1.shPut h1.grantProc

protected theorem Keeps.sendPayloads {ps : List Pkt} (h : Keeps s₀ s) : Keeps s₀ (sendPayloads s ps) :=
  h.foldl fun _ _ h1 => h1.send.inc64

protected theorem Keeps.sendSegs {i : ShInst} {a d kind : Nat} {final : Bool} {hdr : Nat → Nat → Nat}
    {bytes : List Byte} (h : Keeps s₀ s) :
    Keeps s₀ (sendSegs s i a d kind final hdr bytes) := h.sendPayloads

protected theorem Keeps.askFor {i : ShInst} {p : Pair} (h : Keeps s₀ s) : Keeps s₀ (askFor s i p) := by
  unfold askFor
  exact .ite (by split; exacts [h.wantBack, h]) (.ctxTouch (by split; exacts [h.wantBack, h]))

protected theorem Keeps.sendPair {i : ShInst} {p : Pair} {t : Staged} (h : Keeps s₀ s) :
    Keeps s₀ (sendPair s i p t) := by
  unfold sendPair
  exact h.ctxTouch.sendSegs.inc64.shSet.stagePump

protected theorem Keeps.execDataSend {parityBad : Bool} (h : Keeps s₀ s) :
    OutKeeps s₀ (execDataSend parityBad s) := by
  unfold execDataSend
  dsimp only
  split
  · exact .next (h.foldl fun _ _ h1 => h1.foldl fun _ _ h2 => h2.askFor)
  · split
    exacts [.next h, by split; exacts [.next h, .ite (.next h.shParity) (.next h.sendPair)]]

protected theorem Keeps.withSegs {kind : Nat} {f : State → ShInst → Pkt → List (Nat × List Byte) → State}
    (h : Keeps s₀ s) (hf : ∀ v x1 x2 x3, Keeps s₀ v → Keeps s₀ (f v x1 x2 x3)) :
    OutKeeps s₀ (withSegs s kind f) := by
  unfold withSegs
  split
  · exact .next h.dropReserved
  · next e =>
    have h₁ := h.dropReserved.takeEjected e
    dsimp only
    split
    · exact .next h₁.shMalformed
    · refine .ite (.next h₁.shMalformed) ?_
      split
      · exact .next h₁.shOrphan
      · exact .ite (.next h₁.shFault) <| .ite (.next h₁.shOrphan) (.next (hf _ _ _ _ h₁.inc64))

protected theorem Keeps.dataHere {i : ShInst} {p : Pkt} {e' : Nat × List Byte} (h : Keeps s₀ s) :
    SumKeeps (·.2) s₀ (dataHere s i p e') := by
  unfold dataHere
  dsimp only
  split
  exacts [.inl h.shOrphan, .ite (.inl h.shOrphan) (.ite .inr (.inl (.ite h.shUnit.inc64 h.shUnit)))]

protected theorem Keeps.dataSeg {i : ShInst} {p : Pkt} {e' : Nat × List Byte} (h : Keeps s₀ s) :
    SumKeeps (·.2) s₀ (dataSeg s i p e') := by
  unfold dataSeg
  split
  · next e => exact (h.ctxTouch.snd e).dataHere
  · next e => exact .inl (h.ctxTouch.snd e)

protected theorem Keeps.dataSegs {es : List (Nat × List Byte)} {i : ShInst} {p : Pkt} (h : Keeps s₀ s) :
    SumKeeps (·.2) s₀ (dataSegs es s i p) := by
  induction es generalizing s i with
  | nil => exact .inl h
  | cons e es ih =>
    unfold dataSegs
    split
    · exact .inr
    · next e => exact ih (h.dataSeg.of_inl e)

protected theorem Keeps.execDataSegment (h : Keeps s₀ s) : OutKeeps s₀ (execDataSegment s) :=
  h.withSegs <| fun _ _ _ _ h1 =>
    h1.shPut <| by
      split
      · exact .inr
      · next e => exact .inl (h1.dataSegs.of_inl e).writeManifests

protected theorem Keeps.returnRows {x : ShInst} {h' : Hosted} {t ho : Nat} (h : Keeps s₀ s) :
    Keeps s₀ (returnRows s x h' t ho) :=
  h.foldl <| fun _ _ h1 => by
    split
    · exact h1
    · next e =>
        dsimp only
        split
        · next e => exact (h1.ctxTouch.snd e).sendPayloads
        · next e => exact h1.ctxTouch.snd e

protected theorem Keeps.execReturn {i : Issue} (h : Keeps s₀ s) : OutKeeps s₀ (execReturn i s) :=
  h.issued <| fun _ h1 =>
    h1.overEdge <| fun _ h2 => by
      dsimp only
      split
      · split
        exacts [h2.shFault, h2.shStray]
      · exact .ite h2.callFault (by split; exacts [h2.parityPoison, h2.returnRows.shSet])

protected theorem Keeps.combineAdd {i : ShInst} {p : Pair} {o : List Nat} (h : Keeps s₀ s) :
    Keeps s₀ (combineAdd s i p o).2 := by
  unfold combineAdd
  exact .iteSnd h (.iteSnd h h.writeCombined)

protected theorem Keeps.returnHere {i : ShInst} {p : Pkt} {e' : Nat × List Byte} (h : Keeps s₀ s) :
    Keeps s₀ (returnHere s i p e').2.1 := by
  unfold returnHere
  dsimp only
  split
  exacts [h.shOrphan, .iteMid h.shOrphan (.iteMid h (by split; exacts [h, h.combineAdd]))]

protected theorem Keeps.returnSeg {i : ShInst} {p : Pkt} {e' : Nat × List Byte} (h : Keeps s₀ s) :
    Keeps s₀ (returnSeg s i p e').2.1 := by
  unfold returnSeg
  split
  · next e => exact (h.ctxTouch.snd e).returnHere
  · next e => exact h.ctxTouch.snd e

protected theorem Keeps.putReturns {r : ShInst × State × Bool} (h : Keeps s₀ r.2.1) : Keeps s₀ (putReturns r) := by
  unfold putReturns
  exact .ite h.shSet.shSpill h.shSet.shSpill.errIn.poison

protected theorem Keeps.execReturnSegment {parityBad : Bool} (h : Keeps s₀ s) :
    OutKeeps s₀ (execReturnSegment parityBad s) :=
  .ite (.next h) <|
  .ite
      (by
        split
        exacts [.next h, by split; exacts [.next h, .next h.shParity]])
      (by
        split
        · exact .next h.wantBack
        · exact h.withSegs fun _ _ _ _ h1 => .putReturns (.foldlMid h1 fun _ _ h2 => h2.returnSeg))

protected theorem Keeps.runWork {f : CtxFetch} (h : Keeps s₀ s) : Keeps s₀ (runWork s f) := by
  unfold runWork
  split
  · exact h
  · next e =>
      split
      · exact h
      · exact .shSet (.iteSnd h.finishA h.finishB)
      · exact .ite (h.shPut h.settleRounds) (by split; exacts [h.shFault, h.shPut h.sendGrants.settleRounds])
      · exact h.shPut h.applyGrant.afterGrants
      · next e =>
          exact .ite
                (h.shPut <| by
                  split
                  · exact .inr
                  · next e => exact .inl (h.dataHere.of_inl e).writeManifests) h.returnHere.putReturns
      · exact h.sendPayloads

protected theorem Keeps.execContextFetchComplete (h : Keeps s₀ s) : OutKeeps s₀ (execContextFetchComplete s) := by
  unfold execContextFetchComplete
  split
  exacts [.next h, .next (h.frame.ctxUse.foldl fun _ _ h1 => h1.runWork).fetchPump]

protected theorem Keeps.execSheafAbort (h : Keeps s₀ s) : OutKeeps s₀ (execSheafAbort s) :=
  h.withCtl fun _ _ _ h1 => h1.shEnd

protected theorem Keeps.execHeldPayloadTimeout (h : Keeps s₀ s) : OutKeeps s₀ (execHeldPayloadTimeout s) := by
  unfold execHeldPayloadTimeout
  split
  exacts [.next h, .next h.frame.shOrphan]

protected theorem Keeps.spillRead {g : SpillGroup} (h : Keeps s₀ s) : Keeps s₀ (spillRead s g).2 :=
  .foldlSnd h fun _ _ h1 => h1.t1Read.result

protected theorem Keeps.execSpillReadbackComplete (h : Keeps s₀ s) :
    OutKeeps s₀ (execSpillReadbackComplete s) := by
  unfold execSpillReadbackComplete
  split
  · exact .next h
  · next e =>
      split
      · next e => exact .next (h.spillRead.snd e).frame.stagePump
      · next e => exact .next (h.spillRead.snd e).grnFault.partFault

protected theorem Keeps.writeHist {i : ShInst} (h : Keeps s₀ s) : Keeps s₀ (writeHist s i) := by
  unfold writeHist
  exact .ite h h.t1WriteRaw.setRegN

protected theorem Keeps.execDispatchInstanceComplete (h : Keeps s₀ s) :
    OutKeeps s₀ (execDispatchInstanceComplete s) := by
  unfold execDispatchInstanceComplete
  split
  exacts [.next h, .next h.writeHist.shDrop]

protected theorem Keeps.eptStore {range idx e' : Nat} (h : Keeps s₀ s) : Keeps s₀ (eptStore s range idx e') := by
  unfold eptStore
  exact h.frame

protected theorem Keeps.execEptEntryWrite {v : Nat} (h : Keeps s₀ s) : OutKeeps s₀ (execEptEntryWrite v s) :=
  h.guardWrite (.next h.frame.eptStore.setRegN)

protected theorem Keeps.execEptBulkLoad {v : Nat} (h : Keeps s₀ s) : OutKeeps s₀ (execEptBulkLoad v s) :=
  h.guardWrite (.ite (.next h.err) (.next h.setRegN.frame))

protected theorem Keeps.eptCopy {n range idx a : Nat} (h : Keeps s₀ s) : Keeps s₀ (eptCopy n s range idx a).2 := by
  delta Machine.eptCopy
  refine brecOn_nat (P := fun _ (copy : State → Nat → Nat → Nat → JobRes × State) => ∀ s idx a, Keeps s₀ s →
    Keeps s₀ (copy s range idx a).2) ?_ ?_ n s idx a h
  · exact fun _ _ _ _ h => h
  · intro n below ih s idx a h
    unfold eptCopy._f
    dsimp only
    split
    · next e => exact ih _ _ _ (h.readPieces.snd e).eptStore
    · exact h.readPieces

protected theorem Keeps.loadEnd (h : Keeps s₀ s) : Keeps s₀ (loadEnd s) := h.frame.setRegN

protected theorem Keeps.execEptBulkLoadDone (h : Keeps s₀ s) : OutKeeps s₀ (execEptBulkLoadDone s) := by
  unfold execEptBulkLoadDone
  split
  · exact .next h
  · next e =>
      dsimp only
      split
      · next e => exact .next (h.askPieces.snd e)
      · next e => exact .next (h.askPieces.snd e)
      · split
        · next e₁ => exact .next (h.eptCopy.snd e₁).dropT2.touchAll.loadEnd
        · next e₁ => exact .next (h.eptCopy.snd e₁).err.loadEnd
        · next e₁ => exact .next (h.eptCopy.snd e₁).lostAccess.loadEnd
        · next e₁ => exact .next (h.eptCopy.snd e₁).grnFault.partFault.loadEnd
        · next e₁ => exact .next (h.eptCopy.snd e₁).uncorrGrain
        · exact .next h

end Sys2Proof.Machine

/-! ## What every step keeps: the pool units -/

namespace Sys2Proof.Machine

open Sys2Proof Sys2Proof.Config

variable {s₀ s t : State}

protected theorem Keeps.grantWins {ws : List (ShInst × OwnWin)} {used : Nat} (h : Keeps s₀ s) :
    Keeps s₀ (grantWins ws s used) := by
  induction ws generalizing s used with
  | nil => exact h
  | cons w ws ih =>
    unfold grantWins
    split
    · exact ih h
    · exact .ite h (.ite (ih h.frame.shSet) (ih h.frame.shSendCtl.shSet))

protected theorem Keeps.poolGrants (h : Keeps s₀ s) : Keeps s₀ (poolGrants s) := h.grantWins

protected theorem Keeps.bagCause {i : ShInst} (h : Keeps s₀ s) : Keeps s₀ (bagCause s i) := by
  unfold bagCause
  exact h.setFg

protected theorem Keeps.writeBags {i : ShInst} (h : Keeps s₀ s) : Keeps s₀ (writeBags s i).2 := by
  unfold writeBags
  exact .bagCause (.foldlSnd h fun _ _ h1 => .iteSnd h1 h1.shUnit)

protected theorem Keeps.sendCounts {i : ShInst} (h : Keeps s₀ s) : Keeps s₀ (sendCounts s i).2 := by
  unfold sendCounts
  exact .foldlSnd h fun _ _ h1 => .shSendCtl (.foldlSnd h1 fun _ _ h2 => h2.shSendCtl)

protected theorem Keeps.rowupdEnd {i : ShInst} (h : Keeps s₀ s) : Keeps s₀ (rowupdEnd s i).2 :=
  .iteSnd h h.shUnit

protected theorem Keeps.issuePool {t : Nat} {n : ShInst} {area : List Byte} (h : Keeps s₀ s) :
    Keeps s₀ (issuePool s t n area) := by
  unfold issuePool
  split
  · exact h.shOpen.shFault
  · split
    · exact h.shOpen.shFault
    · dsimp only
      split
      · exact h.frame.shOpen
      · exact .poolGrants <|
          .shSet (.iteSnd h.frame.shOpen.sendCounts.writeBags h.frame.shOpen.sendCounts.rowupdEnd)

protected theorem Keeps.poolIssue {i : Issue} {parse : State → Nat → Nat → List Byte → Option ShInst}
    {rowupd : Bool} (h : Keeps s₀ s) :
    OutKeeps s₀ (poolIssue i s parse rowupd) :=
  h.issued <| fun _ h1 =>
    h1.dynamic <| fun _ h2 => by
      dsimp only
      split
      · exact h2.shIssueFault
      · exact .ite h2.shIssueFault <|
          .ite h2.shIssueFault <|
          .ite h2.callFault (.ite h2.callFault (by split; exacts [h2.parityPoison, h2.armResult.issuePool]))

protected theorem Keeps.execEmbag {i : Issue} (h : Keeps s₀ s) : OutKeeps s₀ (execEmbag i s) := h.poolIssue

protected theorem Keeps.execRowupd {i : Issue} (h : Keeps s₀ s) : OutKeeps s₀ (execRowupd i s) := h.poolIssue

protected theorem Keeps.execEmbagCount (h : Keeps s₀ s) : OutKeeps s₀ (execEmbagCount s) :=
  h.withCtl fun _ _ _ h1 => h1.frame.shSet.poolGrants

protected theorem Keeps.hotRows {i : ShInst} {list : List Byte} (h : Keeps s₀ s) :
    Keeps s₀ (hotRows s i list) := by
  unfold hotRows
  split
  · exact h
  · exact h.foldl <| fun _ _ h1 =>
        h1.foldl <| fun _ _ h2 => by
          split
          exacts [.ite h2.touchGrain (.ite h2.touchGrain.startMigration h2.touchGrain), h2]

protected theorem Keeps.sendList {i : ShInst} {k : Nat} {w : PoolWin} (h : Keeps s₀ s) :
    Keeps s₀ (sendList s i k w) := by
  unfold sendList
  exact .ite (h.foldl fun _ _ h1 => h1.send).shSet.hotRows (h.foldl fun _ _ h1 => h1.send).shSet

protected theorem Keeps.listPump (h : Keeps s₀ s) : Keeps s₀ (listPump s) :=
  h.foldl <| fun _ _ h1 =>
    h1.foldl <| fun _ _ h2 => by
      split
      exacts [h2, by split; exacts [h2, .ite h2 h2.sendList]]

protected theorem Keeps.execEmbagWindowGrant (h : Keeps s₀ s) : OutKeeps s₀ (execEmbagWindowGrant s) :=
  h.withCtl <| fun _ _ _ h1 => by
    dsimp only
    split
    exacts [h1.shSet.shMalformed, .ite h1.shSet.shOrphan h1.shSet.listPump]

protected theorem Keeps.withPool {kind : Nat} {f : State → ShInst → Pkt → State} (h : Keeps s₀ s)
    (hf : ∀ v x1 x2, Keeps s₀ v → Keeps s₀ (f v x1 x2)) :
    OutKeeps s₀ (withPool s kind f) := by
  unfold withPool
  split
  · exact .next h.dropReserved
  · next e =>
      split
      · exact .next (h.dropReserved.takeEjected e).shOrphan
      · exact .ite (.next (h.dropReserved.takeEjected e).shFault) <|
          .ite (.next (h.dropReserved.takeEjected e).shOrphan) (.next (hf _ _ _ (h.dropReserved.takeEjected e)))

protected theorem Keeps.execEmbagRowList (h : Keeps s₀ s) : OutKeeps s₀ (execEmbagRowList s) :=
  h.withPool <| fun _ _ _ h1 => by
    dsimp only
    split
    · exact h1.shSet.shOrphan
    · exact .ite h1.shSet.shOrphan (.ite h1.shSet (by split; exacts [h1.shFault, h1.frame.shSet]))

protected theorem Keeps.readRow {i : ShInst} {a n : Nat} {here : Bool} (h : Keeps s₀ s) :
    Keeps s₀ (readRow s i a n here).2 := by
  unfold readRow
  exact .iteSnd h <| by
      split
      · next e => exact h.jobRead.snd e
      · next e => exact h.jobRead.snd e
      · next e => exact .iteSnd (h.jobRead.snd e).uncorrGrain (h.jobRead.snd e).incSat.errIn
      · next e => exact (h.jobRead.snd e).lostAccess
      · next e => exact (h.jobRead.snd e).grnFault.partFault
      · next e => exact (h.jobRead.snd e).foldl fun _ _ h1 => h1.startMigration
      · next e => exact h.jobRead.snd e

protected theorem Keeps.sendPartial {i : ShInst} {w : OwnWin} {b : Nat} (h : Keeps s₀ s) :
    Keeps s₀ (sendPartial s i w b) := by
  unfold sendPartial
  exact h.foldl fun _ _ h1 => h1.send

protected theorem Keeps.closeWindow {i : ShInst} {w : OwnWin} (h : Keeps s₀ s) : Keeps s₀ (closeWindow s i w) := by
  unfold closeWindow
  exact .ite h.writeBags.shSet.poolGrants (h.foldl fun _ _ h1 => h1.sendPartial).shSet.poolGrants

protected theorem Keeps.poolParity {i : ShInst} {w : OwnWin} {a : Nat} (h : Keeps s₀ s) :
    Keeps s₀ (poolParity s i w a) := by
  unfold poolParity
  exact .ite h.incSat.errIn.poison h.incSat.errIn.send

protected theorem Keeps.poolRow {i : ShInst} {w : OwnWin} {e' : Nat × List (Nat × Nat) × List Byte}
    {bs : List Byte} (h : Keeps s₀ s) :
    Keeps s₀ (poolRow s i w e' bs).2.2 := by
  unfold poolRow
  exact .foldl (.ite h.inc64.inc64.incSat.incSat h.inc64.inc64.incSat) fun _ _ h1 => h1.inc64

protected theorem Keeps.execPoolRowAccess {parityBad : Bool} (h : Keeps s₀ s) :
    OutKeeps s₀ (execPoolRowAccess parityBad s) := by
  unfold execPoolRowAccess
  split
  · exact .next h
  · next e =>
      split
      · exact .next h
      · next e =>
          exact .ite (.next h.poolParity) <| by
              split
              · next e => exact .next (h.readRow.snd e).shFault
              · next e => exact .next (h.readRow.snd e)
              · next e => exact .next (h.readRow.snd e)
              · next e =>
                  exact .ite (.next (h.readRow.snd e).poolRow.closeWindow) <|
                    .next (h.readRow.snd e).poolRow.shSet

protected theorem Keeps.takePiece {i : ShInst} {w : PoolWin} {b : BagAcc} {k total off : Nat}
    {bs : List Byte} (h : Keeps s₀ s) :
    Keeps s₀ (takePiece s i w b k total off bs) := by
  unfold takePiece
  exact .ite h.shSet.shOrphan (.ite h.shSet (.ite h.shSet.shMalformed h.writeBags.shSet))

protected theorem Keeps.partialIn {i : ShInst} {p : Pkt} (h : Keeps s₀ s) : Keeps s₀ (partialIn s i p) := by
  unfold partialIn
  dsimp only
  split
  exacts [h.takePiece, h.shSet.shMalformed]

protected theorem Keeps.doneIn {i : ShInst} {p : Pkt} (h : Keeps s₀ s) : Keeps s₀ (doneIn s i p) := by
  unfold doneIn
  dsimp only
  split
  exacts [h.shSet.shMalformed, h.rowupdEnd.shSet]

protected theorem Keeps.execEmbagPartial (h : Keeps s₀ s) : OutKeeps s₀ (execEmbagPartial s) :=
  .ite (h.withPool fun _ _ _ h1 => h1.partialIn) <|
  .ite (h.withPool fun _ _ _ h1 => h1.shSet.poison) (h.withPool fun _ _ _ h1 => h1.doneIn)

protected theorem Keeps.applyRow {i : ShInst} {a : Nat} {g : List Nat} (h : Keeps s₀ s) :
    Keeps s₀ (applyRow s i a g).2 := by
  unfold applyRow
  dsimp only
  split
  · next e => exact h.readRow.snd e
  · next e => exact h.readRow.snd e
  · next e => exact h.readRow.snd e
  · next e =>
      split
      · next e₁ => exact ((h.readRow.snd e).newTag.putRows.mid e₁).inc64
      · next e₁ => exact (h.readRow.snd e).newTag.putRows.mid e₁
      · next e₁ => exact (h.readRow.snd e).newTag.putRows.mid e₁

protected theorem Keeps.sendDone {i : ShInst} {w : OwnWin} (h : Keeps s₀ s) : Keeps s₀ (sendDone s i w) := by
  unfold sendDone
  exact h.send

protected theorem Keeps.afterUpdate {i : ShInst} {w : OwnWin} {e' : Nat × List (Nat × Nat) × List Byte}
    (h : Keeps s₀ s) :
    Keeps s₀ (afterUpdate s i w e') := by
  unfold afterUpdate
  exact (h.foldl fun _ _ h1 => h1.sendDone).shSet.poolGrants

protected theorem Keeps.execRowupdContribution {parityBad : Bool} (h : Keeps s₀ s) :
    OutKeeps s₀ (execRowupdContribution parityBad s) := by
  unfold execRowupdContribution
  split
  · exact .next h
  · next e =>
      split
      · exact .next h
      · next e =>
          exact .ite (.next h.poolParity) <| by
              dsimp only
              split
              · next e => exact .next (h.applyRow.snd e).shFault
              · next e => exact .next (h.applyRow.snd e)
              · next e => exact .next (h.applyRow.snd e).incSat.afterUpdate

end Sys2Proof.Machine

/-! ## What every step keeps: the Pavilion -/

namespace Sys2Proof.Machine

open Sys2Proof Sys2Proof.Config

variable {s₀ s t : State}

protected theorem Keeps.pavSet {i : PavInst} (h : Keeps s₀ s) : Keeps s₀ (pavSet s i) := h.frame

protected theorem Keeps.freeSlots {c q : Nat} (h : Keeps s₀ s) : Keeps s₀ (freeSlots s c q) := h.frame

protected theorem Keeps.pavDrop {c q : Nat} (h : Keeps s₀ s) : Keeps s₀ (pavDrop s c q) := by
  unfold pavDrop
  exact h.freeSlots.frame

protected theorem Keeps.collCtl {stamp arb dev kind comm seq chunk step crc : Nat} {body : List Byte}
    (h : Keeps s₀ s) :
    Keeps s₀ (collCtl s stamp arb dev kind comm seq chunk step crc body) := h.send

protected theorem Keeps.pavCtl {i : PavInst} {arb dev kind chunk step crc : Nat} {body : List Byte}
    (h : Keeps s₀ s) :
    Keeps s₀ (pavCtl s i arb dev kind chunk step crc body) := h.collCtl

protected theorem Keeps.sendChunk {i : PavInst} {o : PavOut} {arb dev : Nat} (h : Keeps s₀ s) :
    Keeps s₀ (sendChunk s i o arb dev) := h.foldl fun _ _ h1 => h1.send

protected theorem Keeps.firstSend {i : PavInst} {o : PavOut} (h : Keeps s₀ s) : Keeps s₀ (firstSend s i o) := by
  unfold firstSend
  exact .ite (h.inc64.foldl fun _ _ h1 => h1.send) (h.inc64.foldl fun _ _ h1 => h1.sendChunk)

protected theorem Keeps.pavNote {c q part code : Nat} (h : Keeps s₀ s) : Keeps s₀ (pavNote s c q part code) := by
  unfold pavNote
  exact .errIn (.ite h.setRegN h)

protected theorem Keeps.pavCallFault {c q part code : Nat} (h : Keeps s₀ s) :
    Keeps s₀ (pavCallFault s c q part code) := h.pavNote.incSat.evt.endHead

protected theorem Keeps.pavEnd {i : PavInst} {code : Nat} (h : Keeps s₀ s) : Keeps s₀ (pavEnd s i code) := by
  unfold pavEnd
  exact h.pavNote.incSat.evt.pavDrop.endHead

protected theorem Keeps.pavAbort {i : PavInst} {code : Nat} (h : Keeps s₀ s) : Keeps s₀ (pavAbort s i code) := by
  unfold pavAbort
  exact .pavEnd (.foldl (.ite h h.send) fun _ _ h1 => h1.pavCtl)

protected theorem Keeps.emitResults {i : PavInst} (h : Keeps s₀ s) : Keeps s₀ (emitResults s i).2 := by
  unfold emitResults
  exact .iteSnd h (h.foldl fun _ _ h1 => h1.soilUnit.toEdge)

protected theorem Keeps.sendReadys {i : PavInst} {no : Nat} {l : List (PavMove × Nat × Nat)} (h : Keeps s₀ s) :
    Keeps s₀ (sendReadys s i no l).2 := .foldlSnd h fun _ _ h1 => h1.send

protected theorem Keeps.pumpOuts {i : PavInst} (h : Keeps s₀ s) : Keeps s₀ (pumpOuts s i).2 :=
  .foldlSnd h fun _ _ h1 => .iteSnd h1 h1.firstSend

protected theorem Keeps.applyStep {i : PavInst} {k : PavTrack} {st : PavStep} (h : Keeps s₀ s) :
    Keeps s₀ (applyStep s i k st).2 := by
  unfold applyStep
  exact .foldlSnd h fun _ _ h1 => .iteSnd h1 h1.inc64

protected theorem Keeps.runTrack {f : Nat} {i : PavInst} {k : PavTrack} (h : Keeps s₀ s) :
    Keeps s₀ (runTrack f s i k).2.1 := by
  induction f generalizing s i k with
  | zero => exact h
  | succ f ih =>
    unfold runTrack
    split
    · exact h
    · exact .iteMid h.sendReadys.pumpOuts (ih h.sendReadys.pumpOuts.applyStep)

protected theorem Keeps.runTracks {i : PavInst} (h : Keeps s₀ s) : Keeps s₀ (runTracks s i).2 :=
  .foldlSnd h fun _ _ h1 => h1.runTrack

protected theorem Keeps.advanceFuel {f : Nat} {i : PavInst} (h : Keeps s₀ s) : Keeps s₀ (advanceFuel f s i).2 := by
  induction f generalizing s i with
  | zero => exact h
  | succ f ih =>
    have done {i} : Keeps s₀ (emitResults (runTracks s i).2 (runTracks s i).1).2 := h.runTracks.emitResults
    exact .iteSnd h <| .iteSnd (.iteSnd (ih done) done) <| .iteSnd (ih done) done

protected theorem Keeps.trimSlots {i : PavInst} (h : Keeps s₀ s) : Keeps s₀ (trimSlots s i) := .ite h h.frame

protected theorem Keeps.pavAdvance {i : PavInst} (h : Keeps s₀ s) : Keeps s₀ (pavAdvance s i) := by
  unfold pavAdvance
  exact h.advanceFuel.pavSet.trimSlots

protected theorem Keeps.applyDecide {i : PavInst} {alg first round : Nat} (h : Keeps s₀ s) :
    Keeps s₀ (applyDecide s i alg first round).2 := by
  unfold applyDecide
  exact .iteSnd h (.iteSnd h.freeSlots h.freeSlots)

protected theorem Keeps.rootDecide {i : PavInst} {alg first round : Nat} (h : Keeps s₀ s) :
    Keeps s₀ (rootDecide s i alg first round) := by
  unfold rootDecide
  exact .pavAdvance (.applyDecide (.ite h h.send))

protected theorem Keeps.rootDeny {i : PavInst} (h : Keeps s₀ s) : Keeps s₀ (rootDeny s i) :=
  h.incSat.evt.rootDecide

protected theorem Keeps.rootReserve {i : PavInst} (h : Keeps s₀ s) : Keeps s₀ (rootReserve s i) := by
  unfold rootReserve
  exact .ite h.rootDeny (.ite h.frame.rootDecide (h.frame.foldl fun _ _ h1 => h1.pavCtl).pavSet)

protected theorem Keeps.pavBegin {i : PavInst} (h : Keeps s₀ s) : Keeps s₀ (pavBegin s i).2 := by
  unfold pavBegin
  exact .iteSnd h (.iteSnd h (.iteSnd h (.ite h (h.writeSram.foldl fun _ _ h1 => h1.setFg))))

protected theorem Keeps.takeEarly {i : PavInst} (h : Keeps s₀ s) : Keeps s₀ (takeEarly s i).2 := by
  unfold takeEarly
  exact h.frame

protected theorem Keeps.execCommEntryWrite {v : Nat} (h : Keeps s₀ s) : OutKeeps s₀ (execCommEntryWrite v s) :=
  h.guardWrite (.ite (.next h.setRegN.err) (.next h.setRegN.frame.setRegN))

protected theorem Keeps.pavGo {i : PavInst} (h : Keeps s₀ s) : Keeps s₀ (pavGo s i) := by
  unfold pavGo
  exact .ite h.pavAbort.incSat.evt h.pavBegin.pavAdvance

protected theorem Keeps.onReady {i : PavInst} {p : Pkt} (h : Keeps s₀ s) : Keeps s₀ (onReady s i p) :=
  .ite h.pavAbort h.pavGo

protected theorem Keeps.onCount {i : PavInst} {p : Pkt} (h : Keeps s₀ s) : Keeps s₀ (onCount s i p) :=
  .ite h.pavAbort (.ite h h.pavGo)

protected theorem Keeps.onDecide {i : PavInst} {p : Pkt} (h : Keeps s₀ s) : Keeps s₀ (onDecide s i p) := by
  unfold onDecide
  exact .ite h.pavCtl h.pavCtl.applyDecide.pavAdvance

protected theorem Keeps.onRecord {c q : Nat} {p : Pkt} (h : Keeps s₀ s) : Keeps s₀ (onRecord s c q p) := by
  unfold onRecord
  split
  exacts [h, .ite h.onDecide (.ite h.onReady h.onCount)]

protected theorem Keeps.joinPiece {i : PavInst} {x : PavPiece} (h : Keeps s₀ s) : Keeps s₀ (joinPiece s i x) := by
  unfold joinPiece
  exact h.armResult.setFg.pavSet.pavGo

protected theorem Keeps.pavCounts {i : PavInst} (h : Keeps s₀ s) : Keeps s₀ (pavCounts s i).2 := by
  unfold pavCounts
  exact .foldlSnd h fun _ _ h1 => h1.send

protected theorem Keeps.openColl {i : PavInst} {x : PavPiece} {vcount : Nat} (h : Keeps s₀ s) :
    Keeps s₀ (openColl s i x vcount) := by
  unfold openColl
  extract_lets i' pav entered e early r joined reserved
  have h₁ : Keeps s₀ early := h.frame.takeEarly
  have h₂ : Keeps s₀ joined := (Keeps.iteSnd h₁.pavCounts h₁).pavSet.joinPiece
  have h₃ : Keeps s₀ reserved := by
    unfold reserved
    split
    exacts [.ite h₂.rootReserve h₂, h₂]
  exact .ite h₁.pavAbort (.ite h₁.pavAbort (h₃.foldl fun _ _ h => h.onRecord))

protected theorem Keeps.collIssue {i : Issue} {d : List Byte} {fdest : Bool} {dst k banks : Nat}
    {src : State → Nat → List Byte × Nat} (h : Keeps s₀ s) :
    Keeps s₀ (collIssue s i d fdest dst k banks src) := by
  unfold collIssue
  exact .ite h.pavCallFault <| by
      split
      · exact h.pavCallFault
      · exact .ite h.callFault <|
          .ite h.callFault <| by
            dsimp only
            split
            exacts [.ite h.pavCallFault h.joinPiece, .ite h.pavCallFault h.openColl]

protected theorem Keeps.pavParity {t a : Nat} (h : Keeps s₀ s) : Keeps s₀ (pavParity s t a) :=
  h.incSat.evt.parityPoison

protected theorem Keeps.collInstr {op : Nat} {i : Issue} (h : Keeps s₀ s) : OutKeeps s₀ (collInstr op i s) :=
  h.issued <| fun _ h1 =>
    .ite h1 (.ite h1.callFault (by split; exacts [h1.pavParity, h1.dynamic fun _ h2 => h2.collIssue]))

protected theorem Keeps.execAllreduce {i : Issue} (h : Keeps s₀ s) : OutKeeps s₀ (execAllreduce i s) :=
  h.collInstr

protected theorem Keeps.execReduceScatter {i : Issue} (h : Keeps s₀ s) : OutKeeps s₀ (execReduceScatter i s) :=
  h.collInstr

protected theorem Keeps.execAllgather {i : Issue} (h : Keeps s₀ s) : OutKeeps s₀ (execAllgather i s) :=
  h.collInstr

protected theorem Keeps.execBroadcast {i : Issue} (h : Keeps s₀ s) : OutKeeps s₀ (execBroadcast i s) :=
  h.collInstr

protected theorem Keeps.execAlltoall {i : Issue} (h : Keeps s₀ s) : OutKeeps s₀ (execAlltoall i s) :=
  h.collInstr

protected theorem Keeps.execAlltoallv {i : Issue} (h : Keeps s₀ s) : OutKeeps s₀ (execAlltoallv i s) :=
  h.collInstr

protected theorem Keeps.fusedPass {i : Issue} {ops : List Nat} {feeds : Bool}
    {open' : State → PassDesc → PassBufs → List Byte → State} (h : Keeps s₀ s)
    (hopen' : ∀ v x1 x2 x3, Keeps s₀ v → Keeps s₀ (open' v x1 x2 x3)) :
    Keeps s₀ (fusedPass i s ops feeds open') := by
  unfold fusedPass
  exact .ite h.callFault (.ite h.callFault (.ite h.runPass (h.runPass.dynamic fun _ h1 => hopen' _ _ _ _ h1)))

protected theorem Keeps.execMmrs {i : Issue} (h : Keeps s₀ s) : OutKeeps s₀ (execMmrs i s) :=
  h.issued fun _ h1 => h1.fusedPass fun _ _ _ _ h2 => h2.collIssue

protected theorem Keeps.execMmag {i : Issue} (h : Keeps s₀ s) : OutKeeps s₀ (execMmag i s) :=
  h.issued fun _ h1 => h1.fusedPass fun _ _ _ _ h2 => h2.collIssue

protected theorem Keeps.feedPiece {t : Nat} {p : LivePass} (h : Keeps s₀ s) : Keeps s₀ (feedPiece t s p) := by
  unfold feedPiece
  split
  · exact h
  · split
    exacts [h, by split; exacts [h, .ite h h.pavGo]]

protected theorem Keeps.feedTick {t : Nat} (h : Keeps s₀ s) : Keeps s₀ (feedTick s t) :=
  h.foldl fun _ _ h1 => h1.feedPiece

protected theorem Keeps.earlyDrop (h : Keeps s₀ s) : Keeps s₀ (earlyDrop s) := h.incSat

protected theorem Keeps.holdEarly {p : Pkt} (h : Keeps s₀ s) : Keeps s₀ (holdEarly s p) :=
  .ite h (.ite h.earlyDrop h.frame)

protected theorem Keeps.withColl {kind : Nat} {f : State → Pkt → State} (h : Keeps s₀ s)
    (hf : ∀ v x1, Keeps s₀ v → Keeps s₀ (f v x1)) :
    OutKeeps s₀ (withColl s kind f) := by
  unfold withColl
  split
  · exact .next h
  · next e =>
      exact .next <|
        .ite (h.takeEjected e).earlyDrop <| by
          split
          exacts [.ite (h.takeEjected e).pavAbort (hf _ _ (h.takeEjected e)), hf _ _ (h.takeEjected e)]

protected theorem Keeps.withInst {p : Pkt} {f : PavInst → State} {other : State}
    (hf : ∀ x0, Keeps s₀ (f x0)) (hk : Keeps s₀ other) :
    Keeps s₀ (withInst s p f other) := by
  unfold withInst
  split
  exacts [hf _, hk]

protected theorem Keeps.execReserve (h : Keeps s₀ s) : OutKeeps s₀ (execReserve s) :=
  h.withColl <| fun _ _ h1 =>
    .ite (.withInst (fun _ => h1.pavAbort) h1) (.ite h1.collCtl (.ite h1.incSat.collCtl h1.frame.collCtl))

protected theorem Keeps.execGrant (h : Keeps s₀ s) : OutKeeps s₀ (execGrant s) :=
  h.withColl fun _ _ h1 => .withInst (fun _ => .ite h1 (.ite h1.pavSet.rootDecide h1.pavSet)) h1.earlyDrop

protected theorem Keeps.execDeny (h : Keeps s₀ s) : OutKeeps s₀ (execDeny s) :=
  h.withColl fun _ _ h1 => .withInst (fun _ => .ite h1 h1.rootDeny) h1.earlyDrop

protected theorem Keeps.execDecide (h : Keeps s₀ s) : OutKeeps s₀ (execDecide s) :=
  h.withColl <| fun _ _ h1 =>
    .withInst (fun _ => h1.onDecide) <|
    .ite (.collCtl (.ite h1 h1.freeSlots)) (.holdEarly (.ite h1 h1.freeSlots))

protected theorem Keeps.execDecAck (h : Keeps s₀ s) : OutKeeps s₀ (execDecAck s) :=
  h.withColl fun _ _ h1 => .withInst (fun _ => h1.pavSet) h1.earlyDrop

protected theorem Keeps.execReady (h : Keeps s₀ s) : OutKeeps s₀ (execReady s) :=
  h.withColl fun _ _ h1 => .withInst (fun _ => h1.onReady) h1.holdEarly

protected theorem Keeps.execCount (h : Keeps s₀ s) : OutKeeps s₀ (execCount s) :=
  h.withColl fun _ _ h1 => .withInst (fun _ => h1.onCount) h1.holdEarly

protected theorem Keeps.answerChunk {x : PavIn} {kind : Nat} (h : Keeps s₀ s) :
    Keeps s₀ (answerChunk s x kind) := h.collCtl

protected theorem Keeps.takeChunk {i : PavInst} {x : PavIn} {parityBad : Bool} (h : Keeps s₀ s) :
    Keeps s₀ (takeChunk s i x parityBad) :=
  .ite h.answerChunk <| by
    dsimp only
    split
    · exact h.earlyDrop
    · split
      · exact h.earlyDrop
      · split
        · exact h.incSat.evt.answerChunk
        · exact .ite (h.incSat.evt.foldl fun _ _ h1 => h1.answerChunk).pavSet.answerChunk
                h.answerChunk.pavAdvance

protected theorem Keeps.execChunk {parityBad : Bool} (h : Keeps s₀ s) : OutKeeps s₀ (execChunk parityBad s) :=
  h.withColl <| fun _ _ h1 =>
    .ite h1.earlyDrop <|
    .ite h1 (.ite h1.frame.frame (by split; exacts [h1.frame.takeChunk, h1.frame.answerChunk]))

protected theorem Keeps.execChunkAck (h : Keeps s₀ s) : OutKeeps s₀ (execChunkAck s) :=
  h.withColl fun _ _ h1 => .withInst (fun _ => h1.pavAdvance) h1.earlyDrop

protected theorem Keeps.resendChunk {i : PavInst} {o : PavOut} {to' : List (Nat × Nat)} (h : Keeps s₀ s) :
    Keeps s₀ (resendChunk s i o to') := by
  unfold resendChunk
  exact .ite h.pavAbort (h.soilSteps.foldl fun _ _ h1 => h1.incSat.sendChunk).pavSet

protected theorem Keeps.execChunkNak (h : Keeps s₀ s) : OutKeeps s₀ (execChunkNak s) :=
  h.withColl fun _ _ h1 => .withInst (fun _ => by split; exacts [h1.resendChunk, h1]) h1.earlyDrop

protected theorem Keeps.execAbort (h : Keeps s₀ s) : OutKeeps s₀ (execAbort s) :=
  h.withColl fun _ _ h1 => .withInst (fun _ => h1.pavEnd) h1.freeSlots

protected theorem Keeps.execChunkTimeout (h : Keeps s₀ s) : OutKeeps s₀ (execChunkTimeout s) := by
  unfold execChunkTimeout
  split
  exacts [.next h, .next h.resendChunk]

protected theorem Keeps.execChunkIncompleteTimeout (h : Keeps s₀ s) :
    OutKeeps s₀ (execChunkIncompleteTimeout s) := by
  unfold execChunkIncompleteTimeout
  split
  exacts [.next h, .next h.frame.answerChunk]

protected theorem Keeps.execReserveResendTimeout (h : Keeps s₀ s) : OutKeeps s₀ (execReserveResendTimeout s) := by
  unfold execReserveResendTimeout
  split
  exacts [.next h, .ite (.next h.rootDeny) (.next h.pavCtl.pavSet)]

protected theorem Keeps.execDecideResendTimeout (h : Keeps s₀ s) : OutKeeps s₀ (execDecideResendTimeout s) := by
  unfold execDecideResendTimeout
  split
  exacts [.next h, .next h.pavCtl.pavSet]

protected theorem Keeps.execEarlyRecordResend (h : Keeps s₀ s) : OutKeeps s₀ (execEarlyRecordResend s) := by
  unfold execEarlyRecordResend
  split
  exacts [.next h, .next h.send.pavSet]

protected theorem Keeps.execCollTimeout (h : Keeps s₀ s) : OutKeeps s₀ (execCollTimeout s) := by
  unfold execCollTimeout
  split
  exacts [.next h.incSat.evt.pavAbort, by split; exacts [.next h.shFault, .next h.frame]]

protected theorem Keeps.execInstanceComplete (h : Keeps s₀ s) : OutKeeps s₀ (execInstanceComplete s) := by
  unfold execInstanceComplete
  split
  · exact .next (.frame (.pavDrop (.ite h.inc64.inc64 (.ite h.inc64.inc64 h.inc64))))
  · split
    exacts [.next h.shDrop, .next h]

protected theorem Keeps.linkFallback {a b : Nat} (h : Keeps s₀ s) : Keeps s₀ (linkFallback s a b) :=
  .ite h (h.foldl fun _ _ h1 => .ite h1 h1.incSat.evt.rootDecide)

protected theorem Keeps.parentChange {p : Option Nat} (h : Keeps s₀ s) : Keeps s₀ (parentChange s p) :=
  .ite h h.incSat.evt

protected theorem Keeps.setParent (h : Keeps s₀ s) : Keeps s₀ (setParent s) := by
  unfold setParent
  exact .ite h (by split <;> exact h.parentChange.frame)

protected theorem Keeps.apply {k t code dev port : Nat} (h : Keeps s₀ s) :
    Keeps s₀ (execLinkstate.apply s k t code dev port) := by
  unfold execLinkstate.apply
  exact .setParent (by split; exacts [.linkFallback (.ite h.frame.evt h.frame), .ite h.frame.evt h.frame])

protected theorem Keeps.execLinkstate (h : Keeps s₀ s) : OutKeeps s₀ (execLinkstate s) := by
  unfold execLinkstate
  split
  · exact .next h
  · next e =>
      exact .ite (.next (h.takeEjected e)) <|
        .ite (.next (h.takeEjected e)) <| by
          split
          exacts [.ite (.next (h.takeEjected e)) (.next (h.takeEjected e).apply), .next (h.takeEjected e).apply]

end Sys2Proof.Machine

/-! ## What every step keeps: power, integrity, boot and the timebase -/

namespace Sys2Proof.Machine

open Sys2Proof Sys2Proof.Config

-- The proofs wait for one another: as parallel tasks they would hold a stack each.
set_option Elab.async false

variable {s₀ s t : State}

protected theorem Keeps.powerOff {latch : Bool} (h : Keeps s₀ s) : Keeps s₀ (powerOff s latch) := h.reset

protected theorem Keeps.sampleRail {u r : Nat} {v : Nat × Nat} (h : Keeps s₀ s) :
    Keeps s₀ (sampleRail s u r v) := by
  unfold sampleRail
  exact h.setRegN.setRegN.setRegN.frame

protected theorem Keeps.addEnergy {u pj : Nat} (h : Keeps s₀ s) : Keeps s₀ (addEnergy s u pj) := by
  unfold addEnergy
  exact .ite h.frame.inc64.inc64 h.frame.inc64

protected theorem Keeps.sampleUnit {u : Nat} {rails : List (Nat × Nat)} (h : Keeps s₀ s) :
    Keeps s₀ (sampleUnit s u rails) := by
  unfold sampleUnit
  dsimp only
  split
  · exact .gateSame (.addEnergy (h.foldl fun _ _ h1 => h1.sampleRail))
  · exact .addEnergy (h.foldl fun _ _ h1 => h1.sampleRail)

protected theorem Keeps.execRailSample {rails : List (List (Nat × Nat))} (h : Keeps s₀ s) :
    OutKeeps s₀ (execRailSample rails s) := by
  unfold execRailSample
  exact .next (.ite (h.foldl fun _ _ h1 => h1.sampleUnit).powerOff (h.foldl fun _ _ h1 => h1.sampleUnit))

protected theorem Keeps.sampleSensor {u i : Nat} {v : Bool × Nat} (h : Keeps s₀ s) :
    Keeps s₀ (sampleSensor s u i v) := by
  unfold sampleSensor
  exact .ite h.setRegN.frame h.setRegN.frame.incSat.evt.err

protected theorem Keeps.sampleTemps {u : Nat} {vs : List (Bool × Nat)} (h : Keeps s₀ s) :
    Keeps s₀ (sampleTemps s u vs) := by
  unfold sampleTemps
  exact .ite
        (.ite
            (.evt <|
            .ite
                (.evt <|
                .incSat <| by
                  split
                  · exact h.foldl fun _ _ h1 => h1.sampleSensor
                  · exact .ite (h.foldl fun _ _ h1 => h1.sampleSensor).setRegN.setRegN
                          (h.foldl fun _ _ h1 => h1.sampleSensor).setRegN)
                (by
                  split
                  · exact h.foldl fun _ _ h1 => h1.sampleSensor
                  · exact .ite (h.foldl fun _ _ h1 => h1.sampleSensor).setRegN.setRegN
                          (h.foldl fun _ _ h1 => h1.sampleSensor).setRegN)) <|
        .ite
            (.evt <|
            .incSat <| by
              split
              · exact h.foldl fun _ _ h1 => h1.sampleSensor
              · exact .ite (h.foldl fun _ _ h1 => h1.sampleSensor).setRegN.setRegN
                      (h.foldl fun _ _ h1 => h1.sampleSensor).setRegN)
            (by
              split
              · exact h.foldl fun _ _ h1 => h1.sampleSensor
              · exact .ite (h.foldl fun _ _ h1 => h1.sampleSensor).setRegN.setRegN
                      (h.foldl fun _ _ h1 => h1.sampleSensor).setRegN)) <|
    .frame <|
    .ite
        (.evt <|
        .ite
            (.evt <|
            .incSat <| by
              split
              · exact h.foldl fun _ _ h1 => h1.sampleSensor
              · exact .ite (h.foldl fun _ _ h1 => h1.sampleSensor).setRegN.setRegN
                      (h.foldl fun _ _ h1 => h1.sampleSensor).setRegN)
            (by
              split
              · exact h.foldl fun _ _ h1 => h1.sampleSensor
              · exact .ite (h.foldl fun _ _ h1 => h1.sampleSensor).setRegN.setRegN
                      (h.foldl fun _ _ h1 => h1.sampleSensor).setRegN)) <|
    .ite
        (.evt <|
        .incSat <| by
          split
          · exact h.foldl fun _ _ h1 => h1.sampleSensor
          · exact .ite (h.foldl fun _ _ h1 => h1.sampleSensor).setRegN.setRegN
                  (h.foldl fun _ _ h1 => h1.sampleSensor).setRegN)
        (by
          split
          · exact h.foldl fun _ _ h1 => h1.sampleSensor
          · exact .ite (h.foldl fun _ _ h1 => h1.sampleSensor).setRegN.setRegN
                  (h.foldl fun _ _ h1 => h1.sampleSensor).setRegN)

protected theorem Keeps.thermalStep (h : Keeps s₀ s) : Keeps s₀ (thermalStep s) := by
  have raised : Keeps s₀ (if s.gate.kT < 56 then evt (incSat s (pgGate + 0x6C) 1) pgGate 2 else s) :=
    .ite h.incSat.evt h
  refine .ite (raised.gate fun bound => ?_) (.ite (h.gate fun bound => ?_) h)
  · obtain ⟨_, kE, kI, _⟩ := raised.bounded bound
    exact ⟨kE, kI, Nat.min_le_left ..⟩
  · obtain ⟨_, kE, kI, kT⟩ := h.bounded bound
    exact ⟨kE, kI, (Nat.sub_le ..).trans kT⟩

protected theorem Keeps.execTempSample {temps : List (List (Bool × Nat))} (h : Keeps s₀ s) :
    OutKeeps s₀ (execTempSample temps s) := by
  unfold execTempSample
  exact .next <|
    .ite (h.foldl fun _ _ h1 => h1.sampleTemps).powerOff (h.foldl fun _ _ h1 => h1.sampleTemps).thermalStep

theorem nextKE_le (bound : s.gate.kE ≤ 56) : nextKE s ≤ 56 := by
  unfold nextKE
  split_ifs <;> omega

theorem nextKI_le (bound : s.gate.kI ≤ 56) : nextKI s ≤ 56 := by
  unfold nextKI
  split_ifs <;> omega

protected theorem Keeps.enterHold (h : Keeps s₀ s) : Keeps s₀ (enterHold s) :=
  .ite h <| h.gateSame.incSat.evt.err.foldl fun _ _ h1 => .ite h1.setPart.requestStop h1

protected theorem Keeps.leaveHold (h : Keeps s₀ s) : Keeps s₀ (leaveHold s) :=
  h.gateSame.foldl fun _ _ h1 => .ite h1.setPart.maybeResume h1

protected theorem Keeps.markConds (h : Keeps s₀ s) : Keeps s₀ (markConds s) :=
  h.foldl fun _ _ h1 => by split; exacts [h1, .ite h1 (.mapHead (.ite h1.incSat.evt h1))]

protected theorem Keeps.usePace {prog : Nat} (h : Keeps s₀ s) : Keeps s₀ (usePace s prog) := by
  unfold usePace
  split
  exacts [h.gateSame, h]

protected theorem Keeps.passEnergy {n : Nat} {st : Step} {sole : Bool} (h : Keeps s₀ s) :
    Keeps s₀ (passEnergy s n st sole) := by
  unfold passEnergy
  exact .mapHead (.ite (.incSat (.inc64 (.ite h h.usePace))) (.inc64 (.ite h h.usePace)))

protected theorem Keeps.sendNotice' {n : Nat} {sole : Bool} (h : Keeps s₀ s) :
    Keeps s₀ (sendNotice' s n sole) := by
  unfold sendNotice'
  exact h.frame.incSat.mapHead

protected theorem Keeps.admitOne (h : Keeps s₀ s) (e : admitOne s = some t) : Keeps s₀ t := by
  unfold admitOne at e
  split at e
  · cases e
  · dsimp only at e
    split_ifs at e <;> cases e
    exacts [h.sendNotice', h.passEnergy]

protected theorem Keeps.admitLoop {k : Nat} (h : Keeps s₀ s) : Keeps s₀ (admitLoop k s) := by
  induction k generalizing s with
  | zero => exact h
  | succ k ih =>
    unfold admitLoop
    split
    · exact h
    · next e => exact ih (h.admitOne e)

protected theorem Keeps.admitEnergy (h : Keeps s₀ s) : Keeps s₀ (admitEnergy s) := .ite h h.markConds.admitLoop

protected theorem Keeps.controllers (h : Keeps s₀ s) : Keeps s₀ (controllers s) := by
  have raised : Keeps s₀ (if s.gate.kI < nextKI s then evt (incSat s (pgGate + 0x68) 1) pgGate 3 else s) :=
    .ite h.incSat.evt h
  refine raised.gate fun bound => ?_
  obtain ⟨_, kE, kI, _⟩ := h.bounded bound
  obtain ⟨_, _, _, kT⟩ := raised.bounded bound
  exact ⟨nextKE_le kE, nextKI_le kI, kT⟩

protected theorem Keeps.holdMove (h : Keeps s₀ s) : Keeps s₀ (holdMove s) :=
  .ite (.ite h.leaveHold h) (.ite h.enterHold h)

protected theorem Keeps.heavyEnd (h : Keeps s₀ s) : Keeps s₀ (heavyEnd s) := .ite h.frame h

protected theorem Keeps.execGateEvaluation (h : Keeps s₀ s) : OutKeeps s₀ (execGateEvaluation s) :=
  .next h.controllers.holdMove.admitEnergy.heavyEnd

protected theorem Keeps.trueup {sumRf : Nat} (h : Keeps s₀ s) : Keeps s₀ (trueup s sumRf).2 := by
  unfold trueup
  exact .iteSnd h.freshFree (.iteSnd h h.freshFree)

protected theorem Keeps.chargePart {n : Nat} (h : Keeps s₀ s) : Keeps s₀ (chargePart s n) := by
  unfold chargePart
  exact h.setPart

protected theorem Keeps.windowCharged (h : Keeps s₀ s) : Keeps s₀ (windowCharged s) :=
  .ite (.gateSame (.trueup (h.foldl fun _ _ h1 => h1.chargePart))) (h.foldl fun _ _ h1 => h1.chargePart)

protected theorem Keeps.execWindowEnd (h : Keeps s₀ s) : OutKeeps s₀ (execWindowEnd s) := by
  have charged : Keeps s₀ (if 0 < s.gate.eUsed / 1000000 - regN s (pgGate + 0x108)
      then evt (incSat (windowCharged s) (pgGate + 0x5C) 1) pgGate 0 else windowCharged s) :=
    .ite h.windowCharged.incSat.evt h.windowCharged
  exact .next (.setRegN (.gateSame (.ite charged.evt charged)))

protected theorem Keeps.writeLimit {a lo hi v : Nat} (h : Keeps s₀ s) : Keeps s₀ (writeLimit s a lo hi v) := by
  unfold writeLimit
  exact .setRegN (.ite h.err h)

protected theorem Keeps.execAllotWrite {v : Nat} (h : Keeps s₀ s) : OutKeeps s₀ (execAllotWrite v s) :=
  h.guardWrite (.next h.writeLimit)

protected theorem Keeps.execIlimitWrite {v : Nat} (h : Keeps s₀ s) : OutKeeps s₀ (execIlimitWrite v s) :=
  h.guardWrite (.next h.writeLimit)

protected theorem Keeps.execPaceClear {v : Nat} (h : Keeps s₀ s) : OutKeeps s₀ (execPaceClear v s) :=
  h.guardWrite (.next (.ite h.gateSame h))

protected theorem Keeps.regAnswer {v : Nat} (h : Keeps s₀ s) : Keeps s₀ (regAnswer s v) := h.frame

protected theorem Keeps.execEctDataRead (h : Keeps s₀ s) : OutKeeps s₀ (execEctDataRead s) := by
  unfold execEctDataRead
  exact .next h.regAnswer.setRegN

protected theorem Keeps.execIdleTileGate {t : Nat} (h : Keeps s₀ s) : OutKeeps s₀ (execIdleTileGate t s) := by
  unfold execIdleTileGate
  exact h.whenOk h.setTile

protected theorem Keeps.execUngateWave {n : Nat} (h : Keeps s₀ s) : OutKeeps s₀ (execUngateWave n s) := by
  unfold execUngateWave
  split
  exacts [.next h, .ite (.next h) (.next (h.foldl fun _ _ h1 => h1.setTile))]

protected theorem Keeps.execLoadNoticeEnd (h : Keeps s₀ s) : OutKeeps s₀ (execLoadNoticeEnd s) := by
  unfold execLoadNoticeEnd
  split
  · exact .next h
  · split
    exacts [.next h, .ite (.next h) (.ite (.next h.mapHead) (.next h.passEnergy.mapHead))]

protected theorem Keeps.notePace {st : Step} (h : Keeps s₀ s) : Keeps s₀ (notePace s st) := .ite h h.gateSame

protected theorem Keeps.writeBackPart {n : Nat} (h : Keeps s₀ s) : Keeps s₀ (writeBackPart s n) :=
  h.foldl fun _ _ h1 => .ite h1.writeBack h1

protected theorem Keeps.takeQuotas {n : Nat} (h : Keeps s₀ s) : Keeps s₀ (takeQuotas s n) := by
  unfold takeQuotas
  exact h.setPart

protected theorem Keeps.freeTiles {n : Nat} {st : Step} (h : Keeps s₀ s) : Keeps s₀ (freeTiles s n st) :=
  h.foldl fun _ _ h1 => h1.setTile

protected theorem Keeps.commitRecords {n : Nat} {st : Step} (h : Keeps s₀ s) :
    Keeps s₀ (commitRecords s n st) := by
  unfold commitRecords
  exact h.writeDigests.writeStepRecord.leaveWindow.notePace.inc64.completeEntry

protected theorem Keeps.execStepCommit {n : Nat} (h : Keeps s₀ s) : OutKeeps s₀ (execStepCommit n s) := by
  unfold execStepCommit
  split
  · exact .next h
  · exact .ite (.next h) <|
      .next
          (h.commitRecords.freeTiles.setPart.frame.writeBackPart.eptSwap.takeQuotas.foldl <| fun _ _ h1 =>
             h1.switchTile).admitEnergy

protected theorem Keeps.execPerBankRefresh {c : Nat} (h : Keeps s₀ s) : OutKeeps s₀ (execPerBankRefresh c s) :=
  h.whenOk h.incSat

protected theorem Keeps.ueGrain {n f a : Nat} (h : Keeps s₀ s) : Keeps s₀ (ueGrain s n f a) := by
  unfold ueGrain
  split
  · exact .ite h.grnFault.partFault h.t1WriteRaw
  · split
    exacts [by dsimp only; split; exacts [h.uncorrGrain, .ite h.startMigration h.t1WriteRaw, h.t1WriteRaw], h]

protected theorem Keeps.ueOwner {a : Nat} (h : Keeps s₀ s) : Keeps s₀ (ueOwner s a) := by
  unfold ueOwner
  exact .ite
        (by
          split
          exacts [h, h.foldl fun _ _ h1 => h1.grnFault.partFault, h, h.t1WriteRaw, h.grnFault.partFault])
        (.ite h (by split; exacts [h.t1WriteRaw, .ite h.ueGrain h]))

protected theorem Keeps.scrubBlock {c b : Nat} {queued : Bool} (h : Keeps s₀ s) :
    Keeps s₀ (scrubBlock s c b queued) := by
  unfold scrubBlock
  dsimp only
  split
  · exact h.inc64
  · exact .soilSteps (.inc64 (.t1WriteRaw (.ite h.inc64 h.inc64.noteCorrected)))
  · exact .soilSteps (.inc64 (.t1WriteRaw (.ite h.inc64.freshFree h.inc64.freshFree.noteCorrected)))
  · exact h.inc64.noteUncorrectable.ueOwner

protected theorem Keeps.execPatrolScrubSlot {c : Nat} (h : Keeps s₀ s) :
    OutKeeps s₀ (execPatrolScrubSlot c s) := by
  unfold execPatrolScrubSlot
  exact .ite (.next h) (by split <;> exact .next h.setMch.scrubBlock)

protected theorem Keeps.execDetModeWrite {v : Bool} (h : Keeps s₀ s) : OutKeeps s₀ (execDetModeWrite v s) :=
  h.guardWrite (.ite (.next h.err) (.ite (.next h.setRegN) (.next h.setRegN.frame)))

protected theorem Keeps.execDetActiveChange (h : Keeps s₀ s) : OutKeeps s₀ (execDetActiveChange s) := by
  unfold execDetActiveChange
  split
  exacts [.next h, .next (h.frame.foldl fun _ _ h1 => h1.setMch).incSat.evt]

protected theorem Keeps.execDigestCfgWrite {n v : Nat} (h : Keeps s₀ s) :
    OutKeeps s₀ (execDigestCfgWrite n v s) :=
  h.guardWrite (.ite (.next h) (.ite (.next h.err) (.next h.setRegN)))

protected theorem Keeps.setD2d {k : Nat} {x : D2d} (h : Keeps s₀ s) : Keeps s₀ (setD2d s k x) := h.frame

protected theorem Keeps.deviceFault {code : Nat} (h : Keeps s₀ s) : Keeps s₀ (deviceFault s code) := by
  unfold deviceFault
  exact h.frame.evt.foldl fun _ _ h1 => .ite h1.endInstances h1.endAll.noteError

protected theorem Keeps.execD2dFlitReceive {k : Nat} {toB : Bool} {bs : List Byte} (h : Keeps s₀ s) :
    OutKeeps s₀ (execD2dFlitReceive k toB bs s) := by
  unfold execD2dFlitReceive
  exact .ite (.next h) <|
    .ite (.next h.inc64.setD2d) (.next (.setD2d (.evt (.incSat (.ite h.inc64 h.inc64.incSat)))))

protected theorem Keeps.execD2dRetrain {k : Nat} (h : Keeps s₀ s) : OutKeeps s₀ (execD2dRetrain k s) := by
  unfold execD2dRetrain
  exact h.whenOk h.setD2d.incSat.evt

protected theorem Keeps.execD2dRetrainDone {k : Nat} {ok : Bool} (h : Keeps s₀ s) :
    OutKeeps s₀ (execD2dRetrainDone k ok s) := by
  unfold execD2dRetrainDone
  exact .ite (.next h) (.ite (.next h.setD2d.evt.edgePump) (.next h.setD2d.evt.err.deviceFault))

protected theorem Keeps.notePages {ps : List Nat} (h : Keeps s₀ s) : Keeps s₀ (notePages s ps) := by
  unfold notePages
  exact .frame (.ite h (h.foldl fun _ _ h1 => h1.setRegN))

protected theorem Keeps.moduleReset (h : Keeps s₀ s) : Keeps s₀ (moduleReset s) := h.reset

protected theorem Keeps.routerReset (h : Keeps s₀ s) : Keeps s₀ (routerReset s) := h.reset

protected theorem Keeps.addTest {u : List Nat} (h : Keeps s₀ s) : Keeps s₀ (addTest s u) := by
  unfold addTest
  exact h.frame

protected theorem Keeps.checkers {u : List Nat} (h : Keeps s₀ s) : Keeps s₀ (checkers s u) :=
  (h.foldl fun _ _ h1 => h1.err).addTest

protected theorem Keeps.trainChan {bad : Bool} {ms c : Nat} (h : Keeps s₀ s) :
    Keeps s₀ (trainChan s bad ms c) := .ite h.freshFree.setRegN.setMch.evt.err h.setMch.setRegN

protected theorem Keeps.trainLink {bad : Bool} {us k : Nat} (h : Keeps s₀ s) :
    Keeps s₀ (trainLink s bad us k) := .ite h.freshFree.setRegN.setD2d.evt.err h.setD2d.setRegN.evt

protected theorem Keeps.trained {u chans links : List Nat} {ms us : Nat} (h : Keeps s₀ s) :
    Keeps s₀ (trained s u chans links ms us) := by
  unfold trained
  exact ((h.foldl fun _ _ h1 => h1.trainChan).foldl fun _ _ h1 => h1.trainLink).addTest

protected theorem Keeps.initChan {c : Nat} (h : Keeps s₀ s) : Keeps s₀ (initChan s c) :=
  .inc64 <| .setMch <| h.memory fun ⟨sram, bad, t1, err, host⟩ =>
    ⟨sram, bad, NMap.wf_filter _ _ _ t1, NMap.wf_filter _ _ _ err, host⟩

protected theorem Keeps.startBoot {u : List Nat} (h : Keeps s₀ s) : Keeps s₀ (startBoot s u) := by
  unfold startBoot
  exact .ite h.clock.notePages.frame.err <|
    h.clock.notePages.setRegN.setRegN.setRegN.frame.checkers.foldl fun _ _ h1 => h1.setD2d

protected theorem Keeps.execPllLock {u : List Nat} (h : Keeps s₀ s) : OutKeeps s₀ (execPllLock u s) :=
  .ite (.next h) (.next (.ite h.clock h.clock.startBoot))

protected theorem Keeps.execPllLockRetry (h : Keeps s₀ s) : OutKeeps s₀ (execPllLockRetry s) := .next h

protected theorem Keeps.execReferenceLoss (h : Keeps s₀ s) : OutKeeps s₀ (execReferenceLoss s) :=
  .ite (.next h) (.next h.err.deviceFault.clock)

protected theorem Keeps.execPerstAssert (h : Keeps s₀ s) : OutKeeps s₀ (execPerstAssert s) :=
  .next (.ite h.frame h.moduleReset)

protected theorem Keeps.execPerstDeassert {u : List Nat} (h : Keeps s₀ s) :
    OutKeeps s₀ (execPerstDeassert u s) := .ite (.next h) (.next (.ite h.frame.startBoot h.frame))

protected theorem Keeps.execPcieLinkUp {width speed : Nat} (h : Keeps s₀ s) :
    OutKeeps s₀ (execPcieLinkUp width speed s) := by
  unfold execPcieLinkUp
  exact h.whenOk (.ite h.frame.frame h.frame)

protected theorem Keeps.execTrainingComplete {u : List Nat} {ms us : Nat} (h : Keeps s₀ s) :
    OutKeeps s₀ (execTrainingComplete u ms us s) := .ite (.next h) (.next h.trained.frame)

protected theorem Keeps.execT1InitDone {c : Nat} (h : Keeps s₀ s) : OutKeeps s₀ (execT1InitDone c s) := by
  unfold execT1InitDone
  exact .ite (.next h) (.next h.initChan.frame)

protected theorem Keeps.setRegs {a : Nat} {bs : List Byte} (h : Keeps s₀ s) : Keeps s₀ (setRegs s a bs) :=
  h.foldl fun _ _ h1 => h1.setRegN

protected theorem Keeps.bootRefuse (h : Keeps s₀ s) : Keeps s₀ (bootRefuse s) := h.err

protected theorem Keeps.execLoad (h : Keeps s₀ s) : OutKeeps s₀ (execLoad s) :=
  .ite (.next h.bootRefuse) (.next h.inc64.frame)

protected theorem Keeps.execImageReceived (h : Keeps s₀ s) : OutKeeps s₀ (execImageReceived s) :=
  .ite (.next h) (.ite (.next h.frame.incSat.evt.err) (.next h.frame.setRegs.incSat))

protected theorem Keeps.execBroadcastImage (h : Keeps s₀ s) : OutKeeps s₀ (execBroadcastImage s) :=
  .ite (.next h.bootRefuse) (.next (h.frame.foldl fun _ _ h1 => h1.send))

protected theorem Keeps.bootTake {p : Pkt} (h : Keeps s₀ s) : Keeps s₀ (bootTake s p) := by
  unfold bootTake
  exact h.frame

protected theorem Keeps.execBootPacket (h : Keeps s₀ s) : OutKeeps s₀ (execBootPacket s) := by
  unfold execBootPacket
  split
  · exact .next h
  · next e => exact .ite (.next (h.takeEjected e).bootTake) (.next (h.takeEjected e).incSat)

protected theorem Keeps.execBroadcastIncompleteTimeout (h : Keeps s₀ s) :
    OutKeeps s₀ (execBroadcastIncompleteTimeout s) := by
  unfold execBroadcastIncompleteTimeout
  exact h.whenOk h.frame.evt.err

protected theorem Keeps.execTilePowerUpWave (h : Keeps s₀ s) : OutKeeps s₀ (execTilePowerUpWave s) := by
  unfold execTilePowerUpWave
  exact h.whenOk h.frame

protected theorem Keeps.errTimes {page code n : Nat} (h : Keeps s₀ s) : Keeps s₀ (errTimes s page code n) := by
  induction n generalizing s with
  | zero => exact h
  | succ n ih => exact ih h.err

protected theorem Keeps.reconcile {dies u : List Nat} (h : Keeps s₀ s) : Keeps s₀ (reconcile s dies u) := by
  unfold reconcile
  exact .foldl (.frame (.ite h.incSat.errTimes h.incSat.errTimes.evt)) <| fun _ _ h1 =>
      h1.setRegN.foldl fun _ _ h2 => .ite h2 h2.setTile

protected theorem Keeps.katFails {u : List Nat} (h : Keeps s₀ s) : Keeps s₀ (katFails s u) := by
  unfold katFails
  exact h.incSat.errTimes.addTest

protected theorem Keeps.calibrate {meas : List Nat} (h : Keeps s₀ s) : Keeps s₀ (calibrate s meas) := by
  unfold calibrate
  dsimp only
  split <;> exact h.gateSame.setRegN

protected theorem Keeps.execKatComplete {u meas : List Nat} (h : Keeps s₀ s) :
    OutKeeps s₀ (execKatComplete u meas s) :=
  .ite (.next h) (.next h.katFails.calibrate.reconcile.setRegN.frame.evt)

protected theorem Keeps.execAttest (h : Keeps s₀ s) : OutKeeps s₀ (execAttest s) :=
  .ite (.next h.bootRefuse) (.next h.setRegs.incSat.evt)

protected theorem Keeps.execBootResetRouterDie {key : Nat} {u : List Nat} (h : Keeps s₀ s) :
    OutKeeps s₀ (execBootResetRouterDie key u s) :=
  .ite (.next h.bootRefuse) (.ite (.next h) (.next h.routerReset.startBoot))

protected theorem Keeps.resetDie {d : Nat} (h : Keeps s₀ s) : Keeps s₀ (resetDie s d) :=
  .notePages <| .setD2d <| .setD2d <| h.memory fun ⟨sram, bad, t1, err, host⟩ =>
    ⟨NMap.wf_filter _ _ _ sram, NMap.wf_filter _ _ _ bad, NMap.wf_filter _ _ _ t1, NMap.wf_filter _ _ _ err, host⟩

protected theorem Keeps.execBootResetComputeDie {d key : Nat} (h : Keeps s₀ s) :
    OutKeeps s₀ (execBootResetComputeDie d key s) :=
  .ite (.next h.bootRefuse) <|
  .ite (.next h) (.next (h.foldl fun _ _ h1 => .ite h1.endInstances h1.endAll.noteError).resetDie.frame)

protected theorem Keeps.dieDone {d : Nat} {chk trn kat : List Nat} (h : Keeps s₀ s) :
    Keeps s₀ (dieDone s d chk trn kat) := by
  unfold dieDone
  exact (h.checkers.trained.foldl fun _ _ h1 => .ite h1.initChan h1).katFails.frame.reconcile

protected theorem Keeps.execComputeDieBringupDone {d : Nat} {chk trn kat : List Nat} (h : Keeps s₀ s) :
    OutKeeps s₀ (execComputeDieBringupDone d chk trn kat s) := .ite (.next h) (.next h.dieDone)

protected theorem Keeps.execBootResetPartition {n key : Nat} (h : Keeps s₀ s) :
    OutKeeps s₀ (execBootResetPartition n key s) := .ite (.next h.bootRefuse) (.ite (.next h) (.next h.setPart))

protected theorem Keeps.resetTile {n t : Nat} (h : Keeps s₀ s) : Keeps s₀ (resetTile s n t) := by
  unfold resetTile
  exact (h.foldl fun _ _ h1 => h1.zeroSram).setTile

protected theorem Keeps.partReset {n code : Nat} (h : Keeps s₀ s) : Keeps s₀ (partReset s n code) := by
  unfold partReset
  exact (h.endAll.foldl fun _ _ h1 => h1.resetTile).frame.setPart

protected theorem Keeps.execPartitionResetTakeEffect {n : Nat} (h : Keeps s₀ s) :
    OutKeeps s₀ (execPartitionResetTakeEffect n s) := by
  unfold execPartitionResetTakeEffect
  split
  exacts [.next h, .ite (.next h) (.next h.partReset)]

protected theorem Keeps.execVinTurnOn (h : Keeps s₀ s) : OutKeeps s₀ (execVinTurnOn s) := by
  unfold execVinTurnOn
  exact .next (.ite h.frame h.frame)

protected theorem Keeps.execRailSettled (h : Keeps s₀ s) : OutKeeps s₀ (execRailSettled s) := by
  unfold execRailSettled
  split
  exacts [h.whenOk h.frame, .next h]

protected theorem Keeps.execRailSequenceTimeout (h : Keeps s₀ s) : OutKeeps s₀ (execRailSequenceTimeout s) := by
  unfold execRailSequenceTimeout
  split
  exacts [h.whenOk h.powerOff, .next h]

protected theorem Keeps.execVinTurnOff (h : Keeps s₀ s) : OutKeeps s₀ (execVinTurnOff s) :=
  .next h.powerOff.frame

protected theorem Keeps.execVinOvervoltage (h : Keeps s₀ s) : OutKeeps s₀ (execVinOvervoltage s) :=
  .next h.powerOff.frame

protected theorem Keeps.execFaultLatchClear (h : Keeps s₀ s) : OutKeeps s₀ (execFaultLatchClear s) := by
  unfold execFaultLatchClear
  exact .next (.frame (.ite h.powerOff h))

protected theorem Keeps.execTbSet (h : Keeps s₀ s) : OutKeeps s₀ (execTbSet s) :=
  h.guardWrite (.ite (.next h.err) (.next (.ite h.clock.frame.err h.clock)))

protected theorem Keeps.sendTime {dst kind seq t1 t2 t3 : Nat} (h : Keeps s₀ s) :
    Keeps s₀ (sendTime s dst kind seq t1 t2 t3) := by
  unfold sendTime
  exact h.send

protected theorem Keeps.execTbPeriodExpiry (h : Keeps s₀ s) : OutKeeps s₀ (execTbPeriodExpiry s) :=
  .ite (.next h) <| by
    dsimp only
    split
    exacts [.next h.frame.setParent, .next h.frame.setParent.frame.sendTime]

protected theorem Keeps.hear {p : Pkt} (h : Keeps s₀ s) : Keeps s₀ (hear s p) := h.frame

protected theorem Keeps.execTimeRequest (h : Keeps s₀ s) : OutKeeps s₀ (execTimeRequest s) := by
  unfold execTimeRequest
  split
  · exact .next h
  · next e => exact .next (.sendTime (.hear (.ite (h.takeEjected e).err (h.takeEjected e))))

protected theorem Keeps.slewBy {off : ℤ} (h : Keeps s₀ s) : Keeps s₀ (slewBy s off) := by
  unfold slewBy
  exact h.frame

protected theorem Keeps.lockBy {off : ℤ} (h : Keeps s₀ s) : Keeps s₀ (lockBy s off) := by
  unfold lockBy
  exact .ite h.frame.evt (.ite h.frame.incSat.evt h.frame)

protected theorem Keeps.execTimeResponse (h : Keeps s₀ s) : OutKeeps s₀ (execTimeResponse s) := by
  unfold execTimeResponse
  split
  · exact .next h
  · next e =>
      have h1 := h.takeEjected e
      split
      · exact .next h1
      · exact .ite (.next h1) <| .next <| .setParent <| .setRegN <| .lockBy <|
          .ite h1.hear.inc64.frame.setRegN.setRegN.clock.incSat h1.hear.inc64.frame.setRegN.setRegN.slewBy

protected theorem Keeps.execTbLockLoss (h : Keeps s₀ s) : OutKeeps s₀ (execTbLockLoss s) :=
  h.whenOk h.frame.incSat.evt

protected theorem Keeps.requestSnap {t : Nat} (h : Keeps s₀ s) : Keeps s₀ (requestSnap s t) :=
  .ite h (.ite h.err h.frame)

protected theorem Keeps.execSnapAt (h : Keeps s₀ s) : OutKeeps s₀ (execSnapAt s) :=
  h.guardWrite (.next h.requestSnap)

protected theorem Keeps.execSnapNow (h : Keeps s₀ s) : OutKeeps s₀ (execSnapNow s) :=
  h.guardWrite (.next h.requestSnap)

protected theorem Keeps.execSnapCancel (h : Keeps s₀ s) : OutKeeps s₀ (execSnapCancel s) :=
  h.guardWrite (.next h.frame)

protected theorem Keeps.copyCounters (h : Keeps s₀ s) : Keeps s₀ (copyCounters s) := by
  unfold copyCounters
  exact (h.foldl fun _ _ h1 => .ite h1.setPair h1).foldl fun _ _ h1 => .ite h1.setReg h1

protected theorem Keeps.execSnapshotTake (h : Keeps s₀ s) : OutKeeps s₀ (execSnapshotTake s) := by
  unfold execSnapshotTake
  split
  · exact .next h
  · exact .ite (.next h) <|
      .next (h.copyCounters.foldl fun _ _ h1 => h1.setRegN).setPair.setRegN.frame.incSat.evt

protected theorem Keeps.execEvtPendClear {page bits : Nat} (h : Keeps s₀ s) :
    OutKeeps s₀ (execEvtPendClear page bits s) := h.guardWrite (h.whenOk h.setRegN.setRegN)

protected theorem Keeps.execErrCountRead {page : Nat} (h : Keeps s₀ s) :
    OutKeeps s₀ (execErrCountRead page s) := by
  unfold execErrCountRead
  exact .next h.regAnswer.setRegN

protected theorem Keeps.execTpeakRead {u : Nat} (h : Keeps s₀ s) : OutKeeps s₀ (execTpeakRead u s) :=
  h.whenOk h.regAnswer.setRegN

protected theorem Keeps.execIrqHoldoffEnd (h : Keeps s₀ s) : OutKeeps s₀ (execIrqHoldoffEnd s) :=
  h.whenOk h.frame.irqRise

end Sys2Proof.Machine

/-! ## What every step keeps: the host and the mailbox -/

namespace Sys2Proof.Machine

open Sys2Proof Sys2Proof.Config

variable {s₀ s t : State}

protected theorem Keeps.hostViolation {q code : Nat} (h : Keeps s₀ s) : Keeps s₀ (hostViolation s q code) := by
  unfold hostViolation
  exact .err (.ite h.incSat.evt.setRegN h.incSat.evt)

protected theorem Keeps.pairViolation {q code : Nat} (h : Keeps s₀ s) : Keeps s₀ (pairViolation s q code) := by
  unfold pairViolation
  exact h.setQp.hostViolation

protected theorem Keeps.vfViolation (h : Keeps s₀ s) : Keeps s₀ (vfViolation s) := h.hostViolation

protected theorem Keeps.dmaError {code : Nat} (h : Keeps s₀ s) : Keeps s₀ (dmaError s code) := h.incSat.evt.err

protected theorem Keeps.fetchOne {q : Nat} (h : Keeps s₀ s) : Keeps s₀ (fetchOne s q) := by
  unfold fetchOne
  exact .ite h.fetchHost.inc64.frame.setQp.pairViolation.incSat.completeEntry h.fetchHost.inc64.frame.setQp

protected theorem Keeps.fetchLoop {k q : Nat} (h : Keeps s₀ s) : Keeps s₀ (fetchLoop k s q) := by
  induction k generalizing s with
  | zero => exact h
  | succ k ih => exact .ite h (ih h.fetchOne)

protected theorem Keeps.fetchPair {q : Nat} (h : Keeps s₀ s) : Keeps s₀ (fetchPair s q) := h.fetchLoop

protected theorem Keeps.fetchAll (h : Keeps s₀ s) : Keeps s₀ (fetchAll s) := h.foldl fun _ _ h1 => h1.fetchPair

protected theorem Keeps.setEntryOf {q : Nat} {e' : Entry} (h : Keeps s₀ s) : Keeps s₀ (setEntryOf s q e') := by
  unfold setEntryOf
  exact h.setQp

protected theorem Keeps.finish {q seq status r0 r1 : Nat} (h : Keeps s₀ s) :
    Keeps s₀ (finish s q seq status r0 r1) := h.completeEntry.fetchPair

protected theorem Keeps.failEntry {q : Nat} {e' : Entry} {code : Nat} (h : Keeps s₀ s) :
    Keeps s₀ (failEntry s q e' code) := h.dmaError.finish

protected theorem Keeps.failRead {q : Nat} {e' : Entry} {code : Nat} (h : Keeps s₀ s) :
    Keeps s₀ (failRead s q e' code) := by
  unfold failRead
  exact h.pairViolation.incSat.evt.finish

protected theorem Keeps.badDoorbell {q : Nat} (h : Keeps s₀ s) : Keeps s₀ (badDoorbell s q) :=
  h.incSat.pairViolation

protected theorem Keeps.execSqDoorbell {fn q v : Nat} (h : Keeps s₀ s) :
    OutKeeps s₀ (execSqDoorbell fn q v s) :=
  .ite (.next h) (by split; exacts [.next h.vfViolation, .ite (.next h.badDoorbell) (.next h.setQp.fetchPair)])

protected theorem Keeps.releaseCompls {k q : Nat} (h : Keeps s₀ s) : Keeps s₀ (releaseCompls k s q) := by
  induction k generalizing s with
  | zero => exact h
  | succ k ih =>
    unfold releaseCompls
    dsimp only
    split
    exacts [h, .ite h (ih h.setQp.writeCompl)]

protected theorem Keeps.execCqDoorbell {fn q v : Nat} (h : Keeps s₀ s) :
    OutKeeps s₀ (execCqDoorbell fn q v s) :=
  .ite (.next h) <| by
    split
    exacts [.next h.vfViolation, .ite (.next h.badDoorbell) (.next h.setQp.releaseCompls.fetchPair)]

protected theorem Keeps.execNop {q : Nat} (h : Keeps s₀ s) : OutKeeps s₀ (execNop q s) := by
  unfold execNop
  split
  exacts [.next h, .next h.finish]

protected theorem Keeps.hostRead {n a len : Nat} (h : Keeps s₀ s) : Keeps s₀ (hostRead s n a len).2 := by
  unfold hostRead
  split
  · next e => exact (h.jobFetch.snd e).demandRange
  · exact h.jobFetch

protected theorem Keeps.readImage {n a : Nat} (h : Keeps s₀ s) : Keeps s₀ (readImage s n a).2 := by
  unfold readImage
  split
  · next e => exact (h.readPieces.snd e).hostRead
  · next e => exact (h.readPieces.snd e).demandRange
  · exact h.readPieces

protected theorem Keeps.refuseImage {n : Nat} {st : Step} {code : Nat} (h : Keeps s₀ s) :
    Keeps s₀ (refuseImage s n st code) := by
  unfold refuseImage
  exact h.errIn.incSat.endStep

protected theorem Keeps.queueStep {q n : Nat} {e' : Entry} {inp : List T0Fill} (h : Keeps s₀ s) :
    Keeps s₀ (queueStep s q n e' inp) := by
  unfold queueStep
  split
  · next e =>
      exact .ite (h.readImage.snd e).setPart.refuseImage
            (h.readImage.snd e).setPart.setEntryOf.setPart.demandFill
  · next e => exact (h.readImage.snd e).grnFault.refuseImage
  · next e => exact (h.readImage.snd e).lostAccess.finish
  · next e => exact (h.readImage.snd e).grnFault.partFault.finish
  · next e => exact (h.readImage.snd e).uncorrGrain
  · next e => exact h.readImage.snd e

protected theorem Keeps.refuseEntry {q : Nat} {e' : Entry} {code : Nat} (h : Keeps s₀ s) :
    Keeps s₀ (refuseEntry s q e' code) := h.incSat.finish

protected theorem Keeps.execStep {q rd : Nat} (h : Keeps s₀ s) : OutKeeps s₀ (execStep q rd s) := by
  unfold execStep
  split
  · exact .next h
  · exact .ite (.next h) <|
      .ite (.next h.err.refuseEntry) <|
      .ite (.next h.pairViolation.refuseEntry) <|
      .ite (.next h.err.refuseEntry) <|
      .ite (.next h.failRead) (.ite (.next h.fetchHost.err.refuseEntry) (.next h.fetchHost.queueStep))

protected theorem Keeps.execH2d {q rd : Nat} (h : Keeps s₀ s) : OutKeeps s₀ (execH2d q rd s) := by
  unfold execH2d
  split
  · exact .next h
  · next e =>
      exact .ite (.next h.failEntry) <|
        .ite (.next h.demandRange) <|
        .ite (.next h.failRead) <| by
          dsimp only
          split
          · next e => exact .next (h.fetchHost.newTag.putRows.mid e).touchRows.setEntryOf
          · next e => exact .next (h.fetchHost.newTag.putRows.mid e).uncorrGrain.failEntry
          · next e => exact .next (h.fetchHost.newTag.putRows.mid e).failEntry

protected theorem Keeps.execD2h {q : Nat} (h : Keeps s₀ s) : OutKeeps s₀ (execD2h q s) := by
  unfold execD2h
  split
  · exact .next h
  · next e =>
      dsimp only
      split
      · next e => exact .next (h.hostRead.snd e).writeHost.setEntryOf
      · next e => exact .next (h.hostRead.snd e).grnFault.failEntry
      · next e => exact .next (h.hostRead.snd e).lostAccess.failEntry
      · next e => exact .next (h.hostRead.snd e).grnFault.partFault.failEntry
      · next e => exact .next (h.hostRead.snd e).uncorrGrain
      · next e => exact .next (h.hostRead.snd e)

protected theorem Keeps.execH2t {q rd : Nat} (h : Keeps s₀ s) : OutKeeps s₀ (execH2t q rd s) := by
  unfold execH2t
  split
  exacts [.next h, .ite (.next h.failRead) (.next h.fetchHost.soilUnit.toEdge.setEntryOf)]

protected theorem Keeps.execRecvBind {q : Nat} (h : Keeps s₀ s) : OutKeeps s₀ (execRecvBind q s) := by
  unfold execRecvBind
  split
  exacts [.next h, .next h.frame.finish]

protected theorem Keeps.dropBind {n c : Nat} (h : Keeps s₀ s) : Keeps s₀ (dropBind s n c) := h.frame

protected theorem Keeps.execRecvUnbind {q : Nat} (h : Keeps s₀ s) : OutKeeps s₀ (execRecvUnbind q s) := by
  unfold execRecvUnbind
  split
  exacts [.next h, .ite (.next h.dropBind.finish) (.next h.frame.setEntryOf)]

protected theorem Keeps.execDmaTransferDone {q seq : Nat} (h : Keeps s₀ s) :
    OutKeeps s₀ (execDmaTransferDone q seq s) := by
  unfold execDmaTransferDone
  dsimp only
  split
  exacts [.next h, .ite (.next h) (.ite (.next h.failEntry) (.next (.finish (.ite h.dropBind h))))]

protected theorem Keeps.execHostReadTimeout {q seq : Nat} (h : Keeps s₀ s) :
    OutKeeps s₀ (execHostReadTimeout q seq s) := by
  unfold execHostReadTimeout
  dsimp only
  split
  · exact .next h
  · exact .ite (h.whenOk h.failRead) <| by
        split
        exacts [.next h, .next h.pairViolation.incSat.evt.endStep.setPart]

protected theorem Keeps.execIrqCoalesceTimeout {q : Nat} (h : Keeps s₀ s) :
    OutKeeps s₀ (execIrqCoalesceTimeout q s) := by
  unfold execIrqCoalesceTimeout
  exact h.whenOk h.qpIrq

protected theorem Keeps.onPair {fn q : Nat} {k : Nat → Qp → State} (h : Keeps s₀ s)
    (hk : ∀ x0 x1, Keeps s₀ (k x0 x1)) :
    OutKeeps s₀ (onPair s fn q k) := .ite (.next h) (by split; exacts [.next h.vfViolation, .next (hk _ _)])

protected theorem Keeps.execQpEnable {fn q : Nat} (h : Keeps s₀ s) : OutKeeps s₀ (execQpEnable fn q s) :=
  h.onPair fun _ _ => .ite h h.setQp

protected theorem Keeps.execQpDisable {fn q : Nat} (h : Keeps s₀ s) : OutKeeps s₀ (execQpDisable fn q s) :=
  h.onPair fun _ _ => .ite h.setQp h

protected theorem Keeps.execQpDrainDone {q : Nat} (h : Keeps s₀ s) : OutKeeps s₀ (execQpDrainDone q s) := by
  unfold execQpDrainDone
  exact h.whenOk h.setQp

protected theorem Keeps.execQpQuarantine {q : Nat} (h : Keeps s₀ s) : OutKeeps s₀ (execQpQuarantine q s) := by
  unfold execQpQuarantine
  exact h.whenOk h.setQp.incSat.evt.err

protected theorem Keeps.execQpUnquarantine {fn q : Nat} (h : Keeps s₀ s) :
    OutKeeps s₀ (execQpUnquarantine fn q s) := h.onPair fun _ _ => .ite h.setQp h

protected theorem Keeps.requestReset {n : Nat} (h : Keeps s₀ s) : Keeps s₀ (requestReset s n) := h.setPart

protected theorem Keeps.resetSpan {lo hi : Nat} (h : Keeps s₀ s) : Keeps s₀ (resetSpan s lo hi) := h.frame

protected theorem Keeps.pfReset (h : Keeps s₀ s) : Keeps s₀ (pfReset s) := by
  unfold pfReset
  exact ((h.foldl fun _ _ h1 => h1.requestReset).frame.foldl fun _ _ h1 => h1.resetSpan).resetSpan.resetSpan.evt

protected theorem Keeps.execPfFlr (h : Keeps s₀ s) : OutKeeps s₀ (execPfFlr s) := .next h.pfReset

protected theorem Keeps.execVfFlr {n : Nat} (h : Keeps s₀ s) : OutKeeps s₀ (execVfFlr n s) :=
  .ite (.next h) (.next h.requestReset.frame.evt)

protected theorem Keeps.execHotReset (h : Keeps s₀ s) : OutKeeps s₀ (execHotReset s) := .next h.pfReset.frame

protected theorem Keeps.barError (h : Keeps s₀ s) : Keeps s₀ (barError s) := h.err

protected theorem Keeps.barAnswer {bs : List Byte} (h : Keeps s₀ s) : Keeps s₀ (barAnswer s bs) := h.frame

protected theorem Keeps.physRead {a n : Nat} (h : Keeps s₀ s) : Keeps s₀ (physRead s a n) := by
  unfold physRead
  split
  · next e => exact (h.t1Read.snd e).barAnswer
  · next e => exact ((h.t1Read.snd e).barError.foldl fun _ _ h1 => h1.ueOwner).barAnswer

protected theorem Keeps.execBar2Read {fn off n : Nat} (h : Keeps s₀ s) :
    OutKeeps s₀ (execBar2Read fn off n s) :=
  .ite (.next h) <| by
    split
    · exact .next h.barAnswer
    · exact .ite .fault (.next h.physRead)
    · next e =>
        split
        · next e => exact .next (h.hostRead.snd e).barAnswer
        · next e => exact .next (h.hostRead.snd e)
        · next e => exact .next (h.hostRead.snd e)
        · next e => exact .next (h.hostRead.snd e).barError.uncorrGrain.barAnswer
        · next e => exact .next (h.hostRead.snd e).barError.barAnswer

protected theorem Keeps.dropBuffers {a n : Nat} (h : Keeps s₀ s) : Keeps s₀ (dropBuffers s a n) := by
  unfold dropBuffers
  exact h.frame

protected theorem Keeps.physWrite {a : Nat} {bs : List Byte} (h : Keeps s₀ s) : Keeps s₀ (physWrite s a bs) := by
  unfold physWrite
  dsimp only
  split
  · next e => exact Keeps.snd (.t1Write (.ite h.dropBuffers h)) e
  · next e => exact (Keeps.snd (.t1Write (.ite h.dropBuffers h)) e).barError.foldl fun _ _ h1 => h1.ueOwner

protected theorem Keeps.execBar2Write {fn off : Nat} {bs : List Byte} {poisoned : Bool} (h : Keeps s₀ s) :
    OutKeeps s₀ (execBar2Write fn off bs poisoned s) :=
  .ite (.next h) <|
  .ite (.next h.hostViolation) <| by
    split
    · exact .next h
    · exact .ite .fault (.next h.physWrite)
    · next e =>
        exact .ite (.next h.demandRange) <| by
            dsimp only
            split
            · next e => exact .next (h.newTag.putRows.mid e).touchRows
            · next e => exact .next (h.newTag.putRows.mid e).barError.uncorrGrain
            · next e => exact .next (h.newTag.putRows.mid e).barError

protected theorem Keeps.execVfEnable {n : Nat} (h : Keeps s₀ s) : OutKeeps s₀ (execVfEnable n s) :=
  .next h.frame

protected theorem Keeps.sendPending {fn : Nat} (h : Keeps s₀ s) : Keeps s₀ (sendPending s fn) :=
  h.foldl fun _ _ h1 => h1.frame.msixSend

protected theorem Keeps.execD3hot {fn : Nat} {enter : Bool} (h : Keeps s₀ s) :
    OutKeeps s₀ (execD3hot fn enter s) :=
  .ite (.next h) (.ite (.next h.frame) (.next h.frame.sendPending.fetchAll))

protected theorem Keeps.execMsixVectorUnmask {fn v addr data : Nat} (h : Keeps s₀ s) :
    OutKeeps s₀ (execMsixVectorUnmask fn v addr data s) := by
  unfold execMsixVectorUnmask
  exact .ite (.next h) (.next h.frame.sendPending)

protected theorem Keeps.done (h : Keeps s₀ s) : Keeps s₀ (done s).st := h

protected theorem Keeps.refuse {code : Nat} (h : Keeps s₀ s) : Keeps s₀ (refuse s code).st := h

protected theorem Keeps.mboxDone (h : Keeps s₀ s) : Keeps s₀ (mboxDone s) := by
  unfold mboxDone
  exact .ite h.evt.irqRise h.evt

protected theorem Keeps.respond {code : Nat} {res : List Byte} (h : Keeps s₀ s) :
    Keeps s₀ (respond s code res) := by
  unfold respond
  exact .mboxDone (.incSat (.frame (.setRegN (.setRegs (.ite h h.err)))))

protected theorem Keeps.mailbox {opc n : Nat} {rsv : List Nat} {req : List Byte} {k : State → MboxAns}
    (h : Keeps s₀ s) (hk : ∀ v, Keeps s₀ v → Keeps s₀ (k v).st) :
    OutKeeps s₀ (mailbox s opc n rsv req k) :=
  .ite (.next h) <|
  .ite (.next h.hostViolation) <|
  .ite (.next h.setRegs.setRegN.respond) <|
  .next (.ite (hk _ h.setRegs.setRegN) (hk _ h.setRegs.setRegN).respond)

protected theorem Keeps.onPart {req : List Byte} {ok : List PartState} {k : Nat → Part → MboxAns}
    (h : Keeps s₀ s) (hk : ∀ x0 x1, Keeps s₀ (k x0 x1).st) :
    Keeps s₀ (onPart req ok s k).st := by
  unfold onPart
  exact .iteMbox h.refuse (.iteMbox (hk _ _) h.refuse)

protected theorem Keeps.writeRecord {n : Nat} {p : Part} (h : Keeps s₀ s) : Keeps s₀ (writeRecord s n p) := by
  unfold writeRecord
  exact (h.foldl fun _ _ h1 => h1.setPair.assignFrame.quotaWrite).setRegN.setRegN

protected theorem Keeps.execPartSet {req : List Byte} (h : Keeps s₀ s) : OutKeeps s₀ (execPartSet req s) :=
  h.mailbox fun _ h1 => h1.onPart fun _ _ => .iteMbox h1.refuse (.iteMbox h1.refuse h1.writeRecord.setPart.done)

protected theorem Keeps.freePart {n : Nat} (h : Keeps s₀ s) : Keeps s₀ (freePart s n) := by
  unfold freePart
  exact .frame (.setLeases (.foldl (.ite h.grnFault h) fun _ _ h1 => h1.releasePage))

protected theorem Keeps.execPartFree {req : List Byte} (h : Keeps s₀ s) : OutKeeps s₀ (execPartFree req s) :=
  h.mailbox fun _ h1 => h1.onPart fun _ _ => h1.freePart.setPart.done

protected theorem Keeps.setStamp {tag e' : Nat} (h : Keeps s₀ s) : Keeps s₀ (setStamp s tag e') := h.frame

protected theorem Keeps.execJobOpen {req : List Byte} (h : Keeps s₀ s) : OutKeeps s₀ (execJobOpen req s) :=
  h.mailbox fun _ h1 => h1.onPart fun _ _ => .iteMbox h1.refuse h1.setStamp.setPart.done

protected theorem Keeps.execJobEpoch {req : List Byte} (h : Keeps s₀ s) : OutKeeps s₀ (execJobEpoch req s) :=
  h.mailbox fun _ h1 => h1.onPart fun _ _ => .iteMbox h1.refuse (.iteMbox h1.refuse h1.setStamp.setPart.done)

protected theorem Keeps.execPartStop {req : List Byte} (h : Keeps s₀ s) : OutKeeps s₀ (execPartStop req s) :=
  h.mailbox fun _ h1 => h1.onPart fun _ _ => h1.setPart.requestStop.done

protected theorem Keeps.execPartResume {req : List Byte} (h : Keeps s₀ s) :
    OutKeeps s₀ (execPartResume req s) := h.mailbox fun _ h1 => h1.onPart fun _ _ => h1.setPart.maybeResume.done

protected theorem Keeps.execPartReset {req : List Byte} (h : Keeps s₀ s) : OutKeeps s₀ (execPartReset req s) :=
  h.mailbox fun _ h1 => h1.onPart fun _ _ => h1.setPart.done

protected theorem Keeps.execJobClose {req : List Byte} (h : Keeps s₀ s) : OutKeeps s₀ (execJobClose req s) :=
  h.mailbox fun _ h1 => h1.onPart fun _ _ => h1.setStamp.setPart.done

protected theorem Keeps.execQuiesce {req : List Byte} (h : Keeps s₀ s) : OutKeeps s₀ (execQuiesce req s) :=
  h.mailbox fun _ h1 => .iteMbox h1.refuse h1

protected theorem Keeps.execJobRelease {req : List Byte} (h : Keeps s₀ s) :
    OutKeeps s₀ (execJobRelease req s) :=
  h.mailbox fun _ h1 => h1.onPart fun _ _ => .iteMbox h1.refuse h1.setStamp.setPart.done

protected theorem Keeps.execSetQuota {req : List Byte} (h : Keeps s₀ s) : OutKeeps s₀ (execSetQuota req s) :=
  h.mailbox <| fun _ h1 =>
    h1.onPart <| fun _ _ =>
      .iteMbox h1.refuse <|
      .iteMbox h1.refuse <|
      .done (.ite h1.setPart.quotaWrite.quotaWrite.takeQuotas h1.setPart.quotaWrite.quotaWrite)

protected theorem Keeps.execSetAllot {req : List Byte} (h : Keeps s₀ s) : OutKeeps s₀ (execSetAllot req s) :=
  h.mailbox fun _ h1 => h1.writeLimit.writeLimit.done

protected theorem Keeps.lendFrames {d stamp : Nat} {fs : List Nat} (h : Keeps s₀ s) :
    Keeps s₀ (lendFrames s d stamp fs) := by
  unfold lendFrames
  exact .ite h.frame.setRegN.setRegN h.frame.setRegN.setRegN.setStamp

protected theorem Keeps.execLend {req : List Byte} {frames : List Nat} (h : Keeps s₀ s) :
    OutKeeps s₀ (execLend req frames s) := by
  unfold execLend
  exact .ite (.next h) (h.mailbox fun _ h1 => .iteMbox h1.refuse h1.lendFrames)

protected theorem Keeps.execLendRelease {req : List Byte} (h : Keeps s₀ s) :
    OutKeeps s₀ (execLendRelease req s) := by
  unfold execLendRelease
  exact h.mailbox <| fun _ h1 =>
      .iteMbox h1.refuse <|
      .done (.ite h1.setRegN.setRegN.setRegN.setRegN.frame h1.setRegN.setRegN.setRegN.setRegN.frame.setStamp)

protected theorem Keeps.execLeaseGrant {req : List Byte} (h : Keeps s₀ s) :
    OutKeeps s₀ (execLeaseGrant req s) := by
  unfold execLeaseGrant
  exact h.mailbox <| fun _ h1 =>
      h1.onPart fun _ _ => .iteMbox h1.refuse (.iteMbox h1.refuse h1.frame.setLeases.grnPump.done)

protected theorem Keeps.vacate {l : Lease} (h : Keeps s₀ s) : Keeps s₀ (vacate s l) := by
  unfold vacate
  split
  exacts [h, .ite (h.foldl fun _ _ h1 => .ite h1.startMigration h1) (.ite h h.loseCopies)]

protected theorem Keeps.execLeaseRecall {req : List Byte} (h : Keeps s₀ s) :
    OutKeeps s₀ (execLeaseRecall req s) := by
  unfold execLeaseRecall
  exact h.mailbox <| fun _ h1 =>
      h1.onPart fun _ _ => .iteMbox h1.refuse (h1.frame.setLeases.foldl fun _ _ h2 => h2.vacate).done

protected theorem Keeps.execLeaseRecallDone (h : Keeps s₀ s) : OutKeeps s₀ (execLeaseRecallDone s) := by
  unfold execLeaseRecallDone
  exact .ite (.next h) (.ite (.next (h.foldl fun _ _ h1 => h1.vacate)) (.next h.setLeases.incSat.respond))

protected theorem Keeps.execLenderDown {req : List Byte} (h : Keeps s₀ s) :
    OutKeeps s₀ (execLenderDown req s) := h.mailbox fun _ h1 => .iteMbox h1.refuse h1.lenderLost.done

protected theorem Keeps.execSnapshot {req : List Byte} (h : Keeps s₀ s) : OutKeeps s₀ (execSnapshot req s) :=
  h.mailbox fun _ h1 => .iteMbox h1.refuse (.iteMbox h1.refuse h1.requestSnap)

protected theorem Keeps.execReadCmap {req : List Byte} (h : Keeps s₀ s) : OutKeeps s₀ (execReadCmap req s) :=
  h.mailbox fun _ h1 => h1

protected theorem Keeps.execReadDigest {req : List Byte} (h : Keeps s₀ s) :
    OutKeeps s₀ (execReadDigest req s) :=
  h.mailbox <| fun _ h1 =>
    .iteMbox h1.refuse <| by
      split
      · next e => exact h1.hostRead.snd e
      · next e => exact (h1.hostRead.snd e).refuse

protected theorem Keeps.hsrClear {n : Nat} (h : Keeps s₀ s) : Keeps s₀ (hsrClear s n) := h.setPart

protected theorem Keeps.execHsrRefresh (h : Keeps s₀ s) : OutKeeps s₀ (execHsrRefresh s) :=
  .ite (.next h) <|
  .next (.ite (h.frame.foldl fun _ _ h1 => h1.hsrClear).writeHost (h.frame.foldl fun _ _ h1 => h1.hsrClear))

end Sys2Proof.Machine

/-! ## What every step keeps: register writes -/

namespace Sys2Proof.Machine

open Sys2Proof Sys2Proof.Config

variable {s₀ s t : State}

protected theorem Keeps.setLatch {req a v : Nat} (h : Keeps s₀ s) : Keeps s₀ (setLatch s req a v) := h.frame

protected theorem Keeps.setStaged {req a v : Nat} (h : Keeps s₀ s) : Keeps s₀ (setStaged s req a v) := h.frame

protected theorem Keeps.readEffect {a : Nat} (h : Keeps s₀ s) : Keeps s₀ (readEffect s a) := by
  unfold readEffect
  exact .ite h (.ite h.setRegN (.ite h.setRegN (.ite h.setRegN h)))

protected theorem Keeps.readReg {req a : Nat} (h : Keeps s₀ s) : Keeps s₀ (readReg s req a).2 := by
  unfold readReg
  exact .iteSnd (by split <;> exact h) (.readEffect (.ite h.setLatch h))

protected theorem Keeps.clearPage {p : Nat} (h : Keeps s₀ s) : Keeps s₀ (clearPage s p) := by
  unfold clearPage
  exact h.frame.notePages

protected theorem Keeps.clearThr {u : Nat} (h : Keeps s₀ s) : Keeps s₀ (clearThr s u) := by
  unfold clearThr
  exact h.frame

protected theorem Keeps.softResetPage {p : Nat} (h : Keeps s₀ s) : Keeps s₀ (softResetPage s p) := by
  unfold softResetPage
  exact .ite h (.ite (.ite h (.ite h.err h.clearPage)) (.ite (.ite h.err h.clearThr.clearPage) h.clearPage))

protected theorem Keeps.execSoftReset {req page : Nat} (h : Keeps s₀ s) :
    OutKeeps s₀ (execSoftReset req page s) :=
  .ite (.ite (.next h) (.ite (.next h.vfViolation) (.next h.clearPage))) (h.guardWrite (.next h.softResetPage))

protected theorem Keeps.eptDataWrite {a v : Nat} (h : Keeps s₀ s) : Keeps s₀ (eptDataWrite s a v) :=
  h.frame.setRegN

protected theorem OutKeeps.chain {o : Out} {k : State → Out} (h : OutKeeps s₀ o)
    (hk : ∀ s, Keeps s₀ s → OutKeeps s₀ (k s)) : OutKeeps s₀ (chain o k) := by
  cases o with
  | next s => exact hk s h.out
  | fault _ => exact .fault
  | refused _ => exact .refused

protected theorem Keeps.plainWrite {a v : Nat} (h : Keeps s₀ s) : Keeps s₀ (plainWrite s a v) := by
  unfold plainWrite
  exact h.setRegN

protected theorem Keeps.ctrlWrite {p v : Nat} (h : Keeps s₀ s) : OutKeeps s₀ (ctrlWrite s p v) := by
  unfold ctrlWrite
  exact OutKeeps.chain (.ite (.next h.setRegN) (.ite h.setRegN.execFreezeSet h.setRegN.execFreezeClear)) <| fun _ h1 =>
      .next (.ite h1.softResetPage h1)

protected theorem Keeps.commonWrite {p o v : Nat} (h : Keeps s₀ s) : OutKeeps s₀ (commonWrite s p o v) := by
  unfold commonWrite
  exact .ite h.ctrlWrite (.ite (.next h.setRegN) (.ite h.execEvtPendClear (.next h)))

protected theorem Keeps.pickFrame {die : Nat} {avoid : List Nat} (h : Keeps s₀ s) :
    Keeps s₀ (pickFrame s die avoid).2 := by
  unfold pickFrame
  exact h.freshFree

protected theorem Keeps.pickFrames {k die : Nat} {l : List Nat} (h : Keeps s₀ s) :
    Keeps s₀ (pickFrames k s die l).2 := by
  induction k generalizing s l with
  | zero => exact h
  | succ k ih => exact ih h.pickFrame

protected theorem Keeps.mapCmdWrite {die v : Nat} (h : Keeps s₀ s) : OutKeeps s₀ (mapCmdWrite s die v) := by
  unfold mapCmdWrite
  exact .ite h.pickFrame.execMap (.ite h.execUnmap (.next h))

protected theorem Keeps.mailboxCmd {r : List Byte} (h : Keeps s₀ s) : OutKeeps s₀ (mailboxCmd s r) := by
  unfold mailboxCmd
  split
  · exact h.execPartSet
  · exact h.execPartFree
  · exact h.execJobOpen
  · exact h.execJobEpoch
  · exact h.execPartStop
  · exact h.execPartResume
  · exact h.execPartReset
  · exact h.execJobClose
  · exact h.execQuiesce
  · exact h.execJobRelease
  · exact h.execSetQuota
  · exact h.execSetAllot
  · exact h.pickFrames.execLend
  · exact h.execLendRelease
  · exact h.execLeaseGrant
  · exact h.execLeaseRecall
  · exact h.execLenderDown
  · exact h.execSnapshot
  · exact h.execReadCmap
  · exact h.execReadDigest
  · exact h.mailbox fun _ h1 => h1

protected theorem Keeps.mboxWrite {v : Nat} (h : Keeps s₀ s) : OutKeeps s₀ (mboxWrite s v) := by
  unfold mboxWrite
  exact h.mailboxCmd

protected theorem Keeps.qpCfgWrite {q : Nat} {f : Qp → Qp} (h : Keeps s₀ s) : Keeps s₀ (qpCfgWrite s q f) := by
  unfold qpCfgWrite
  exact .ite h.err h.setQp

protected theorem Keeps.qpWrite {fn q o v : Nat} (h : Keeps s₀ s) : OutKeeps s₀ (qpWrite s fn q o v) := by
  unfold qpWrite
  split
  · exact .next (.ite h h.vfViolation)
  · exact .ite (.next h.qpCfgWrite) <|
      .ite (.next h.setQp) <|
      .ite
          (by
            split
            exacts [h.execQpEnable, h.execQpDisable, h.execQpUnquarantine, .next h]) (.next h)

protected theorem Keeps.qpBaseWrite {fn q o v : Nat} (h : Keeps s₀ s) : Keeps s₀ (qpBaseWrite s fn q o v) := by
  unfold qpBaseWrite
  split
  exacts [.ite h h.vfViolation, h.qpCfgWrite]

protected theorem Keeps.ringCfgWrite {o : Nat} {f : State → State} (h : Keeps s₀ s)
    (hf : ∀ v, Keeps s₀ v → Keeps s₀ (f v)) :
    Keeps s₀ (ringCfgWrite s o f) := .ite h.err (hf _ h)

protected theorem Keeps.pairWrite {a v : Nat} (h : Keeps s₀ s) : Keeps s₀ (pairWrite s a v) := by
  unfold pairWrite
  exact .ite h.plainWrite.plainWrite.assignFrame <|
    .ite h.plainWrite.plainWrite.assignFrame <|
    .ite h.plainWrite.plainWrite.assignFrame <|
    .ite (.ite h.plainWrite.plainWrite h.plainWrite.plainWrite.assignFrame) <|
    .ite h.qpBaseWrite (.ite (h.ringCfgWrite fun _ h1 => h1.plainWrite.plainWrite) h.plainWrite.plainWrite)

protected theorem Keeps.portCtrlWrite {p v : Nat} (h : Keeps s₀ s) : OutKeeps s₀ (portCtrlWrite s p v) := by
  unfold portCtrlWrite
  exact OutKeeps.chain
        (OutKeeps.chain
            (.ite (.ite (Keeps.execPortEnable (.ite h.setRegN h)) (.next (.ite h.setRegN h))) <|
            .ite (.next (.ite h.setRegN h)) (Keeps.execPortDisable (.ite h.setRegN h)))
            (fun _ h1 => .ite h1.execPortRetrain (.next h1)))
        (fun _ h1 => .ite h1.execPortUnquarantine (.next h1))

protected theorem Keeps.bootResetWrite {v : Nat} (h : Keeps s₀ s) : OutKeeps s₀ (bootResetWrite s v) := by
  unfold bootResetWrite
  dsimp only
  split
  exacts [h.execBootResetRouterDie, h.execBootResetComputeDie, h.execBootResetComputeDie, h.execBootResetPartition,
    h.execBootResetPartition, h.execBootResetPartition, h.execBootResetPartition, .next (.ite h.bootRefuse h)]

protected theorem Keeps.bootCmdWrite {v : Nat} (h : Keeps s₀ s) : OutKeeps s₀ (bootCmdWrite s v) := by
  unfold bootCmdWrite
  split
  exacts [h.execLoad, h.execBroadcastImage, h.execAttest, .next h]

protected theorem Keeps.snapWrite {v : Nat} (h : Keeps s₀ s) : OutKeeps s₀ (snapWrite s v) := by
  unfold snapWrite
  dsimp only
  split
  exacts [h.setRegN.execSnapAt, h.setRegN.execSnapNow, h.setRegN.execSnapCancel, .next h.setRegN]

protected theorem Keeps.eptCtrlWrite {v : Nat} (h : Keeps s₀ s) : OutKeeps s₀ (eptCtrlWrite s v) :=
  .ite h.execEptBulkLoad (.next h.setRegN)

protected theorem Keeps.fabIdWrite {a v : Nat} (h : Keeps s₀ s) : Keeps s₀ (fabIdWrite s a v) := by
  unfold fabIdWrite
  exact h.frame.plainWrite

protected theorem Keeps.cmapRingWrite {v : Nat} (h : Keeps s₀ s) : Keeps s₀ (cmapRingWrite s v) := by
  unfold cmapRingWrite
  exact .ite h.plainWrite h.plainWrite.assignFrame

protected theorem Keeps.tbCtrlWrite {v : Nat} (h : Keeps s₀ s) : OutKeeps s₀ (tbCtrlWrite s v) := by
  unfold tbCtrlWrite
  exact .ite h.setRegN.setParent.execTbSet (.next h.setRegN.setParent)

protected theorem Keeps.blockWrite {t i a v : Nat} (h : Keeps s₀ s) : OutKeeps s₀ (blockWrite s t i a v) := by
  unfold blockWrite
  dsimp only
  split
  · exact .ite h.execDetModeWrite (.ite h.execDigestCfgWrite (.next h))
  · exact .ite h.execGrnQuotaWrite (.ite h.mapCmdWrite (.next h.plainWrite))
  · exact .ite h.eptCtrlWrite (.ite (.next h.eptDataWrite) (.ite h.execEptEntryWrite (.next h.plainWrite)))
  · exact .ite (.next h.setRegN) (.ite h.execCommEntryWrite (.next h.plainWrite))
  · exact .ite (.next h.fabIdWrite) (.ite (.next h.cmapRingWrite) (.next h.plainWrite))
  · exact .ite h.portCtrlWrite (.next h)
  · exact .ite h.execPartModeWrite (.ite (.next h.setRegN) (.ite h.execOrtEntryWrite (.next h.plainWrite)))
  · exact .ite h.execAllotWrite (.ite h.execIlimitWrite (.ite h.execPaceClear (.next h.plainWrite)))
  · exact .ite h.qpWrite (.ite h.mboxWrite (.next h.plainWrite))
  · exact .ite h.tbCtrlWrite (.next h.plainWrite)
  · exact .ite h.bootCmdWrite (.ite h.bootResetWrite (.next h.plainWrite))
  · exact .ite h.snapWrite (.ite (.next (h.ringCfgWrite fun _ h1 => h1.plainWrite)) (.next h.plainWrite))
  · exact .next h

protected theorem Keeps.halfWrite {req a v : Nat} (h : Keeps s₀ s) : OutKeeps s₀ (halfWrite s req a v) := by
  unfold halfWrite
  exact .ite (.next (.ite h.setStaged.setRegN h.setStaged)) <|
    .ite h.setRegN.execOtabEntryWrite (.next h.pairWrite)

protected theorem Keeps.writeReg {req a v : Nat} (h : Keeps s₀ s) : OutKeeps s₀ (writeReg s req a v) := by
  unfold writeReg
  exact .ite (.next h) <|
    h.guardWrite (.ite (.next h) (.ite h.commonWrite (.ite (.next h) (.ite h.halfWrite h.blockWrite))))

protected theorem Keeps.vfReadReg {n a : Nat} (h : Keeps s₀ s) : Keeps s₀ (vfReadReg s n a).2 := by
  unfold vfReadReg
  extract_lets o lo latching
  have h₁ : Keeps s₀ latching := .ite h.setLatch h
  refine .iteSnd h.vfViolation.result (.iteSnd h.vfViolation.result (.iteSnd ?_ (.result (.ite h₁.setRegN h₁))))
  split
  exacts [h, h]

protected theorem Keeps.vfWriteReg {n a v : Nat} (h : Keeps s₀ s) : OutKeeps s₀ (vfWriteReg s n a v) := by
  unfold vfWriteReg
  exact .ite (.next h.vfViolation) <|
    .ite (.next h) <|
    .ite (.next (.ite h.setRegN.clearPage h.setRegN)) <|
    .ite (.next h.setRegN) <|
    .ite (.next h.setRegN.setRegN) <|
    .ite (.next h.setRegN) <|
    .ite (.next h.setStaged) <|
    .ite (.next h.qpBaseWrite) (.ite (.next h.setPair) (.ite (.next h.setRegN) (.ite h.qpWrite (.next h))))

protected theorem Keeps.readBy {req a : Nat} (h : Keeps s₀ s) : Keeps s₀ (readBy s req a).2 :=
  .iteSnd h.vfReadReg h.readReg

protected theorem Keeps.execLoReadLatch {req addr : Nat} (h : Keeps s₀ s) :
    OutKeeps s₀ (execLoReadLatch req addr s) := .ite (.next h) (.next h.readBy.regAnswer)

protected theorem Keeps.writeBy {req a v : Nat} (h : Keeps s₀ s) : OutKeeps s₀ (writeBy s req a v) :=
  .ite h.vfWriteReg h.writeReg

protected theorem Keeps.execHiWrite {req addr v : Nat} (h : Keeps s₀ s) :
    OutKeeps s₀ (execHiWrite req addr v s) := .ite (.next h) (.ite (.next h) h.writeBy)

protected theorem Keeps.execRegisterWrite {req addr v : Nat} {poisoned : Bool} (h : Keeps s₀ s) :
    OutKeeps s₀ (execRegisterWrite req addr v poisoned s) :=
  .ite (.next h) (.ite (.next h.hostViolation) h.writeBy)

end Sys2Proof.Machine

/-! ## What every step keeps: memory semantics at home, transfers and vectors -/

namespace Sys2Proof.Machine

open Sys2Proof Sys2Proof.Config

variable {s₀ s t : State}

protected theorem Keeps.memTaken {p : Pkt} (h : Keeps s₀ s) : Keeps s₀ (memTaken s p) := h.frame

protected theorem Keeps.atptEntry {a : Nat} {held : Bool} (h : Keeps s₀ s) : Keeps s₀ (atptEntry s a held).2 :=
  .iteSnd h <| by
    dsimp only
    split
    · next e => exact h.incSat.assignFrame.t1Read.snd e
    · next e => exact (h.incSat.assignFrame.t1Read.snd e).err

protected theorem Keeps.atptWalk {p : Pkt} {m : MemHdr} (h : Keeps s₀ s) : Keeps s₀ (atptWalk s p m).2 := by
  unfold atptWalk
  dsimp only
  split
  · next e => exact h.atptEntry.snd e
  · next e =>
    have h₁ := h.atptEntry.snd e
    refine .iteSnd h₁ ?_
    split
    · next e₁ => exact h₁.frame.atptEntry.snd e₁
    · next e₁ =>
      have h₂ := h₁.frame.atptEntry.snd e₁
      refine .iteSnd h₂ ?_
      split
      · next e₂ => exact h₂.frame.atptEntry.snd e₂
      · next e₂ =>
        have h₃ := h₂.frame.atptEntry.snd e₂
        exact .iteSnd h₃ h₃.frame

protected theorem Keeps.translate {p : Pkt} {m : MemHdr} (h : Keeps s₀ s) : Keeps s₀ (translate s p m).2 :=
  .iteSnd h (.iteSnd h.atptWalk (.iteSnd (.iteSnd h h) (.iteSnd h h)))

protected theorem Keeps.memRefuse {p : Pkt} {st : Nat} (h : Keeps s₀ s) : Keeps s₀ (memRefuse s p st) := by
  unfold memRefuse
  exact h.incSat.evt.faultInfo.memTaken.noteId.send

protected theorem Keeps.memFail {p : Pkt} {st : Nat} (h : Keeps s₀ s) : Keeps s₀ (memFail s p st) :=
  h.memTaken.noteId.send

protected theorem Keeps.memDone {p : Pkt} {bs : List Byte} (h : Keeps s₀ s) : Keeps s₀ (memDone s p bs) := by
  unfold memDone
  exact .ite h.memTaken.inc64.noteId.send h.memTaken.inc64.sendMarked

protected theorem Keeps.memLater {part acks tag : Nat} {ps : List (Pkt × List Byte)} (h : Keeps s₀ s) :
    Keeps s₀ (memLater s part acks tag ps) := h.foldl fun _ _ h1 => h1.memTaken.noteId.inc64.frame

protected theorem Keeps.performJob {part a : Nat} {m : MemHdr} {ps : List Pkt} {f : List Byte → List Byte}
    (h : Keeps s₀ s) :
    OutKeeps s₀ (performJob s part a m ps f) := by
  unfold performJob
  extract_lets la n each lost
  have everywhere {s : State} {g : State → Pkt → State} (h : Keeps s₀ s) (hg : ∀ s p, Keeps s₀ s → Keeps s₀ (g s p)) :
      Keeps s₀ (each s g) := h.foldl hg
  have failed {s : State} {code : Nat} (h : Keeps s₀ s) : OutKeeps s₀ (lost s code) :=
    .next ((everywhere (.grnFault (.ite h.incSat h)) fun _ _ h => h.memFail).partFault)
  split <;> rename_i e <;> have h₁ := h.jobFetch.snd e
  case h_1 =>
    dsimp only
    refine .ite (.next (everywhere h₁.inc64 fun _ _ h => h.memDone)) ?_
    split <;> rename_i e <;> have h₂ := h₁.inc64.newTag.putRows.mid e
    exacts [.next (everywhere h₂ fun _ _ h => h.memDone), .next h₂.memLater,
      .next (everywhere h₂ fun _ _ h => h.memRefuse), .next (everywhere h₂ fun _ _ h => h.memFail).uncorrGrain, .next h₂]
  case h_2 => exact .next (everywhere h₁ fun _ _ h => h.memFail).uncorrGrain
  case h_3 | h_4 | h_5 => exact failed h₁
  case h_6 => exact .next h₁.demandRange
  case h_7 => exact .next h₁

protected theorem Keeps.performT1 {a : Nat} {m : MemHdr} {ps : List Pkt} {f : List Byte → List Byte}
    (h : Keeps s₀ s) :
    OutKeeps s₀ (performT1 s a m ps f) := by
  unfold performT1
  exact .ite (.next (h.freshFree.foldl fun _ _ h1 => h1.memRefuse)) <| by
      dsimp only
      split
      · next e => exact .next (((h.t1Read.snd e).foldl fun _ _ h1 => h1.memFail).foldl fun _ _ h1 => h1.ueOwner)
      · next e =>
          exact .ite (.next ((h.t1Read.snd e).inc64.foldl fun _ _ h1 => h1.memDone)) <|
            .next ((h.t1Read.snd e).inc64.t1Write.foldl fun _ _ h1 => h1.memDone)

protected theorem Keeps.performSram {part tile a : Nat} {m : MemHdr} {p : Pkt} (h : Keeps s₀ s) :
    OutKeeps s₀ (performSram s part tile a m p) :=
  .ite (.next h.memFail) (.next h.memTaken.noteId.soilUnit.toEdge)

protected theorem Keeps.performReg {p : Pkt} {m : MemHdr} (h : Keeps s₀ s) : OutKeeps s₀ (performReg s p m) := by
  unfold performReg
  exact .ite (.next h.memRefuse) <|
    .ite (.next h.memRefuse) <|
    .ite (.ite (.next h.readReg.memDone) (.next h.readReg.readReg.memDone)) <|
    h.writeReg.chain fun _ h1 => .ite (.next h1.memDone) (h1.writeReg.chain fun _ h2 => .next h2.memDone)

protected theorem Keeps.memPerform {p : Pkt} {merge : Nat} (h : Keeps s₀ s) :
    OutKeeps s₀ (memPerform s p merge) := by
  unfold memPerform
  exact .ite (.next h.memRefuse) <|
    .ite h.performReg <| by
      split
      · next e => exact .next (h.translate.snd e).memRefuse
      · next e => exact (h.translate.snd e).performSram
      · next e =>
          dsimp only
          split
          · exact (h.translate.snd e).performJob.chain fun _ h1 => .next (.ite h1 h1.inc64)
          · exact (h.translate.snd e).performT1.chain fun _ h1 => .next (.ite h1 h1.inc64)
          · exact .next (h.translate.snd e)

protected theorem Keeps.memRequest {f : Pkt → Bool} {merge : Nat} {parityBad : Bool} (h : Keeps s₀ s) :
    OutKeeps s₀ (memRequest s f merge parityBad) := by
  unfold memRequest
  split
  · exact .next h
  · exact .ite (.next h.memTaken.incSat.evt) <| by
        split
        · exact .next h.memTaken.incSat
        · exact .next h.memTaken.incSat.send
        · exact .ite (.next h.memTaken.incSat) h.memPerform

protected theorem Keeps.execMemLoad {parityBad : Bool} (h : Keeps s₀ s) :
    OutKeeps s₀ (execMemLoad parityBad s) := h.memRequest

protected theorem Keeps.execMemStore {parityBad : Bool} (h : Keeps s₀ s) :
    OutKeeps s₀ (execMemStore parityBad s) := h.memRequest

protected theorem Keeps.execMemAdd {merge : Nat} {parityBad : Bool} (h : Keeps s₀ s) :
    OutKeeps s₀ (execMemAdd merge parityBad s) := h.memRequest

protected theorem Keeps.execMemMin {parityBad : Bool} (h : Keeps s₀ s) : OutKeeps s₀ (execMemMin parityBad s) :=
  h.memRequest

protected theorem Keeps.execMemMax {parityBad : Bool} (h : Keeps s₀ s) : OutKeeps s₀ (execMemMax parityBad s) :=
  h.memRequest

protected theorem Keeps.execMemCas {parityBad : Bool} (h : Keeps s₀ s) : OutKeeps s₀ (execMemCas parityBad s) :=
  h.memRequest

protected theorem Keeps.copyBytes {i : Issue} {src dst n : Nat} {f : List Byte → List Byte} (h : Keeps s₀ s) :
    Keeps s₀ (copyBytes s i src dst n f) := by
  unfold copyBytes
  split
  exacts [h.parityPoison, h.writeBuf]

protected theorem Keeps.execCopy {i : Issue} (h : Keeps s₀ s) : OutKeeps s₀ (execCopy i s) :=
  h.issued fun _ h1 => .ite h1.callFault h1.copyBytes

protected theorem Keeps.execTcopy {i : Issue} (h : Keeps s₀ s) : OutKeeps s₀ (execTcopy i s) :=
  h.issued fun _ h1 => .ite h1.callFault (.ite h1.callFault h1.copyBytes)

protected theorem Keeps.execRecv {i : Issue} (h : Keeps s₀ s) : OutKeeps s₀ (execRecv i s) :=
  h.issued fun _ h1 => .ite h1.callFault h1.setFg

protected theorem Keeps.landLines {part dst h' : Nat} {bs : List Byte} (h : Keeps s₀ s) :
    Keeps s₀ (landLines s part dst h' bs) := by
  unfold landLines
  dsimp only
  split
  exacts [h.tilePoison, .ite h.tilePoison h.writeBuf.setFg]

protected theorem Keeps.execSend {i : Issue} (h : Keeps s₀ s) : OutKeeps s₀ (execSend i s) :=
  h.issued <| fun _ h1 =>
    .ite h1.callFault (by split; exacts [h1.parityPoison, .ite h1.tilePoison (.ite h1.landLines h1.toEdge)])

protected theorem Keeps.fillFree {f : Fmt} {r : List (Option Val)} (h : Keeps s₀ s) :
    Keeps s₀ (fillFree s f r).2 := .iteSnd h h.frame

protected theorem Keeps.vecWrite {i : Issue} {df : Fmt} {r : List (Option Val)} (h : Keeps s₀ s) :
    Keeps s₀ (vecWrite s i df r) := by
  unfold vecWrite
  exact h.fillFree.writeBuf.convSat

protected theorem Keeps.vecOp {i : Issue} {k : VecReads} {src dst : Nat → Fmt → Option Fmt}
    {f : State → Ctx → Fmt → List Val → List Val → List Val → List (Option Val)} (h : Keeps s₀ s) :
    Keeps s₀ (vecOp i k src dst f s) := by
  unfold vecOp
  dsimp only
  split
  · exact h.callFault
  · split
    exacts [.ite h.callFault (.ite h.callFault (by split; exacts [h.parityPoison, h.vecWrite])), h.callFault]

protected theorem Keeps.elementwise2 {i : Issue} {fl : Val → Val → Val} {int : Fmt → ℤ → ℤ → Option Val}
    (h : Keeps s₀ s) :
    OutKeeps s₀ (elementwise2 i fl int s) := h.issued fun _ h1 => h1.vecOp

protected theorem Keeps.elementwise1 {i : Issue} {fl : Val → Val} {int : Fmt → ℤ → Option Val} (h : Keeps s₀ s) :
    OutKeeps s₀ (elementwise1 i fl int s) := h.issued fun _ h1 => h1.vecOp

protected theorem Keeps.execVadd {i : Issue} (h : Keeps s₀ s) : OutKeeps s₀ (execVadd i s) := h.elementwise2

protected theorem Keeps.execVsub {i : Issue} (h : Keeps s₀ s) : OutKeeps s₀ (execVsub i s) := h.elementwise2

protected theorem Keeps.execVmul {i : Issue} (h : Keeps s₀ s) : OutKeeps s₀ (execVmul i s) := h.elementwise2

protected theorem Keeps.execVfma {i : Issue} (h : Keeps s₀ s) : OutKeeps s₀ (execVfma i s) :=
  h.issued fun _ h1 => h1.vecOp

protected theorem Keeps.execVmax {i : Issue} (h : Keeps s₀ s) : OutKeeps s₀ (execVmax i s) := h.elementwise2

protected theorem Keeps.execVmin {i : Issue} (h : Keeps s₀ s) : OutKeeps s₀ (execVmin i s) := h.elementwise2

protected theorem Keeps.execVabs {i : Issue} (h : Keeps s₀ s) : OutKeeps s₀ (execVabs i s) := h.elementwise1

protected theorem Keeps.execVneg {i : Issue} (h : Keeps s₀ s) : OutKeeps s₀ (execVneg i s) := h.elementwise1

protected theorem Keeps.execVscale {i : Issue} (h : Keeps s₀ s) : OutKeeps s₀ (execVscale i s) :=
  h.issued fun _ h1 => h1.vecOp

protected theorem Keeps.execVselect {i : Issue} (h : Keeps s₀ s) : OutKeeps s₀ (execVselect i s) :=
  h.issued fun _ h1 => h1.vecOp

protected theorem Keeps.transcendental {i : Issue} {g : Val → Option Val} (h : Keeps s₀ s) :
    OutKeeps s₀ (transcendental i g s) := h.issued fun _ h1 => h1.vecOp

protected theorem Keeps.execVexp {i : Issue} (h : Keeps s₀ s) : OutKeeps s₀ (execVexp i s) := h.transcendental

protected theorem Keeps.execVexp2 {i : Issue} (h : Keeps s₀ s) : OutKeeps s₀ (execVexp2 i s) := h.transcendental

protected theorem Keeps.execVlog2 {i : Issue} (h : Keeps s₀ s) : OutKeeps s₀ (execVlog2 i s) := h.transcendental

protected theorem Keeps.execVsigm {i : Issue} (h : Keeps s₀ s) : OutKeeps s₀ (execVsigm i s) := h.transcendental

protected theorem Keeps.execVtanh {i : Issue} (h : Keeps s₀ s) : OutKeeps s₀ (execVtanh i s) := h.transcendental

protected theorem Keeps.execVrcp {i : Issue} (h : Keeps s₀ s) : OutKeeps s₀ (execVrcp i s) := h.transcendental

protected theorem Keeps.execVrsqrt {i : Issue} (h : Keeps s₀ s) : OutKeeps s₀ (execVrsqrt i s) :=
  h.transcendental

protected theorem Keeps.execVcvt {i : Issue} (h : Keeps s₀ s) : OutKeeps s₀ (execVcvt i s) :=
  h.issued fun _ h1 => h1.vecOp

protected theorem Keeps.execVcvtb {i : Issue} (h : Keeps s₀ s) : OutKeeps s₀ (execVcvtb i s) :=
  h.issued fun _ h1 => h1.vecOp

protected theorem Keeps.cbsReduce {i : Issue} {f : Fmt} {hd ha rows pad : Nat} {pre : Nat → Nat}
    {op : Nat → Nat → Nat} (h : Keeps s₀ s) :
    Keeps s₀ (cbsReduce s i f hd ha rows pad pre op) := by
  unfold cbsReduce
  exact .ite h.tilePoison h.writeBuf

protected theorem Keeps.rowReduce {i : Issue} {pad : Nat} {pre : Nat → Nat} {op : Nat → Nat → Nat}
    (h : Keeps s₀ s) :
    OutKeeps s₀ (rowReduce i pad pre op s) :=
  h.issued <| fun _ h1 => by
    dsimp only
    split
    · exact h1.callFault
    · exact .ite h1.callFault <|
        .ite h1.callFault (by split; exacts [h1.parityPoison, .ite h1.cbsReduce h1.writeBuf])

protected theorem Keeps.execVrsum {i : Issue} (h : Keeps s₀ s) : OutKeeps s₀ (execVrsum i s) := h.rowReduce

protected theorem Keeps.execVrmax {i : Issue} (h : Keeps s₀ s) : OutKeeps s₀ (execVrmax i s) := h.rowReduce

protected theorem Keeps.execVrmin {i : Issue} (h : Keeps s₀ s) : OutKeeps s₀ (execVrmin i s) := h.rowReduce

protected theorem Keeps.execVrnorm2 {i : Issue} (h : Keeps s₀ s) : OutKeeps s₀ (execVrnorm2 i s) := h.rowReduce

end Sys2Proof.Machine

/-! ## What every step keeps: commands, cycles and steps -/

namespace Sys2Proof.Machine

open Sys2Proof Sys2Proof.Config

variable {s₀ s t : State}

protected theorem Keeps.exec {i : Instr} (h : Keeps s₀ s) : OutKeeps s₀ (exec i s) := by
  unfold exec
  split
  exacts [h.execArrivalUnitLanded, h.execWaitRelease, h.execGateSlotDelivery, h.execApass, h.execAload, h.execAos,
    h.execAbed, h.execMmrs, h.execMmag, h.execHusk, h.execExpertLastChunkDone, h.execVadd, h.execVsub, h.execVmul,
    h.execVfma, h.execVmax, h.execVmin, h.execVabs, h.execVneg, h.execVscale, h.execVselect, h.execVexp, h.execVexp2,
    h.execVlog2, h.execVsigm, h.execVtanh, h.execVrcp, h.execVrsqrt, h.execVcvt, h.execVcvtb, h.execVrsum, h.execVrmax,
    h.execVrmin, h.execVrnorm2, h.execChaff, h.execCopy, h.execTcopy, h.execSend, h.execRecv, h.execFill, h.execList,
    h.execStore, h.execStoreComplete, h.execHint, h.execTopk, h.execGtopk, h.execKvsort, h.execSOpen, h.execSPush,
    h.execSFlush, h.execSClose, h.execBiasLoad, h.execRmem, h.execMsgs, h.execThrIngressChunk, h.execThrReturnTransfer,
    h.execDecisionEgress, h.execDispatch, h.execDsend, h.execReturn, h.execEmbag, h.execRowupd, h.execAllreduce,
    h.execReduceScatter, h.execAllgather, h.execBroadcast, h.execAlltoall, h.execAlltoallv, h.execArm, h.execWait,
    h.execWaiti, h.execRel, h.execFence, h.execFenceComplete, h.execSetlc, h.execLoop, h.execJump, h.execJnz,
    h.execCommit, h.execCommitComplete, h.execEnd, h.execStepCommit, h.execContextSaveComplete, h.execQuantumExpiry,
    h.execT0FillComplete, h.execStepAdmit, h.execStepStart, h.execStopTakeEffect, h.execStopComplete,
    h.execResumeTakeEffect, h.execStationaryRefetchDone, h.execFreezeSet, h.execFreezeClear, h.execPoisonHalt,
    h.execRedeliveryComplete, h.execReplayAdmit, h.execReplayRestart, h.execDecisionDrain, h.execContextFetchComplete,
    h.execCountCoalesceExpiry, h.execCountA, h.execCountB, h.execGrantA, h.execGrantB, h.execDataSend,
    h.execDataSegment, h.execReturnSegment, h.execSheafAbort, h.execHeldPayloadTimeout, h.execSpillReadbackComplete,
    h.execDispatchInstanceComplete, h.execEptEntryWrite, h.execEptBulkLoad, h.execEptBulkLoadDone, h.execEmbagCount,
    h.execEmbagWindowGrant, h.execEmbagRowList, h.execPoolRowAccess, h.execEmbagPartial, h.execRowupdContribution,
    h.execMap, h.execUnmap, h.execUnmapComplete, h.execGrainFlip, h.execGrnQuotaWrite, h.execGrainRequest,
    h.execGrainResponse, h.execPerBankRefresh, h.execPatrolScrubSlot, h.execFlitReceive, h.execRetryReq,
    h.execRetryReqRepeat, h.execRetryLimitDown, h.execPortEnable, h.execPortDisable, h.execPortRetrain,
    h.execPortUnquarantine, h.execPortTrainingDone, h.execAlignmentLoss, h.execFlitSilenceTimeout,
    h.execDownBackoffRetrain, h.execQuarantineLimit, h.execPacketInject, h.execPacketReceive, h.execLinkstate,
    h.execCmapSample, h.execCmapIntervalEnd, h.execCmap, h.execCmapPartTimeout, h.execOtabEntryWrite, h.execMemLoad,
    h.execMemStore, h.execMemAdd, h.execMemMin, h.execMemMax, h.execMemCas, h.execMemRsp, h.execE2eTimeout,
    h.execCombineWindowExpiry, h.execMsgPacket, h.execMsgAck, h.execMsgNack, h.execMsgTimeout, h.execOrtEntryWrite,
    h.execPartModeWrite, h.execCommEntryWrite, h.execReserve, h.execGrant, h.execDeny, h.execDecide, h.execDecAck,
    h.execReady, h.execCount, h.execChunk, h.execChunkAck, h.execChunkNak, h.execAbort, h.execChunkTimeout,
    h.execChunkIncompleteTimeout, h.execReserveResendTimeout, h.execDecideResendTimeout, h.execEarlyRecordResend,
    h.execCollTimeout, h.execInstanceComplete, h.execDetModeWrite, h.execDetActiveChange, h.execDigestCfgWrite,
    h.execD2dFlitReceive, h.execD2dRetrain, h.execD2dRetrainDone, h.execRailSample, h.execTempSample,
    h.execGateEvaluation, h.execWindowEnd, h.execAllotWrite, h.execIlimitWrite, h.execPaceClear, h.execEctDataRead,
    h.execIdleTileGate, h.execUngateWave, h.execLoadNoticeEnd, h.execPllLock, h.execPllLockRetry, h.execReferenceLoss,
    h.execTbSet, h.execTbPeriodExpiry, h.execTimeRequest, h.execTimeResponse, h.execTbLockLoss, h.execPerstAssert,
    h.execPerstDeassert, h.execBootResetRouterDie, h.execBootResetComputeDie, h.execBootResetPartition,
    h.execPartitionResetTakeEffect, h.execComputeDieBringupDone, h.execTrainingComplete, h.execT1InitDone, h.execLoad,
    h.execBroadcastImage, h.execBootPacket, h.execBroadcastIncompleteTimeout, h.execImageReceived, h.execAttest,
    h.execTilePowerUpWave, h.execKatComplete, h.execSqDoorbell, h.execQpQuarantine, h.execCqDoorbell, h.execNop,
    h.execStep, h.execH2d, h.execD2h, h.execH2t, h.execRecvBind, h.execRecvUnbind, h.execDmaTransferDone,
    h.execHostReadTimeout, h.execIrqCoalesceTimeout, h.execQpEnable, h.execQpDisable, h.execQpDrainDone,
    h.execQpUnquarantine, h.execPfFlr, h.execVfFlr, h.execHotReset, h.execBar2Read, h.execBar2Write, h.execHsrRefresh,
    h.execPartSet, h.execPartFree, h.execJobOpen, h.execJobEpoch, h.execPartStop, h.execPartResume, h.execPartReset,
    h.execJobClose, h.execQuiesce, h.execJobRelease, h.execSetQuota, h.execSetAllot, h.execLend, h.execLendRelease,
    h.execLeaseGrant, h.execLeaseRecall, h.execLeaseRecallDone, h.execLenderDown, h.execSnapshot, h.execReadCmap,
    h.execReadDigest, h.execSnapAt, h.execSnapNow, h.execSnapCancel, h.execSnapshotTake, h.execEvtPendClear,
    h.execErrCountRead, h.execTpeakRead, h.execIrqHoldoffEnd, h.execLoReadLatch, h.execHiWrite, h.execSoftReset,
    h.execRegisterWrite, h.execVinTurnOn, h.execRailSettled, h.execRailSequenceTimeout, h.execVinTurnOff,
    h.execVinOvervoltage, h.execFaultLatchClear, h.execPcieLinkUp, h.execVfEnable, h.execD3hot, h.execMsixVectorUnmask]

protected theorem Keeps.noteOwned {i : Issue} (h : Keeps s₀ s) : Keeps s₀ (noteOwned s i) := by
  unfold noteOwned
  dsimp only
  split
  exacts [h, .ite h.setTile h]

protected theorem OutKeeps.thenDo {o : Out} {f : State → Out} (h : OutKeeps s₀ o)
    (hf : ∀ s, Keeps s₀ s → OutKeeps s₀ (f s)) : OutKeeps s₀ (thenDo o f) := by
  cases o with
  | next s => exact hf s h.out
  | fault _ => exact .fault
  | refused _ => exact .refused

protected theorem Keeps.runSlot {i : Issue} {c : Option Instr} (h : Keeps s₀ s) : OutKeeps s₀ (runSlot s i c) := by
  unfold runSlot
  split
  exacts [h.exec.thenDo fun _ h1 => .next h1.noteOwned, .next h]

protected theorem Keeps.issueBundle {t : Nat} (h : Keeps s₀ s) : OutKeeps s₀ (issueBundle s t) := by
  unfold issueBundle
  dsimp only
  split
  · exact .next h.parityPoison
  · exact .ite (.next h.callFault) <|
      h.inc64.runSlot.thenDo <| fun _ h1 =>
        h1.runSlot.thenDo <| fun _ h2 =>
          h2.runSlot.thenDo <| fun _ h3 =>
            h3.runSlot.thenDo fun _ h4 => h4.runSlot.thenDo fun _ h5 => .next (.ite h5.setFg h5)

protected theorem Keeps.issueAll (h : Keeps s₀ s) : OutKeeps s₀ (issueAll s) :=
  .foldl (.next h) fun _ _ h1 => h1.thenDo fun _ h2 => .ite h2.issueBundle (.next h2)

protected theorem Keeps.cqFullTick (h : Keeps s₀ s) : Keeps s₀ (cqFullTick s) := .ite h.incSat h

protected theorem Keeps.tclkEdge (h : Keeps s₀ s) : Keeps s₀ (tclkEdge s) := .ite h.clock h.clock.cqFullTick

protected theorem Keeps.causeTick {t c : Nat} (h : Keeps s₀ s) : Keeps s₀ (causeTick s t c) := by
  unfold causeTick
  exact h.setPart.inc64

protected theorem Keeps.stallTick {t : Nat} (h : Keeps s₀ s) : Keeps s₀ (stallTick s t) := by
  unfold stallTick
  exact .ite h <|
    .ite (.ite h h.inc64.causeTick) (.ite (by split; exacts [h.inc64.causeTick, h]) (.ite h h.setTile.inc64))

protected theorem Keeps.dieWait {d : Nat} {l : List Nat} (h : Keeps s₀ s) : Keeps s₀ (dieWait s d l) := by
  unfold dieWait
  split
  exacts [h.inc64.inc64, h]

protected theorem Keeps.admitTick {n : Nat} {st : Step} (h : Keeps s₀ s) : Keeps s₀ (admitTick s n st) := by
  unfold admitTick
  dsimp only
  split
  exacts [h.dieWait.dieWait, h.dieWait.dieWait.setPart]

protected theorem Keeps.queuedTick {n : Nat} (h : Keeps s₀ s) : Keeps s₀ (queuedTick s n) :=
  h.foldl fun _ _ h1 => h1.admitTick

protected theorem Keeps.thrTick {u : Nat} (h : Keeps s₀ s) : Keeps s₀ (thrTick s u) := by
  unfold thrTick
  exact .ite (.inc64 (.ite h.sourceTick.inc64 h.sourceTick)) (.ite h.sourceTick.inc64 h.sourceTick)

protected theorem Keeps.holdTick {k : Nat} (h : Keeps s₀ s) : Keeps s₀ (holdTick s k) := by
  unfold holdTick
  exact h.inc64

protected theorem Keeps.deliverEdge (h : Keeps s₀ s) : OutKeeps s₀ (deliverEdge s) := by
  unfold deliverEdge
  refine OutKeeps.thenDo (Keeps.issueAll <| .listPump <| .stagePump <| .foldl (.foldl (.foldl (.markConds <|
    .foldl (.foldl (.foldl h ?_) ?_) ?_) ?_) ?_) ?_) fun _ h1 => .next h1.edgePump.frame.clock.inc64
  · exact fun _ _ h1 => h1.waitTick
  · exact fun _ _ h1 => h1.stallTick
  · exact fun _ _ h1 => h1.arrayTick.feedTick.landTick
  · exact fun _ _ h1 => h1.queuedTick
  · exact fun _ _ h1 => h1.thrTick
  · exact fun _ _ h1 => h1.holdTick

protected theorem Keeps.withholdEdge (h : Keeps s₀ s) : Keeps s₀ (withholdEdge s) :=
  h.clock.inc64.foldl fun _ _ h1 => h1.setPart

theorem gateK_le (bound : StretchBounded s) : gateK s ≤ 56 := by
  obtain ⟨_, kE, kI, kT⟩ := bound
  unfold gateK
  split_ifs <;> omega

protected theorem Keeps.aclkEdge (h : Keeps s₀ s) : OutKeeps s₀ (aclkEdge s) := by
  have gated : Keeps s₀ (if s.clk.edge % 64 = 0 then { s with clk := { s.clk with stretch := gateK s } } else s) :=
    .ite ⟨h.wf, fun bound => ⟨gateK_le (h.bounded bound), (h.bounded bound).2⟩⟩ h
  exact .ite (.next gated.withholdEdge) gated.deliverEdge

protected theorem Keeps.rootCycle (h : Keeps s₀ s) : OutKeeps s₀ (rootCycle s) := by
  have ticked : Keeps s₀
      (if (s.clk.root + 1) % 18 = 0 then tclkEdge { s with clk := { s.clk with root := s.clk.root + 1 } }
      else { s with clk := { s.clk with root := s.clk.root + 1 } }) := .ite h.clock.tclkEdge h.clock
  refine .ite (.next h) (.thenDo (.ite (Keeps.aclkEdge (.ite ?_ ticked)) (.next (.ite ?_ ticked))) fun _ h1 =>
    .next h1.fetchAll) <;> exact ticked.foldl fun _ _ h1 => h1.fclkTick

protected theorem Keeps.step (h : Keeps s₀ s) : OutKeeps s₀ (step s) := by
  unfold step
  split
  exacts [h.frame.exec, h.rootCycle]

/-- A step keeps the canonical form of the memories and the bound of the stretch. -/
theorem keeps_of_step (e : step s = .next t) : Keeps s t := (e ▸ (Keeps.refl s).step : OutKeeps s (.next t)).out

/-- Settles O5: every operation of the model keeps the canonical form, so a step's command, or its root cycle, does. -/
theorem memWfKept : Obligations.MemWfKept := by
  unfold Obligations.MemWfKept
  intro s t wf e
  exact (keeps_of_step e).wf wf

end Sys2Proof.Machine

/-! Numbers as bytes and as fields side by side: what is put in is read back from its place (R3). -/

namespace Sys2Proof.Machine

open Sys2Proof

/-- Little-endian bytes spell the number that they have room for (R3). -/
theorem leNat_leBytes (n x : Nat) : leNat (leBytes n x) = x % 256 ^ n := by
  induction n generalizing x with
  | zero => simp [leBytes, leNat, Nat.mod_one]
  | succ n ih =>
    rw [leBytes, leNat, ih, BitVec.toNat_ofNat, pow_succ' 256]
    exact Nat.mod_mul.symm

theorem leNat_leBytes_of_lt {n x : Nat} (fits : x < 256 ^ n) : leNat (leBytes n x) = x := by
  rw [leNat_leBytes, Nat.mod_eq_of_lt fits]

@[simp] theorem length_leBytes (n x : Nat) : (leBytes n x).length = n := by
  induction n generalizing x with
  | zero => rfl
  | succ n ih => rw [leBytes, List.length_cons, ih]

/-- A string no longer than its room is padded with zeros. -/
theorem padTo_of_le {n : Nat} {bs : List Byte} (room : bs.length ≤ n) :
    padTo n bs = bs ++ List.replicate (n - bs.length) 0 :=
  List.take_of_length_le (by simp; omega)

/-- Fields side by side from bit 0 up, each cut to its width: pairs of width and value. -/
def packed : List (Nat × Nat) → Nat
  | [] => 0
  | (w, v) :: fs => v % 2 ^ w + 2 ^ w * packed fs

/-- Fields side by side fit the sum of their widths. -/
theorem packed_lt {n : Nat} (fs : List (Nat × Nat)) (width : (fs.map Prod.fst).sum = n) : packed fs < 2 ^ n := by
  subst width
  induction fs with
  | nil => exact Nat.one_pos
  | cons f fs ih =>
    obtain ⟨w, v⟩ := f
    calc v % 2 ^ w + 2 ^ w * packed fs < 2 ^ w + 2 ^ w * packed fs :=
          Nat.add_lt_add_right (Nat.mod_lt _ (Nat.two_pow_pos w)) _
      _ = 2 ^ w * (packed fs + 1) := by ring
      _ ≤ 2 ^ w * 2 ^ (fs.map Prod.fst).sum := Nat.mul_le_mul_left _ ih
      _ = _ := by rw [List.map_cons, List.sum_cons, pow_add]

/-- The first field lies at bit 0. -/
@[simp] theorem fld_packed_first {w hi : Nat} (v : Nat) (fs : List (Nat × Nat)) (width : hi + 1 = w) :
    fld (packed ((w, v) :: fs)) hi 0 = v % 2 ^ w := by
  simp [fld, packed, width]

/-- The fields after the first lie above it. -/
@[simp] theorem fld_packed_later {w hi lo : Nat} (v : Nat) (fs : List (Nat × Nat)) (above : w ≤ lo) (field : lo ≤ hi) :
    fld (packed ((w, v) :: fs)) hi lo = fld (packed fs) (hi - w) (lo - w) := by
  have rest : (v % 2 ^ w + 2 ^ w * packed fs) / 2 ^ w = packed fs := by
    rw [Nat.add_mul_div_left _ _ (Nat.two_pow_pos w), Nat.div_eq_of_lt (Nat.mod_lt _ (Nat.two_pow_pos w)), Nat.zero_add]
  have width : hi - w + 1 - (lo - w) = hi + 1 - lo := by omega
  rw [fld, fld, packed, width, ← rest, Nat.div_div_eq_div_mul, ← pow_add, Nat.add_sub_cancel' above, rest]

theorem bit_eq_fld (x i : Nat) : bit x i = (fld x i i == 1) := by
  simp [bit, fld]

theorem b2n_lt (b : Bool) : b2n b < 2 := by
  cases b <;> decide

@[simp] theorem b2n_beq_one (b : Bool) : (b2n b % 2 == 1) = b := by
  cases b <;> rfl

end Sys2Proof.Machine

/-! Packets as bytes (R215, R216). -/

namespace Sys2Proof.Machine

open Sys2Proof

/-- The fields of a routing header (R216). -/
def Pkt.fields (p : Pkt) : List (Nat × Nat) :=
  [(7, p.rsv), (1, b2n p.last), (12, p.count), (16, p.msgId), (1, b2n p.via), (6, p.viaDev), (1, b2n p.data),
    (1, b2n p.dor), (1, b2n p.mcast), (1, b2n p.outer), (2, p.ohops), (3, p.hops), (12, p.len), (4, p.proto),
    (16, p.stamp), (16, p.srcArb), (16, p.dstArb), (6, p.src), (6, p.dst)]

theorem Pkt.header_eq_packed (p : Pkt) : p.header = packed p.fields := by
  simp only [Pkt.header, Pkt.fields, packed, Nat.mod_eq_of_lt (b2n_lt _), pow_one]
  omega

theorem Pkt.leNat_header (p : Pkt) : leNat (leBytes 16 p.header) = packed p.fields := by
  have fits : packed p.fields < 2 ^ 128 := packed_lt _ (by simp [Pkt.fields])
  rw [p.header_eq_packed, leNat_leBytes_of_lt fits]

theorem Pkt.bytes_take_header (p : Pkt) : p.bytes.take 16 = leBytes 16 p.header := by
  simp only [Pkt.bytes, List.append_assoc]
  exact List.take_left' (length_leBytes 16 _)

/-- The bytes of a part that is there where a flag says so. -/
def partBytes (flag : Bool) (n x : Nat) : List Byte := if flag then leBytes n x else []

theorem Pkt.bytes_drop_header (p : Pkt) :
    p.bytes.drop 16 = partBytes p.mcast 8 p.mask ++ (partBytes p.data 16 p.thdr ++ p.body) := by
  simp only [Pkt.bytes, List.append_assoc]
  exact List.drop_left' (length_leBytes 16 _)

/-- A part is read back from its bytes where its flag says that it is there, and so are the bytes after it. -/
theorem partBytes_back {flag : Bool} {n x : Nat} (fits : x < 256 ^ n) (absent : flag = false → x = 0) (r : List Byte) :
    (if flag then leNat ((partBytes flag n x ++ r).take n) else 0) = x
    ∧ (if flag then (partBytes flag n x ++ r).drop n else partBytes flag n x ++ r) = r := by
  cases flag with
  | false => exact ⟨(absent rfl).symm, rfl⟩
  | true =>
    simp only [partBytes, if_true]
    rw [List.take_left' (length_leBytes n x), leNat_leBytes_of_lt fits, List.drop_left' (length_leBytes n x)]
    exact ⟨rfl, rfl⟩

/-- The length in a header is that of its packet (R215). -/
theorem pktLength_header {p : Pkt} (room : p.body.length < 4096) : pktLength p.header = p.bytes.length := by
  have len : p.len % 4096 = p.body.length := Nat.mod_eq_of_lt room
  simp [pktLength, bit_eq_fld, p.header_eq_packed, Pkt.fields, len, Pkt.bytes, apply_ite List.length, Nat.add_assoc]

/-- Settles O15: the header gives its fields back, and of the parts after it MCAST and CLASS say which are there. -/
theorem packetRoundTrip : Obligations.PacketRoundTrip := by
  unfold Obligations.PacketRoundTrip
  intro p dst src dstArb srcArb stamp proto hops ohops viaDev msgId count rsv mask thdr noMask noThdr room
  refine ⟨?_, pktLength_header room⟩
  have maskBack := partBytes_back (n := 8) (by omega) noMask (partBytes p.data 16 p.thdr ++ p.body)
  have thdrBack := partBytes_back (n := 16) (by omega) noThdr p.body
  unfold parsePkt
  simp only [p.bytes_take_header, p.bytes_drop_header, p.leNat_header]
  simp [Pkt.fields, bit_eq_fld, Nat.mod_eq_of_lt, *]

end Sys2Proof.Machine

/-! Link flits as bytes, and their CRC-32 (R211, R212). -/

namespace Sys2Proof.Machine

open Sys2Proof

/-- The fields of a flit's header word (R212). -/
def Flit.fields (f : Flit) : List (Nat × Nat) :=
  [(1, b2n f.rsv), (8, f.credB), (3, f.cvcB), (8, f.credA), (3, f.cvcA), (1, b2n f.abort), (6, f.fill), (6, f.start),
    (12, f.ack), (12, f.fseq), (4, f.ftype)]

theorem Flit.header_eq_packed (f : Flit) : f.header = packed f.fields := by
  simp only [Flit.header, Flit.fields, packed, Nat.mod_eq_of_lt (b2n_lt _), pow_one]
  omega

theorem Flit.leNat_header (f : Flit) : leNat (leBytes 8 f.header) = packed f.fields := by
  have fits : packed f.fields < 2 ^ 64 := packed_lt _ (by simp [Flit.fields])
  rw [f.header_eq_packed, leNat_leBytes_of_lt fits]

/-- One byte of a reflected CRC of 32 bits keeps it within them. -/
theorem crcByteR_lt {poly c : Nat} (hpoly : poly < 2 ^ 32) (hc : c < 2 ^ 32) (b : Byte) : crcByteR poly c b < 2 ^ 32 := by
  have mixed : Nat.xor c b.toNat < 2 ^ 32 := Nat.xor_lt_two_pow hc (by omega)
  refine List.foldlRecOn (motive := (· < 2 ^ 32)) _ _ mixed fun x hx _ _ => ?_
  have half : x / 2 < 2 ^ 32 := by omega
  unfold crcStepR
  split_ifs
  exacts [Nat.xor_lt_two_pow half hpoly, half]

theorem crc32_lt (bs : List Byte) : crc32 bs < 2 ^ 32 :=
  Nat.xor_lt_two_pow (List.foldlRecOn (motive := (· < 2 ^ 32)) _ _ (by norm_num) fun _ hc b _ =>
    crcByteR_lt (by norm_num) hc b) (by norm_num)

/-- A flit's bytes that its CRC-32 covers (R211). -/
def Flit.covered (f : Flit) : List Byte := leBytes 8 f.header ++ padTo 244 f.words

theorem Flit.bytes_eq (f : Flit) : f.bytes = f.covered ++ leBytes 4 (crc32 f.covered) := rfl

theorem length_padTo (n : Nat) (bs : List Byte) : (padTo n bs).length = n := by
  simp [padTo]; omega

theorem Flit.length_covered (f : Flit) : f.covered.length = 252 := by
  rw [covered, List.length_append, length_leBytes, length_padTo]

theorem Flit.length_bytes (f : Flit) : f.bytes.length = 256 := by
  rw [bytes_eq, List.length_append, f.length_covered, length_leBytes]

/-- The CRC-32 in a flit's last four bytes is that of the bytes before them. -/
theorem flitGood_bytes (f : Flit) : flitGood f.bytes = true := by
  rw [flitGood, f.length_bytes, f.bytes_eq, List.take_left' f.length_covered, List.drop_left' f.length_covered,
    leNat_leBytes_of_lt (crc32_lt _)]
  simp

theorem Flit.bytes_take_header (f : Flit) : f.bytes.take 8 = leBytes 8 f.header := by
  rw [bytes_eq, covered, List.append_assoc]
  exact List.take_left' (length_leBytes 8 _)

theorem Flit.bytes_take_payload (f : Flit) : (f.bytes.drop 8).take 244 = padTo 244 f.words := by
  rw [bytes_eq, covered, List.append_assoc, List.drop_left' (length_leBytes 8 _), List.take_left' (length_padTo 244 _)]

/-- Settles O16: the CRC-32 is that of the bytes before it, the header word gives its fields back, and FILL cuts the payload
words off their padding. -/
theorem flitRoundTrip : Obligations.FlitRoundTrip := by
  unfold Obligations.FlitRoundTrip
  intro f ftype fseq ack start fill cvcA credA cvcB credB counted
  refine ⟨f.length_bytes, flitGood_bytes f, ?_⟩
  have wordsBack : (padTo 244 f.words).take (4 * f.fill) = f.words := by
    rw [padTo_of_le (by omega), List.take_left' counted]
  have fillWidth : f.fill < 64 := by omega
  unfold parseFlit
  simp only [f.bytes_take_header, f.bytes_take_payload, f.leNat_header]
  simp [Flit.fields, bit_eq_fld, Nat.mod_eq_of_lt, *]

end Sys2Proof.Machine

/-! The events of a fabric port and the reception of a flit (R211 to R214, R221, R234, R237). -/

namespace Sys2Proof.Machine

open Sys2Proof Sys2Proof.Config

/-- An event whose conditions hold takes place. -/
theorem whenOk_holds {ok : Bool} (s t : State) (holds : ok = true) : whenOk ok s t = .next t :=
  congrArg Host.Outcome.next (if_pos holds)

/-- The rest of a command is decided where its first check does not end it. -/
theorem ite_next_congr {p q : Prop} [Decidable p] [Decidable q] {t u : State} {rest : Out} (same : p ↔ q)
    (others : rest = .next u) : (if p then .next t else rest) = .next (if q then t else u) := by
  subst others
  rw [apply_ite Host.Outcome.next]
  exact if_congr same rfl rfl

/-- Settles O39: the conditions of each event hold in the state that the clause names. -/
theorem portEvents : Obligations.PortEvents := by
  unfold Obligations.PortEvents
  refine ⟨?enable, ?disable, ?retrain, ?unquarantine, ?alignment, ?retryLimit, ?silence, ?backoff, ?quarantine, ?trained⟩
  case enable =>
    intro p s takes named disabled good
    exact (guardWrite_ok s _ _ takes).trans (whenOk_holds _ _ (by simp [named, disabled, good]))
  case disable =>
    intro p s takes named enabled
    exact (guardWrite_ok s _ _ takes).trans (if_neg (not_or.mpr ⟨Nat.not_le.mpr named, enabled⟩))
  case retrain =>
    intro p s takes named up
    exact (guardWrite_ok s _ _ takes).trans (whenOk_holds _ _ (by simp [named, up]))
  case unquarantine =>
    intro p s takes named quarantined
    exact (guardWrite_ok s _ _ takes).trans (whenOk_holds _ _ (by simp [named, quarantined]))
  case alignment => exact fun p s named up => whenOk_holds _ _ (by simp [named, up])
  case retryLimit => exact fun p s named up eight => whenOk_holds _ _ (by simp [named, up, eight])
  case silence => exact fun p s named up silent => whenOk_holds _ _ (by simp [named, up, silent])
  case backoff => exact fun p s named down ended => whenOk_holds _ _ (by simp [named, down, ended])
  case quarantine => exact fun p s named up many => whenOk_holds _ _ (by simp [named, up, many])
  case trained =>
    rintro p pol arb dev port s _ named training rfl
    show execPortTrainingDone p pol arb dev port s = _
    rw [execPortTrainingDone, if_neg (not_or.mpr ⟨Nat.not_le.mpr named, not_not.mpr training⟩)]
    exact (apply_ite Host.Outcome.next _ _ _).symm

/-- What a good flit with consistent fields does, its ACK applied: a type at a time (R213). -/
abbrev flitTaken (v : State) (p : Nat) (f : Flit) : State :=
  if f.ftype = 3 then resend v p f.fseq
  else if f.ftype = 0 ∨ f.ftype = 4 then v
  else if f.fseq = (getPort v p).rxSeq then acceptFlit v p f
  else if (getPort v p).awaiting then v
  else askRetry v p

/-- A flit of an UP port is seen, then judged by its FEC and CRC, its reserved bits, its fields and its type (R211 to R213,
R234). -/
theorem exec_flitReceive_up {p fec : Nat} {bs : List Byte} {s u : State} (named : p < 32) (up : (getPort s p).lstate = .up)
    (seen : u = flitSeen s p fec) :
    exec (.flitReceive p bs fec) s = .next (
      if fec = 2 ∨ flitGood bs = false then
        if (getPort u p).awaiting then incSat u (pgPort p + 0x64) 1 else askRetry (incSat u (pgPort p + 0x64) 1) p
      else if flitReserved (parseFlit bs) then violation (inc64 u (pgPort p + 0x48) 1) p 0x0902
      else if flitContradicts (parseFlit bs) then violation (inc64 u (pgPort p + 0x48) 1) p 0x0904
      else flitTaken (flitAcked u p (parseFlit bs)) p (parseFlit bs)) := by
  show execFlitReceive p bs fec s = _
  rw [execFlitReceive, if_neg (Nat.not_le.mpr named), if_neg (by simp [up]), if_neg (not_not.mpr up)]
  extract_lets pg port marked corrected f port' bad good acked
  obtain rfl : u = corrected := seen
  clear_value corrected
  refine ite_next_congr (by rw [Bool.not_eq_true']) (ite_next_congr Iff.rfl (ite_next_congr Iff.rfl ?_))
  split
  case h_1 retry => exact congrArg Host.Outcome.next (if_pos retry).symm
  case h_2 idle => exact congrArg Host.Outcome.next ((if_neg (by simp [f, idle])).trans (if_pos (.inl idle))).symm
  case h_3 management =>
    exact congrArg Host.Outcome.next ((if_neg (by simp [f, management])).trans (if_pos (.inr management))).symm
  case h_4 retry idle management =>
    refine (ite_next_congr Iff.rfl (ite_next_congr Iff.rfl rfl)).trans (congrArg Host.Outcome.next ?_)
    exact ((if_neg retry).trans (if_neg (not_or.mpr ⟨idle, management⟩))).symm

/-- Settles O40: a flit of an UP port is judged as `exec_flitReceive_up` says, and the clause's hypotheses give the
judgement. -/
theorem flitReception : Obligations.FlitReception := by
  unfold Obligations.FlitReception
  refine ⟨?good, ?corrupt, ?violates, ?training, ?retryReq, ?repeats⟩
  case good =>
    rintro p fec bs s _ named up rfl corrected good clean consistent
    rw [exec_flitReceive_up named up rfl, if_neg (by simp [corrected, good]), if_neg (by simp [clean]),
      if_neg (by simp [consistent])]
  case corrupt =>
    rintro p fec bs s _ named up rfl corrupt
    rw [exec_flitReceive_up named up rfl, if_pos corrupt]
  case violates =>
    rintro p fec bs s _ named up rfl corrected good violates
    rw [exec_flitReceive_up named up rfl, if_neg (by simp [corrected, good])]
    cases reserved : flitReserved (parseFlit bs) with
    | true => rfl
    | false => simp [violates.resolve_left (by simp [reserved])]
  case training =>
    intro p fec bs s named training corrected
    show execFlitReceive p bs fec s = _
    rw [execFlitReceive, if_neg (Nat.not_le.mpr named), if_pos ⟨training, corrected⟩]
  case retryReq => exact fun p q s named up => whenOk_holds _ _ (by simp [named, up])
  case repeats => exact fun p s named up awaiting due => whenOk_holds _ _ (by simp [named, up, awaiting, due])

end Sys2Proof.Machine

/-! Injection and reception of packets (R220, R222, R224, R227 to R229, R235). -/

namespace Sys2Proof.Machine

open Sys2Proof Sys2Proof.Config

/-- The oldest packet handed over is counted and leaves by its kind of destination (R220, R222, R227, R229). -/
theorem exec_packetInject_oldest {s u : State} {p : Pkt} {r : List Pkt} (oldest : s.fab.inject = p :: r)
    (counted : u = inc64 { s with fab := { s.fab with inject := r } } (pgFab + 0x40) 1) :
    exec .packetInject s = .next (
      if p.outer = true ∧ (p.mcast = true ∨ p.proto = 4 ∨ p.proto = 5 ∨ p.proto = 7) then dropOuter u 0x0804
      else if p.mcast then
        let v := mcastNote (dropNonMembers u p.mask) (myDev u) p.mask
        let w := if bit p.mask (myDev u) ∧ isMember v (myDev u) then eject v p else v
        sendCopies (mcastFirst w (myDev u) p.mask) w p 0 true
      else if p.outer then routeOuter u p 0 true
      else if p.dst = myDev u then eject u p
      else routeUnicast u p 0 true) := by
  subst counted
  show execPacketInject s = _
  simp only [execPacketInject, oldest]
  exact ite_next_congr Iff.rfl (ite_next_congr Iff.rfl (ite_next_congr Iff.rfl (ite_next_congr Iff.rfl rfl)))

/-- A received multicast packet: a copy for each member among the peers, one for this device where it is a member, and the
buffer held until the copies have left (R227). -/
abbrev multicastOn (u : State) (q : Nat) (p : Pkt) (units : Nat) : State :=
  let l := mcastRest u p
  let h := openHold (dropNonMembers u p.mask) q p.vc units (l.length + 1)
  let v := if bit p.mask (myDev u) then eject h.2 p else h.2
  releaseHold (sendCopies l (if l.isEmpty then v else inc64 (inc64 v (pgFab + 0x50) 1) (pgFab + 0x58) p.size)
    (acrossPort q p) h.1 false) h.1

/-- The oldest received packet, the stamp table's entry of its tag good: dropped where its words fail parity, else sent on by
its kind of destination (R224, R227, R229, R235). -/
theorem exec_packetReceive_oldest {parity q : Nat} {s u : State} {p : Pkt} {r : List (Nat × Pkt)} {h : Nat × State}
    (oldest : s.fab.arrived = (q, p) :: r) (taken : u = packetTaken s q r)
    (held : h = openHold u q p.vc (owedUnits s q p) 1) (stamp : parity ≠ 2) :
    exec (.packetReceive parity) s = .next (
      if parity = 1 then releaseHold (err (evt (incSat h.2 (pgFab + 0x78) 1) pgFab 0) pgFab 0x0805) h.1
      else if p.mcast then multicastOn u q p (owedUnits s q p)
      else if p.dstArb = myArb u ∧ p.dst = myDev u ∧ (p.via = false ∨ p.viaDev = myDev u) then
        releaseHold (eject h.2 { acrossPort q p with via := false }) h.1
      else routedOn p h.1 (if p.outer = true ∧ p.dstArb ≠ myArb u
        then routeOuter h.2 (acrossPort q p) h.1 (decide (q ≥ 28))
        else routeUnicast h.2 (acrossPort q p) h.1 (decide (q ≥ 28)))) := by
  show execPacketReceive parity s = _
  unfold execPacketReceive
  split
  case h_1 none => cases oldest.symm.trans none
  case h_2 port packet left next =>
    cases oldest.symm.trans next
    extract_lets x fab untouched units me vc fwd mine across fresh stamped hold others copies copyHold member copied routed
    have same : stamped = untouched := if_neg fun bad => stamp bad.1
    clear_value stamped
    subst same
    obtain rfl : u = untouched := taken
    clear_value untouched
    subst held
    refine ite_next_congr Iff.rfl (ite_next_congr Iff.rfl (ite_next_congr (and_congr Iff.rfl (and_congr Iff.rfl ?via)) ?on))
    case via => simp [me]
    case on =>
      exact congrArg (fun v => Host.Outcome.next (routedOn p hold.1 v)) (if_congr (by simp [mine]) rfl rfl)

/-- Settles O41: the oldest packet, handed over or received, takes the branch of its destination. -/
theorem packetRouting : Obligations.PacketRouting := by
  unfold Obligations.PacketRouting
  refine ⟨?injects, ?leaves, ?parity, ?ejects, ?routes, ?multicast⟩
  case injects =>
    rintro s u _ _ p r oldest counted stays rfl rfl
    rw [exec_packetInject_oldest oldest counted, if_neg]
    rintro ⟨outer, barred⟩
    obtain inner | ⟨unicast, request, response, grain⟩ := stays
    · simp [outer] at inner
    · simp [unicast, request, response, grain] at barred
  case leaves =>
    intro s u p r oldest counted outer barred
    rw [exec_packetInject_oldest oldest counted, if_pos ⟨outer, barred⟩]
  case parity =>
    intro q s u p r h oldest taken held
    rw [exec_packetReceive_oldest oldest taken held (by decide), if_pos rfl]
  case ejects =>
    intro q s u p r h oldest taken held unicast arbour device via
    rw [exec_packetReceive_oldest oldest taken held (by decide), if_neg (by decide), if_neg (by simp [unicast]),
      if_pos ⟨arbour, device, via⟩]
  case routes =>
    intro q s u p r h oldest taken held unicast elsewhere
    rw [exec_packetReceive_oldest oldest taken held (by decide), if_neg (by decide), if_neg (by simp [unicast]), if_neg]
    rintro ⟨arbour, device, -⟩
    exact elsewhere.elim (· arbour) (· device)
  case multicast =>
    rintro q s u p r _ _ oldest taken multicast rfl rfl
    rw [exec_packetReceive_oldest oldest taken rfl (by decide), if_neg (by decide), if_pos multicast]

end Sys2Proof.Machine

/-! The congestion map and the outer table (R228, R231, R232). -/

namespace Sys2Proof.Machine

open Sys2Proof Sys2Proof.Config

/-- A part that a collector does not hold has no sibling there (R232). -/
theorem cmapSibling_none {l : List CmapPart} {arb dev seq : Nat} (part : Nat)
    (none : l.any (fun c => c.arb == arb && c.dev == dev && c.seq == seq) = false) :
    l.find? (fun c => c.arb == arb && c.dev == dev && c.seq == seq && c.part != part) = Option.none := by
  rw [List.any_eq_false] at none
  exact List.find?_eq_none.mpr fun c held same => none c held (Bool.and_elim_left same)

/-- Settles O42: each event finds the time, the part or the page that the clause names. -/
theorem congestionMapAndTables : Obligations.CongestionMapAndTables := by
  unfold Obligations.CongestionMapAndTables
  refine ⟨?sample, ?formed, ?sibling, ?first, ?timeout, ?outer⟩
  case sample => exact fun s tick room fresh => whenOk_holds _ _ (by simp [tick, room, fresh])
  case formed =>
    rintro s _ tick sampled rfl
    show execCmapIntervalEnd s = _
    rw [execCmapIntervalEnd, if_neg (by simp [tick, sampled])]
    exact (apply_ite Host.Outcome.next _ _ _).symm
  case sibling =>
    intro s u p c taken sibling
    show execCmap s = _
    simp only [execCmap, taken, sibling]
  case first =>
    intro s u p taken none
    show execCmap s = _
    simp only [execCmap, taken, cmapSibling_none _ none, none]
    rw [if_neg Bool.false_ne_true]
  case timeout =>
    intro s c overdue
    show execCmapPartTimeout s = _
    simp only [execCmapPartTimeout, overdue]
  case outer => exact fun v s takes => guardWrite_ok s pgFab _ takes

end Sys2Proof.Machine

/-! What answers, time-outs and fences do at an issuer (R243, R250 to R255). -/

namespace Sys2Proof.Machine

open Sys2Proof Sys2Proof.Config

/-- The outstanding memory request that a response names (R243). -/
abbrev memReqOf (s : State) (p : Pkt) : Option Req :=
  s.atom.out.find? (fun r => r.proto == 4 && r.arb == p.srcArb && r.dev == p.src && r.id == p.msgId)

/-- The steps of the issuer of a settled request and of its members, which awaited the answer (R315). -/
abbrev soilMembers (s : State) (p : Pkt) (r : Req) : State :=
  ((r.issuer, r.reply) :: r.members).foldl (fun s m => soilIssuer s p m.1) (settle s r)

/-- A response that no outstanding request matches is only counted (R253). -/
theorem exec_memRsp_unmatched {s u : State} {p : Pkt} (taken : takeEjected s (fun p => p.proto == 5) = some (p, u))
    (unmatched : memReqOf u p = none) : exec .memRsp s = .next (incSat u (pgAtom + 0x6C) 1) := by
  show execMemRsp s = _
  simp only [execMemRsp, taken, unmatched]

/-- A response of an outstanding request: a status other than OK fails it, a combined request's members are each
answered, any other request takes the data (R243, R253, R254). -/
theorem exec_memRsp_matched {s u : State} {p : Pkt} {r : Req}
    (taken : takeEjected s (fun p => p.proto == 5) = some (p, u)) (matched : memReqOf u p = some r) :
    exec .memRsp s = .next (
      if fld p.th 123 120 ≠ 0 then issuerError (faultInfo (soilMembers u p r) p.src (fld p.th 123 120)) r 0x0A04
      else if r.members.isEmpty then
        answer (soilMembers u p r) r.issuer r.reply (p.rest.take (4 * (fld p.th 119 114 + 1))) 5
      else r.members.foldl (fun s m => answer s m.1 m.2 [] 5) (soilMembers u p r)) := by
  show execMemRsp s = _
  simp only [execMemRsp, taken, matched]
  exact ite_next_congr Iff.rfl (ite_next_congr Iff.rfl rfl)

/-- Settles O34: the packet that each answer takes, and the request, entry or fences that each event finds, are those
that the clause names. -/
theorem issuerEvents : Obligations.IssuerEvents := by
  unfold Obligations.IssuerEvents
  refine ⟨?response, ?unmatched, ?ack, ?nack, ?timeout, ?window, ?fences⟩
  case response =>
    rintro s u _ p r taken matched rfl
    exact exec_memRsp_matched taken matched
  case unmatched =>
    intro s u p taken none
    exact exec_memRsp_unmatched taken (by rw [memReqOf, none, List.find?_nil])
  case ack =>
    intro s u p r taken matched
    show execMsgAck s = _
    simp only [execMsgAck, taken, matched]
  case nack =>
    intro s u p r taken matched
    show execMsgNack s = _
    simp only [execMsgNack, taken, matched]
  case timeout =>
    rintro s _ r overdue rfl
    show execE2eTimeout s = _
    simp only [execE2eTimeout, overdue]
    exact ite_next_congr (by rw [Bool.not_eq_true']) rfl
  case window =>
    intro s c ended
    show execCombineWindowExpiry s = _
    simp only [execCombineWindowExpiry, ended]
  case fences =>
    rintro t bg s _ rfl pending idle
    show execFenceComplete t bg s = _
    rw [execFenceComplete, if_neg (not_or.mpr ⟨by rwa [List.isEmpty_iff], not_not.mpr idle⟩)]

end Sys2Proof.Machine

/-! The requests that the home performs: LOAD, STORE, ADD, MIN, MAX and CAS at T1, at job addresses and in tile SRAM
(R239, R241, R243 to R248, R255). -/

namespace Sys2Proof.Machine

open Sys2Proof Sys2Proof.Config

/-- The requests that the command of an operation serves: 1 takes every OP but 2 to 6 (R245). -/
def memKind (op : Nat) (p : Pkt) : Bool :=
  if op = 1 then !(2 ≤ memOpOf p && memOpOf p ≤ 6) else memOpOf p == op

theorem memNext_eq (s : State) (op : Nat) : memNext s op = nextMem (memKind op) [] s.fab.ejected := rfl

/-- The home's commands, an ADD merging with no other, each with the operation that it serves. -/
abbrev memCommands : List (Nat × Instr) :=
  [(1, .memLoad false), (2, .memStore false), (3, .memAdd 0 false), (4, .memMin false), (5, .memMax false),
    (6, .memCas false)]

theorem exec_memCommand {c : Nat × Instr} (command : c ∈ memCommands) (s : State) :
    exec c.2 s = memRequest s (memKind c.1) 0 false := by
  simp only [memCommands, List.mem_cons, List.not_mem_nil, or_false] at command
  obtain rfl | rfl | rfl | rfl | rfl | rfl := command <;> rfl

/-- The request that the home takes is one that it looks for. -/
theorem nextMem_meets {f : Pkt → Bool} {before l : List Pkt} {p : Pkt} (next : nextMem f before l = some p) :
    f p = true := by
  induction l generalizing before with
  | nil => cases next
  | cons q qs ih =>
    rw [nextMem] at next
    split_ifs at next with other turn
    · exact ih next
    · cases next
      exact Bool.and_elim_left turn
    · exact ih next

/-- A well-formed request has the operation that its command serves: a reserved OP is malformed (R244). -/
theorem parseMem_op_of_memKind {op : Nat} {p : Pkt} (kind : memKind op p = true) (ok : memOk p = true) :
    (parseMem p.th).op = op := by
  have range : 1 ≤ memOpOf p ∧ memOpOf p ≤ 6 := by
    simp only [memOk, MemHdr.ok, Bool.and_eq_true, decide_eq_true_eq] at ok
    tauto
  show memOpOf p = op
  unfold memKind at kind
  split_ifs at kind with load
  · simp only [Bool.not_eq_true', Bool.and_eq_false_iff, decide_eq_false_iff_not] at kind
    omega
  · exact eq_of_beq kind

/-- The request that the home takes, well formed, has the command's operation. -/
theorem parseMem_op_of_memNext {s : State} {op : Nat} {p : Pkt} (next : memNext s op = some p) (fresh : memFresh s p) :
    (parseMem p.th).op = op := by
  obtain ⟨_, _, ok, _⟩ := fresh
  exact parseMem_op_of_memKind (nextMem_meets next) ok

/-- What the home does with a request that merges with no other, by where its translation places it (R239 to R242). -/
def servedAt (s : State) (p : Pkt) : Xlate → Out
  | .refused st => .next (memRefuse s p st)
  | .sram part tile a => performSram s part tile a (parseMem p.th) p
  | .job part a => performJob s part a (parseMem p.th) [p] (newLines (parseMem p.th) p.rest)
  | .direct a => performT1 s a (parseMem p.th) [p] (newLines (parseMem p.th) p.rest)

theorem mergeWith_zero (s : State) (p : Pkt) (l : List Pkt) : mergeWith s p 0 l = [] := by
  cases l <;> rfl

/-- Handing on an outcome that the next effect leaves as it is. -/
theorem chain_next (o : Out) : chain o .next = o := by
  cases o <;> rfl

/-- A well-formed request outside the register page is translated and served. -/
theorem memPerform_alone {s u : State} {p : Pkt} {x : Xlate} (ok : memOk p = true) (space : (parseMem p.th).space ≠ 2)
    (placed : translate s p (parseMem p.th) = (x, u)) : memPerform s p 0 = servedAt u p x := by
  rw [memPerform, if_neg (by simp [ok]), if_neg space, placed]
  cases x with
  | refused | sram => rfl
  | job | direct => simp [mergeWith_zero, chain_next, servedAt]

/-- The home's command takes its oldest request, and serves it where the request is new to its window and well
formed. -/
theorem exec_memCommand_fresh {c : Nat × Instr} {s u : State} {p : Pkt} {x : Xlate} (command : c ∈ memCommands)
    (next : memNext s c.1 = some p) (fresh : memFresh s p) (placed : translate s p (parseMem p.th) = (x, u)) :
    exec c.2 s = servedAt u p x := by
  obtain ⟨unseen, idle, ok, space⟩ := fresh
  rw [exec_memCommand command, memRequest, ← memNext_eq, next]
  simp only [unseen, idle, Bool.false_eq_true, if_false]
  exact memPerform_alone ok space placed

/-- Lines of T1 that can be read: a LOAD returns its bytes, another operation writes the lines first (R246). -/
theorem performT1_read {s v : State} {a : Nat} {m : MemHdr} {p : Pkt} {f : List Byte → List Byte} {old : List Byte}
    (inside : a / 64 * 64 + lineBytes m ≤ t1Bytes) (read : t1Read s (a / 64 * 64) (lineBytes m) = (some old, v)) :
    performT1 s a m [p] f = .next (
      if m.op = 1 then memDone (inc64 v (pgAtom + 0x50) (lineBytes m / 64)) p (returned m old)
      else memDone (t1Write (inc64 v (pgAtom + 0x50) (lineBytes m / 64)) (a / 64 * 64) (f old)).2 p
        (returned m old)) := by
  rw [performT1, if_neg (Nat.not_lt.mpr inside)]
  simp only [read]
  exact ite_next_congr Iff.rfl rfl

/-- A LOAD of a partition's bytes that can be read leaves them and returns them (R245, R246). -/
theorem performJob_load {s v : State} {part a : Nat} {m : MemHdr} {p : Pkt} {f : List Byte → List Byte}
    {old : List Byte} (load : m.op = 1)
    (read : jobFetch s 0 part (a / 64 * 64) (lineBytes m) = (.data old, v)) :
    performJob s part a m [p] f
      = .next (memDone (inc64 v (pgAtom + 0x50) (lineBytes m / 64)) p (returned m old)) := by
  rw [performJob]
  simp only [read, if_pos load, List.foldl_cons, List.foldl_nil]

/-- Another operation on bytes that can be read, and written with no mirror to wait for, writes its lines and returns
the old bytes (R245, R246). -/
theorem performJob_write {s v w : State} {part a : Nat} {m : MemHdr} {p : Pkt} {f : List Byte → List Byte}
    {old x : List Byte} {t : Nat × State} (write : m.op ≠ 1)
    (read : jobFetch s 0 part (a / 64 * 64) (lineBytes m) = (.data old, v))
    (tag : t = newTag (inc64 v (pgAtom + 0x50) (lineBytes m / 64)))
    (put : putRows 0 part t.1 false [(a / 64 * 64, f old)] t.2 0 = (.data x, w, 0)) :
    performJob s part a m [p] f = .next (memDone w p (returned m old)) := by
  subst tag
  rw [performJob]
  simp only [read, if_neg write, put, List.foldl_cons, List.foldl_nil]

/-- Settles O36: the command serves the request where its translation places it, and the request's operation is the
command's. -/
theorem memoryRequests : Obligations.MemoryRequests := by
  unfold Obligations.MemoryRequests
  refine ⟨?direct, fun c s p command next fresh => ⟨?refused, ?sram, ?job⟩⟩
  case direct =>
    intro c s u v p a old command next fresh placed inside read
    rw [exec_memCommand_fresh command next fresh placed, servedAt, performT1_read inside read,
      parseMem_op_of_memNext next fresh]
  case refused => exact fun st u placed => exec_memCommand_fresh command next fresh placed
  case sram => exact fun n t a u placed => exec_memCommand_fresh command next fresh placed
  case job =>
    intro n a u v w old x placed read done
    rw [exec_memCommand_fresh command next fresh placed, servedAt]
    rw [← parseMem_op_of_memNext next fresh] at done ⊢
    split_ifs with load
    · exact performJob_load load read
    · exact performJob_write load read rfl (done.resolve_left load)

end Sys2Proof.Machine

/-! Chunks received, answered and sent again, the time-outs and completions of collective instances, and link-state
notices (R233, R236, R260 to R265, R273 to R280). -/

namespace Sys2Proof.Machine

open Sys2Proof Sys2Proof.Config

/-- What a command does with its packet's instance, once a packet of an instance in progress is taken (R262). -/
theorem withColl_withInst {s u : State} {p : Pkt} {k : Nat} {j : PavInst} (f : State → Pkt → PavInst → State)
    (other : State → State) (taken : collTaken s u p k) (known : pavFind u p.ccomm p.cseq = some j) :
    withColl s k (fun s p => withInst s p (f s p) (other s)) = .next (f u p j) := by
  rw [withColl_ok _ taken, withInst_some _ _ known]

/-- A packet new to its chunk, of an instance in progress or completed here: the chunk waits for its other packets, or is
complete and goes to its instance, or is acknowledged again (R262, R264, R265). -/
theorem exec_chunk_known {s u : State} {p : Pkt} {b : Bool} (taken : collTaken s u p 8)
    (known : (pavFind u p.ccomm p.cseq).isSome = true ∨ u.pav.past.contains (p.ccomm, p.cseq) = true)
    (new : (chunkBefore u p).got.any (fun g => g.1 == p.cpidx) = false) :
    exec (.chunk b) s = .next (
      if (chunkWith u p).got.length < (chunkWith u p).count then
        { chunkOut u p with pav := { (chunkOut u p).pav with ins := (chunkOut u p).pav.ins ++ [chunkWith u p] } }
      else (pavFind u p.ccomm p.cseq).elim (answerChunk (chunkOut u p) (chunkWith u p) 9)
        (fun j => takeChunk (chunkOut u p) j (chunkWith u p) b)) := by
  have named : ¬ ((pavFind u p.ccomm p.cseq).isNone = true ∧ (!u.pav.past.contains (p.ccomm, p.cseq)) = true) := by
    rintro ⟨absent, unremembered⟩
    obtain found | past := known
    · simp [Option.isNone_iff_eq_none.mp absent] at found
    · rw [past] at unremembered
      cases unremembered
  show execChunk b s = _
  rw [execChunk, withColl_ok _ taken]
  refine congrArg Host.Outcome.next ((if_neg named).trans ((if_neg (ne_true_of_eq_false new)).trans ?_))
  refine if_congr Iff.rfl rfl ?_
  cases pavFind u p.ccomm p.cseq <;> rfl

/-- A packet of an instance neither in progress nor completed here is dropped and counted (R280). -/
theorem exec_chunk_unknown {s u : State} {p : Pkt} {b : Bool} (taken : collTaken s u p 8)
    (absent : pavFind u p.ccomm p.cseq = none) (unremembered : u.pav.past.contains (p.ccomm, p.cseq) = false) :
    exec (.chunk b) s = .next (earlyDrop u) := by
  show execChunk b s = _
  rw [execChunk, withColl_ok _ taken]
  exact congrArg Host.Outcome.next (if_pos ⟨by rw [absent]; rfl, by rw [unremembered]; rfl⟩)

/-- A well-formed notice later than the last one applied for its port is applied where NOTICE_EN is set (R233, R236). -/
theorem exec_linkstate_later {s u : State} {p : Pkt} (taken : takeEjected s (fun p => p.proto == 9) = some (p, u))
    (good : noticeGood p) (enabled : bit (regN u (pgFab + 0x104)) 2 = true)
    (later : (NMap.find u.fab.links (byteFld p.body 8 8 * 32 + byteFld p.body 9 9)).all
      (fun x => decide (x.1 < leNat (p.body.take 8))) = true) :
    exec .linkstate s = .next (execLinkstate.apply u (byteFld p.body 8 8 * 32 + byteFld p.body 9 9)
      (leNat (p.body.take 8)) (byteFld p.body 10 10) (byteFld p.body 8 8) (byteFld p.body 9 9)) := by
  obtain ⟨dev, port, code, reserved, len, count, last, msgId⟩ := good
  show execLinkstate s = _
  simp only [execLinkstate, taken]
  rw [if_neg (by simp [Nat.not_le.mpr, dev, port, code, reserved, len, count, last, msgId]), if_neg (by simp [enabled])]
  cases applied : NMap.find u.fab.links (byteFld p.body 8 8 * 32 + byteFld p.body 9 9) with
  | none => rfl
  | some x =>
    rw [applied, Option.all_some, decide_eq_true_iff] at later
    exact if_neg (Nat.not_le.mpr later)

/-- Settles O38: the packet that each chunk command takes, and the item that each timer finds due, are those that the
clause names. -/
theorem collectiveChunks : Obligations.CollectiveChunks := by
  unfold Obligations.CollectiveChunks
  refine ⟨?packet, ?dropped, ?acknowledged, ?refused, ?unanswered, ?incomplete, ?reserve, ?decide, ?record, ?stalled,
    ?stalledSheaf, ?complete, ?notice⟩
  case packet => exact fun s u p b taken known new => exec_chunk_known taken known new
  case dropped => exact fun s u p b taken absent unremembered => exec_chunk_unknown taken absent unremembered
  case acknowledged => exact fun s u p j taken known => withColl_withInst _ _ taken known
  case refused =>
    intro s u p j o taken known sent
    show execChunkNak s = _
    rw [execChunkNak, withColl_withInst _ _ taken known]
    simp only [sent]
  case unanswered =>
    intro s j o due
    show execChunkTimeout s = _
    simp only [execChunkTimeout, due]
  case incomplete =>
    intro s x due
    show execChunkIncompleteTimeout s = _
    simp only [execChunkIncompleteTimeout, due]
  case reserve =>
    rintro s _ j a due rfl
    show execReserveResendTimeout s = _
    simp only [execReserveResendTimeout, due]
    exact ite_next_congr Iff.rfl rfl
  case decide =>
    rintro s _ j a due rfl
    show execDecideResendTimeout s = _
    simp only [execDecideResendTimeout, due]
  case record =>
    intro s j a due
    show execEarlyRecordResend s = _
    simp only [execEarlyRecordResend, due]
  case stalled =>
    intro s j overdue
    show execCollTimeout s = _
    simp only [execCollTimeout, overdue]
  case stalledSheaf =>
    intro s x idle overdue
    show execCollTimeout s = _
    simp only [execCollTimeout, idle, List.find?_nil, overdue]
  case complete =>
    rintro s _ j done rfl
    show execInstanceComplete s = _
    simp only [execInstanceComplete, done]
  case notice => exact fun s u p taken good enabled later => exec_linkstate_later taken good enabled later

end Sys2Proof.Machine

/-! The elementwise instructions of the vector unit (R36, R37, R117, R293). -/

namespace Sys2Proof.Machine

open Sys2Proof

/-- An elementwise instruction of two operands that finds them writes the operation on their elements. -/
theorem elementwise2_ready {i : Issue} {s : State} {f : Fmt} (fl : Val → Val → Val) (int : Fmt → Int → Int → Option Val)
    (fmt : i.fmt = some f) (ready : vecReady s i ⟨some tensorBytes, false⟩ f f) :
    elementwise2 i fl int s = .next (vecWrite s i f ((List.zip (vecA s i f) (vecB s i f)).map (fun p =>
      if isInt f then int f (scaledInt 0 p.1) (scaledInt 0 p.2) else some (fl p.1 p.2)))) :=
  vecOp_ok _ _ _ _ fmt rfl rfl ready

/-- An elementwise instruction of one operand that finds it writes the operation on its elements. -/
theorem elementwise1_ready {i : Issue} {s : State} {f : Fmt} (fl : Val → Val) (int : Fmt → Int → Option Val)
    (fmt : i.fmt = some f) (ready : vecReady s i ⟨none, false⟩ f f) :
    elementwise1 i fl int s = .next (vecWrite s i f ((vecA s i f).map (fun x =>
      if isInt f then int f (scaledInt 0 x) else some (fl x)))) :=
  vecOp_ok _ _ _ _ fmt rfl rfl ready

/-- Settles O17: the five instructions are `elementwise2` at their operations on values and on integers. -/
theorem vectorElementwise : Obligations.VectorElementwise := by
  unfold Obligations.VectorElementwise
  refine ⟨?add, ?sub, ?mul, ?max, ?min⟩
  case add => exact fun i s f => elementwise2_ready Val.add (fun f a b => wrapInt f (a + b))
  case sub => exact fun i s f => elementwise2_ready (fun a b => Val.add a (Val.neg b)) (fun f a b => wrapInt f (a - b))
  case mul => exact fun i s f => elementwise2_ready Val.mul (fun f a b => fitInt f (a * b))
  case max => exact fun i s f => elementwise2_ready valMax (fun f a b => wrapInt f (max a b))
  case min => exact fun i s f => elementwise2_ready valMin (fun f a b => wrapInt f (min a b))

/-- Settles O18: ABS and NEG are `elementwise1` at their operations; FMA and SELECT read their destination too and SCALE the
first element of operand B, and write the results once their operands are ready (`vecOp_ok`). -/
theorem vectorOneOperand : Obligations.VectorOneOperand := by
  unfold Obligations.VectorOneOperand
  refine ⟨?fma, ?abs, ?neg, ?scale, ?select⟩
  case fma => exact fun i s f fmt ready => vecOp_ok ⟨some tensorBytes, true⟩ _ _ _ fmt rfl rfl ready
  case abs => exact fun i s f => elementwise1_ready valAbs (fun f x => fitInt f x.natAbs)
  case neg => exact fun i s f => elementwise1_ready Val.neg (fun f x => fitInt f (-x))
  case scale => exact fun i s f fmt ready => vecOp_ok ⟨some (fun f _ => firstBytes f), false⟩ _ _ _ fmt rfl rfl ready
  case select => exact fun i s f fmt ready => vecOp_ok ⟨some (fun _ _ => 4), true⟩ _ _ _ fmt rfl rfl ready

end Sys2Proof.Machine

/-! Copies within a tile and lines between tiles: COPY, TCOPY, RECV and SEND (R129, R291, R294, R474). -/

namespace Sys2Proof.Machine

open Sys2Proof

/-- A copy whose source holds no parity error writes what `f` makes of the source's bytes. -/
theorem copyBytes_clean {s : State} {i : Issue} {src dst n : Nat} (f : List Byte → List Byte)
    (clean : badByte s i.tile src 0 n = none) :
    copyBytes s i src dst n f = writeBuf s i.tile dst 0 (f (readBuf s i.tile src 0 n)) := by
  rw [copyBytes, clean]

/-- Settles O25: the buffers are good and the source's parity is right, so each instruction passes its checks; a SEND stays on
its die or crosses the edge by its destination. -/
theorem tileCopies : Obligations.TileCopies := by
  unfold Obligations.TileCopies
  refine ⟨?copy, ?tcopy, ?recv, ?send⟩
  case copy =>
    intro i s slot buffers clean
    show execCopy i s = _
    rw [execCopy, issued_ok _ slot]
    dsimp only
    rw [if_neg (by simp [buffers]), copyBytes_clean _ clean]
  case tcopy =>
    intro i s slot esize rows squares buffers clean
    show execTcopy i s = _
    rw [execTcopy, issued_ok _ slot]
    dsimp only
    rw [if_neg (not_or.mpr ⟨esize, not_or.mpr ⟨not_not.mpr rows, not_not.mpr squares⟩⟩), if_neg (by simp [buffers]),
      copyBytes_clean _ clean]
  case recv =>
    intro i s slot buffer
    show execRecv i s = _
    rw [execRecv, issued_ok _ slot]
    exact congrArg Host.Outcome.next (if_neg (by simp [buffer]))
  case send =>
    intro i s slot buffer lines clean dest given
    show execSend i s = _
    rw [execSend, issued_ok _ slot]
    dsimp only
    rw [if_neg (not_or.mpr ⟨by simp [buffer], by omega⟩), clean]
    dsimp only
    rw [if_neg (by simp [given, dest])]

end Sys2Proof.Machine

/-! The issue of RMEM and MSGS (R251 to R255, R295, R296). -/

namespace Sys2Proof.Machine

open Sys2Proof

/-- An instruction that issues a dynamic effect outside a replay counts it and has it. -/
theorem issued_dynamic_ok {i : Issue} {s u : State} {used : Nat} (eff : State → State) (counted : u = countEffect s i.tile)
    (fresh : freshRun s i.tile) (slot : slotIssues s i used) :
    issued s i used (fun s => dynamic s i.tile eff) = .next (eff u) := by
  rw [issued_ok _ slot, dynamic_ok _ fresh, counted]

/-- Where every record of a list passes the issuer's checks, none is found to refuse it (R255). -/
theorem find_issueCheck_none {u : State} {part : Nat} {l : List (MemHdr × List Byte × Nat)}
    (pass : ∀ r ∈ l, issueCheck u part r.1 = 0) : l.find? (fun r => issueCheck u part r.1 != 0) = none :=
  List.find?_eq_none.mpr fun r hr => by simp [pass r hr]

/-- Settles O33: RMEM passes its checks on the list, the replies and the records, MSGS on its descriptor and its bytes. -/
theorem remoteMemoryIssue : Obligations.RemoteMemoryIssue := by
  unfold Obligations.RemoteMemoryIssue
  refine ⟨?rmem, ?msgs⟩
  case rmem =>
    intro i s u counted fresh slot list replies clean pass
    show execRmem i s = _
    rw [execRmem, issued_dynamic_ok _ counted fresh slot]
    dsimp only
    rw [if_neg (by simpa [list] using or_iff_not_imp_left.mp replies), clean, find_issueCheck_none pass]
  case msgs =>
    intro i s u counted fresh slot flags high middle slotLow mask buffer clean
    show execMsgs i s = _
    rw [execMsgs, issued_dynamic_ok _ counted fresh slot]
    dsimp only
    rw [if_neg (by simpa [flags, high, middle, slotLow] using or_iff_not_imp_left.mp mask), if_neg (by simp [buffer]), clean]
    split_ifs <;> rfl

end Sys2Proof.Machine

/-! T1, byte by byte, where no symbol is in error: what a read answers and what a write leaves (R325, R327, R328). -/

namespace Sys2Proof.Machine

open Sys2Proof Sys2Proof.Config

/-- The byte that a memory holds at a T1 address, the code not considered. -/
def t1Byte (m : Mem) (j : Nat) : Byte := NMap.get (fun _ => 0) m.t1 j

theorem t1Raw_eq_map (s : State) (a n : Nat) : t1Raw s a n = (List.range n).map (fun i => t1Byte s.mem (a + i)) := rfl

@[simp] theorem length_t1Raw (s : State) (a n : Nat) : (t1Raw s a n).length = n := by simp [t1Raw_eq_map]

@[simp] theorem getElem_t1Raw {s : State} {a n k : Nat} (h : k < (t1Raw s a n).length) :
    (t1Raw s a n)[k] = t1Byte s.mem (a + k) := by
  simp [t1Raw_eq_map]

theorem t1Raw_one (s : State) (a : Nat) : t1Raw s a 1 = [t1Byte s.mem a] := rfl

/-- Bytes of T1 that follow each other. -/
theorem t1Raw_append (s : State) (a n k : Nat) : t1Raw s a n ++ t1Raw s (a + n) k = t1Raw s a (n + k) := by
  simp [t1Raw_eq_map, List.range_add, Nat.add_assoc]

@[simp] theorem take_t1Raw (s : State) (a n k : Nat) : (t1Raw s a (n + k)).take n = t1Raw s a n := by
  rw [← t1Raw_append, List.take_left' (length_t1Raw ..)]

@[simp] theorem drop_t1Raw (s : State) (a n k : Nat) : (t1Raw s a (n + k)).drop n = t1Raw s (a + n) k := by
  rw [← t1Raw_append, List.drop_left' (length_t1Raw ..)]

/-! ### Reads -/

/-- No symbol of a block is wrong where no error is listed. -/
theorem wrongSymbols_clean {s : State} (clean : s.mem.t1err = []) (a : Nat) : wrongSymbols (errWord s a) = [] := by
  have zeros : errWord s a = List.replicate 72 0 := by
    simp only [errWord, clean]
    rfl
  rw [zeros]
  rfl

/-- A block with no wrong symbol answers its bytes, and only the count of reads changes (R327). -/
theorem readBlock_clean {s : State} (clean : s.mem.t1err = []) (a code : Nat) (queueIt : Bool) :
    readBlock s a code queueIt = (some (t1Raw s a 64), inc64 s (pgMch (t1Channel a) + 0x40) 1) := by
  have noWrong := wrongSymbols_clean (s := inc64 s (pgMch (t1Channel a) + 0x40) 1) clean a
  have ok : t1Decode (inc64 s (pgMch (t1Channel a) + 0x40) 1) a = .ok := by simp [t1Decode, rsDecode, noWrong]
  have passed : t1Passed (inc64 s (pgMch (t1Channel a) + 0x40) 1) a = t1Raw s a 64 := by
    rw [t1Passed, noWrong]
    rfl
  rw [readBlock]
  dsimp only
  rw [ok, passed]

/-- Reads of blocks answer the bytes of each in turn. -/
theorem readBlocks_clean (code : Nat) (queueIt : Bool) (as : List Nat) {s : State} (clean : s.mem.t1err = []) :
    ∃ u, readBlocks code queueIt as s = (some (as.flatMap (fun a => t1Raw s a 64)), u) := by
  induction as generalizing s with
  | nil => exact ⟨s, rfl⟩
  | cons a as ih =>
    obtain ⟨u, rest⟩ := ih (s := inc64 s (pgMch (t1Channel a) + 0x40) 1) clean
    rw [readBlocks, readBlock_clean clean]
    dsimp only
    rw [rest]
    exact ⟨u, rfl⟩

/-- The bytes of blocks in a row are one run. -/
theorem flatMap_t1Raw_blocks (s : State) (q n : Nat) :
    ((List.range n).map (fun i => (q + i) * 64)).flatMap (fun a => t1Raw s a 64) = t1Raw s (q * 64) (n * 64) := by
  induction n with
  | zero => rfl
  | succ n ih =>
    rw [List.range_succ, List.map_append, List.flatMap_append, ih, Nat.succ_mul, ← t1Raw_append]
    simp [Nat.add_mul]

/-- A demand read of T1 answers the bytes it asks for. -/
theorem t1Read_clean {s : State} (clean : s.mem.t1err = []) (a : Nat) {n : Nat} (pos : n ≠ 0) :
    (t1Read s a n).1 = some (t1Raw s a n) := by
  obtain ⟨u, blocks⟩ := readBlocks_clean 0x0503 true (blocksOf a n) clean
  rw [t1Read, blocks, blocksOf, if_neg pos, flatMap_t1Raw_blocks]
  have covered : a % 64 + n ≤ ((a + n - 1) / 64 - a / 64 + 1) * 64 := by omega
  obtain ⟨r, covers⟩ := Nat.exists_eq_add_of_le covered
  rw [covers, Nat.add_assoc]
  dsimp only
  rw [drop_t1Raw, take_t1Raw, Nat.div_add_mod' a 64]

/-! ### Writes -/

/-- The bytes `bs` stand in T1 from `a` on where `m` became `m'`, every other byte is the old one, and no symbol is in
error. -/
structure T1Wrote (m m' : Mem) (a : Nat) (bs : List Byte) : Prop where
  clean : m'.t1err = []
  inside : ∀ k (h : k < bs.length), t1Byte m' (a + k) = bs[k]
  outside : ∀ j, j < a ∨ a + bs.length ≤ j → t1Byte m' j = t1Byte m j

theorem T1Wrote.nil {m : Mem} (clean : m.t1err = []) (a : Nat) : T1Wrote m m a [] := ⟨clean, by simp, by simp⟩

/-- A write of no bytes is one at any address. -/
theorem T1Wrote.nil_at {m m' : Mem} {a : Nat} (wrote : T1Wrote m m' a []) (b : Nat) : T1Wrote m m' b [] :=
  ⟨wrote.clean, by simp, fun j _ => wrote.outside j (by simp; omega)⟩

/-- Bytes written, and then the bytes after them. -/
theorem T1Wrote.append {m m' m'' : Mem} {a : Nat} {bs cs : List Byte} (first : T1Wrote m m' a bs)
    (next : T1Wrote m' m'' (a + bs.length) cs) : T1Wrote m m'' a (bs ++ cs) := by
  refine ⟨next.clean, fun k h => ?_, fun j out => ?_⟩
  · rw [List.getElem_append]
    split
    case isTrue early => rw [next.outside _ (by omega), first.inside k early]
    case isFalse late =>
      rw [← next.inside (k - bs.length) (by simp at h; omega), Nat.add_assoc, Nat.add_sub_cancel' (by omega)]
  · rw [List.length_append] at out
    rw [next.outside j (by omega), first.outside j (by omega)]

/-- A write cut after `n` bytes, or after all of them where they are fewer. -/
theorem T1Wrote.take_drop {m m' m'' : Mem} {a n : Nat} {bs : List Byte} (first : T1Wrote m m' a (bs.take n))
    (rest : T1Wrote m' m'' (a + n) (bs.drop n)) : T1Wrote m m'' a bs := by
  rcases le_total n bs.length with long | short
  · have whole := first.append (cs := bs.drop n) (by rwa [List.length_take_of_le long])
    rwa [List.take_append_drop] at whole
  · rw [List.drop_eq_nil_of_le short] at rest
    simpa [List.take_of_length_le short] using first.append (rest.nil_at _)

/-- Where the first bytes of a write are the old ones, it is a write of the others. -/
theorem T1Wrote.of_old_append {s : State} {m' : Mem} {a n : Nat} {bs : List Byte}
    (wrote : T1Wrote s.mem m' a (t1Raw s a n ++ bs)) : T1Wrote s.mem m' (a + n) bs := by
  refine ⟨wrote.clean, fun k h => ?_, fun j out => ?_⟩
  · have written := wrote.inside (n + k) (by simp [h])
    simpa [Nat.add_assoc] using written
  · by_cases old : a ≤ j ∧ j < a + n
    · obtain ⟨k, rfl⟩ := Nat.exists_eq_add_of_le old.1
      have early : k < n := by omega
      rw [wrote.inside k (by simp; omega), List.getElem_append_left (by simpa using early), getElem_t1Raw]
    · exact wrote.outside j (by simp; omega)

/-- Where the last bytes of a write are the old ones, it is a write of the others. -/
theorem T1Wrote.of_append_old {s : State} {m' : Mem} {a n : Nat} {bs : List Byte}
    (wrote : T1Wrote s.mem m' a (bs ++ t1Raw s (a + bs.length) n)) : T1Wrote s.mem m' a bs := by
  refine ⟨wrote.clean, fun k h => ?_, fun j out => ?_⟩
  · rw [wrote.inside k (by simp; omega), List.getElem_append_left h]
  · by_cases old : a + bs.length ≤ j ∧ j < a + bs.length + n
    · obtain ⟨k, rfl⟩ := Nat.exists_eq_add_of_le old.1
      have written := wrote.inside (bs.length + k) (by simp; omega)
      simpa [Nat.add_assoc] using written
    · exact wrote.outside j (by simp; omega)

/-- A write of the bytes of T1 with their code (R325). -/
theorem t1WriteRaw_wrote {s : State} (clean : s.mem.t1err = []) (a : Nat) (bs : List Byte) :
    T1Wrote s.mem (t1WriteRaw s a bs).mem a bs := by
  refine ⟨by simp [t1WriteRaw, clean, NMap.delIf], fun k h => ?_, fun j out => ?_⟩
  · exact (get_writeBytes ..).trans (by simp [h])
  · exact (get_writeBytes ..).trans (if_neg (by omega))

/-- A write of bytes merged with the other bytes of their range is a write of those bytes alone. -/
theorem T1Wrote.of_merged {s : State} {m' : Mem} {c o k : Nat} {bs : List Byte} (fits : o + bs.length ≤ k)
    (wrote : T1Wrote s.mem m' c ((t1Raw s c k).take o ++ bs ++ (t1Raw s c k).drop (o + bs.length))) :
    T1Wrote s.mem m' (c + o) bs := by
  obtain ⟨n, rfl⟩ := Nat.exists_eq_add_of_le fits
  rw [drop_t1Raw, Nat.add_assoc o, take_t1Raw, List.append_assoc, ← Nat.add_assoc c] at wrote
  exact wrote.of_old_append.of_append_old

/-- A write within one block is done, whole or merged with the block's other bytes (R328). -/
theorem t1WriteBlock_clean {s : State} (clean : s.mem.t1err = []) {a : Nat} {bs : List Byte}
    (fits : a % 64 + bs.length ≤ 64) :
    (t1WriteBlock s a bs).1 = true ∧ T1Wrote s.mem (t1WriteBlock s a bs).2.mem a bs := by
  rw [t1WriteBlock]
  dsimp only
  split
  case isTrue => exact ⟨rfl, t1WriteRaw_wrote (s := inc64 s _ 1) clean a bs⟩
  case isFalse =>
    rw [readBlock_clean (s := incSat s (pgMch (t1Channel a) + 0x58) 1) clean]
    have merged := (t1WriteRaw_wrote clean (a / 64 * 64) _).of_merged fits
    rw [Nat.div_add_mod' a 64] at merged
    exact ⟨rfl, merged.clean, merged.inside, merged.outside⟩

/-- A write block by block is done whole. -/
theorem foldl_blockPieces_clean (f : Nat) {s : State} (clean : s.mem.t1err = []) {a : Nat} {bs : List Byte}
    (fuel : bs.length < f) :
    let r := (blockPieces f a bs).foldl
      (fun (r : Bool × State) p => let w := t1WriteBlock r.2 p.1 p.2; (r.1 && w.1, w.2)) (true, s)
    r.1 = true ∧ T1Wrote s.mem r.2.mem a bs := by
  induction f generalizing s a bs with
  | zero => omega
  | succ f ih =>
    rw [blockPieces]
    split
    case isTrue empty =>
      rw [List.isEmpty_iff.mp empty]
      exact ⟨rfl, .nil clean a⟩
    case isFalse some_byte =>
      have pos : 0 < bs.length := List.length_pos_iff.mpr (by simpa using some_byte)
      obtain ⟨done, wrote⟩ := t1WriteBlock_clean clean (a := a) (bs := bs.take (64 - a % 64)) (by simp; omega)
      obtain ⟨restDone, rest⟩ := ih wrote.clean (a := a + (64 - a % 64)) (bs := bs.drop (64 - a % 64)) (by simp; omega)
      dsimp only [List.foldl_cons]
      rw [done, Bool.and_self]
      exact ⟨restDone, wrote.take_drop rest⟩

/-- A write of T1 is done whole. -/
theorem t1Write_clean {s : State} (clean : s.mem.t1err = []) (a : Nat) (bs : List Byte) :
    (t1Write s a bs).1 = true ∧ T1Wrote s.mem (t1Write s a bs).2.mem a bs :=
  foldl_blockPieces_clean _ clean (Nat.lt_succ_self _)

/-- The bytes of a write, read back. -/
theorem T1Wrote.t1Raw_same {m : Mem} {u : State} {a : Nat} {bs : List Byte} (wrote : T1Wrote m u.mem a bs) :
    t1Raw u a bs.length = bs :=
  List.ext_getElem (by simp) fun k _ h => by rw [getElem_t1Raw, wrote.inside k h]

/-- Settles O14: each block's piece is written whole, since a clean block passes its decoder, and leaves T1 clean for the
pieces and the reads after it. -/
theorem t1ReadAfterWrite : Obligations.T1ReadAfterWrite := by
  unfold Obligations.T1ReadAfterWrite
  intro s a bs clean some_byte _
  obtain ⟨done, wrote⟩ := t1Write_clean clean a bs
  refine ⟨done, ?same, ?frame⟩
  case same => rw [t1Read_clean wrote.clean a (mt List.eq_nil_of_length_eq_zero some_byte), wrote.t1Raw_same]
  case frame =>
    intro b outside
    rw [t1Raw_one, t1Raw_one, wrote.outside b outside]

end Sys2Proof.Machine

/-! Counters, events and errors in the registers of a page (R429, R435 to R438). -/

namespace Sys2Proof.Machine

open Sys2Proof Sys2Proof.Config

/-! ### Counters -/

theorem toNat_satAdd (x : Word) (n : Nat) : (satAdd x n).toNat = min (x.toNat + n) 0xFFFFFFFF := by
  rw [satAdd, BitVec.toNat_ofNat, Nat.mod_eq_of_lt (by omega)]

/-! ### Events -/

@[simp] theorem getReg_irqRise (s : State) (a : Nat) : getReg (irqRise s) a = getReg s a := by
  rw [getReg, irqRise_regs, getReg]

/-- An event that has set its bit in EVT_RAW and counted in EVT_SETCNT (R435). -/
def evtCounted (s : State) (page b : Nat) : State :=
  let s := setReg s (page + 0x10) (getReg s (page + 0x10) ||| BitVec.ofNat 32 (2 ^ b))
  setReg s (page + 0x1C) (satAdd (getReg s (page + 0x1C)) 1)

theorem getReg_evtCounted (s : State) (page b a : Nat) :
    getReg (evtCounted s page b) a = if a = page + 0x10 then getReg s a ||| BitVec.ofNat 32 (2 ^ b)
      else if a = page + 0x1C then satAdd (getReg s a) 1 else getReg s a := by
  rw [evtCounted, getReg_setReg, getReg_setReg, getReg_setReg, if_neg (by omega : page + 0x10 ≠ page + 0x1C)]
  by_cases raw : a = page + 0x10
  · subst raw
    rw [if_neg (by omega), if_pos rfl, if_pos rfl]
  · rw [if_neg raw, if_neg (Ne.symm raw)]
    by_cases count : a = page + 0x1C
    · subst count
      rw [if_pos rfl]
    · rw [if_neg count, if_neg (Ne.symm count)]

/-- An event that has set its bit in EVT_PEND too (R435). -/
def evtPended (s : State) (page b : Nat) : State :=
  setReg (evtCounted s page b) (page + 0x18) (getReg s (page + 0x18) ||| BitVec.ofNat 32 (2 ^ b))

/-- An event is counted; where its mask bit is clear it is pending too, and a rise sends the device event vector where the page
enables it (R435, R436). -/
theorem evt_eq (s : State) (page b : Nat) :
    evt s page b = if getReg s (page + 0x14) &&& BitVec.ofNat 32 (2 ^ b) = 0 then
        if getReg s (page + 0x18) &&& BitVec.ofNat 32 (2 ^ b) = 0 ∧ regN (evtPended s page b) (page + 8) % 2 = 1 then
          irqRise (evtPended s page b)
        else evtPended s page b
      else evtCounted s page b := by
  have mask : getReg (evtCounted s page b) (page + 0x14) = getReg s (page + 0x14) := by simp [getReg_evtCounted]
  have pend : getReg (evtCounted s page b) (page + 0x18) = getReg s (page + 0x18) := by simp [getReg_evtCounted]
  rw [evtPended, ← mask, ← pend]
  rfl

/-- Beside what it counts, an event whose mask bit is clear sets its bit in EVT_PEND (R435). -/
theorem getReg_evt (s : State) (page b a : Nat) :
    getReg (evt s page b) a =
      if a = page + 0x18 ∧ getReg s (page + 0x14) &&& BitVec.ofNat 32 (2 ^ b) = 0 then
        getReg s a ||| BitVec.ofNat 32 (2 ^ b)
      else getReg (evtCounted s page b) a := by
  rw [evt_eq]
  by_cases clear : getReg s (page + 0x14) &&& BitVec.ofNat 32 (2 ^ b) = 0
  · rw [if_pos clear, apply_ite (getReg · a), getReg_irqRise, ite_self, evtPended, getReg_setReg]
    by_cases pending : page + 0x18 = a
    · subst pending
      rw [if_pos rfl, if_pos ⟨rfl, clear⟩]
    · rw [if_neg pending, if_neg (fun h => pending h.1.symm)]
  · rw [if_neg clear, if_neg (fun h => clear h.2)]

/-- A bit of a word is clear exactly where the word shares nothing with its mask. -/
theorem and_bit_eq_zero_iff (x : Word) {b : Nat} (small : b < 32) :
    x &&& BitVec.ofNat 32 (2 ^ b) = 0 ↔ x.getLsbD b = false := by
  have mask : BitVec.ofNat 32 (2 ^ b) = BitVec.twoPow 32 b := BitVec.eq_of_toNat_eq (by simp)
  rw [mask, BitVec.and_twoPow]
  cases x.getLsbD b
  · simp
  · have bit_set : BitVec.twoPow 32 b ≠ 0 := fun zero => by
      simpa [small] using congrArg (BitVec.getLsbD · b) zero
    simpa using bit_set

/-- Settles O11: a counter reads as its own update says, and the four event registers as `getReg_evt` says. -/
theorem countersAndEvents : Obligations.CountersAndEvents := by
  unfold Obligations.CountersAndEvents
  refine ⟨fun s a b n => ⟨?wraps, ?saturates, ?frame, rfl, rfl, rfl, rfl⟩,
    fun s page b small => ⟨?raw, ?mask, ?pend, ?setcnt⟩⟩
  case wraps => simp
  case saturates => simp [toNat_satAdd]
  case frame =>
    intro other
    simp [other.symm]
  case raw => simp [getReg_evt, getReg_evtCounted]
  case mask => simp [getReg_evt, getReg_evtCounted]
  case pend =>
    simp only [getReg_evt, and_bit_eq_zero_iff _ small]
    cases (getReg s (page + 0x14)).getLsbD b <;> simp [getReg_evtCounted]
  case setcnt => simp [getReg_evt, getReg_evtCounted, toNat_satAdd]

/-! ### Errors -/

/-- An event changes only EVT_RAW, EVT_PEND and EVT_SETCNT of its page (R435). -/
theorem getReg_evt_of_ne {s : State} {page b a : Nat} (raw : a ≠ page + 0x10) (pend : a ≠ page + 0x18)
    (setcnt : a ≠ page + 0x1C) : getReg (evt s page b) a = getReg s a := by
  rw [getReg_evt, if_neg (fun h => pend h.1), getReg_evtCounted, if_neg raw, if_neg setcnt]

/-- An address outside the event registers of the Lodge, where a wrapped error log sets its event (R438). -/
def OffLodgeEvents (a : Nat) : Prop := a ≠ pgLodge + 0x10 ∧ a ≠ pgLodge + 0x18 ∧ a ≠ pgLodge + 0x1C

theorem getReg_writeLog {a : Nat} (off : OffLodgeEvents a) (s : State) (code page : Nat) (part : Option Nat)
    (step supp : Nat) : getReg (logErr.writeLog s code page part step supp) a = getReg s a := by
  obtain ⟨raw, pend, setcnt⟩ := off
  unfold logErr.writeLog
  extract_lets
  split
  · exact getReg_evt_of_ne raw pend setcnt
  · rfl

/-- The error log changes no register but the Lodge's event registers. -/
theorem getReg_logErr {a : Nat} (off : OffLodgeEvents a) (s : State) (page code : Nat) (part : Option Nat) (step : Nat) :
    getReg (logErr s page code part step) a = getReg s a := by
  unfold logErr
  split
  · rfl
  · extract_lets
    split
    · split
      · rfl
      · exact getReg_writeLog off ..
    · exact getReg_writeLog off ..

/-- A page with an error's code and time captured, where it is the first or the lowest of its cycle (R437). -/
def errCaptured (s : State) (page code : Nat) : State :=
  if getReg s (page + 0x28) = 0 then
    let s := setRegN (setRegN s (page + 0x20) code) (page + 0x24) (now s)
    { s with regs := { s.regs with errAt := NMap.put s.regs.errAt page s.clk.root } }
  else if NMap.find s.regs.errAt page = some s.clk.root ∧ code < regN s (page + 0x20) then setRegN s (page + 0x20) code
  else s

theorem errIn_eq (s : State) (page code : Nat) (part : Option Nat) (step : Nat) :
    errIn s page code part step = logErr (setReg (errCaptured s page code) (page + 0x28)
      (satAdd (getReg (errCaptured s page code) (page + 0x28)) 1)) page code part step := rfl

@[simp] theorem getReg_setRegN (s : State) (a b v : Nat) :
    getReg (setRegN s a v) b = if a = b then BitVec.ofNat 32 v else getReg s b := getReg_setReg ..

/-- Capture changes ERR_FIRST and ERR_FIRST_TS for a first error, and ERR_FIRST alone for a lower one of its cycle. -/
theorem getReg_errCaptured (s : State) (page code a : Nat) :
    getReg (errCaptured s page code) a = if getReg s (page + 0x28) = 0 then
        if page + 0x24 = a then BitVec.ofNat 32 (now s) else if page + 0x20 = a then BitVec.ofNat 32 code else getReg s a
      else if NMap.find s.regs.errAt page = some s.clk.root ∧ code < (getReg s (page + 0x20)).toNat then
        if page + 0x20 = a then BitVec.ofNat 32 code else getReg s a
      else getReg s a := by
  rw [errCaptured]
  by_cases first : getReg s (page + 0x28) = 0
  · rw [if_pos first, if_pos first, ← getReg_setRegN, ← getReg_setRegN]
    rfl
  · rw [if_neg first, if_neg first, apply_ite (getReg · a), getReg_setRegN]
    rfl

/-- The error registers of an aligned page are no event registers of the Lodge. -/
theorem offLodgeEvents_page {page k : Nat} (aligned : page % 0x1000 = 0) (low : 0x1C < k) (high : k < 0x1000) :
    OffLodgeEvents (page + k) := by
  unfold OffLodgeEvents pgLodge
  omega

/-- The registers of an aligned page after an error: ERR_COUNT has counted it, the others are as captured. -/
theorem getReg_errIn {page k : Nat} (aligned : page % 0x1000 = 0) (low : 0x1C < k) (high : k < 0x1000) (s : State)
    (code : Nat) (part : Option Nat) (step : Nat) :
    getReg (errIn s page code part step) (page + k) = if k = 0x28 then satAdd (getReg s (page + 0x28)) 1
      else getReg (errCaptured s page code) (page + k) := by
  have count : getReg (errCaptured s page code) (page + 0x28) = getReg s (page + 0x28) := by simp [getReg_errCaptured]
  rw [errIn_eq, getReg_logErr (offLodgeEvents_page aligned low high), getReg_setReg, count]
  exact if_congr (by omega) rfl rfl

/-- Settles O12: the three error registers lie outside what the error log changes, so they are as `getReg_errIn` and
`getReg_errCaptured` say. -/
theorem errorCapture : Obligations.ErrorCapture := by
  unfold Obligations.ErrorCapture
  intro s page code step part aligned _
  refine ⟨?count, ?first, ?time⟩
  case count => rw [getReg_errIn aligned (by decide) (by decide), if_pos rfl, toNat_satAdd]
  case first =>
    rw [getReg_errIn aligned (by decide) (by decide), if_neg (by decide), getReg_errCaptured]
    simp
  case time =>
    rw [getReg_errIn aligned (by decide) (by decide), if_neg (by decide), getReg_errCaptured]
    simp

end Sys2Proof.Machine

/-! What a step does, and the bound of the stretch that it keeps (R352, R361, R362). -/

namespace Sys2Proof.Machine

open Sys2Proof Sys2Proof.Config

/-- Settles O6: every operation of the model keeps the bound of the stretch, so a step's command, or its root cycle, does. -/
theorem stretchBoundKept : Obligations.StretchBoundKept := by
  unfold Obligations.StretchBoundKept
  intro s t bounded e
  exact (keeps_of_step e).bounded bounded

/-- Settles O1: a step takes the command from the front of the queue before it runs it. -/
theorem stepRunsFront : Obligations.StepRunsFront := by
  unfold Obligations.StepRunsFront
  intro c rest s
  rfl

/-- Settles O2: an empty queue leaves the root cycle, whose first check ends it while the root PLL is not locked. -/
theorem stepIdle : Obligations.StepIdle := by
  unfold Obligations.StepIdle
  intro s idle
  have cycle : step s = rootCycle s := by rw [step, idle]
  refine ⟨cycle, fun unlocked => ?_⟩
  rw [cycle, rootCycle, if_pos (by simp [unlocked])]

end Sys2Proof.Machine

/-! The module's supply, rails and fault latch (R459 to R466). -/

namespace Sys2Proof.Machine

open Sys2Proof Sys2Proof.Config

/-- Settles O28: each event finds the latch and the rail sequence as the clause says. -/
theorem moduleSupply : Obligations.ModuleSupply := by
  unfold Obligations.ModuleSupply
  refine ⟨?starts, ?holds, ?settles, ?timesOut, fun _ => rfl, fun _ => rfl, ?clears, ?clearsOn⟩
  case starts =>
    intro s clear off
    exact congrArg Host.Outcome.next (if_neg (by simp [clear, off]))
  case holds =>
    intro s held
    exact congrArg Host.Outcome.next (if_pos held)
  case settles =>
    intro s k on more
    show execRailSettled s = _
    simp only [execRailSettled, on]
    exact whenOk_holds _ _ (decide_eq_true more)
  case timesOut =>
    intro s k on more
    show execRailSequenceTimeout s = _
    simp only [execRailSequenceTimeout, on]
    exact whenOk_holds _ _ (decide_eq_true more)
  case clears =>
    intro s off
    show execFaultLatchClear s = _
    rw [execFaultLatchClear, off]
    rfl
  case clearsOn =>
    intro s k on
    show execFaultLatchClear s = _
    rw [execFaultLatchClear, on]
    rfl

end Sys2Proof.Machine

/-! PLL lock, the pins of the host link, and the alignment of the time base (R362 to R367, R467). -/

namespace Sys2Proof.Machine

open Sys2Proof Sys2Proof.Config

/-- PLL_LOCK on a powered device that is not locked and has no device fault (R362, R467). -/
theorem exec_pllLock_powered {u : List Nat} {s : State} (power : s.mod.powerGood = true) (unlocked : s.clk.pllLocked = false)
    (sound : s.boot.state ≠ .deviceFault) :
    exec (.pllLock u) s = .next (if s.host.perst then
        { s with clk := { s.clk with pllLocked := true, tb := 0, tbFrac := 0 } }
      else startBoot { s with clk := { s.clk with pllLocked := true, tb := 0, tbFrac := 0 } } u) := by
  show execPllLock u s = _
  rw [execPllLock, if_neg (by simp [power, unlocked, sound])]

/-- TB_PERIOD_EXPIRY of a device that aligns and has a parent (R365, R366). -/
theorem exec_tbPeriodExpiry_aligns {s u : State} {d : Nat} (child : isRoot s = false)
    (aligns : bit (regN s (pgTb + 0x104)) 1 = true)
    (shown : u = setParent { s with tb := { s.tb with missed := s.tb.missed + 1, reqAt := now s } })
    (parent : u.tb.parent = some d) :
    exec .tbPeriodExpiry s = .next (sendTime
      { u with tb := { u.tb with seq := (u.tb.seq + 1) % 2 ^ 32, req := some ((u.tb.seq + 1) % 2 ^ 32, stamp16 u) } }
      d 1 ((u.tb.seq + 1) % 2 ^ 32) (stamp16 u) 0 0) := by
  show execTbPeriodExpiry s = _
  rw [execTbPeriodExpiry, if_neg (by simp [child, aligns])]
  dsimp only
  rw [← shown, parent]

/-- TIME_RESPONSE to the latest request, from the parent (R366, R367). -/
theorem exec_timeResponse_latest {s u v w : State} {p : Pkt} {q t1 : Nat} {off dly : Int}
    (taken : takeEjected s (fun p => p.proto == 0xA && byteFld p.body 0 0 == 2) = some (p, u))
    (latest : u.tb.req = some (q, t1)) (answers : byteFld p.body 4 7 = q) (parent : u.tb.parent = some p.src)
    (offset : off = (((byteFld p.body 16 23 : Int) - t1) - ((stamp16 u : Int) - byteFld p.body 24 31)) / 2)
    (delay : dly = (((stamp16 u : Int) - t1) - ((byteFld p.body 24 31 : Int) - byteFld p.body 16 23)) / 2)
    (kept : v = exchangeKept u p off dly)
    (moved : w = (if v.tb.locked = false ∧ anyStep v = false ∧ (16000 < off ∨ off < -16000) then incSat
      { v with clk := { v.clk with tb := v.clk.tb + BitVec.ofInt 64 (off / 16) } } (pgTb + 0x50) 1 else slewBy v off)) :
    exec .timeResponse s = .next
      (setParent (setRegN (lockBy w off) (pgTb + 0x120) (code32 (lockBy w off).tb.rate))) := by
  show execTimeResponse s = _
  simp only [execTimeResponse, taken, latest]
  rw [if_neg (by simp [answers, parent])]
  simp only [Bool.not_eq_true']
  rw [← offset, ← delay]
  subst moved kept
  rfl

/-- A response that answers no request, or not the latest of the parent's, is discarded (R366). -/
theorem exec_timeResponse_other {s u : State} {p : Pkt}
    (taken : takeEjected s (fun p => p.proto == 0xA && byteFld p.body 0 0 == 2) = some (p, u))
    (other : u.tb.req = none ∨ u.tb.parent ≠ some p.src ∨ u.tb.req.map (fun r => r.1) ≠ some (byteFld p.body 4 7)) :
    exec .timeResponse s = .next u := by
  show execTimeResponse s = _
  simp only [execTimeResponse, taken]
  cases request : u.tb.req with
  | none => rfl
  | some r =>
    dsimp only
    rw [if_pos]
    simp only [request, reduceCtorEq, false_or, Option.map_some, ne_eq, Option.some.injEq] at other
    exact other.symm.imp_left Ne.symm

/-- Settles O29: each event passes the checks that the clause's hypotheses name, and a response is read by its match with the
latest request. -/
theorem clockAndPins : Obligations.ClockAndPins := by
  unfold Obligations.ClockAndPins
  refine ⟨?boots, ?held, fun _ => rfl, ?lost, fun _ => rfl, ?released, ?link, ?set, ?setRefused, ?asks, ?quiet, ?answers,
    ?aligned, ?discarded, ?unlocked⟩
  case boots =>
    intro u s power unlocked sound free
    rw [exec_pllLock_powered power unlocked sound, if_neg (by simp [free])]
  case held =>
    intro u s power unlocked sound perst
    rw [exec_pllLock_powered power unlocked sound, if_pos perst]
  case lost =>
    rintro s _ locked rfl
    exact if_neg (by simp [locked])
  case released =>
    intro u s perst
    exact if_neg (by simp [perst])
  case link =>
    intro w v s locked free down
    show execPcieLinkUp w v s = _
    rw [execPcieLinkUp]
    refine (whenOk_holds _ _ (by simp [locked, free, down])).trans ?_
    split <;> rfl
  case set =>
    rintro s _ takes unlocked idle rfl
    show execTbSet s = _
    rw [execTbSet, guardWrite_ok s _ _ takes, if_neg (by simp [unlocked, idle])]
  case setRefused =>
    intro s takes busy
    show execTbSet s = _
    rw [execTbSet, guardWrite_ok s _ _ takes, if_pos busy]
  case asks => exact fun s u d => exec_tbPeriodExpiry_aligns
  case quiet =>
    intro s root
    exact if_pos (by simpa using root)
  case answers =>
    rintro s u _ p taken rfl
    show execTimeRequest s = _
    simp only [execTimeRequest, taken]
    rfl
  case aligned => exact fun s u v w p q t1 off dly => exec_timeResponse_latest
  case discarded => exact fun s u p => exec_timeResponse_other
  case unlocked =>
    intro s locked missed
    exact whenOk_holds _ _ (by simp [locked, missed])

end Sys2Proof.Machine

/-! Bring-up, the firmware image, and the resets of single domains (R368 to R387). -/

namespace Sys2Proof.Machine

open Sys2Proof Sys2Proof.Config

/-- Settles O30: each step of bring-up finds the state that it waits for. -/
theorem bringUpSteps : Obligations.BringUpSteps := by
  unfold Obligations.BringUpSteps
  refine ⟨?trained, ?filled, ?powered, ?ready⟩
  case trained =>
    intro u ms us s untrained stage
    exact if_neg (by simp only [untrained, stage]; decide)
  case filled =>
    intro c s chan trained idle
    exact if_neg (by simp only [trained, idle]; simpa using chan)
  case powered =>
    intro s stage
    exact whenOk_holds _ _ (by simp [stage])
  case ready =>
    rintro u meas s _ stage trained filled rfl
    exact if_neg (by simp [stage, trained, filled])

/-- Settles O31: each command finds the image in the state that the clause names; what becomes of a received one is the branch
of its fault code. -/
theorem imageLoading : Obligations.ImageLoading := by
  unfold Obligations.ImageLoading
  refine ⟨?load, ?broadcast, ?kept, ?dropped, ?incomplete, ?received, ?attest⟩
  case load =>
    intro s waits
    exact if_neg (not_not.mpr waits)
  case broadcast =>
    rintro s _ valid verifying ready fault rfl
    exact if_neg (by simp [valid, verifying, ready, fault])
  case kept =>
    intro s u p taken fits
    show execBootPacket s = _
    simp only [execBootPacket, taken]
    exact if_pos fits
  case dropped =>
    intro s u p taken misfits
    show execBootPacket s = _
    simp only [execBootPacket, taken]
    exact if_neg (by simp [misfits])
  case incomplete =>
    intro s a waits last due missing
    show execBroadcastIncompleteTimeout s = _
    simp only [execBroadcastIncompleteTimeout, last]
    exact whenOk_holds _ _ (by simp [waits, due, missing])
  case received =>
    intro s verifying
    show execImageReceived s = _
    rw [execImageReceived, if_neg (not_not.mpr verifying)]
    dsimp only
    by_cases sound : imgFault s.fuse (rxBytes s.boot) = 0
    · rw [if_neg (not_not.mpr sound), if_pos sound]
    · rw [if_pos sound, if_neg sound]
  case attest =>
    intro s reached
    exact if_neg (by simp only [reached]; decide)

/-- Settles O32: the key is checked first, then the state in which the reset acts. -/
theorem bootResets : Obligations.BootResets := by
  unfold Obligations.BootResets
  refine ⟨?router, ?die, ?part, ?key, ?dieDone, ?partReset⟩
  case router =>
    intro u s locked
    show execBootResetRouterDie 0xA5 u s = _
    rw [execBootResetRouterDie, if_neg (by decide), if_neg (by simp [locked])]
  case die =>
    rintro d s _ die running ready rfl
    show execBootResetComputeDie d 0xA5 s = _
    rw [execBootResetComputeDie, if_neg (by decide), if_neg (by simp [running, ready, die])]
  case part =>
    intro n s part
    show execBootResetPartition n 0xA5 s = _
    rw [execBootResetPartition, if_neg (by decide), if_neg (Nat.not_le.mpr part)]
  case key => exact fun key d n u s wrong => ⟨if_pos wrong, if_pos wrong, if_pos wrong⟩
  case dieDone =>
    intro d chk trn kat s die held ready
    exact if_neg (by simp [die, held, ready])
  case partReset =>
    intro n code s pending boundary
    show execPartitionResetTakeEffect n s = _
    simp only [execPartitionResetTakeEffect, pending]
    exact if_neg (not_not.mpr boundary)

end Sys2Proof.Machine

/-! Samples, limits, windows and gating of the power controllers (R341 to R360). -/

namespace Sys2Proof.Machine

open Sys2Proof Sys2Proof.Config

/-- Settles O49: samples, evaluations and windows are the model's stages with their intermediate states named; writes are taken by
their page, and the other events find what they wait for. -/
theorem powerAndThermal : Obligations.PowerAndThermal := by
  unfold Obligations.PowerAndThermal
  refine ⟨?rails, ?temps, ?evaluation, ?window, ?allot, ?ilimit, ?pace, fun _ => rfl, ?gates, ?ungates, ?notice⟩
  case rails =>
    rintro r s _ rfl
    rfl
  case temps =>
    rintro r s _ rfl
    rfl
  case evaluation =>
    rintro s _ _ rfl rfl
    rfl
  case window =>
    rintro s _ _ _ rfl rfl rfl
    show execWindowEnd s = _
    simp only [execWindowEnd, Nat.sub_pos_iff_lt]
  case allot =>
    intro v s takes
    exact guardWrite_ok s _ _ takes
  case ilimit =>
    intro v s takes
    exact guardWrite_ok s _ _ takes
  case pace =>
    intro v s takes
    show execPaceClear v s = _
    rw [execPaceClear, guardWrite_ok s _ _ takes]
    have low : bit v 0 = true ↔ v % 2 = 1 := by simp [bit]
    by_cases clears : v % 2 = 1
    · rw [if_pos (low.mpr clears), if_pos clears]
    · rw [if_neg (mt low.mp clears), if_neg clears]
  case gates =>
    intro t s tile enabled powered idle due
    exact whenOk_holds _ _ (by simp [bit, tile, enabled, powered, idle, due])
  case ungates =>
    intro n s st waits ready
    show execUngateWave n s = _
    simp only [execUngateWave, waits]
    exact if_neg (by simp [ready])
  case notice =>
    intro s n a st oldest sent due
    show execLoadNoticeEnd s = _
    simp only [execLoadNoticeEnd, oldest, sent]
    rw [if_neg (Nat.not_lt.mpr due)]
    exact (apply_ite Host.Outcome.next _ _ _).symm

end Sys2Proof.Machine

/-! Doorbells and the commands of queue pairs (R395, R396, R402, R403, R407, R410). -/

namespace Sys2Proof.Machine

open Sys2Proof Sys2Proof.Config

/-- An SQ doorbell of a pair that its function names is a bad one, or sets the tail and lets the pair fetch (R396). -/
theorem exec_sqDoorbell_names {fn q k v : Nat} {s : State} (names : namesPair s fn q k) :
    exec (.sqDoorbell fn q v) s = .next (if sqBad (getQp s k) (v % 65536) then badDoorbell s k
      else fetchPair (tailSet s k v) k) := by
  obtain ⟨decodes, pair⟩ := names
  show execSqDoorbell fn q v s = _
  rw [execSqDoorbell, if_neg (by simp [decodes]), pair]
  exact (apply_ite Host.Outcome.next _ _ _).symm

/-- A CQ doorbell of a pair that its function names is a bad one, or sets the head, releases held completions and lets the pair
fetch (R396, R402). -/
theorem exec_cqDoorbell_names {fn q k v : Nat} {s : State} (names : namesPair s fn q k) :
    exec (.cqDoorbell fn q v) s = .next (if cqBad (getQp s k) (v % 65536) then badDoorbell s k
      else fetchPair (releaseCompls (getQp s k).held.length (headSet s k v) k) k) := by
  obtain ⟨decodes, pair⟩ := names
  show execCqDoorbell fn q v s = _
  rw [execCqDoorbell, if_neg (by simp [decodes]), pair]
  exact (apply_ite Host.Outcome.next _ _ _).symm

/-- Settles O58: a function that names a pair acts on it (`onPair_ok`), one that names none violates (`onPair_none`), and the
other events find the pair as the clause says. -/
theorem queuePairs : Obligations.QueuePairs := by
  unfold Obligations.QueuePairs
  refine ⟨fun fn q k v s => exec_sqDoorbell_names, fun fn q k v s => exec_cqDoorbell_names, ?enable, ?disable, ?release,
    ?foreign, ?drained, ?quarantine, ?coalesced⟩
  case enable => exact fun fn q k s names => (onPair_ok _ names : execQpEnable fn q s = _)
  case disable => exact fun fn q k s names => (onPair_ok _ names : execQpDisable fn q s = _)
  case release => exact fun fn q k s names => (onPair_ok _ names : execQpUnquarantine fn q s = _)
  case foreign =>
    intro fn q s c command decodes stray
    simp only [List.mem_cons, List.not_mem_nil, or_false] at command
    rcases command with rfl | rfl | rfl | rfl | rfl
    · show execSqDoorbell fn q 0 s = _
      rw [execSqDoorbell, if_neg (by simp [decodes]), stray]
    · show execCqDoorbell fn q 0 s = _
      rw [execCqDoorbell, if_neg (by simp [decodes]), stray]
    · exact (onPair_none _ decodes stray : execQpEnable fn q s = _)
    · exact (onPair_none _ decodes stray : execQpDisable fn q s = _)
    · exact (onPair_none _ decodes stray : execQpUnquarantine fn q s = _)
  case drained =>
    intro q s draining entries held
    exact whenOk_holds _ _ (by simp [draining, entries, held])
  case quarantine =>
    intro q s free many
    exact whenOk_holds _ _ (by simp only [free, many]; decide)
  case coalesced =>
    intro q s counted due
    exact whenOk_holds _ _ (by simp [counted, due])

end Sys2Proof.Machine

/-! The mailbox commands of a partition (R413 to R422, R425). -/

namespace Sys2Proof.Machine

open Sys2Proof Sys2Proof.Config

/-- A mailbox command of a partition that is in an allowed state acts on it (R425). -/
theorem mailbox_onPart_ok {s u : State} {opc k n : Nat} {rsv : List Nat} {req : List Byte} {p : Part} {l : List PartState}
    {f : State → Nat → Part → MboxAns} (takes : mboxTakes s opc k rsv req) (shown : u = mboxShown s req)
    (part : mboxPart u req n p l) :
    mailbox s opc k rsv req (fun s => onPart req l s (f s)) = .next (mboxAnswer (f u n p)) := by
  rw [mailbox_ok s u _ _ _ _ _ takes shown, onPart_ok u req n p _ _ part]

/-- A mailbox command of a partition that is in another state is refused with 0x1102 (R425). -/
theorem mailbox_onPart_refused {s u : State} {opc k : Nat} {rsv : List Nat} {req : List Byte} {l : List PartState}
    {f : State → Nat → Part → MboxAns} (takes : mboxTakes s opc k rsv req) (shown : u = mboxShown s req)
    (part : rq req 4 4 < 4) (other : l.contains (getPart u (rq req 4 4)).state = false) :
    mailbox s opc k rsv req (fun s => onPart req l s (f s)) = .next (mboxAnswer (refuse u 0x1102)) := by
  rw [mailbox_ok s u _ _ _ _ _ takes shown]
  dsimp only [onPart]
  rw [if_neg (Nat.not_le.mpr part), if_neg (by simp only [other]; decide)]

/-- Settles O47: a command of a partition in an allowed state acts (`mailbox_onPart_ok`) once its operands pass its checks, and in
any other state it is refused (`mailbox_onPart_refused`). -/
theorem mailboxPartitions : Obligations.MailboxPartitions := by
  unfold Obligations.MailboxPartitions
  refine ⟨?set, ?free, ?opens, ?epoch, ?stop, ?resume, ?reset, ?close, ?release, ?quota, ?refused⟩
  case set =>
    intro req s u n p takes shown part form fits
    show execPartSet req s = _
    rw [execPartSet, mailbox_onPart_ok takes shown part]
    dsimp only
    rw [if_neg (by simp [form]), if_neg (by simp only [fits]; decide)]
  case free => exact fun req s u n p takes shown part => (mailbox_onPart_ok takes shown part : execPartFree req s = _)
  case opens =>
    intro req s u n p takes shown part tag unknown
    show execJobOpen req s = _
    rw [execJobOpen, mailbox_onPart_ok takes shown part]
    dsimp only
    rw [if_neg (by simp only [tag, unknown]; decide)]
  case epoch =>
    intro req s u n p takes shown part range idle
    show execJobEpoch req s = _
    rw [execJobEpoch, mailbox_onPart_ok takes shown part]
    dsimp only
    rw [if_neg (Nat.not_le.mpr range), if_neg (by simp only [idle]; decide)]
  case stop => exact fun req s u n p takes shown part => (mailbox_onPart_ok takes shown part : execPartStop req s = _)
  case resume => exact fun req s u n p takes shown part => (mailbox_onPart_ok takes shown part : execPartResume req s = _)
  case reset => exact fun req s u n p takes shown part => (mailbox_onPart_ok takes shown part : execPartReset req s = _)
  case close => exact fun req s u n p takes shown part => (mailbox_onPart_ok takes shown part : execJobClose req s = _)
  case release => exact fun req s u n p takes shown part => (mailbox_onPart_ok takes shown part : execJobRelease req s = _)
  case quota =>
    intro req s u n p takes shown part contexts quantum staging
    show execSetQuota req s = _
    rw [execSetQuota, mailbox_onPart_ok takes shown part]
    dsimp only
    rw [if_neg (by omega), if_neg (by simp only [staging]; decide)]
  case refused =>
    intro req s u c command takes shown part other
    simp only [List.mem_cons, List.not_mem_nil, or_false] at command
    rcases command with rfl | rfl | rfl | rfl | rfl | rfl | rfl | rfl | rfl | rfl
    · exact (mailbox_onPart_refused takes shown part other : execPartSet req s = _)
    · exact (mailbox_onPart_refused takes shown part other : execPartFree req s = _)
    · exact (mailbox_onPart_refused takes shown part other : execJobOpen req s = _)
    · exact (mailbox_onPart_refused takes shown part other : execJobEpoch req s = _)
    · exact (mailbox_onPart_refused takes shown part other : execPartStop req s = _)
    · exact (mailbox_onPart_refused takes shown part other : execPartResume req s = _)
    · exact (mailbox_onPart_refused takes shown part other : execPartReset req s = _)
    · exact (mailbox_onPart_refused takes shown part other : execJobClose req s = _)
    · exact (mailbox_onPart_refused takes shown part other : execJobRelease req s = _)
    · exact (mailbox_onPart_refused takes shown part other : execSetQuota req s = _)

end Sys2Proof.Machine
